-- ==== Sys2Proof/Word.lean ====
section
/-! DEFINITION. The words the engine stores and carries: the 32-bit register word, the 40-bit Sinter word of
00_scope R7, the sparse maps the state is held in, and the shape of a register field (00_scope R14). -/

namespace Sys2Proof

/-- A 32-bit register or data word. -/
abbrev Word := BitVec 32

/-- A sparse map from numbers, in ONE canonical form: keys strictly rising, and no entry equal to what an unlisted
key reads as. -/
abbrev Assoc (α : Type) := List (Nat × α)

/-- A Sinter word (R7): the data, the residue field of bits 38:32, and the parity bit 39. -/
structure Sinter where
  data : BitVec 32
  res  : BitVec 7
  par  : Bool
  deriving DecidableEq, Repr, Inhabited

/-- The type of a register field (R14). -/
inductive FTy where
  | rw | ro | wo | w1c | rwp | rwl
  deriving DecidableEq, Repr

/-- A register field: the byte address of its register, its lowest bit, its width, its type and the value it has
after power-on reset (R16). -/
structure Fld where
  addr : Nat
  lo   : Nat
  w    : Nat
  ty   : FTy
  rst  : Nat
  deriving DecidableEq, Repr

/-- The number a field is stored under: no two fields of the register space share one. -/
abbrev Fld.key (f : Fld) : Nat := f.addr * 64 + f.lo

/-- One field of a word of the register table: lowest bit, width, type and power-on value. -/
structure FldRow where
  lo  : Nat
  w   : Nat
  ty  : FTy
  rst : Nat
  deriving DecidableEq, Repr

/-- The register words at `base + stride * index` for every index below each count; strides fall. -/
structure WordRow where
  base : Nat
  dims : List (Nat × Nat)
  flds : List FldRow
  deriving DecidableEq, Repr

end Sys2Proof
end

