-- ==== Sys2Proof/Syntax.lean ====
section
/-! DEFINITION. The commands of the block: one constructor per row of the table of operations and events.  A row has
no fields of its own, so the operands are the model's (assumption log 10): what the manual lets the command name (a
unit, a register, an address, a value), and the physical happening the row reports (a measured time, a received word, a
disagreement of two copies). -/

namespace Sys2Proof

/-- A processor that executes the instruction set: a physical cell 9 * (8r + c) + k (01_engine), or the steward (R180). -/
inductive Exe where
  | cell (p : Fin 288)
  | steward
  deriving DecidableEq, Repr

/-- A control message of the cascade (R256, R257, R306, R382, R385). -/
inductive CtrlMsg where
  | prepare (slot t novl ovla ovlb : Nat)
  | report (chip slot code : Nat)
  | confirm (slot : Nat)
  | abort (slot : Nat)
  | start (ts : Nat)
  | count (f : Nat)
  | heartbeat (chip : Nat)
  deriving DecidableEq, Repr

/-- A store that a patrol or a hold-off compared in the window that ends, in cluster `cl` (R388, R395): its task and address, the
target's word (of a store to a bank as it reads back on port B) and the word that the other datapath computed for it. -/
structure PatrolResult where
  cl   : Fin 32
  task : BitVec 5
  addr : BitVec 12
  target : Sinter
  other  : Sinter
  deriving DecidableEq, Repr

/-- A pair record (R401, R404): its period, HEALTH, ELIGIBLE, and the residue bits of every egress sample handed for it. -/
structure PairRecord where
  period : Nat
  health : Bool
  elig   : Bool
  res    : List (BitVec 7)
  deriving DecidableEq, Repr

/-- The control block of a link frame (R371): the sender's CASCADE_ID and bits 31:0 of its FRAME_COUNT. -/
structure LinkHead where
  sender : BitVec 3
  count  : BitVec 32
  deriving DecidableEq, Repr

/-- What a link frame carries (R375): its channel words.  `audio` lists a channel's words, one for KIND ingress and none,
16 for KIND source; `wide` the 16 pairs of a wide channel; `source` the audio channels of KIND source (R378, R380). -/
structure LinkWords where
  audio  : List (Fin 256 × List Sinter)
  wide   : List (Fin 32 × List (Sinter × Sinter))
  source : List (Fin 256)
  deriving DecidableEq, Repr

/-- What comes with a frame edge: the PID whose word Geyser fails there (R253), and the levels that outside drives on GPIO0 to GPIO7
(R620). -/
structure EdgeInput where
  gysBad : Option (BitVec 21)
  gpio   : BitVec 8
  deriving DecidableEq, Repr

/-- The waves of a port frame (R295): the level of WS during its first half, and each lane over its 64 BCLK periods and the first of the
next frame, the earliest in the highest bit. -/
structure PortWave where
  ws    : Bool
  lanes : List (BitVec 65)
  deriving DecidableEq, Repr

/-- A port of the fabric, and the FCLK cycles that have passed at it (R512, R523). -/
structure PortTime where
  port : Fin 54
  fclk : BitVec 32
  deriving DecidableEq, Repr

/-- A retry of a shorted output (R606): whether it is still short, and the intervals since the short. -/
structure ShortRetry where
  still : Bool
  ints  : BitVec 32
  deriving DecidableEq, Repr

/-- An edge of PPS_OUT (R491, R633): its rise, or the milliseconds since it. -/
structure PpsEdge where
  rise : Bool
  ms   : BitVec 10
  deriving DecidableEq, Repr

/-- The condition of `sel` (R147). -/
inductive SelCond where
  | lt | ge | eq | ne
  deriving DecidableEq, Repr

/-- The condition of a conditional branch (R163). -/
inductive BrCond where
  | eq | ne | lt | ge | gt | le | vs | vc | cs | cc | uo
  deriving DecidableEq, Repr

/-- What one lane of a dual-lane form does (R152). -/
inductive LaneOp where
  | mpy | mac | msu | none
  deriving DecidableEq, Repr

/-- The operand of `bexp` (R158). -/
inductive BexpSrc where
  | g (ga : Fin 32)
  | a (an : Fin 8)
  deriving DecidableEq, Repr

/-- The two forms of `loop` (R161): an immediate count or a register count, with the body length less 1. -/
inductive LoopForm where
  | imm (count : BitVec 10) (e : BitVec 6)
  | reg (gs : Fin 32) (e : BitVec 11)
  deriving DecidableEq, Repr

/-- The commands.  Where a duplicated unit is involved, `dup` says that its two copies disagree. -/
inductive Instr where
  -- 01_engine: the frame grid; `cnvDup` and `vntDup` name a conversion channel and a Vent route whose two computations disagree,
  -- `patrol` what the spares' comparisons found
  | frameEdge (cnvDup : Option (Fin 256)) (vntDup : Option (Fin 64)) (x : EdgeInput)
  | cellStageDeadline (patrol : List PatrolResult)
  -- 02_memory: banks, distributor, scrubber, DRAM
  | s0Deposit (w : Fin 256) (i : Fin 64) (j : Fin 16) (left : BitVec 18)
  | descriptorRun (cl : Fin 32) (d : Fin 32) (n : BitVec 16)
  | descriptorDeadline (cl : Fin 32) (d : Fin 32)
  | bankHandover (cl : Fin 32) (b : Fin 8) (v : BitVec 32)
  | bankHandoverDone (cl : Fin 32) (b : Fin 8)
  | scrubRead (lo : BitVec 32) (hi : BitVec 8)
  | dramLineFetch (line : BitVec 28) (crc1 crc2 : Bool)
  | dramWrite (line : BitVec 28) (ws : List (Fin 12 × Sinter)) (crc1 crc2 : Bool)
  | dramRefresh (ch : Fin 4) (due : Fin 9)
  | dramRefreshEmergency (ch : Fin 4)
  | dramMr4Poll (rate : BitVec 3)
  | dramEnable (v : BitVec 31)
  | dramDisable (v : BitVec 31)
  | dramTrainingDone (ok : Bool)
  -- 03_cells, 04_instructions: bundles and tasks
  | bundleFetch (u : Exe)
  | taskBudgetReached (p : Fin 288)
  | ttApply (w : Fin 256)
  | cellHalt (w : Fin 256)
  | cellRun (w : Fin 256)
  | cellpeakClr (w : Fin 256)
  -- SYS (R142)
  | nop (u : Exe)
  | waitp (u : Exe)
  | ret (u : Exe)
  | trap (u : Exe)
  | evt (u : Exe) (n : Fin 16)
  | mtc (u : Exe) (creg : BitVec 6) (gs : Fin 32)
  | mfc (u : Exe) (gd : Fin 32) (creg : BitVec 6) (dup : Bool)
  | amov (u : Exe) (ad as : Fin 8)
  | aadd (u : Exe) (ad as : Fin 8)
  | asub (u : Exe) (ad as : Fin 8)
  -- ALU, SEL, SHR, SHI (R147)
  | add (u : Exe) (gd ga gb : Fin 32)
  | sub (u : Exe) (gd ga gb : Fin 32)
  | adds (u : Exe) (gd ga gb : Fin 32)
  | subs (u : Exe) (gd ga gb : Fin 32)
  | and (u : Exe) (gd ga gb : Fin 32) (dup : Bool)
  | or (u : Exe) (gd ga gb : Fin 32) (dup : Bool)
  | xor (u : Exe) (gd ga gb : Fin 32) (dup : Bool)
  | cmp (u : Exe) (ga gb : Fin 32)
  | min (u : Exe) (gd ga gb : Fin 32)
  | max (u : Exe) (gd ga gb : Fin 32)
  | abs (u : Exe) (gd ga : Fin 32)
  | clip (u : Exe) (gd ga gb : Fin 32)
  | sel (u : Exe) (cond : SelCond) (gd ga gb : Fin 32)
  | shl (u : Exe) (gd ga gb : Fin 32) (dup : Bool)
  | sra (u : Exe) (gd ga gb : Fin 32)
  | shr (u : Exe) (gd ga gb : Fin 32) (dup : Bool)
  | norm (u : Exe) (gd ga gb : Fin 32)
  | shli (u : Exe) (gd ga : Fin 32) (t : Fin 32) (dup : Bool)
  | srai (u : Exe) (gd ga : Fin 32) (t : Fin 32)
  | shri (u : Exe) (gd ga : Fin 32) (t : Fin 32) (dup : Bool)
  | normi (u : Exe) (gd ga : Fin 32) (t : Fin 32)
  -- MAC, DMAC, STA (R151 to R155)
  | mpy (u : Exe) (an : Fin 8) (ga gb : Fin 32)
  | mac (u : Exe) (an : Fin 8) (ga gb : Fin 32)
  | msu (u : Exe) (an : Fin 8) (ga gb : Fin 32)
  | dmac (u : Exe) (op0 op1 : LaneOp) (q : Fin 4) (a b : Fin 16) (x : Bool)
  | sta (u : Exe) (gd : Fin 32) (an : Fin 8) (sh : BitVec 5)
  | staP (u : Exe) (gd : Fin 32) (an : Fin 8) (sh : BitVec 5)
  -- CONV, LI, LUI (R156 to R160)
  | lin2g (u : Exe) (gd ga : Fin 32) (dup : Bool)
  | g2lin (u : Exe) (gd ga : Fin 32) (dup : Bool)
  | bexp (u : Exe) (gd : Fin 32) (src : BexpSrc) (dup : Bool)
  | li (u : Exe) (gd : Fin 32) (imm : BitVec 12) (dup : Bool)
  | lui (u : Exe) (gd : Fin 32) (imm : BitVec 12) (dup : Bool)
  -- LOOP, BR (R161 to R164)
  | loop (u : Exe) (form : LoopForm)
  | loopBackEdge (u : Exe)
  | br (u : Exe) (target : BitVec 12)
  | bcc (u : Exe) (cond : BrCond) (target : BitVec 12)
  | call (u : Exe) (target : BitVec 12)
  -- X slot (R166)
  | ldX (u : Exe) (gd : Fin 32) (pn : Fin 8) (am : BitVec 4)
  | stX (u : Exe) (pn : Fin 8) (am : BitVec 4) (gs : Fin 32)
  | sin (u : Exe) (gd : Fin 32) (pn : Fin 8) (am : BitVec 4)
  | staX (u : Exe) (an : Fin 8) (sh : BitVec 5) (pn : Fin 8)
  | ldUX (u : Exe) (gd : Fin 32) (pn : Fin 8) (am : BitVec 2)
  -- Y slot (R169)
  | ldY (u : Exe) (gd : Fin 32) (pn : Fin 8) (am : BitVec 4)
  | stY (u : Exe) (pn : Fin 8) (am : BitVec 4) (gs : Fin 32)
  | sout (u : Exe) (pn : Fin 8) (am : BitVec 4) (gs : Fin 32)
  | staY (u : Exe) (an : Fin 8) (sh : BitVec 5) (pn : Fin 8)
  | mtap (u : Exe) (pn : Fin 8) (am : BitVec 2) (gs : Fin 32)
  | ldUY (u : Exe) (gd : Fin 32) (pn : Fin 8) (am : BitVec 2)
  -- Z slot (R172)
  | ldZ (u : Exe) (gd : Fin 32) (bank : Fin 8) (pn : Fin 8) (am : BitVec 2)
  | stZ (u : Exe) (gs : Fin 32) (bank : Fin 8) (pn : Fin 8) (am : BitVec 2)
  | pget (u : Exe) (gd : Fin 32) (sreg : Fin 8) (pn : Fin 8) (hold : Bool) (gysBad : Bool)
  | pgetTwin (u : Exe) (gd : Fin 32) (sreg : Fin 8) (pn : Fin 8) (hold : Bool) (gysBad : Bool)
  | amoAdd (u : Exe) (g : Fin 32) (bank : Fin 8) (pn : Fin 8) (dup : Bool)
  | amoSwap (u : Exe) (g : Fin 32) (bank : Fin 8) (pn : Fin 8)
  | ldUZ (u : Exe) (gd : Fin 32) (bank : Fin 8) (pn : Fin 8) (dup : Bool)
  -- steward control extension (R183)
  | fld (gd ga : Fin 32)
  | fst (ga gs : Fin 32)
  | fldl (gd ga : Fin 32)
  | fstu (ga gs : Fin 32)
  | fence
  | eret
  | wfe
  | ei
  | di
  | mtcs (csr : BitVec 5) (gs : Fin 32)
  | mfcs (gd : Fin 32) (csr : BitVec 5) (dup : Bool)
  | jr (ga : Fin 32)
  | jalr (ga : Fin 32)
  | stewardEventTaken
  -- 05_caldera; `dup` and `gysBad` name a crosspoint whose coefficient unit or Geyser state failed, `hit` a bus whose
  -- carried residue was corrupted
  | calMatrixFrame (j : Fin 16) (dup gysBad : Option (BitVec 19)) (hit : Option (Fin 512))
  | deepBusAdd (b : Fin 512) (j : Fin 16)
  | xpStateCheck (xp : BitVec 19) (ok : Bool)
  | xpRebuild (xp : BitVec 19)
  | xpRampEnd (xp : BitVec 19)
  | calsatbusClear
  -- 06_geyser
  | ovlLoad (n : Fin 256)
  | ovlLoadDone (n : Fin 256) (badLines : List (BitVec 20))
  | ovlDrop (n : Fin 256)
  | commitGo (n : Fin 4)
  | commitCancel (n : Fin 4)
  | commitPrepareDone (n : Fin 4)
  | commitApply (n : Fin 4)
  | paramRampEnd (pid : BitVec 21)
  | foldStart (n : Fin 4)
  | foldEnd (n : Fin 4)
  | commitDone (n : Fin 4)
  | directWrite (pid : BitVec 21) (x : Sinter)
  | directWriteHeldAccept
  | cascPrepare (n : Fin 4) (t : BitVec 64) (novl : Fin 16) (ovla ovlb : BitVec 32)
  | cascReport (chip : Fin 8) (n : Fin 4) (code : Fin 16)
  | cascDecision (n : Fin 4)
  | cascConfirm (n : Fin 4)
  | cascAbort (n : Fin 4)
  | cascLocalAbort (n : Fin 4)
  -- 07_conversion_metering; `mode` and `pre` are the other fields of the CNVCTLu word written, `interval` the time since
  -- the last input frame edge in 1/256 PCLK, `settled` that the phase error lies within 1/16 frame, `rp` the read point
  -- in samples behind the newest, where it has left its set point
  | cnvEnable (u : Fin 32) (mode pre : BitVec 3)
  | cnvInputEdge (u : Fin 32) (interval : BitVec 32) (settled : Bool) (rp : Option (Fin 64))
  | cnvFadeEnd (u : Fin 32)
  | cnvchClr (v : Fin 256)
  | mtrclrHold (m : BitVec 12) (all : Bool)
  | mtrclrClips (m : BitVec 12) (all : Bool)
  | cnvDisable (u : Fin 32) (mode pre : BitVec 3)
  -- 08_audio_ports; `arm` is the ARM bit of the PORTCTLn word written; `ws` is the level of WS after
  -- the port frame edge, `lanes` the levels of the DI balls at the frame's 64 rising edges of BCLK and the next frame's first, in
  -- order from bit 64, `bits` the frame's bit count and `mistimed` an edge more than 25 % from its predicted time; `periods` are
  -- the whole periods for which EMERG_N has been recognised high
  | portEnable (n : Fin 16) (arm : Bool)
  | portDisable (n : Fin 16) (arm : Bool)
  | portArm (n : Fin 16)
  | apStartGo
  | syncArm
  | startSyncEdge
  | apStartMessage (ts : BitVec 64)
  | apStart
  | portInputFrame (n : Fin 16) (wave : PortWave) (bits : BitVec 8) (mistimed : Bool)
  | apCodedReleased (n : Fin 16) (l : Fin 8)
  | apClkStopped (n : Fin 16)
  | apClkSwapCheck (n : Fin 16) (bclk ws : BitVec 32)
  | lanemaskWrite (n : Fin 16) (v : BitVec 32)
  | vntRampEnd (v : Fin 64)
  | emergNLow
  | vntForce (on : Bool)
  | emergCauseClear (periods : BitVec 17)
  | vntReturnEnd
  -- 11_fumarole; `frames` are the frames for which SAFE_MUTE_N has been high, `mgmt` that the management port writes, and
  -- `slot` the slot for whose sample the halves disagree
  | slotMuteClear (o : Fin 512) (cause : Fin 8)
  | safeMuteNLow
  | safePinClear (frames : BitVec 16)
  | fumMuteReq (on mgmt : Bool)
  | stewardLockstepFault
  | fumStall
  | fumSelfFault (slot : Option (Fin 512))
  | fumResumed
  | fumSafeReset
  | portWatch (n : Fin 16)
  | fumlockClose
  | fumrecAck
  | fumrecClr (mgmt : Bool)
  | fumcntClear
  -- 12_clocks; `dev` is the measured distance in ppm of the root an input implies from the present root, `hz` the
  -- measured HREF, the counts those of an interval of 4,096 PCLK
  | inselWrite (insel refscale : BitVec 2) (dev : BitVec 32)
  | coreNWrite (reg : Fin 3) (v : BitVec 24)
  | relock
  | rampGo
  | sscWrite (v : BitVec 2)
  | loopinitGo
  | hrefMeasureDone (hz : BitVec 32) (sdref : Bool)
  | loopInputPresent
  | bandSearchDone (band : BitVec 5) (floorCode : BitVec 12) (fits : Bool)
  | acquireLock
  | coreLockFailed
  | coreRampDone
  | corePhaseAligned
  | coreInputLost (dev : BitVec 32)
  | coreInputReturn (dev : BitVec 32)
  | holdExpired
  | coreCoast
  | coreOvershoot
  | auxclkCheck (sdref pcie : BitVec 16)
  | dllLock (d : Fin 22) (locked : Bool)
  | islandUngate (isl : BitVec 10)
  | islandGate (isl : BitVec 10)
  | islandForce (isl : BitVec 10)
  | islandIdleClose
  | islandForcedClose
  -- 13_references_time; `offs` are the measured offsets in ppb, `present` the presence of REF0 to REF2, `pherr` and `bo`
  -- phases in 1/16 CCLK, `steer` and `mean` the loop filter's term at the end and over the interval, `far` a phase error
  -- beyond a quarter frame throughout
  | refEdgeMissing (r : Fin 6) (dev : BitVec 32) (bo : BitVec 32)
  | refIntervalEnd (offs : List (BitVec 32)) (present : BitVec 3) (pherr steer mean : BitVec 32) (far : Bool)
      (dev bo : BitVec 32)
  | refSwitchDone (bo : BitVec 32)
  | refWtrExpired (r : Fin 6) (dev bo : BitVec 32)
  | refHoldoffExpired (r : Fin 6) (dev bo : BitVec 32)
  | realign
  | realignDone
  | refsteerWrite (v : BitVec 32)
  | swSteerStale
  | tcIncWrite (d : Fin 2) (ns : BitVec 8)
  | tcNsRead (d : Fin 2)
  | tcSet (d : Fin 2) (bo : BitVec 32)
  | tcAdj (d : Fin 2) (bo : BitVec 32)
  | tcLatchGo
  -- 09_network; `v` is the whole word written; `bytes` the frame without its FCS, `fcs` that the FCS is right, `unc` the RS-FEC
  -- codewords that could not be corrected, `age` the ns since its first bit after the delimiter
  -- reached the MAC/PCS boundary; `later` the ns until the departing frame's does; `remote` a remote fault received; `tx` tells a transmit stream from a receive stream
  | netEnable (n : Fin 4) (v : BitVec 32)
  | netLinkUp (n : Fin 4) (remote : Bool)
  | netLinkDown (n : Fin 4) (lock fec fault remote : Bool)
  | netFrameRx (n : Fin 4) (bytes : List (BitVec 8)) (fcs : Bool) (unc : BitVec 8) (age : BitVec 32)
  | netPauseEnd (n : Fin 4)
  | netrxqTailWrite (n : Fin 4) (v : BitVec 17)
  | nettxqHeadWrite (n : Fin 4) (v : BitVec 17)
  | netTxRecord (n : Fin 4) (later : BitVec 32)
  | nettxtsPop (n : Fin 4)
  | netcntClear (n : Fin 4) (i : Fin 3)
  | streamEnable (tx : Bool) (n : Fin 128) (v : BitVec 32)
  | streamDisable (tx : Bool) (n : Fin 128)
  | stmRxStale (r : Fin 128)
  | streamPresentEdge (r : Fin 128)
  | streamPacketSend (n : Fin 4)
  | sttxDropsClear (t : Fin 128)
  | strxcntClear (r : Fin 128) (i : Fin 3)
  -- 10_cascade_redundancy; `v` is the word written; `head` the control block, `phase` the PCLK cycles from this chip's last
  -- frame edge to the arrival; `crc` that the link frame passed its CRC; `rtt` in PCLK
  | linkEnable (n : Fin 4) (v : BitVec 2)
  | linkTrain (n : Fin 4)
  | linkUp (n : Fin 4) (peer : BitVec 3) (rtt : BitVec 16) (swap pol0 pol1 : Bool)
  | linkDown (n : Fin 4) (lost : Bool)
  | linkFrameRx (n : Fin 4) (head : LinkHead) (phase : BitVec 13) (crc : Bool) (words : LinkWords) (pair : Option PairRecord)
  | controlMessageRx (n : Fin 4) (origin : Fin 8) (seq : Nat) (msg : CtrlMsg) (phase : BitVec 13)
  | cascChipLost (chip : Fin 8)
  | clusterSelftest (cl : Fin 32) (result : Fin 4)
  | spareReverted (cl : Fin 32)
  | patrolcntClear (cl : Fin 32)
  | lnkcntClear (n : Fin 4)
  | pairYield
  | actInFall
  | pairAssertAct
  | pairReverted
  -- 14_fabric; `m` is the MASTER code, `due` the deadline of a requester with its own schedule, if it has one, `parity` that the request's
  -- parity is good, `full` that every byte enable is 1; a grant stalls after `stall` beats
  | fabricRead (m : Fin 8) (id : BitVec 4) (addr : BitVec 40) (beats : BitVec 5) (due : Option (BitVec 32)) (parity : Bool)
  | fabricWrite (m : Fin 8) (id : BitVec 4) (addr : BitVec 40) (words : List Sinter) (full : Bool) (due : Option (BitVec 32))
      (parity : Bool)
  | arbiterGrant (port : Fin 54) (stall : Option (Fin 16))
  | backoffExpired (m : Fin 8) (id : BitVec 4) (wait : PortTime)
  | fabqosWrite (m : Fin 6) (budget : BitVec 16)
  | lockTimeout (m4 : Bool)
  | masterResetHandshake (m : Fin 6)
  | handshakeTimeout (m : Fin 6)
  | fabTimeout (wait : PortTime)
  | fabDeadlock (wait : PortTime)
  | remapWrite (m : Fin 8) (v : Bool)
  | fabRemapDone
  | fabcntClear
  -- 15_reset_power_boot; `t` is a reading in 1/16 degC, `flash` the bytes that the flash holds, `bad1` and `bad2` a first and a
  -- second read of a section from flash that come back with errors
  | por
  | resetNLow
  | chipResetRelease (mode cascade : BitVec 3) (gpio : BitVec 8)
  | cellResetReq (m : Fin 8) (target : BitVec 9)
  | clusterResetReq (m : Fin 8) (target : BitVec 9)
  | regionResetReq (m : Fin 8) (target : BitVec 9)
  | engineResetReq (m : Fin 8)
  | warmChipResetReq (m : Fin 8)
  | chipResetReq (m : Fin 8)
  | mgmtResetReq (m : Fin 8)
  | resetIdleTimeout
  | resetRelease
  | pwrReqRun
  | pwrReqQuiesce
  | pwrReqHold
  | holdEntered
  | holdExitDone
  | pwrrateWrite (family : Bool) (mult : BitVec 2)
  | supplyWarn (rail : Fin 10)
  | supplyDip (rail : Fin 10)
  | supplyResetThreshold (rail : Fin 10) (above : Bool)
  | supplyChipReset
  | tempConversion (i : Fin 8) (t : BitVec 13)
  | tempSensorTimeout (i : Fin 8)
  | tempmaxWrite
  | bootStart
  | bootdoorGo (m : Fin 8)
  | bootCheck (flash : List (BitVec 8))
  | bootSectionLoad (bad1 bad2 : Bool)
  | bootRegsWrite
  | bootHandoff
  -- 16_events_host_mgmt; `good` that the management frame is well formed, `stop` that FCLK stops for 64 MSCK cycles while the
  -- access is outstanding; the host's configuration comes with HOST_LINK_UP
  | evtenWrite (w : Fin 8) (v : BitVec 32)
  | evtrouteWrite (e : Fin 256) (v : BitVec 15)
  | evtstatClear (w : Fin 8) (v : BitVec 32)
  | evtswset (v : BitVec 16)
  | msixSend (x : Fin 16)
  | msixUnmask (x : Option (Fin 16))
  | pcieMemRead (bar : Fin 3) (o : BitVec 32) (n : BitVec 10)
  | pcieMemWrite (bar : Fin 3) (o : BitVec 32) (words : List (BitVec 32)) (full : Bool)
  | hostLinkUp (speed width : BitVec 3) (bme msix fmask : Bool)
  | hostLinkDown
  | hostFlr
  | mgmtLocalRead (a : BitVec 40) (cnt : BitVec 4) (good : Bool)
  | mgmtLocalWrite (a : BitVec 40) (words : List (BitVec 32)) (good : Bool)
  | mgmtFabricRead (a : BitVec 40) (cnt : BitVec 4) (good stop : Bool)
  | mgmtFabricWrite (a : BitVec 40) (words : List (BitVec 32)) (good stop : Bool)
  | evtsnapTake
  | fuseProg
  | fuseProgDone (ok : Bool)
  | extest
  | samplePreload (bsr : List Bool)
  | idcode
  | clamp
  | highz
  | bypass (code : BitVec 8)
  | tapReset
  | dapRead (a : BitVec 40) (cnt : BitVec 4)
  | dapWrite (a : BitVec 40) (cnt : BitVec 4)
  | dapLockedRead (a : BitVec 40) (cnt : BitVec 4)
  | dapClosingWrite (a : BitVec 40) (cnt : BitVec 4)
  | dapdataCapture (push : Option (BitVec 32))
  | dbgOpen (m : Fin 8)
  | dbgClose (m : Fin 8)
  | stwHalt (m : Fin 8)
  | stwResume (m : Fin 8)
  | stwStep (m : Fin 8)
  -- 17_pins_package and 18_electrical; pins by their number in the pin registers
  | pinShortDetect (pin : Fin 177)
  | pinShortRetry (pin : Fin 177) (retry : ShortRetry)
  | faultnStuck
  | pinProbe (pin : Fin 172) (follows : Bool)
  | netRxPolarityInvert (n : Fin 4)
  | refLegMissing (r : Fin 3)
  | gpioWrite (out : Bool) (v : BitVec 16)
  | ppsOutPulse (edge : PpsEdge)
  | registerWrite (m : Fin 8) (a : BitVec 40) (v : BitVec 32)
  deriving DecidableEq, Repr

end Sys2Proof
end

