-- ==== Sys2Proof/Decode.lean ====
section
/-! DEFINITION. The words of the table of operations and events: no row of it gives bits, so no word spells a command. -/

namespace Sys2Proof

/-- The command whose bits are `w`: the table gives none, whatever the length and the word. -/
def decodeTableWord (_nbits _w : Nat) : Option Instr := none

end Sys2Proof
end

