-- ==== Sys2Proof/Config.lean ====
section
/-! DEFINITION. What the manual leaves open: free values.  Each is an OPAQUE constant without a body, applied to plain
data of the state, so that nothing in Lean can evaluate it or prove a value of it. -/

namespace Sys2Proof.Config

/-- Data bits of a poison word that the engine itself makes (R8: "whatever its data bits hold"): the step's counter of
free values, then a number that tells the words made in one step apart.  Assumption log 1. -/
opaque poisonData : Nat → Nat → BitVec 32

/-- A G register at task entry (R94: no defined value): the generation of the task entry, the register. Log 2. -/
opaque entryG : Nat → Nat → Sinter

/-- A P, M, L, B or LC register at task entry (R94: no defined value): the generation, the creg code. Log 2. -/
opaque entryC : Nat → Nat → BitVec 16

/-- A DRAM word since the DRAM last lost its contents (R539: undefined): the generation, the word address. Log 3. -/
opaque dramWord : Nat → Nat → Sinter

/-- Data of a word that the engine places in the I memory of a spare for the self-test (R81: not stated), by cluster and word.
Log 192. -/
opaque selftestWord : Nat → Nat → BitVec 32

/-- The deviation of `lin2g` from the rounded value (R156: within 2 code units), by operand. Log 4. -/
opaque lin2gErr : Nat → Int

/-- The deviation of `g2lin` from the rounded value (R157: relative error at most 2^-24), by gain code. Log 4. -/
opaque g2linErr : Int → Int

/-- C after a shift by 0, where no bit goes out (R147 gives C as the last bit out): the core's bundle count. Log 5. -/
opaque shiftCarry0 : Nat → Bool

/-- A word of the boot ROM, by its byte offset: the manual does not give the ROM's contents (02_memory, memory
inventory). Log 6. -/
opaque bootRom : Nat → Sinter

/-- The deviation of a sine or cosine of a ramp law from the exact value, in units of 2^-62: cut to 2^-24 of full scale
(R210, R240). The numbers are the angle's numerator and denominator. Log 4. -/
opaque trigErr : Nat → Nat → Int

/-- The deviation of a gain code a ramp law forms from an amplitude (R156, R240), by the amplitude. Log 4. -/
opaque codeErr : Nat → Int

/-- A value of a FIR response or an ASRC core: the manual gives no coefficients of the response ROM (R263). The response,
a number that stands for the read point where the ratio is tracked, and the input samples, newest first.  Log 7. -/
opaque convSample (resp tag : Nat) (hist : List (BitVec 32)) : BitVec 32

/-- An IIR response of the ROM (R263): its output from its filter state (0 the zero state) and the sample, and the state
after it.  Log 7. -/
opaque iirOut (resp st : Nat) (x : BitVec 32) : BitVec 32
opaque iirNext (resp st : Nat) (x : BitVec 32) : Nat

/-- The output of a K-weighting response in Tephra, in units of 2^-31: it has the headroom of a 72-bit accumulator (R280, R285).
Log 7. -/
opaque kOut (resp st : Nat) (x : BitVec 32) : Int

/-- The frames for which a snapshot is being written (R291: not stated), by the step's counter of free values.  Log 74. -/
opaque snapFrames : Nat → Nat

/-- The largest magnitude of a signal oversampled by response 20 or 21 (R280), in units of 2^-31.  Log 7. -/
opaque truePeak (resp : Nat) (xs : List (BitVec 32)) : Nat

/-- The deviation of a tracked ratio from the measured one (R267), cut to the stated bound.  Log 4. -/
opaque ratioErr : Nat → Int

/-- The rate towards which a stream with SYNC = 0 is steered (R354), by the step's counter of free values and the stream, cut to the
stated bound.  Log 90. -/
opaque steerTarget : Nat → Nat → Int

/-- Ticks of Fumarole's interval counter in a frame beyond the fewest it can be (R412: nominally 1 µs, within 40 %), by the
step's counter of free values.  Log 8. -/
opaque fumTicks : Nat → Nat

/-- The deviation of a time stamp from the domain's time at the balls, in ns, cut to R338's bound of 2 ns at 25 Gb/s and
4 ns at 10 Gb/s, by the step's counter of free values.  Log 9. -/
opaque stampErr : Nat → Int

/-- A physical quantity that a named command reports as its operand, where the same register is written over the fabric
instead and no operand tells it (a distance in ppm, a phase), by the step's counter of free values and a number that tells
the quantities of one step apart.  Log 10. -/
opaque measured : Nat → Nat → Nat

/-- The transaction ID that the steward, the debug access port or a distributor chooses (R501: the master's choice), by the
step's counter of free values.  Log 15. -/
opaque transactionId : Nat → BitVec 4

/-- The bits of a link frame's control block and of a control message, idle for none (R371 names what they carry and does not lay
it out).  Log 196. -/
opaque controlBlock : LinkHead → BitVec 64
opaque messageBlock : Option (Nat × Nat × CtrlMsg) → BitVec 64

/-- What the ball of an output channel shows while VDD_IO is below its warning threshold (R605: high impedance or undefined), by the
step's counter of free values and the channel.  Log 209. -/
opaque weakBall : Nat → Nat → Option (List (BitVec 32))

/-- The die identifier (R593: unique to the die, any value may occur).  Log 14. -/
opaque uid : BitVec 64

/-- A word of a section as a read of flash that comes back with errors gives it (R561), by the step's counter of free
values and the word's place.  Log 10. -/
opaque flashError : Nat → Nat → BitVec 32

/-- A management write that is outstanding while FCLK stops is performed (R584: it may or may not have been). Log 16. -/
opaque mgmtPerformed : Nat → Bool

/-- A data word that the management port shifts out for a read that gave none (R583 and R584 say only the status), by the step's
counter of free values and the word's place.  Log 16. -/
opaque mgmtWord : Nat → Nat → BitVec 32

/-- A word of a DAP write that no scan has queued, and the data bits of a capture that finds no read word (R589 does not
say), by the step's counter of free values and the place.  Log 16. -/
opaque dapWord : Nat → Nat → BitVec 32

end Sys2Proof.Config
end

