-- ==== Sys2Proof/Machine/Regs.lean ====
section
/-! DEFINITION. The register fields of every register block, each with the address, place, width, type and
power-on value its owning chapter's field table gives (R14, R16).  One definition per field, named REG_FIELD after
the manual's REG.field, and one table that says which words of the register space hold a register (R506); a word that a field
table lists whole as reserved has a row without fields (R15).
`i0`, `i1`, ... are the indices of the register in the order of the manual's heading; a cluster register takes the
cluster 0 to 31 first, and a cell register the cluster and then the position k. -/

namespace Sys2Proof.Machine.Reg

open Sys2Proof

/-- Base of the register page of cluster `cl` = 8r + c (02_memory, 14_fabric R504). -/
def clusterPage (cl : Nat) : Nat := 0x40F00000 + 0x10000000 * (cl / 8) + 0x1000000 * (cl % 8)

def SRCW_KIND (i0 : Nat) : Fld := ⟨0x80068000 + 0x4 * i0, 0, 2, .rwp, 0⟩
def SRCW_CELL (i0 : Nat) : Fld := ⟨0x80068000 + 0x4 * i0, 8, 8, .rwp, 0⟩
def SRCW_BUS (i0 : Nat) : Fld := ⟨0x80068000 + 0x4 * i0, 16, 9, .rwp, 0⟩
def EGW_KIND (i0 : Nat) : Fld := ⟨0x80069000 + 0x4 * i0, 0, 2, .rwp, 0⟩
def EGW_CELL (i0 : Nat) : Fld := ⟨0x80069000 + 0x4 * i0, 8, 8, .rwp, 0⟩
def EGW_BUS (i0 : Nat) : Fld := ⟨0x80069000 + 0x4 * i0, 16, 9, .rwp, 0⟩
def SRCCH_CHAN (i0 : Nat) : Fld := ⟨0x8006a000 + 0x4 * i0, 0, 14, .rwp, 0⟩
def BANKCTL_OWNER (i0 i1 : Nat) : Fld := ⟨clusterPage i0 + 0x0 + 0x4 * i1, 0, 4, .rw, 0xa⟩
def BANKCTL_MODE (i0 i1 : Nat) : Fld := ⟨clusterPage i0 + 0x0 + 0x4 * i1, 4, 2, .rw, 0⟩
def BANKCTL_PENDING (i0 i1 : Nat) : Fld := ⟨clusterPage i0 + 0x0 + 0x4 * i1, 8, 1, .ro, 0⟩
def DISTCFG_MARGIN_MIN (i0 : Nat) : Fld := ⟨clusterPage i0 + 0x40, 0, 16, .rw, 0x1000⟩
def DISTSTAT_MARGIN (i0 : Nat) : Fld := ⟨clusterPage i0 + 0x44, 0, 16, .ro, 0xffff⟩
def DISTSTAT_LAST_DESC (i0 : Nat) : Fld := ⟨clusterPage i0 + 0x44, 16, 5, .ro, 0⟩
def DISTSTAT_S0_LATE (i0 : Nat) : Fld := ⟨clusterPage i0 + 0x44, 24, 1, .w1c, 0⟩
def DISTSTAT_DQ_LATE (i0 : Nat) : Fld := ⟨clusterPage i0 + 0x44, 25, 1, .w1c, 0⟩
def DISTSTAT_DQ_BAD (i0 : Nat) : Fld := ⟨clusterPage i0 + 0x44, 26, 1, .w1c, 0⟩
def MEMFAULT_TARGET (i0 : Nat) : Fld := ⟨clusterPage i0 + 0x48, 0, 6, .ro, 0⟩
def MEMFAULT_REQ (i0 : Nat) : Fld := ⟨clusterPage i0 + 0x48, 6, 4, .ro, 0⟩
def MEMFAULT_KIND (i0 : Nat) : Fld := ⟨clusterPage i0 + 0x48, 10, 2, .ro, 0⟩
def MEMFAULT_WORD (i0 : Nat) : Fld := ⟨clusterPage i0 + 0x48, 12, 16, .ro, 0⟩
def DQ_SRC (i0 i1 : Nat) : Fld := ⟨clusterPage i0 + 0x100 + 0x10 * i1, 0, 32, .rwp, 0⟩
def DQ_DST (i0 i1 : Nat) : Fld := ⟨clusterPage i0 + 0x104 + 0x10 * i1, 0, 32, .rwp, 0⟩
def DQ_SRC_HI (i0 i1 : Nat) : Fld := ⟨clusterPage i0 + 0x108 + 0x10 * i1, 0, 8, .rwp, 0⟩
def DQ_DST_HI (i0 i1 : Nat) : Fld := ⟨clusterPage i0 + 0x108 + 0x10 * i1, 8, 8, .rwp, 0⟩
def DQ_COUNT (i0 i1 : Nat) : Fld := ⟨clusterPage i0 + 0x10c + 0x10 * i1, 0, 16, .rwp, 0⟩
def DQ_DEADLINE (i0 i1 : Nat) : Fld := ⟨clusterPage i0 + 0x10c + 0x10 * i1, 16, 2, .rwp, 0⟩
def DQ_EN (i0 i1 : Nat) : Fld := ⟨clusterPage i0 + 0x10c + 0x10 * i1, 31, 1, .rwp, 0⟩
def DRCCFG_RATE : Fld := ⟨0x800f0000, 0, 3, .rw, 0⟩
def DRCCFG_DENSITY : Fld := ⟨0x800f0000, 4, 2, .rw, 0⟩
def DRCCFG_DBI_RD : Fld := ⟨0x800f0000, 8, 1, .rw, 0⟩
def DRCCFG_DBI_WR : Fld := ⟨0x800f0000, 9, 1, .rw, 0⟩
def DRCCFG_EN : Fld := ⟨0x800f0000, 31, 1, .rw, 0⟩
def DRCSTAT_TRAINED : Fld := ⟨0x800f0004, 0, 1, .ro, 0⟩
def DRCSTAT_SELF_REFRESH : Fld := ⟨0x800f0004, 1, 1, .ro, 0⟩
def DRCSTAT_MR4_RATE : Fld := ⟨0x800f0004, 4, 3, .ro, 0⟩
def DRCSTAT_POSTPONED : Fld := ⟨0x800f0004, 8, 4, .ro, 0⟩
def REFCFG_POSTPONE_MAX : Fld := ⟨0x800f0008, 0, 4, .rw, 8⟩
def REFCFG_PBR : Fld := ⟨0x800f0008, 4, 1, .rw, 1⟩
def DRAMFAULT_LO_ADDR : Fld := ⟨0x800f000c, 0, 32, .ro, 0⟩
def DRAMFAULT_HI_ADDR_HI : Fld := ⟨0x800f0010, 0, 8, .ro, 0⟩
def DRAMFAULT_HI_KIND : Fld := ⟨0x800f0010, 8, 4, .ro, 0⟩
def DRAMCNT_RETRIED : Fld := ⟨0x800f0020, 0, 16, .ro, 0⟩
def DRAMCNT_FAILED : Fld := ⟨0x800f0020, 16, 16, .ro, 0⟩
def SCRUBCTL_EN : Fld := ⟨0x800f0100, 0, 1, .rwl, 1⟩
def SCRUBCTL_PASS_EVT : Fld := ⟨0x800f0100, 1, 1, .rw, 0⟩
def SCRUBSTAT_PASSES : Fld := ⟨0x800f0104, 0, 16, .ro, 0⟩
def SCRUBSTAT_CLEAN : Fld := ⟨0x800f0104, 16, 1, .ro, 0⟩
def SCRUBSTAT_MISMATCH : Fld := ⟨0x800f0104, 17, 1, .w1c, 0⟩
def SCRUBADDR_LO_ADDR : Fld := ⟨0x800f0108, 0, 32, .ro, 0⟩
def SCRUBADDR_HI_ADDR_HI : Fld := ⟨0x800f010c, 0, 8, .ro, 0⟩
def CELLCTL_HALT (i0 i1 : Nat) : Fld := ⟨clusterPage i0 + 0x1000 + 0x400 * i1, 0, 1, .rw, 1⟩
def CELLCTL_TT_APPLY (i0 i1 : Nat) : Fld := ⟨clusterPage i0 + 0x1000 + 0x400 * i1, 1, 1, .wo, 0⟩
def CELLSTAT_HALTED (i0 i1 : Nat) : Fld := ⟨clusterPage i0 + 0x1004 + 0x400 * i1, 0, 1, .ro, 1⟩
def CELLSTAT_TT_REJECTED (i0 i1 : Nat) : Fld := ⟨clusterPage i0 + 0x1004 + 0x400 * i1, 1, 1, .w1c, 0⟩
def CELLSTAT_OVERRUN (i0 i1 : Nat) : Fld := ⟨clusterPage i0 + 0x1004 + 0x400 * i1, 2, 1, .w1c, 0⟩
def CELLSTAT_OVER_BUDGET (i0 i1 : Nat) : Fld := ⟨clusterPage i0 + 0x1004 + 0x400 * i1, 3, 1, .w1c, 0⟩
def CELLSTAT_TRAPPED (i0 i1 : Nat) : Fld := ⟨clusterPage i0 + 0x1004 + 0x400 * i1, 4, 1, .w1c, 0⟩
def CELLSTAT_RES (i0 i1 : Nat) : Fld := ⟨clusterPage i0 + 0x1004 + 0x400 * i1, 5, 1, .w1c, 0⟩
def CELLSTAT_SAT (i0 i1 : Nat) : Fld := ⟨clusterPage i0 + 0x1004 + 0x400 * i1, 6, 1, .w1c, 0⟩
def CELLSTAT_PSN (i0 i1 : Nat) : Fld := ⟨clusterPage i0 + 0x1004 + 0x400 * i1, 7, 1, .w1c, 0⟩
def CELLSTAT_AOV (i0 i1 : Nat) : Fld := ⟨clusterPage i0 + 0x1004 + 0x400 * i1, 8, 1, .w1c, 0⟩
def CELLSTAT_BUDGET_TASK (i0 i1 : Nat) : Fld := ⟨clusterPage i0 + 0x1004 + 0x400 * i1, 9, 5, .ro, 0⟩
def CELLSTAT_TT_PENDING (i0 i1 : Nat) : Fld := ⟨clusterPage i0 + 0x1004 + 0x400 * i1, 14, 1, .ro, 0⟩
def CELLUSED_USED (i0 i1 : Nat) : Fld := ⟨clusterPage i0 + 0x1008 + 0x400 * i1, 0, 18, .ro, 0⟩
def CELLPEAK_PEAK (i0 i1 : Nat) : Fld := ⟨clusterPage i0 + 0x100c + 0x400 * i1, 0, 18, .ro, 0⟩
def CELLPEAK_CLR (i0 i1 : Nat) : Fld := ⟨clusterPage i0 + 0x100c + 0x400 * i1, 31, 1, .wo, 0⟩
def CELLFAULT_CAUSE (i0 i1 : Nat) : Fld := ⟨clusterPage i0 + 0x1010 + 0x400 * i1, 0, 4, .ro, 0⟩
def CELLFAULT_TASK (i0 i1 : Nat) : Fld := ⟨clusterPage i0 + 0x1010 + 0x400 * i1, 4, 5, .ro, 0⟩
def CELLFAULT_ADDR (i0 i1 : Nat) : Fld := ⟨clusterPage i0 + 0x1010 + 0x400 * i1, 9, 12, .ro, 0⟩
def STAGE_BASE_SEL (i0 i1 : Nat) : Fld := ⟨clusterPage i0 + 0x1014 + 0x400 * i1, 0, 2, .rw, 0⟩
def TTSUM_SUM (i0 i1 : Nat) : Fld := ⟨clusterPage i0 + 0x1018 + 0x400 * i1, 0, 24, .ro, 0⟩
def TASK_ENTRY (i0 i1 i2 : Nat) : Fld := ⟨clusterPage i0 + 0x1100 + 0x400 * i1 + 0x10 * i2, 0, 12, .rw, 0⟩
def TASK_STAGE (i0 i1 i2 : Nat) : Fld := ⟨clusterPage i0 + 0x1100 + 0x400 * i1 + 0x10 * i2, 12, 1, .rw, 0⟩
def TASK_SAT_EN (i0 i1 i2 : Nat) : Fld := ⟨clusterPage i0 + 0x1100 + 0x400 * i1 + 0x10 * i2, 13, 1, .rw, 0⟩
def TASK_EN (i0 i1 i2 : Nat) : Fld := ⟨clusterPage i0 + 0x1100 + 0x400 * i1 + 0x10 * i2, 31, 1, .rw, 0⟩
def TASK_BUDGET (i0 i1 i2 : Nat) : Fld := ⟨clusterPage i0 + 0x1104 + 0x400 * i1 + 0x10 * i2, 0, 18, .rw, 0⟩
def TASK_CKPT_BASE (i0 i1 i2 : Nat) : Fld := ⟨clusterPage i0 + 0x1108 + 0x400 * i1 + 0x10 * i2, 0, 13, .rw, 0⟩
def TASK_CKPT_MEM (i0 i1 i2 : Nat) : Fld := ⟨clusterPage i0 + 0x1108 + 0x400 * i1 + 0x10 * i2, 13, 1, .rw, 0⟩
def TASK_CKPT_LEN (i0 i1 i2 : Nat) : Fld := ⟨clusterPage i0 + 0x1108 + 0x400 * i1 + 0x10 * i2, 16, 12, .rw, 0⟩
def STGSRC_CHAN (i0 i1 i2 : Nat) : Fld := ⟨clusterPage i0 + 0x1300 + 0x400 * i1 + 0x4 * i2, 0, 14, .rw, 0⟩
def STGSRC_EN (i0 i1 i2 : Nat) : Fld := ⟨clusterPage i0 + 0x1300 + 0x400 * i1 + 0x4 * i2, 31, 1, .rw, 0⟩
def CALCFG_DW_LEN : Fld := ⟨0x80060000, 0, 16, .rw, 0x40⟩
def CALCFG_DW_LAW : Fld := ⟨0x80060000, 16, 3, .rw, 4⟩
def CALCFG_MIN_RAMP : Fld := ⟨0x80060000, 20, 8, .rw, 0x10⟩
def CALCFG_SKIP_EN : Fld := ⟨0x80060000, 28, 1, .rw, 1⟩
def CALSTAT_BUS_SAT : Fld := ⟨0x80060004, 0, 1, .w1c, 0⟩
def CALSTAT_ACC_OVF : Fld := ⟨0x80060004, 1, 1, .w1c, 0⟩
def CALSTAT_RESIDUE : Fld := ⟨0x80060004, 2, 1, .w1c, 0⟩
def CALSTAT_XP_FAULT : Fld := ⟨0x80060004, 3, 1, .w1c, 0⟩
def CALSTAT_GAIN_LIM : Fld := ⟨0x80060004, 4, 1, .w1c, 0⟩
def CALSTAT_LAW_SUBST : Fld := ⟨0x80060004, 5, 1, .w1c, 0⟩
def CALSTAT_WIDE_MISSING : Fld := ⟨0x80060004, 6, 1, .w1c, 0⟩
def CALSTAT_BUS_ABSENT : Fld := ⟨0x80060004, 7, 1, .w1c, 0⟩
def CALSTAT_DEGRADED : Fld := ⟨0x80060004, 8, 4, .ro, 0⟩
def CALFAULT_SLICE : Fld := ⟨0x80060008, 0, 2, .ro, 0⟩
def CALFAULT_BUS : Fld := ⟨0x80060008, 2, 9, .ro, 0⟩
def CALFAULT_FRAME : Fld := ⟨0x80060008, 11, 4, .ro, 0⟩
def CALFAULT_KIND : Fld := ⟨0x80060008, 15, 2, .ro, 0⟩
def CALFAULT_XP_XP : Fld := ⟨0x8006000c, 0, 19, .ro, 0⟩
def CALFAULT_XP_KIND : Fld := ⟨0x8006000c, 19, 2, .ro, 0⟩
def CALACTIVE_COUNT (i0 : Nat) : Fld := ⟨0x80060010 + 0x4 * i0, 0, 18, .ro, 0⟩
def CALSATBUS_BUS : Fld := ⟨0x80060020, 0, 9, .ro, 0⟩
def CALSATBUS_COUNT : Fld := ⟨0x80060020, 16, 16, .ro, 0⟩
def CALXPSEL_XP : Fld := ⟨0x80060030, 0, 19, .rw, 0⟩
def CALXPCUR_COEF : Fld := ⟨0x80060034, 0, 32, .ro, 0⟩
def CALXPST_REMAIN : Fld := ⟨0x80060038, 0, 16, .ro, 0⟩
def CALXPST_LAW : Fld := ⟨0x80060038, 16, 3, .ro, 0⟩
def CALXPST_RAMPING : Fld := ⟨0x80060038, 19, 1, .ro, 0⟩
def CALXPST_SKIPPED : Fld := ⟨0x80060038, 20, 1, .ro, 0⟩
def CALBUS_PRESCALE (i0 : Nat) : Fld := ⟨0x80060800 + 0x4 * i0, 0, 3, .rwp, 0⟩
def CALBUS_WIDE_OUT (i0 : Nat) : Fld := ⟨0x80060800 + 0x4 * i0, 4, 1, .rwp, 0⟩
def CALBUS_WIDE_IN (i0 : Nat) : Fld := ⟨0x80060800 + 0x4 * i0, 5, 1, .rwp, 0⟩
def CALBUS_WIDE_CHAN (i0 : Nat) : Fld := ⟨0x80060800 + 0x4 * i0, 8, 7, .rwp, 0⟩
def GYSCFG_RAMP_LOW : Fld := ⟨0x80050000, 0, 17, .rw, 0x1000⟩
def GYSSTAT_FREE_RAMPS : Fld := ⟨0x80050004, 0, 17, .ro, 0x10000⟩
def GYSSTAT_GO_IGNORED : Fld := ⟨0x80050004, 17, 1, .w1c, 0⟩
def GYSSTAT_STATE_FAULT : Fld := ⟨0x80050004, 18, 1, .w1c, 0⟩
def GYSSTAT_LAW_SUBST : Fld := ⟨0x80050004, 19, 1, .w1c, 0⟩
def GYSSTAT_GAIN_LIM : Fld := ⟨0x80050004, 20, 1, .w1c, 0⟩
def GYSSTAT_SHADOWED : Fld := ⟨0x80050004, 21, 1, .w1c, 0⟩
def GYSSTAT_DW_HELD : Fld := ⟨0x80050004, 22, 1, .w1c, 0⟩
def GYSFAULT_PID : Fld := ⟨0x80050008, 0, 21, .ro, 0⟩
def GYSFAULT_KIND : Fld := ⟨0x80050008, 21, 3, .ro, 0⟩
def GYSPIDSEL_PID : Fld := ⟨0x80050010, 0, 21, .rw, 0⟩
def GYSPIDCUR_VALUE : Fld := ⟨0x80050014, 0, 32, .ro, 0⟩
def GYSPIDST_REMAIN : Fld := ⟨0x80050018, 0, 16, .ro, 0⟩
def GYSPIDST_LAW : Fld := ⟨0x80050018, 16, 3, .ro, 0⟩
def GYSPIDST_RAMPING : Fld := ⟨0x80050018, 19, 1, .ro, 0⟩
def GYSPIDST_PENDING : Fld := ⟨0x80050018, 20, 1, .ro, 0⟩
def GYSPIDST_SHADOWED : Fld := ⟨0x80050018, 21, 1, .ro, 0⟩
def GYSCASC_READY : Fld := ⟨0x80050020, 0, 8, .ro, 0⟩
def GYSCASC_REFUSED : Fld := ⟨0x80050020, 8, 8, .ro, 0⟩
def GYSCASC_SLOT : Fld := ⟨0x80050020, 16, 2, .ro, 0⟩
def GYSCMT_GO (i0 : Nat) : Fld := ⟨0x80050040 + 0x20 * i0, 0, 1, .wo, 0⟩
def GYSCMT_CANCEL (i0 : Nat) : Fld := ⟨0x80050040 + 0x20 * i0, 1, 1, .wo, 0⟩
def GYSCMT_CASC (i0 : Nat) : Fld := ⟨0x80050040 + 0x20 * i0, 2, 1, .rw, 0⟩
def GYSCMT_LATE (i0 : Nat) : Fld := ⟨0x80050040 + 0x20 * i0, 3, 1, .ro, 0⟩
def GYSCMT_NOVL (i0 : Nat) : Fld := ⟨0x80050040 + 0x20 * i0, 4, 4, .rw, 0⟩
def GYSCMT_STATE (i0 : Nat) : Fld := ⟨0x80050040 + 0x20 * i0, 8, 3, .ro, 0⟩
def GYSCMT_RESULT (i0 : Nat) : Fld := ⟨0x80050040 + 0x20 * i0, 12, 4, .ro, 0⟩
def GYSCMT_T_LO (i0 : Nat) : Fld := ⟨0x80050044 + 0x20 * i0, 0, 32, .rw, 0⟩
def GYSCMT_T_HI (i0 : Nat) : Fld := ⟨0x80050048 + 0x20 * i0, 0, 32, .rw, 0⟩
def GYSCMT_OVLA (i0 : Nat) : Fld := ⟨0x8005004c + 0x20 * i0, 0, 32, .rw, 0⟩
def GYSCMT_OVLB (i0 : Nat) : Fld := ⟨0x80050050 + 0x20 * i0, 0, 32, .rw, 0⟩
def GYSCMT_F_LO (i0 : Nat) : Fld := ⟨0x80050054 + 0x20 * i0, 0, 32, .ro, 0⟩
def GYSCMT_F_HI (i0 : Nat) : Fld := ⟨0x80050058 + 0x20 * i0, 0, 32, .ro, 0⟩
def GYSCLASS_CLASS0 (i0 : Nat) : Fld := ⟨0x80050100 + 0x4 * i0, 0, 2, .rw, 0⟩
def GYSCLASS_CLASS1 (i0 : Nat) : Fld := ⟨0x80050100 + 0x4 * i0, 2, 2, .rw, 0⟩
def GYSCLASS_CLASS2 (i0 : Nat) : Fld := ⟨0x80050100 + 0x4 * i0, 4, 2, .rw, 0⟩
def GYSCLASS_CLASS3 (i0 : Nat) : Fld := ⟨0x80050100 + 0x4 * i0, 6, 2, .rw, 0⟩
def GYSCLASS_CLASS4 (i0 : Nat) : Fld := ⟨0x80050100 + 0x4 * i0, 8, 2, .rw, 0⟩
def GYSCLASS_CLASS5 (i0 : Nat) : Fld := ⟨0x80050100 + 0x4 * i0, 10, 2, .rw, 0⟩
def GYSCLASS_CLASS6 (i0 : Nat) : Fld := ⟨0x80050100 + 0x4 * i0, 12, 2, .rw, 0⟩
def GYSCLASS_CLASS7 (i0 : Nat) : Fld := ⟨0x80050100 + 0x4 * i0, 14, 2, .rw, 0⟩
def GYSCLASS_CLASS8 (i0 : Nat) : Fld := ⟨0x80050100 + 0x4 * i0, 16, 2, .rw, 0⟩
def GYSCLASS_CLASS9 (i0 : Nat) : Fld := ⟨0x80050100 + 0x4 * i0, 18, 2, .rw, 0⟩
def GYSCLASS_CLASS10 (i0 : Nat) : Fld := ⟨0x80050100 + 0x4 * i0, 20, 2, .rw, 0⟩
def GYSCLASS_CLASS11 (i0 : Nat) : Fld := ⟨0x80050100 + 0x4 * i0, 22, 2, .rw, 0⟩
def GYSCLASS_CLASS12 (i0 : Nat) : Fld := ⟨0x80050100 + 0x4 * i0, 24, 2, .rw, 0⟩
def GYSCLASS_CLASS13 (i0 : Nat) : Fld := ⟨0x80050100 + 0x4 * i0, 26, 2, .rw, 0⟩
def GYSCLASS_CLASS14 (i0 : Nat) : Fld := ⟨0x80050100 + 0x4 * i0, 28, 2, .rw, 0⟩
def GYSCLASS_CLASS15 (i0 : Nat) : Fld := ⟨0x80050100 + 0x4 * i0, 30, 2, .rw, 0⟩
def OVL_ADDR (i0 : Nat) : Fld := ⟨0x80051000 + 0x10 * i0, 0, 23, .rw, 0⟩
def OVL_COUNT (i0 : Nat) : Fld := ⟨0x80051004 + 0x10 * i0, 0, 20, .rw, 0⟩
def OVL_DRAM_ADDR (i0 : Nat) : Fld := ⟨0x80051008 + 0x10 * i0, 0, 32, .rw, 0⟩
def OVL_DRAM_HI (i0 : Nat) : Fld := ⟨0x8005100c + 0x10 * i0, 0, 8, .rw, 0⟩
def OVL_LOC (i0 : Nat) : Fld := ⟨0x8005100c + 0x10 * i0, 8, 1, .rw, 0⟩
def OVL_LOAD (i0 : Nat) : Fld := ⟨0x8005100c + 0x10 * i0, 9, 1, .wo, 0⟩
def OVL_DROP (i0 : Nat) : Fld := ⟨0x8005100c + 0x10 * i0, 10, 1, .wo, 0⟩
def OVL_STATE (i0 : Nat) : Fld := ⟨0x8005100c + 0x10 * i0, 12, 3, .ro, 0⟩
def OVL_LOCKED (i0 : Nat) : Fld := ⟨0x8005100c + 0x10 * i0, 15, 1, .ro, 0⟩
def OVL_REASON (i0 : Nat) : Fld := ⟨0x8005100c + 0x10 * i0, 16, 4, .ro, 0⟩
def CNVCTL_EN (i0 : Nat) : Fld := ⟨0x80070100 + 0x40 * i0, 0, 1, .rw, 0⟩
def CNVCTL_MODE (i0 : Nat) : Fld := ⟨0x80070100 + 0x40 * i0, 1, 3, .rw, 0⟩
def CNVCTL_PRE (i0 : Nat) : Fld := ⟨0x80070100 + 0x40 * i0, 4, 3, .rw, 0⟩
def CNVSTAT_STATE (i0 : Nat) : Fld := ⟨0x80070104 + 0x40 * i0, 0, 3, .ro, 0⟩
def CNVSTAT_LOCKED (i0 : Nat) : Fld := ⟨0x80070104 + 0x40 * i0, 3, 1, .ro, 0⟩
def CNVSTAT_CAUSE (i0 : Nat) : Fld := ⟨0x80070104 + 0x40 * i0, 4, 2, .ro, 0⟩
def CNVSTAT_RESP_BAD (i0 : Nat) : Fld := ⟨0x80070104 + 0x40 * i0, 6, 1, .w1c, 0⟩
def CNVSTAT_SLIP (i0 : Nat) : Fld := ⟨0x80070104 + 0x40 * i0, 7, 1, .w1c, 0⟩
def CNVSTAT_RESP_NOW (i0 : Nat) : Fld := ⟨0x80070104 + 0x40 * i0, 8, 5, .ro, 0⟩
def CNVRATIO_RATIO (i0 : Nat) : Fld := ⟨0x80070108 + 0x40 * i0, 0, 32, .ro, 0⟩
def CNVGDELAY_GDELAY (i0 : Nat) : Fld := ⟨0x8007010c + 0x40 * i0, 0, 6, .ro, 0⟩
def CNVFAULT_CHAN (i0 : Nat) : Fld := ⟨0x80070110 + 0x40 * i0, 0, 3, .ro, 0⟩
def CNVFAULT_KIND (i0 : Nat) : Fld := ⟨0x80070110 + 0x40 * i0, 3, 2, .ro, 0⟩
def CNVCH_BIND (i0 : Nat) : Fld := ⟨0x80071000 + 0x10 * i0, 0, 14, .rw, 0⟩
def CNVCH_CLR (i0 : Nat) : Fld := ⟨0x80071000 + 0x10 * i0, 31, 1, .wo, 0⟩
def CNVCH_DPEAK (i0 : Nat) : Fld := ⟨0x80071004 + 0x10 * i0, 0, 24, .ro, 0x800000⟩
def CNVCH_DRMS (i0 : Nat) : Fld := ⟨0x80071008 + 0x10 * i0, 0, 24, .ro, 0x800000⟩
def CNVCH_DENV (i0 : Nat) : Fld := ⟨0x8007100c + 0x10 * i0, 0, 24, .ro, 0x800000⟩
def MTRSTAT_SEQ : Fld := ⟨0x80073000, 0, 16, .ro, 0⟩
def MTRSTAT_SNAP_SKIP : Fld := ⟨0x80073000, 16, 1, .w1c, 0⟩
def MTRSTAT_REFUSED : Fld := ⟨0x80073000, 17, 1, .w1c, 0⟩
def MTRSTAT_CLIP : Fld := ⟨0x80073000, 18, 1, .w1c, 0⟩
def MTRSNAP_PERIODS : Fld := ⟨0x80073004, 0, 16, .rw, 0⟩
def MTRSNAP_NBUF : Fld := ⟨0x80073004, 16, 8, .rw, 1⟩
def MTRSNAP_TARGET : Fld := ⟨0x80073004, 24, 1, .rw, 0⟩
def MTRSNAP_EVT : Fld := ⟨0x80073004, 25, 1, .rw, 0⟩
def MTRDST_LO_ADDR : Fld := ⟨0x80073008, 0, 32, .rw, 0⟩
def MTRDST_HI_ADDR_HI : Fld := ⟨0x8007300c, 0, 32, .rw, 0⟩
def MTRCLR_POINT : Fld := ⟨0x80073010, 0, 12, .wo, 0⟩
def MTRCLR_HOLD : Fld := ⟨0x80073010, 16, 1, .wo, 0⟩
def MTRCLR_CLIPS : Fld := ⟨0x80073010, 17, 1, .wo, 0⟩
def MTRCLR_ALL : Fld := ⟨0x80073010, 31, 1, .wo, 0⟩
def MTRSEL_POINT : Fld := ⟨0x80073014, 0, 12, .rw, 0⟩
def MTRSEL_GROUP : Fld := ⟨0x80073014, 16, 6, .rw, 0⟩
def MTRRD_WORD (i0 : Nat) : Fld := ⟨0x80073040 + 0x4 * i0, 0, 32, .ro, 0⟩
def MTRGRD_WORD (i0 : Nat) : Fld := ⟨0x80073060 + 0x4 * i0, 0, 32, .ro, 0⟩
def MTRPROF_RMS_WIN (i0 : Nat) : Fld := ⟨0x80073100 + 0x10 * i0, 0, 12, .rwp, 0x12c⟩
def MTRPROF_ATT_K (i0 : Nat) : Fld := ⟨0x80073100 + 0x10 * i0, 12, 5, .rwp, 2⟩
def MTRPROF_REL_K (i0 : Nat) : Fld := ⟨0x80073100 + 0x10 * i0, 17, 5, .rwp, 0xe⟩
def MTRPROF_HOLD_P (i0 : Nat) : Fld := ⟨0x80073104 + 0x10 * i0, 0, 16, .rwp, 0x2ee0⟩
def MTRPROF_DECAY (i0 : Nat) : Fld := ⟨0x80073104 + 0x10 * i0, 16, 16, .rwp, 0xe⟩
def MTRPROF_CLIP_THR (i0 : Nat) : Fld := ⟨0x80073108 + 0x10 * i0, 0, 24, .rwp, 0xffff00⟩
def MTRPROF_CLIP_RUN (i0 : Nat) : Fld := ⟨0x80073108 + 0x10 * i0, 24, 4, .rwp, 3⟩
def MTRPROF_TP_EN (i0 : Nat) : Fld := ⟨0x8007310c + 0x10 * i0, 0, 1, .rwp, 1⟩
def MTRPT_SRC (i0 : Nat) : Fld := ⟨0x80078000 + 0x8 * i0, 0, 32, .ro, 0⟩
def MTRPT_GROUP (i0 : Nat) : Fld := ⟨0x80078004 + 0x8 * i0, 0, 6, .rwp, 0⟩
def MTRPT_GEN (i0 : Nat) : Fld := ⟨0x80078004 + 0x8 * i0, 6, 1, .rwp, 0⟩
def MTRPT_WEIGHT (i0 : Nat) : Fld := ⟨0x80078004 + 0x8 * i0, 7, 2, .rwp, 0⟩
def APSTARTCTL_GO : Fld := ⟨0x80080000, 0, 1, .wo, 0⟩
def APSTARTCTL_SRC : Fld := ⟨0x80080000, 1, 1, .rw, 0⟩
def APSTARTCTL_SYNC_ARM : Fld := ⟨0x80080000, 2, 1, .rw, 0⟩
def APSTARTCTL_CASC : Fld := ⟨0x80080000, 3, 1, .rw, 0⟩
def APSTART_T_LO_T : Fld := ⟨0x80080004, 0, 32, .rw, 0⟩
def APSTART_T_HI_T_HI : Fld := ⟨0x80080008, 0, 32, .rw, 0⟩
def APSTARTSTAT_PENDING : Fld := ⟨0x8008000c, 0, 1, .ro, 0⟩
def APSTARTSTAT_LATE : Fld := ⟨0x8008000c, 1, 1, .w1c, 0⟩
def PORTCFG_MODE (i0 : Nat) : Fld := ⟨0x80080100 + 0x40 * i0, 0, 2, .rw, 0⟩
def PORTCFG_FMT (i0 : Nat) : Fld := ⟨0x80080100 + 0x40 * i0, 2, 1, .rw, 0⟩
def PORTCFG_WL (i0 : Nat) : Fld := ⟨0x80080100 + 0x40 * i0, 3, 1, .rw, 0⟩
def PORTCFG_RATEK (i0 : Nat) : Fld := ⟨0x80080100 + 0x40 * i0, 4, 2, .rw, 0⟩
def PORTCFG_SWAP_FIX (i0 : Nat) : Fld := ⟨0x80080100 + 0x40 * i0, 6, 1, .rw, 1⟩
def PORTCTL_EN (i0 : Nat) : Fld := ⟨0x80080104 + 0x40 * i0, 0, 1, .rw, 0⟩
def PORTCTL_ARM (i0 : Nat) : Fld := ⟨0x80080104 + 0x40 * i0, 1, 1, .rw, 0⟩
def PORTSTAT_STATE (i0 : Nat) : Fld := ⟨0x80080108 + 0x40 * i0, 0, 2, .ro, 0⟩
def PORTSTAT_CLK_STOPPED (i0 : Nat) : Fld := ⟨0x80080108 + 0x40 * i0, 2, 1, .ro, 0⟩
def PORTSTAT_SWAPPED (i0 : Nat) : Fld := ⟨0x80080108 + 0x40 * i0, 3, 1, .ro, 0⟩
def PORTSTAT_GLITCH (i0 : Nat) : Fld := ⟨0x80080108 + 0x40 * i0, 4, 1, .w1c, 0⟩
def PORTSTAT_MAP_BAD (i0 : Nat) : Fld := ⟨0x80080108 + 0x40 * i0, 5, 1, .w1c, 0⟩
def PORTSTAT_OUT_CHECK (i0 : Nat) : Fld := ⟨0x80080108 + 0x40 * i0, 6, 1, .w1c, 0⟩
def PORTSTAT_OUT_LIMITED (i0 : Nat) : Fld := ⟨0x80080108 + 0x40 * i0, 7, 1, .w1c, 0⟩
def PORTSTAT_BCLK_CNT (i0 : Nat) : Fld := ⟨0x80080108 + 0x40 * i0, 16, 7, .ro, 0⟩
def PORTDIV_FRAC (i0 : Nat) : Fld := ⟨0x8008010c + 0x40 * i0, 0, 16, .rw, 0⟩
def PORTDIV_INT (i0 : Nat) : Fld := ⟨0x8008010c + 0x40 * i0, 16, 8, .rw, 0x20⟩
def LANEMASK_IN (i0 : Nat) : Fld := ⟨0x80080110 + 0x40 * i0, 0, 16, .rw, 0xffff⟩
def LANEMASK_OUT (i0 : Nat) : Fld := ⟨0x80080110 + 0x40 * i0, 16, 16, .rw, 0xffff⟩
def CODEDCFG_DET_EN (i0 : Nat) : Fld := ⟨0x80080114 + 0x40 * i0, 0, 8, .rwl, 0xff⟩
def CODED_MUTED (i0 : Nat) : Fld := ⟨0x80080118 + 0x40 * i0, 0, 8, .ro, 0⟩
def PORTMAP_WORD (i0 : Nat) : Fld := ⟨0x80081000 + 0x4 * i0, 0, 32, .ro, 0⟩
def VNTCFG_EMERG_EN : Fld := ⟨0x80090000, 0, 1, .rwl, 1⟩
def VNTCFG_TAKEOVER_ALL : Fld := ⟨0x80090000, 1, 1, .rwl, 0⟩
def VNTCFG_HOLD : Fld := ⟨0x80090000, 16, 16, .rwl, 0x1770⟩
def VNTCTL_FORCE : Fld := ⟨0x80090004, 0, 1, .rwl, 0⟩
def VNTSTAT_TAKEOVER : Fld := ⟨0x80090008, 0, 1, .ro, 0⟩
def VNTSTAT_RETURNING : Fld := ⟨0x80090008, 1, 1, .ro, 0⟩
def VNTSTAT_CAUSE_EMERG : Fld := ⟨0x80090008, 2, 1, .ro, 0⟩
def VNTSTAT_CAUSE_FUM : Fld := ⟨0x80090008, 3, 1, .ro, 0⟩
def VNTSTAT_CAUSE_FORCE : Fld := ⟨0x80090008, 4, 1, .ro, 0⟩
def VNTSTAT_EMERG_PIN : Fld := ⟨0x80090008, 5, 1, .ro, 0⟩
def VNTSTAT_SAT : Fld := ⟨0x80090008, 6, 1, .w1c, 0⟩
def VNTSTAT_PRI_LOST : Fld := ⟨0x80090008, 7, 1, .w1c, 0⟩
def VNTRT_ROUTE (i0 : Nat) : Fld := ⟨0x80090100 + 0x10 * i0, 0, 32, .ro, 0⟩
def VNTRT_GAIN (i0 : Nat) : Fld := ⟨0x80090104 + 0x10 * i0, 0, 32, .ro, 0⟩
def VNTRT_RAMPING (i0 : Nat) : Fld := ⟨0x80090108 + 0x10 * i0, 0, 1, .ro, 0⟩
def VNTRT_INERT (i0 : Nat) : Fld := ⟨0x80090108 + 0x10 * i0, 1, 1, .ro, 0⟩
def VNTRT_CONTRIB (i0 : Nat) : Fld := ⟨0x80090108 + 0x10 * i0, 2, 1, .ro, 0⟩
def NETCFG_EN (i0 : Nat) : Fld := ⟨0x800a0000 + 0x4000 * i0, 0, 1, .rw, 0⟩
def NETCFG_SPEED (i0 : Nat) : Fld := ⟨0x800a0000 + 0x4000 * i0, 1, 1, .rw, 0⟩
def NETCFG_FEC (i0 : Nat) : Fld := ⟨0x800a0000 + 0x4000 * i0, 2, 1, .rw, 0⟩
def NETCFG_PAUSE_IGN (i0 : Nat) : Fld := ⟨0x800a0000 + 0x4000 * i0, 3, 1, .rw, 0⟩
def NETCFG_BC_EN (i0 : Nat) : Fld := ⟨0x800a0000 + 0x4000 * i0, 4, 1, .rw, 1⟩
def NETCFG_MC_ALL (i0 : Nat) : Fld := ⟨0x800a0000 + 0x4000 * i0, 5, 1, .rw, 0⟩
def NETCFG_UC_ALL (i0 : Nat) : Fld := ⟨0x800a0000 + 0x4000 * i0, 6, 1, .rw, 0⟩
def NETCFG_MAXLEN (i0 : Nat) : Fld := ⟨0x800a0000 + 0x4000 * i0, 16, 14, .rw, 0x5f2⟩
def NETSTAT_LINK (i0 : Nat) : Fld := ⟨0x800a0004 + 0x4000 * i0, 0, 1, .ro, 0⟩
def NETSTAT_BLOCK_LOCK (i0 : Nat) : Fld := ⟨0x800a0004 + 0x4000 * i0, 1, 1, .ro, 0⟩
def NETSTAT_FEC_LOCK (i0 : Nat) : Fld := ⟨0x800a0004 + 0x4000 * i0, 2, 1, .ro, 0⟩
def NETSTAT_LOCAL_FAULT (i0 : Nat) : Fld := ⟨0x800a0004 + 0x4000 * i0, 3, 1, .ro, 0⟩
def NETSTAT_REMOTE_FAULT (i0 : Nat) : Fld := ⟨0x800a0004 + 0x4000 * i0, 4, 1, .ro, 0⟩
def NETSTAT_PAUSED (i0 : Nat) : Fld := ⟨0x800a0004 + 0x4000 * i0, 5, 1, .ro, 0⟩
def NETSTAT_RX_DROP (i0 : Nat) : Fld := ⟨0x800a0004 + 0x4000 * i0, 6, 1, .w1c, 0⟩
def NETSTAT_RXQ_FULL (i0 : Nat) : Fld := ⟨0x800a0004 + 0x4000 * i0, 7, 1, .w1c, 0⟩
def NETSTAT_TXQ_BAD (i0 : Nat) : Fld := ⟨0x800a0004 + 0x4000 * i0, 8, 1, .w1c, 0⟩
def NETSTAT_TS_OVF (i0 : Nat) : Fld := ⟨0x800a0004 + 0x4000 * i0, 9, 1, .w1c, 0⟩
def NETMAC_LO_ADDR (i0 : Nat) : Fld := ⟨0x800a0008 + 0x4000 * i0, 0, 32, .rw, 0⟩
def NETMAC_HI_ADDR_HI (i0 : Nat) : Fld := ⟨0x800a000c + 0x4000 * i0, 0, 16, .rw, 0⟩
def NETMCF_ADDR (i0 i1 : Nat) : Fld := ⟨0x800a0010 + 0x4000 * i0 + 0x8 * i1, 0, 32, .rw, 0⟩
def NETMCF_ADDR_HI (i0 i1 : Nat) : Fld := ⟨0x800a0014 + 0x4000 * i0 + 0x8 * i1, 0, 16, .rw, 0⟩
def NETMCF_EN (i0 i1 : Nat) : Fld := ⟨0x800a0014 + 0x4000 * i0 + 0x8 * i1, 31, 1, .rw, 0⟩
def NETTSADJ_RX_ADJ (i0 : Nat) : Fld := ⟨0x800a0090 + 0x4000 * i0, 0, 16, .rw, 0⟩
def NETTSADJ_TX_ADJ (i0 : Nat) : Fld := ⟨0x800a0090 + 0x4000 * i0, 16, 16, .rw, 0⟩
def NETCNT0_FCS (i0 : Nat) : Fld := ⟨0x800a0094 + 0x4000 * i0, 0, 16, .ro, 0⟩
def NETCNT0_LEN (i0 : Nat) : Fld := ⟨0x800a0094 + 0x4000 * i0, 16, 16, .ro, 0⟩
def NETCNT1_PAUSE (i0 : Nat) : Fld := ⟨0x800a0098 + 0x4000 * i0, 0, 16, .ro, 0⟩
def NETCNT1_MACCTL (i0 : Nat) : Fld := ⟨0x800a0098 + 0x4000 * i0, 16, 16, .ro, 0⟩
def NETCNT2_FEC_UNC (i0 : Nat) : Fld := ⟨0x800a009c + 0x4000 * i0, 0, 16, .ro, 0⟩
def NETCNT2_RXQ_DROP (i0 : Nat) : Fld := ⟨0x800a009c + 0x4000 * i0, 16, 16, .ro, 0⟩
def NETRXQ_HEAD_PTR (i0 : Nat) : Fld := ⟨0x800a00a0 + 0x4000 * i0, 0, 17, .ro, 0⟩
def NETRXQ_TAIL_PTR (i0 : Nat) : Fld := ⟨0x800a00a4 + 0x4000 * i0, 0, 17, .rw, 0⟩
def NETTXQ_HEAD_PTR (i0 : Nat) : Fld := ⟨0x800a00a8 + 0x4000 * i0, 0, 17, .rw, 0⟩
def NETTXQ_TAIL_PTR (i0 : Nat) : Fld := ⟨0x800a00ac + 0x4000 * i0, 0, 17, .ro, 0⟩
def NETTXTS_NS_STAMP (i0 : Nat) : Fld := ⟨0x800a00b0 + 0x4000 * i0, 0, 32, .ro, 0⟩
def NETTXTS_TAG_TAG (i0 : Nat) : Fld := ⟨0x800a00b4 + 0x4000 * i0, 0, 16, .ro, 0⟩
def NETTXTS_TAG_DOMAIN (i0 : Nat) : Fld := ⟨0x800a00b4 + 0x4000 * i0, 16, 1, .ro, 0⟩
def NETTXTS_TAG_VALID (i0 : Nat) : Fld := ⟨0x800a00b4 + 0x4000 * i0, 31, 1, .ro, 0⟩
def STMTSOFF_OFFSET : Fld := ⟨0x800b0000, 0, 32, .rwp, 0⟩
def STMSTAT_RX_BUF_USED : Fld := ⟨0x800b0004, 0, 11, .ro, 0⟩
def STMSTAT_TX_CH_USED : Fld := ⟨0x800b0004, 16, 11, .ro, 0⟩
def STMFAULT_STREAM : Fld := ⟨0x800b0008, 0, 7, .ro, 0⟩
def STMFAULT_DIR : Fld := ⟨0x800b0008, 7, 1, .ro, 0⟩
def STMFAULT_KIND : Fld := ⟨0x800b0008, 8, 4, .ro, 0⟩
def STRX_EN (i0 : Nat) : Fld := ⟨0x800b1000 + 0x20 * i0, 0, 1, .rw, 0⟩
def STRX_SYNC (i0 : Nat) : Fld := ⟨0x800b1000 + 0x20 * i0, 1, 1, .rw, 0⟩
def STRX_RATE (i0 : Nat) : Fld := ⟨0x800b1000 + 0x20 * i0, 2, 3, .rw, 1⟩
def STRX_FMT (i0 : Nat) : Fld := ⟨0x800b1000 + 0x20 * i0, 5, 1, .rw, 1⟩
def STRX_PTIME (i0 : Nat) : Fld := ⟨0x800b1000 + 0x20 * i0, 6, 1, .rw, 0⟩
def STRX_MISS (i0 : Nat) : Fld := ⟨0x800b1000 + 0x20 * i0, 7, 1, .rw, 1⟩
def STRX_PORT (i0 : Nat) : Fld := ⟨0x800b1000 + 0x20 * i0, 8, 2, .rw, 0⟩
def STRX_NCH (i0 : Nat) : Fld := ⟨0x800b1000 + 0x20 * i0, 10, 7, .rw, 0⟩
def STRX_BUF (i0 : Nat) : Fld := ⟨0x800b1000 + 0x20 * i0, 17, 10, .rw, 0⟩
def STRX_STATE (i0 : Nat) : Fld := ⟨0x800b1000 + 0x20 * i0, 27, 3, .ro, 0⟩
def STRX_MATCH (i0 : Nat) : Fld := ⟨0x800b1004 + 0x20 * i0, 0, 6, .rw, 0⟩
def STRX_DIP (i0 : Nat) : Fld := ⟨0x800b1008 + 0x20 * i0, 0, 32, .rw, 0⟩
def STRX_DPORT (i0 : Nat) : Fld := ⟨0x800b100c + 0x20 * i0, 0, 16, .rw, 0⟩
def STRX_VID (i0 : Nat) : Fld := ⟨0x800b100c + 0x20 * i0, 16, 12, .rw, 0⟩
def STRX_SSRC (i0 : Nat) : Fld := ⟨0x800b1010 + 0x20 * i0, 0, 32, .rw, 0⟩
def STRX_DMAC (i0 : Nat) : Fld := ⟨0x800b1014 + 0x20 * i0, 0, 32, .rw, 0⟩
def STRX_DMAC_HI (i0 : Nat) : Fld := ⟨0x800b1018 + 0x20 * i0, 0, 16, .rw, 0⟩
def STRX_PT (i0 : Nat) : Fld := ⟨0x800b1018 + 0x20 * i0, 16, 7, .rw, 0⟩
def STRX_LAT (i0 : Nat) : Fld := ⟨0x800b101c + 0x20 * i0, 0, 11, .rw, 0x18⟩
def STTX_EN (i0 : Nat) : Fld := ⟨0x800b2000 + 0x10 * i0, 0, 1, .rw, 0⟩
def STTX_RATEK (i0 : Nat) : Fld := ⟨0x800b2000 + 0x10 * i0, 1, 2, .rw, 0⟩
def STTX_FMT (i0 : Nat) : Fld := ⟨0x800b2000 + 0x10 * i0, 3, 1, .rw, 1⟩
def STTX_PTIME (i0 : Nat) : Fld := ⟨0x800b2000 + 0x10 * i0, 4, 1, .rw, 0⟩
def STTX_VLAN (i0 : Nat) : Fld := ⟨0x800b2000 + 0x10 * i0, 5, 1, .rw, 0⟩
def STTX_UDPCS (i0 : Nat) : Fld := ⟨0x800b2000 + 0x10 * i0, 6, 1, .rw, 0⟩
def STTX_PORT (i0 : Nat) : Fld := ⟨0x800b2000 + 0x10 * i0, 7, 2, .rw, 0⟩
def STTX_NCH (i0 : Nat) : Fld := ⟨0x800b2000 + 0x10 * i0, 9, 7, .rw, 0⟩
def STTX_STATE (i0 : Nat) : Fld := ⟨0x800b2000 + 0x10 * i0, 16, 2, .ro, 0⟩
def STTX_SEQ (i0 : Nat) : Fld := ⟨0x800b2004 + 0x10 * i0, 0, 16, .rw, 0⟩
def STTX_IPID (i0 : Nat) : Fld := ⟨0x800b2004 + 0x10 * i0, 16, 16, .rw, 0⟩
def STTX_DROPS (i0 : Nat) : Fld := ⟨0x800b2008 + 0x10 * i0, 0, 16, .ro, 0⟩
def STRXCNT_PKTS (i0 : Nat) : Fld := ⟨0x800b3000 + 0x10 * i0, 0, 16, .ro, 0⟩
def STRXCNT_LOST (i0 : Nat) : Fld := ⟨0x800b3000 + 0x10 * i0, 16, 16, .ro, 0⟩
def STRXCNT_LATE (i0 : Nat) : Fld := ⟨0x800b3004 + 0x10 * i0, 0, 16, .ro, 0⟩
def STRXCNT_EARLY (i0 : Nat) : Fld := ⟨0x800b3004 + 0x10 * i0, 16, 16, .ro, 0⟩
def STRXCNT_MALFORMED (i0 : Nat) : Fld := ⟨0x800b3008 + 0x10 * i0, 0, 16, .ro, 0⟩
def STRXCNT_MISSING (i0 : Nat) : Fld := ⟨0x800b3008 + 0x10 * i0, 16, 16, .ro, 0⟩
def LNKCASC_MODE : Fld := ⟨0x800c0000, 0, 2, .rw, 0⟩
def LNKCASC_NCHIPS : Fld := ⟨0x800c0000, 2, 3, .rw, 0⟩
def LNKCASC_UP : Fld := ⟨0x800c0000, 5, 2, .rw, 0⟩
def LNKCASC_ALT_UP : Fld := ⟨0x800c0000, 7, 2, .rw, 0⟩
def LNKCASC_ALT_EN : Fld := ⟨0x800c0000, 9, 1, .rw, 0⟩
def LNKCASCSTAT_ID : Fld := ⟨0x800c0004, 0, 3, .ro, 0⟩
def LNKCASCSTAT_MASTER : Fld := ⟨0x800c0004, 3, 1, .ro, 1⟩
def LNKCASCSTAT_FC_SYNC : Fld := ⟨0x800c0004, 4, 1, .ro, 0⟩
def LNKCASCSTAT_UP_ALT : Fld := ⟨0x800c0004, 5, 1, .ro, 0⟩
def LNKCASCSTAT_REACH : Fld := ⟨0x800c0004, 8, 8, .ro, 0⟩
def LNKCFG_EN (i0 : Nat) : Fld := ⟨0x800c0100 + 0x40 * i0, 0, 1, .rw, 0⟩
def LNKCFG_AUTOFIX (i0 : Nat) : Fld := ⟨0x800c0100 + 0x40 * i0, 1, 1, .rw, 1⟩
def LNKSTAT_STATE (i0 : Nat) : Fld := ⟨0x800c0104 + 0x40 * i0, 0, 2, .ro, 0⟩
def LNKSTAT_LANE_SWAP (i0 : Nat) : Fld := ⟨0x800c0104 + 0x40 * i0, 2, 1, .ro, 0⟩
def LNKSTAT_POL0 (i0 : Nat) : Fld := ⟨0x800c0104 + 0x40 * i0, 3, 1, .ro, 0⟩
def LNKSTAT_POL1 (i0 : Nat) : Fld := ⟨0x800c0104 + 0x40 * i0, 4, 1, .ro, 0⟩
def LNKSTAT_PEER_ID (i0 : Nat) : Fld := ⟨0x800c0104 + 0x40 * i0, 5, 3, .ro, 0⟩
def LNKSTAT_RX_FAULT (i0 : Nat) : Fld := ⟨0x800c0104 + 0x40 * i0, 8, 1, .w1c, 0⟩
def LNKSTAT_RTT (i0 : Nat) : Fld := ⟨0x800c0104 + 0x40 * i0, 16, 16, .ro, 0⟩
def LNKCNT_CRC (i0 : Nat) : Fld := ⟨0x800c0108 + 0x40 * i0, 0, 16, .ro, 0⟩
def LNKCNT_RESIDUE (i0 : Nat) : Fld := ⟨0x800c0108 + 0x40 * i0, 16, 16, .ro, 0⟩
def PAIRCFG_LINK : Fld := ⟨0x800c0200, 0, 2, .rw, 0⟩
def PAIRCFG_PREFER : Fld := ⟨0x800c0200, 2, 1, .rw, 0⟩
def PAIRCFG_REVERT_EN : Fld := ⟨0x800c0200, 3, 1, .rw, 1⟩
def PAIRCFG_SYNC_P : Fld := ⟨0x800c0200, 8, 8, .rw, 0x40⟩
def PAIRHOLD_HOLDOFF : Fld := ⟨0x800c0204, 0, 32, .rw, 0x10000⟩
def PAIRCTL_YIELD : Fld := ⟨0x800c0208, 0, 1, .wo, 0⟩
def PAIRSTAT_ACTIVE : Fld := ⟨0x800c020c, 0, 1, .ro, 0⟩
def PAIRSTAT_SYNC : Fld := ⟨0x800c020c, 1, 1, .ro, 0⟩
def PAIRSTAT_HEALTHY : Fld := ⟨0x800c020c, 2, 1, .ro, 0⟩
def PAIRSTAT_PEER_ACT : Fld := ⟨0x800c020c, 3, 1, .ro, 0⟩
def PAIRSTAT_ELIGIBLE : Fld := ⟨0x800c020c, 4, 1, .ro, 0⟩
def PAIRSTAT_MISMATCH : Fld := ⟨0x800c020c, 5, 1, .w1c, 0⟩
def PAIRSTAT_MISCNT : Fld := ⟨0x800c020c, 16, 16, .ro, 0⟩
def LNKTX_KIND (i0 i1 : Nat) : Fld := ⟨0x800c1000 + 0x400 * i0 + 0x4 * i1, 0, 2, .rwp, 0⟩
def LNKTX_INDEX (i0 i1 : Nat) : Fld := ⟨0x800c1000 + 0x400 * i0 + 0x4 * i1, 2, 14, .rwp, 0⟩
def LNKWTX_BUS (i0 i1 : Nat) : Fld := ⟨0x800c2000 + 0x80 * i0 + 0x4 * i1, 0, 9, .rwp, 0⟩
def LNKWTX_EN (i0 i1 : Nat) : Fld := ⟨0x800c2000 + 0x80 * i0 + 0x4 * i1, 31, 1, .rwp, 0⟩
def SPARECTL_PATROL_EN (i0 : Nat) : Fld := ⟨clusterPage i0 + 0x3000, 0, 1, .rw, 1⟩
def SPARECTL_REVERT_EN (i0 : Nat) : Fld := ⟨clusterPage i0 + 0x3000, 1, 1, .rw, 1⟩
def SPARESTAT_STATE (i0 : Nat) : Fld := ⟨clusterPage i0 + 0x3004, 0, 3, .ro, 0⟩
def SPARESTAT_CARRY_K (i0 : Nat) : Fld := ⟨clusterPage i0 + 0x3004, 3, 4, .ro, 0xf⟩
def SPARESTAT_PATROL_K (i0 : Nat) : Fld := ⟨clusterPage i0 + 0x3004, 7, 4, .ro, 0xf⟩
def SPARESTAT_RETIRED (i0 : Nat) : Fld := ⟨clusterPage i0 + 0x3004, 11, 8, .ro, 0⟩
def SPARESTAT_SELFTEST (i0 : Nat) : Fld := ⟨clusterPage i0 + 0x3004, 19, 2, .ro, 0⟩
def REVERT_HOLDOFF_PERIODS (i0 : Nat) : Fld := ⟨clusterPage i0 + 0x3008, 0, 32, .rw, 0x10000⟩
def PATROLFAULT_K (i0 : Nat) : Fld := ⟨clusterPage i0 + 0x300c, 0, 3, .ro, 0⟩
def PATROLFAULT_TASK (i0 : Nat) : Fld := ⟨clusterPage i0 + 0x300c, 3, 5, .ro, 0⟩
def PATROLFAULT_ADDR (i0 : Nat) : Fld := ⟨clusterPage i0 + 0x300c, 8, 12, .ro, 0⟩
def PATROLFAULT_VERDICT (i0 : Nat) : Fld := ⟨clusterPage i0 + 0x300c, 20, 2, .ro, 0⟩
def PATROLCNT_CHECKS (i0 : Nat) : Fld := ⟨clusterPage i0 + 0x3010, 0, 16, .ro, 0⟩
def PATROLCNT_MISMATCHES (i0 : Nat) : Fld := ⟨clusterPage i0 + 0x3010, 16, 16, .ro, 0⟩
def HOLDREMAIN_REMAIN (i0 : Nat) : Fld := ⟨clusterPage i0 + 0x3014, 0, 32, .ro, 0⟩
def FUMCFG_LOCKSTEP_ACT : Fld := ⟨0x800d0000, 0, 2, .rwl, 0⟩
def FUMCFG_FABRIC_ACT : Fld := ⟨0x800d0000, 2, 2, .rwl, 0⟩
def FUMCFG_GEYSER_ACT : Fld := ⟨0x800d0000, 4, 2, .rwl, 2⟩
def FUMCFG_STALL_ACT : Fld := ⟨0x800d0000, 6, 2, .rwl, 1⟩
def FUMCFG_PRI_PASS : Fld := ⟨0x800d0000, 8, 1, .rwl, 0⟩
def FUMCFG_REC_SEV : Fld := ⟨0x800d0000, 9, 2, .rwl, 1⟩
def FUMCFG_FAULTN_SEV : Fld := ⟨0x800d0000, 11, 2, .rwl, 2⟩
def FUMCFG_FILL_MAX : Fld := ⟨0x800d0000, 16, 8, .rwl, 0x40⟩
def FUMCFG2_LIM_REL : Fld := ⟨0x800d0004, 0, 12, .rwl, 0x2b⟩
def FUMCFG2_PRECAUT : Fld := ⟨0x800d0004, 12, 4, .rwl, 6⟩
def FUMCFG2_MUTE_HOLD : Fld := ⟨0x800d0004, 16, 16, .rwl, 0x60⟩
def FUMLOCK_CLOSE : Fld := ⟨0x800d0008, 0, 1, .wo, 0⟩
def FUMLOCK_CLOSED : Fld := ⟨0x800d0008, 8, 1, .ro, 0⟩
def FUMCTL_MUTE_REQ : Fld := ⟨0x800d000c, 0, 1, .rw, 0⟩
def FUMSTAT_MUTE_ALL : Fld := ⟨0x800d0010, 0, 1, .ro, 1⟩
def FUMSTAT_FALLBACK : Fld := ⟨0x800d0010, 1, 1, .ro, 0⟩
def FUMSTAT_PRECAUT : Fld := ⟨0x800d0010, 2, 1, .ro, 0⟩
def FUMSTAT_PORT_WATCH : Fld := ⟨0x800d0010, 3, 1, .ro, 0⟩
def FUMSTAT_CAUSE : Fld := ⟨0x800d0010, 4, 10, .ro, 4⟩
def FUMSTAT_SAFE_RESET : Fld := ⟨0x800d0010, 14, 1, .ro, 0⟩
def FUMSTAT_FAULTN : Fld := ⟨0x800d0010, 15, 1, .ro, 0⟩
def FUMSTAT_LOCK_WR : Fld := ⟨0x800d0010, 16, 1, .w1c, 0⟩
def FUMLWADDR_LO_ADDR : Fld := ⟨0x800d0014, 0, 32, .ro, 0⟩
def FUMLWADDR_HI_ADDR_HI : Fld := ⟨0x800d0018, 0, 8, .ro, 0⟩
def FUMTICK_TICKS : Fld := ⟨0x800d001c, 0, 32, .ro, 0⟩
def FUMSLOTSEL_SLOT : Fld := ⟨0x800d0020, 0, 9, .rw, 0⟩
def FUMSLOTST_LIMITING : Fld := ⟨0x800d0024, 0, 1, .ro, 0⟩
def FUMSLOTST_FILLING : Fld := ⟨0x800d0024, 1, 1, .ro, 0⟩
def FUMSLOTST_MUTED : Fld := ⟨0x800d0024, 2, 1, .ro, 0⟩
def FUMSLOTST_MUTE_CAUSE : Fld := ⟨0x800d0024, 3, 3, .ro, 0⟩
def FUMSLOTG_GAIN : Fld := ⟨0x800d0028, 0, 24, .ro, 0⟩
def FUMCNT_FILLED : Fld := ⟨0x800d002c, 0, 16, .ro, 0⟩
def FUMCNT_LIMITED : Fld := ⟨0x800d002c, 16, 16, .ro, 0⟩
def FUMRECSTAT_COUNT : Fld := ⟨0x800d0040, 0, 8, .ro, 0⟩
def FUMRECSTAT_NEXT : Fld := ⟨0x800d0040, 8, 6, .ro, 1⟩
def FUMRECSTAT_WRAPPED : Fld := ⟨0x800d0040, 14, 1, .ro, 0⟩
def FUMRECSTAT_UNACK : Fld := ⟨0x800d0040, 15, 1, .ro, 0⟩
def FUMRECSTAT_ACK : Fld := ⟨0x800d0040, 16, 1, .wo, 0⟩
def FUMRECSTAT_CLR : Fld := ⟨0x800d0040, 17, 1, .wo, 0⟩
def FUMREC_WORD0 (i0 : Nat) : Fld := ⟨0x800d1000 + 0x10 * i0, 0, 32, .ro, 0⟩
def FUMREC_WORD1 (i0 : Nat) : Fld := ⟨0x800d1004 + 0x10 * i0, 0, 32, .ro, 0⟩
def FUMREC_WORD2 (i0 : Nat) : Fld := ⟨0x800d1008 + 0x10 * i0, 0, 32, .ro, 0⟩
def FUMREC_WORD3 (i0 : Nat) : Fld := ⟨0x800d100c + 0x10 * i0, 0, 32, .ro, 0⟩
def CORECFG_INSEL : Fld := ⟨0x80000000, 0, 2, .rw, 0⟩
def CORECFG_REFSCALE : Fld := ⟨0x80000000, 2, 2, .rw, 0⟩
def CORENINT_NINT : Fld := ⟨0x80000004, 0, 16, .rw, 0x40⟩
def CORENFRAC_FRAC : Fld := ⟨0x80000008, 0, 24, .rw, 0⟩
def CORECTL_RELOCK : Fld := ⟨0x8000000c, 0, 1, .wo, 0⟩
def CORECTL_RAMP_GO : Fld := ⟨0x8000000c, 1, 1, .wo, 0⟩
def CORECTL_SSC : Fld := ⟨0x8000000c, 2, 2, .rw, 1⟩
def CORESTAT_STATE : Fld := ⟨0x80000010, 0, 3, .ro, 0⟩
def CORESTAT_INPUT_NOW : Fld := ⟨0x80000010, 3, 2, .ro, 0⟩
def CORESTAT_INPUT_LOST : Fld := ⟨0x80000010, 5, 1, .ro, 0⟩
def CORESTAT_GUARD : Fld := ⟨0x80000010, 6, 1, .w1c, 0⟩
def CORESTAT_SSC_ON : Fld := ⟨0x80000010, 7, 1, .ro, 0⟩
def CORESTAT_SSC_NOREF : Fld := ⟨0x80000010, 8, 1, .ro, 0⟩
def CORESTAT_COAST : Fld := ⟨0x80000010, 9, 1, .ro, 0⟩
def CORESTAT_PHASE : Fld := ⟨0x80000010, 10, 2, .ro, 0⟩
def CORENNOW_N : Fld := ⟨0x80000014, 0, 32, .ro, 0⟩
def CORECAL_BAND : Fld := ⟨0x80000018, 0, 5, .ro, 0⟩
def CORECAL_FLOOR_CODE : Fld := ⟨0x80000018, 16, 12, .ro, 0⟩
def CLKCAP_CAPWIN : Fld := ⟨0x8000001c, 0, 10, .rw, 0xc8⟩
def CLKINCFG_WCK0_M : Fld := ⟨0x80000020, 0, 2, .rw, 0⟩
def CLKINCFG_WCK1_M : Fld := ⟨0x80000020, 2, 2, .rw, 0⟩
def RAMPCTL_NSEG : Fld := ⟨0x80000030, 0, 4, .rw, 0⟩
def RAMPCTL_SLOPE : Fld := ⟨0x80000030, 16, 11, .rw, 0x7d0⟩
def RAMPSEG_NINT (i0 : Nat) : Fld := ⟨0x80000040 + 0x10 * i0, 0, 16, .rw, 0⟩
def RAMPSEG_FRAC (i0 : Nat) : Fld := ⟨0x80000044 + 0x10 * i0, 0, 24, .rw, 0⟩
def RAMPSEG_SLOPE (i0 : Nat) : Fld := ⟨0x80000048 + 0x10 * i0, 0, 11, .rw, 0x7d0⟩
def PHOFF_OFFSET (i0 : Nat) : Fld := ⟨0x800000c0 + 0x4 * i0, 0, 32, .rw, 0⟩
def ISLCFG_IDLE_TO : Fld := ⟨0x80000100, 0, 16, .rw, 0x400⟩
def ISLCMD_ISLAND : Fld := ⟨0x80000104, 0, 10, .rw, 0⟩
def ISLCMD_OP : Fld := ⟨0x80000104, 12, 2, .rw, 0⟩
def ISLCMD_GO : Fld := ⟨0x80000104, 31, 1, .wo, 0⟩
def ISLSTAT_BUSY : Fld := ⟨0x80000108, 0, 1, .ro, 0⟩
def ISLSTAT_FORCED : Fld := ⟨0x80000108, 1, 1, .w1c, 0⟩
def ISLSTAT_CMD_IGNORED : Fld := ⟨0x80000108, 2, 1, .w1c, 0⟩
def ISLSTAT_GATED : Fld := ⟨0x80000108, 3, 1, .ro, 0⟩
def DLLSTAT_LOCKED : Fld := ⟨0x80000110, 0, 22, .ro, 0⟩
def AUXSTAT_SDREF_OK : Fld := ⟨0x80000114, 0, 1, .ro, 0⟩
def AUXSTAT_PCIE_OK : Fld := ⟨0x80000114, 1, 1, .ro, 0⟩
def CLKFAULT_KIND : Fld := ⟨0x80000118, 0, 4, .ro, 0⟩
def CLKFUSE_CEIL_MHZ : Fld := ⟨0x8000011c, 0, 12, .ro, 0x672⟩
def REFCFG_MODE : Fld := ⟨0x80010000, 0, 1, .rw, 0⟩
def REFCFG_BW : Fld := ⟨0x80010000, 1, 2, .rw, 1⟩
def REFCFG_REVERT : Fld := ⟨0x80010000, 3, 1, .rw, 1⟩
def REFCFG_WINDOW : Fld := ⟨0x80010000, 4, 10, .rw, 0x32⟩
def REFCFG_SLEW : Fld := ⟨0x80010000, 14, 8, .rw, 0x14⟩
def REFCFG_REALIGN_PPM : Fld := ⟨0x80010000, 22, 9, .rw, 0xa⟩
def REFTIME_WTR : Fld := ⟨0x80010004, 0, 8, .rw, 0xa⟩
def REFTIME_HOLDOFF : Fld := ⟨0x80010004, 8, 8, .rw, 0x14⟩
def REFTIME_DWELL : Fld := ⟨0x80010004, 16, 8, .rw, 0xa⟩
def REFTIME_HOLD_TIME : Fld := ⟨0x80010004, 24, 8, .rw, 0x14⟩
def REFFB_WCK0_EN : Fld := ⟨0x80010008, 0, 1, .rw, 0⟩
def REFFB_WCK1_EN : Fld := ⟨0x80010008, 1, 1, .rw, 0⟩
def REFFB_LINK_EN : Fld := ⟨0x80010008, 2, 1, .rw, 0⟩
def REFFB_HREF_RET : Fld := ⟨0x80010008, 3, 1, .rw, 1⟩
def REFFB_SW_TO : Fld := ⟨0x80010008, 16, 16, .rw, 0x1770⟩
def REFCTL_FORCE_EN : Fld := ⟨0x8001000c, 0, 1, .rw, 0⟩
def REFCTL_FORCE_REF : Fld := ⟨0x8001000c, 1, 3, .rw, 0⟩
def REFCTL_REALIGN : Fld := ⟨0x8001000c, 8, 1, .wo, 0⟩
def REFSTAT_SEL : Fld := ⟨0x80010010, 0, 3, .ro, 7⟩
def REFSTAT_HOLDOVER : Fld := ⟨0x80010010, 3, 1, .ro, 0⟩
def REFSTAT_SWITCHING : Fld := ⟨0x80010010, 4, 1, .ro, 0⟩
def REFSTAT_FALLBACK : Fld := ⟨0x80010010, 5, 1, .ro, 0⟩
def REFSTAT_BUILTOUT : Fld := ⟨0x80010010, 6, 1, .ro, 0⟩
def REFSTAT_REALIGNING : Fld := ⟨0x80010010, 7, 1, .ro, 0⟩
def REFSTAT_SW_STALE : Fld := ⟨0x80010010, 8, 1, .w1c, 0⟩
def REFSTAT_CMD_REFUSED : Fld := ⟨0x80010010, 9, 1, .w1c, 0⟩
def REFSTEER_STEER : Fld := ⟨0x80010014, 0, 32, .rw, 0⟩
def REFPHERR_PHERR : Fld := ⟨0x80010018, 0, 32, .ro, 0⟩
def REFBO_BO : Fld := ⟨0x8001001c, 0, 32, .ro, 0⟩
def REF_EN (i0 : Nat) : Fld := ⟨0x80010040 + 0x10 * i0, 0, 1, .rw, if i0 = 0 then 1 else 0⟩
def REF_QL (i0 : Nat) : Fld := ⟨0x80010040 + 0x10 * i0, 1, 4, .rw, 8⟩
def REF_PRIO (i0 : Nat) : Fld := ⟨0x80010040 + 0x10 * i0, 5, 4, .rw, i0⟩
def REF_VALID (i0 : Nat) : Fld := ⟨0x80010040 + 0x10 * i0, 9, 1, .rw, 0⟩
def REF_STATE (i0 : Nat) : Fld := ⟨0x80010044 + 0x10 * i0, 0, 3, .ro, 0⟩
def REF_CAUSE (i0 : Nat) : Fld := ⟨0x80010044 + 0x10 * i0, 3, 3, .ro, 0⟩
def REF_PRESENT (i0 : Nat) : Fld := ⟨0x80010044 + 0x10 * i0, 6, 1, .ro, 0⟩
def REF_TIMER (i0 : Nat) : Fld := ⟨0x80010044 + 0x10 * i0, 16, 16, .ro, 0⟩
def REF_OFFSET (i0 : Nat) : Fld := ⟨0x80010048 + 0x10 * i0, 0, 32, .ro, 0⟩
def REF_DWELL_CNT (i0 : Nat) : Fld := ⟨0x8001004c + 0x10 * i0, 0, 8, .ro, 0⟩
def TC_SEC_LO_SEC (i0 : Nat) : Fld := ⟨0x80010100 + 0x40 * i0, 0, 32, .ro, 0⟩
def TC_SEC_HI_SEC_HI (i0 : Nat) : Fld := ⟨0x80010104 + 0x40 * i0, 0, 16, .ro, 0⟩
def TC_NS_NS (i0 : Nat) : Fld := ⟨0x80010108 + 0x40 * i0, 0, 30, .ro, 0⟩
def TC_FRAC_FRAC (i0 : Nat) : Fld := ⟨0x8001010c + 0x40 * i0, 0, 32, .ro, 0⟩
def TC_INC_FRAC_FRAC (i0 : Nat) : Fld := ⟨0x80010110 + 0x40 * i0, 0, 32, .rw, 0x16155555⟩
def TC_INC_NS_NS (i0 : Nat) : Fld := ⟨0x80010114 + 0x40 * i0, 0, 8, .rw, 5⟩
def TC_SET_SEC_LO_SEC (i0 : Nat) : Fld := ⟨0x80010118 + 0x40 * i0, 0, 32, .rw, 0⟩
def TC_SET_SEC_HI_SEC_HI (i0 : Nat) : Fld := ⟨0x8001011c + 0x40 * i0, 0, 16, .rw, 0⟩
def TC_SET_NS_NS (i0 : Nat) : Fld := ⟨0x80010120 + 0x40 * i0, 0, 30, .rw, 0⟩
def TC_ADJ_ADJ (i0 : Nat) : Fld := ⟨0x80010124 + 0x40 * i0, 0, 32, .rw, 0⟩
def TC_CMD_SET (i0 : Nat) : Fld := ⟨0x80010128 + 0x40 * i0, 0, 1, .wo, 0⟩
def TC_CMD_ADJ (i0 : Nat) : Fld := ⟨0x80010128 + 0x40 * i0, 1, 1, .wo, 0⟩
def TCLATCHCTL_GO : Fld := ⟨0x80010200, 0, 1, .wo, 0⟩
def TCLATCHCTL_PENDING : Fld := ⟨0x80010200, 1, 1, .ro, 0⟩
def TCLATCHCTL_DISTURBED : Fld := ⟨0x80010200, 2, 1, .w1c, 0⟩
def TCL_FC_LO_FC : Fld := ⟨0x80010204, 0, 32, .ro, 0⟩
def TCL_FC_HI_FC : Fld := ⟨0x80010208, 0, 32, .ro, 0⟩
def TCL_A_SEC_LO_TIME : Fld := ⟨0x8001020c, 0, 32, .ro, 0⟩
def TCL_A_SEC_HI_TIME : Fld := ⟨0x80010210, 0, 16, .ro, 0⟩
def TCL_A_NS_TIME : Fld := ⟨0x80010214, 0, 30, .ro, 0⟩
def TCL_B_SEC_LO_TIME : Fld := ⟨0x80010218, 0, 32, .ro, 0⟩
def TCL_B_SEC_HI_TIME : Fld := ⟨0x8001021c, 0, 16, .ro, 0⟩
def TCL_B_NS_TIME : Fld := ⟨0x80010220, 0, 30, .ro, 0⟩
def TCL_MCLK_A_MCLK : Fld := ⟨0x80010224, 0, 32, .ro, 0⟩
def TCL_MCLK_B_MCLK : Fld := ⟨0x80010228, 0, 32, .ro, 0⟩
def OUTCFG_PERIOD_EN : Fld := ⟨0x80010300, 0, 1, .rw, 1⟩
def OUTCFG_PPS_EN : Fld := ⟨0x80010300, 1, 1, .rw, 0⟩
def OUTCFG_DOM_PEND : Fld := ⟨0x80010300, 2, 1, .rw, 0⟩
def OUTCFG_DOM : Fld := ⟨0x80010300, 3, 1, .ro, 0⟩
def OUTCFG_WIDTH : Fld := ⟨0x80010300, 4, 10, .rw, 0x64⟩
def FABCFG_REMAP : Fld := ⟨0x80030000, 0, 1, .rw, 0⟩
def FABCFG_REMAP_NOW : Fld := ⟨0x80030000, 1, 1, .ro, 0⟩
def FABSTAT_DECODE : Fld := ⟨0x80030004, 0, 1, .w1c, 0⟩
def FABSTAT_BURST : Fld := ⟨0x80030004, 1, 1, .w1c, 0⟩
def FABSTAT_LOCK_BROKEN : Fld := ⟨0x80030004, 2, 1, .w1c, 0⟩
def FABSTAT_LOCK_REFUSED : Fld := ⟨0x80030004, 3, 1, .w1c, 0⟩
def FABSTAT_PARTIAL : Fld := ⟨0x80030004, 4, 1, .w1c, 0⟩
def FABSTAT_TIMEOUT : Fld := ⟨0x80030004, 5, 1, .w1c, 0⟩
def FABSTAT_DEADLOCK : Fld := ⟨0x80030004, 6, 1, .ro, 0⟩
def FABSTAT_PARITY : Fld := ⟨0x80030004, 7, 1, .w1c, 0⟩
def FABSTAT_DL_MISS : Fld := ⟨0x80030004, 8, 1, .w1c, 0⟩
def FABSTAT_BACKOFF_MAX : Fld := ⟨0x80030004, 9, 1, .w1c, 0⟩
def FABWD_LIMIT : Fld := ⟨0x80030008, 0, 16, .rwl, 0x1000⟩
def FABTIME_TIME : Fld := ⟨0x8003000c, 0, 32, .ro, 0⟩
def FABQOS_BUDGET (i0 : Nat) : Fld := ⟨0x80030010 + 0x4 * i0, 0, 16, .rw, 0x1000⟩
def FABERR_LO_ADDR : Fld := ⟨0x80030030, 0, 32, .ro, 0⟩
def FABERR_HI_ADDR_HI : Fld := ⟨0x80030034, 0, 8, .ro, 0⟩
def FABERR_HI_MASTER : Fld := ⟨0x80030034, 8, 3, .ro, 0⟩
def FABERR_HI_ID : Fld := ⟨0x80030034, 11, 4, .ro, 0⟩
def FABERR_HI_CODE : Fld := ⟨0x80030034, 15, 3, .ro, 0⟩
def FABPART_LO_ADDR : Fld := ⟨0x80030038, 0, 32, .ro, 0⟩
def FABPART_HI_ADDR_HI : Fld := ⟨0x8003003c, 0, 8, .ro, 0⟩
def FABPART_HI_MASTER : Fld := ⟨0x8003003c, 8, 3, .ro, 0⟩
def FABPART_HI_DONE : Fld := ⟨0x8003003c, 11, 5, .ro, 0⟩
def FABPART_HI_LEN : Fld := ⟨0x8003003c, 16, 5, .ro, 0⟩
def FABPART_HI_WHY : Fld := ⟨0x8003003c, 21, 2, .ro, 0⟩
def FABLOCK_M0_OPEN : Fld := ⟨0x80030040, 0, 1, .ro, 0⟩
def FABLOCK_M0_PORT : Fld := ⟨0x80030040, 1, 6, .ro, 0⟩
def FABLOCK_M4_OPEN : Fld := ⟨0x80030040, 7, 1, .ro, 0⟩
def FABLOCK_M4_PORT : Fld := ⟨0x80030040, 8, 6, .ro, 0⟩
def FABLOCKBRK_OWNER : Fld := ⟨0x80030044, 0, 3, .ro, 0⟩
def FABLOCKBRK_PORT : Fld := ⟨0x80030044, 3, 6, .ro, 0⟩
def FABLOCKBRK_CAUSE : Fld := ⟨0x80030044, 9, 2, .ro, 0⟩
def FABMST_OUTSTANDING (i0 : Nat) : Fld := ⟨0x80030050 + 0x4 * i0, 0, 5, .ro, 0⟩
def FABMST_RESET (i0 : Nat) : Fld := ⟨0x80030050 + 0x4 * i0, 5, 1, .ro, 0⟩
def FABCNT_MISSED : Fld := ⟨0x80030070, 0, 16, .ro, 0⟩
def FABCNT_ABANDONED : Fld := ⟨0x80030070, 16, 16, .ro, 0⟩
def PWRCTL_REQ : Fld := ⟨0x80020000, 0, 2, .rw, 0⟩
def PWRCTL_GO : Fld := ⟨0x80020000, 31, 1, .wo, 0⟩
def PWRSTAT_STATE : Fld := ⟨0x80020004, 0, 2, .ro, 0⟩
def PWRSTAT_BUSY : Fld := ⟨0x80020004, 2, 1, .ro, 0⟩
def PWRSTAT_THERM_HOLD : Fld := ⟨0x80020004, 3, 1, .ro, 0⟩
def PWRSTAT_REFUSED : Fld := ⟨0x80020004, 4, 1, .w1c, 0⟩
def PWRCFG_THERM_RESUME : Fld := ⟨0x80020008, 0, 1, .rwl, 1⟩
def PWRRATE_FAMILY : Fld := ⟨0x8002000c, 0, 1, .rw, 0⟩
def PWRRATE_MULT : Fld := ⟨0x8002000c, 1, 2, .rw, 1⟩
def PWRRATE_FAMILY_NOW : Fld := ⟨0x8002000c, 8, 1, .ro, 0⟩
def PWRRATE_MULT_NOW : Fld := ⟨0x8002000c, 9, 2, .ro, 1⟩
def RSTREQ_SCOPE : Fld := ⟨0x80020010, 0, 3, .rw, 0⟩
def RSTREQ_TARGET : Fld := ⟨0x80020010, 4, 9, .rw, 0⟩
def RSTREQ_GO : Fld := ⟨0x80020010, 31, 1, .wo, 0⟩
def RSTSTAT_BUSY : Fld := ⟨0x80020014, 0, 1, .ro, 0⟩
def RSTSTAT_IGNORED : Fld := ⟨0x80020014, 1, 1, .w1c, 0⟩
def RSTSTAT_REFUSED : Fld := ⟨0x80020014, 2, 1, .w1c, 0⟩
def RSTSTAT_LAST_SCOPE : Fld := ⟨0x80020014, 3, 3, .ro, 0⟩
def RSTCAUSE_CAUSE : Fld := ⟨0x80020018, 0, 4, .ro, 0⟩
def RSTCAUSE_RAIL : Fld := ⟨0x80020018, 4, 4, .ro, 0⟩
def RSTCAUSE_SAFE_CNT : Fld := ⟨0x80020018, 16, 8, .ro, 0⟩
def SUPSTAT_BELOW_WARN : Fld := ⟨0x80020020, 0, 10, .ro, 0⟩
def SUPSTAT_DIP : Fld := ⟨0x80020020, 16, 10, .w1c, 0⟩
def SUPFAULT_RAIL : Fld := ⟨0x80020024, 0, 4, .ro, 0⟩
def SUPFAULT_KIND : Fld := ⟨0x80020024, 4, 2, .ro, 0⟩
def TEMP_TEMP (i0 : Nat) : Fld := ⟨0x80020030 + 0x4 * i0, 0, 13, .ro, 0⟩
def TEMP_VALID (i0 : Nat) : Fld := ⟨0x80020030 + 0x4 * i0, 13, 1, .ro, 0⟩
def TEMP_BAD (i0 : Nat) : Fld := ⟨0x80020030 + 0x4 * i0, 14, 1, .ro, 0⟩
def TEMPMAX_MAX : Fld := ⟨0x80020050, 0, 13, .ro, 0x1000⟩
def BOOTSTAT_MODE : Fld := ⟨0x80020060, 0, 3, .ro, 0⟩
def BOOTSTAT_FALLBACK : Fld := ⟨0x80020060, 3, 1, .ro, 0⟩
def BOOTSTAT_STAGE : Fld := ⟨0x80020060, 4, 4, .ro, 0⟩
def BOOTSTAT_ERR : Fld := ⟨0x80020060, 8, 4, .ro, 0⟩
def BOOTSTAT_KEYSLOT : Fld := ⟨0x80020060, 12, 2, .ro, 0⟩
def BOOTSTAT_DONE : Fld := ⟨0x80020060, 15, 1, .ro, 0⟩
def BOOTSTAT_SECT : Fld := ⟨0x80020060, 16, 6, .ro, 0⟩
def BOOTDOOR_GO : Fld := ⟨0x80020064, 0, 1, .wo, 0⟩
def BOOTVER_IMAGE_VER : Fld := ⟨0x80020068, 0, 32, .ro, 0⟩
def EVTSTAT_STAT (i0 : Nat) : Fld := ⟨0x80040000 + 0x4 * i0, 0, 32, .w1c, 0⟩
def EVTEN_EN (i0 : Nat) : Fld := ⟨0x80040020 + 0x4 * i0, 0, 32, .rw, 0⟩
def EVTOUTCFG_POL : Fld := ⟨0x80040040, 0, 4, .rw, 0xf⟩
def EVTSWSET_SET : Fld := ⟨0x80040044, 0, 16, .wo, 0⟩
def EVTPEND_PEND : Fld := ⟨0x80040048, 0, 32, .ro, 0⟩
def EVTMSIXSUM_MSIX : Fld := ⟨0x8004004c, 0, 16, .ro, 0⟩
def EVTMSIXSUM_OUT : Fld := ⟨0x8004004c, 16, 4, .ro, 0⟩
def EVTROUTE_SVEC (i0 : Nat) : Fld := ⟨0x80041000 + 0x4 * i0, 0, 5, .rw, 0⟩
def EVTROUTE_SEN (i0 : Nat) : Fld := ⟨0x80041000 + 0x4 * i0, 5, 1, .rw, 0⟩
def EVTROUTE_MSIX (i0 : Nat) : Fld := ⟨0x80041000 + 0x4 * i0, 6, 4, .rw, 0⟩
def EVTROUTE_MEN (i0 : Nat) : Fld := ⟨0x80041000 + 0x4 * i0, 10, 1, .rw, 0⟩
def EVTROUTE_OUT (i0 : Nat) : Fld := ⟨0x80041000 + 0x4 * i0, 11, 4, .rw, 0⟩
def HSTCFG_POISON_EP : Fld := ⟨0x800e0000, 0, 1, .rw, 0⟩
def HSTSTAT_LINK_UP : Fld := ⟨0x800e0004, 0, 1, .ro, 0⟩
def HSTSTAT_SPEED : Fld := ⟨0x800e0004, 1, 3, .ro, 0⟩
def HSTSTAT_WIDTH : Fld := ⟨0x800e0004, 4, 3, .ro, 0⟩
def HSTSTAT_BME : Fld := ⟨0x800e0004, 7, 1, .ro, 0⟩
def HSTSTAT_MSIX_EN : Fld := ⟨0x800e0004, 8, 1, .ro, 0⟩
def HSTSTAT_RD_POISON : Fld := ⟨0x800e0004, 9, 1, .w1c, 0⟩
def HSTSTAT_RD_MISMATCH : Fld := ⟨0x800e0004, 10, 1, .w1c, 0⟩
def HSTSTAT_ACC_ERR : Fld := ⟨0x800e0004, 11, 1, .w1c, 0⟩
def HSTWIN_WIN : Fld := ⟨0x800e0008, 0, 5, .rw, 0⟩
def HSTERR_LO_ADDR : Fld := ⟨0x800e000c, 0, 32, .ro, 0⟩
def HSTERR_HI_ADDR_HI : Fld := ⟨0x800e0010, 0, 8, .ro, 0⟩
def HSTERR_HI_CODE : Fld := ⟨0x800e0010, 8, 3, .ro, 0⟩
def HSTERR_HI_KIND : Fld := ⟨0x800e0010, 11, 2, .ro, 0⟩
def HSTSUBSYS_SVID : Fld := ⟨0x800e0014, 0, 16, .rw, 0⟩
def HSTSUBSYS_SSID : Fld := ⟨0x800e0014, 16, 16, .rw, 0⟩
def DBGCTL_OPEN : Fld := ⟨0x800e0040, 0, 1, .rw, 0⟩
def DBGCTL_STW_HALT : Fld := ⟨0x800e0040, 1, 1, .rw, 0⟩
def DBGCTL_STW_STEP : Fld := ⟨0x800e0040, 2, 1, .wo, 0⟩
def DBGSTAT_OPEN : Fld := ⟨0x800e0044, 0, 1, .ro, 0⟩
def DBGSTAT_STW_HALTED : Fld := ⟨0x800e0044, 1, 1, .ro, 0⟩
def DBGSTAT_DBG_DIS : Fld := ⟨0x800e0044, 2, 1, .ro, 0⟩
def DBGSTAT_STW_PC : Fld := ⟨0x800e0044, 3, 19, .ro, 0⟩
def PINCFG_PROBE_DATA : Fld := ⟨0x80020100, 0, 1, .rwl, 0⟩
def PINCFG_PROBE_CTRL : Fld := ⟨0x80020100, 1, 1, .rwl, 0⟩
def PINCFG_SHORT_EN : Fld := ⟨0x80020100, 2, 1, .rwl, 1⟩
def PINCFG_RETRY : Fld := ⟨0x80020100, 8, 8, .rw, 0x10⟩
def PINSTAT_SHORT_NOW : Fld := ⟨0x80020104, 0, 1, .ro, 0⟩
def PINSTAT_SHORT_SEEN : Fld := ⟨0x80020104, 1, 1, .w1c, 0⟩
def PINSTAT_OPEN_NOW : Fld := ⟨0x80020104, 2, 1, .ro, 0⟩
def PINSTAT_FAULTN_STUCK : Fld := ⟨0x80020104, 3, 1, .w1c, 0⟩
def PINSTAT_HELD_HIZ : Fld := ⟨0x80020104, 4, 1, .ro, 0⟩
def PINSHORT_SHORT (i0 : Nat) : Fld := ⟨0x80020110 + 0x4 * i0, 0, 32, .ro, 0⟩
def PINOPEN_OPEN (i0 : Nat) : Fld := ⟨0x80020130 + 0x4 * i0, 0, 32, .ro, 0⟩
def PINDIFF_HREF_LEG : Fld := ⟨0x80020150, 0, 1, .ro, 0⟩
def PINDIFF_SDREF_LEG : Fld := ⟨0x80020150, 1, 1, .ro, 0⟩
def PINDIFF_PCIE_REFCLK_LEG : Fld := ⟨0x80020150, 2, 1, .ro, 0⟩
def PINDIFF_NET_INV : Fld := ⟨0x80020150, 4, 4, .ro, 0⟩
def PINDIFF_PCIE_INV : Fld := ⟨0x80020150, 8, 4, .ro, 0⟩
def GPIOCFG_DIR : Fld := ⟨0x80020160, 0, 8, .rw, 0⟩
def GPIOCFG_OD : Fld := ⟨0x80020160, 8, 8, .rw, 0⟩
def GPIOOUT_OUT : Fld := ⟨0x80020164, 0, 8, .rw, 0⟩
def GPIOIN_IN : Fld := ⟨0x80020168, 0, 8, .ro, 0⟩
def IDCODE_IDCODE : Fld := ⟨0x80100000, 0, 32, .ro, 0x2ce10a41⟩
def STEP_STEP : Fld := ⟨0x80100004, 0, 8, .ro, 0xb0⟩
def UID_LO_UID : Fld := ⟨0x80100008, 0, 32, .ro, 0⟩
def UID_HI_UID_HI : Fld := ⟨0x8010000c, 0, 32, .ro, 0⟩
def FUSECFG_KEYPROG : Fld := ⟨0x80100010, 0, 4, .ro, 0⟩
def FUSECFG_KEYREV : Fld := ⟨0x80100010, 4, 4, .ro, 0⟩
def FUSECFG_DBG_DIS : Fld := ⟨0x80100010, 8, 1, .ro, 0⟩
def FUSECFG_LOOP_MAN : Fld := ⟨0x80100010, 9, 1, .ro, 0⟩
def KEYHASH_WORD (i0 : Nat) : Fld := ⟨0x80100100 + 0x4 * i0, 0, 32, .ro, 0⟩
def MGSTAT_FCLK_OK : Fld := ⟨0x10000020000, 0, 1, .ro, 0⟩
def MGSTAT_CORE_LOCKED : Fld := ⟨0x10000020000, 1, 1, .ro, 0⟩
def MGSTAT_RESET_N : Fld := ⟨0x10000020000, 2, 1, .ro, 1⟩
def MGSTAT_CHIP_IN_RESET : Fld := ⟨0x10000020000, 3, 1, .ro, 1⟩
def MGSTAT_FRAME_ERR : Fld := ⟨0x10000020000, 4, 1, .w1c, 0⟩
def MGSTAT_LOOP_WAIT : Fld := ⟨0x10000020000, 5, 1, .ro, 0⟩
def MGSTAT_LOOP_BAD : Fld := ⟨0x10000020000, 6, 1, .w1c, 0⟩
def EVTSNAP_STAT (i0 : Nat) : Fld := ⟨0x10000020010 + 0x4 * i0, 0, 32, .ro, 0⟩
def EVTSNAP_FC_LO_FC : Fld := ⟨0x10000020030, 0, 32, .ro, 0⟩
def EVTSNAP_FC_HI_FC : Fld := ⟨0x10000020034, 0, 32, .ro, 0⟩
def EVTSNAPCTL_TAKE : Fld := ⟨0x10000020038, 0, 1, .wo, 0⟩
def EVTSNAPCTL_AUTO : Fld := ⟨0x10000020038, 1, 1, .rw, 1⟩
def EVTSNAPCTL_VALID : Fld := ⟨0x10000020038, 2, 1, .ro, 0⟩
def EVTSNAPCTL_KIND : Fld := ⟨0x10000020038, 3, 1, .ro, 0⟩
def FUSEADDR_ADDR : Fld := ⟨0x10000020040, 0, 6, .rw, 0⟩
def FUSEDATA_DATA : Fld := ⟨0x10000020044, 0, 32, .rw, 0⟩
def FUSECTL_PROG : Fld := ⟨0x10000020048, 0, 1, .wo, 0⟩
def FUSESTAT_BUSY : Fld := ⟨0x1000002004c, 0, 1, .ro, 0⟩
def FUSESTAT_DONE : Fld := ⟨0x1000002004c, 1, 1, .w1c, 0⟩
def FUSESTAT_FAIL : Fld := ⟨0x1000002004c, 2, 1, .w1c, 0⟩
def FUSESTAT_REFUSED : Fld := ⟨0x1000002004c, 3, 1, .w1c, 0⟩
def MGIDCODE_IDCODE : Fld := ⟨0x10000020050, 0, 32, .ro, 0x2ce10a41⟩
def LOOPINIT_NINT : Fld := ⟨0x10000020060, 0, 16, .rw, 0x40⟩
def LOOPINIT_REFSCALE : Fld := ⟨0x10000020060, 16, 2, .rw, 0⟩
def LOOPINIT_FAMILY : Fld := ⟨0x10000020060, 18, 1, .rw, 0⟩
def LOOPINIT_MULT : Fld := ⟨0x10000020060, 19, 2, .rw, 1⟩
def LOOPINIT_AUTO : Fld := ⟨0x10000020060, 21, 1, .rw, 1⟩
def LOOPINIT_GO : Fld := ⟨0x10000020060, 31, 1, .wo, 0⟩
def LOOPINIT_FRAC_FRAC : Fld := ⟨0x10000020064, 0, 24, .rw, 0⟩

/-- The register words of the CAL block. -/
def tableCAL : List WordRow := [
  ⟨0x80068000, [(0x4, 1024)], [⟨0, 2, .rwp, 0⟩, ⟨8, 8, .rwp, 0⟩, ⟨16, 9, .rwp, 0⟩]⟩,
  ⟨0x80069000, [(0x4, 512)], [⟨0, 2, .rwp, 0⟩, ⟨8, 8, .rwp, 0⟩, ⟨16, 9, .rwp, 0⟩]⟩,
  ⟨0x8006a000, [(0x4, 1024)], [⟨0, 14, .rwp, 0⟩]⟩,
  ⟨0x80060000, [], [⟨0, 16, .rw, 0x40⟩, ⟨16, 3, .rw, 4⟩, ⟨20, 8, .rw, 0x10⟩, ⟨28, 1, .rw, 1⟩]⟩,
  ⟨0x80060004, [], [⟨0, 1, .w1c, 0⟩, ⟨1, 1, .w1c, 0⟩, ⟨2, 1, .w1c, 0⟩, ⟨3, 1, .w1c, 0⟩, ⟨4, 1, .w1c, 0⟩, ⟨5, 1, .w1c, 0⟩, ⟨6, 1, .w1c, 0⟩, ⟨7, 1, .w1c, 0⟩, ⟨8, 4, .ro, 0⟩]⟩,
  ⟨0x80060008, [], [⟨0, 2, .ro, 0⟩, ⟨2, 9, .ro, 0⟩, ⟨11, 4, .ro, 0⟩, ⟨15, 2, .ro, 0⟩]⟩,
  ⟨0x8006000c, [], [⟨0, 19, .ro, 0⟩, ⟨19, 2, .ro, 0⟩]⟩,
  ⟨0x80060010, [(0x4, 4)], [⟨0, 18, .ro, 0⟩]⟩,
  ⟨0x80060020, [], [⟨0, 9, .ro, 0⟩, ⟨16, 16, .ro, 0⟩]⟩,
  ⟨0x80060030, [], [⟨0, 19, .rw, 0⟩]⟩,
  ⟨0x80060034, [], [⟨0, 32, .ro, 0⟩]⟩,
  ⟨0x80060038, [], [⟨0, 16, .ro, 0⟩, ⟨16, 3, .ro, 0⟩, ⟨19, 1, .ro, 0⟩, ⟨20, 1, .ro, 0⟩]⟩,
  ⟨0x80060800, [(0x4, 512)], [⟨0, 3, .rwp, 0⟩, ⟨4, 1, .rwp, 0⟩, ⟨5, 1, .rwp, 0⟩, ⟨8, 7, .rwp, 0⟩]⟩]

/-- The register words of the CLU block. -/
def tableCLU : List WordRow := [
  ⟨0x40f00000, [(0x10000000, 4), (0x1000000, 8), (0x4, 8)], [⟨0, 4, .rw, 0xa⟩, ⟨4, 2, .rw, 0⟩, ⟨8, 1, .ro, 0⟩]⟩,
  ⟨0x40f00040, [(0x10000000, 4), (0x1000000, 8)], [⟨0, 16, .rw, 0x1000⟩]⟩,
  ⟨0x40f00044, [(0x10000000, 4), (0x1000000, 8)], [⟨0, 16, .ro, 0xffff⟩, ⟨16, 5, .ro, 0⟩, ⟨24, 1, .w1c, 0⟩, ⟨25, 1, .w1c, 0⟩, ⟨26, 1, .w1c, 0⟩]⟩,
  ⟨0x40f00048, [(0x10000000, 4), (0x1000000, 8)], [⟨0, 6, .ro, 0⟩, ⟨6, 4, .ro, 0⟩, ⟨10, 2, .ro, 0⟩, ⟨12, 16, .ro, 0⟩]⟩,
  ⟨0x40f00100, [(0x10000000, 4), (0x1000000, 8), (0x10, 32)], [⟨0, 32, .rwp, 0⟩]⟩,
  ⟨0x40f00104, [(0x10000000, 4), (0x1000000, 8), (0x10, 32)], [⟨0, 32, .rwp, 0⟩]⟩,
  ⟨0x40f00108, [(0x10000000, 4), (0x1000000, 8), (0x10, 32)], [⟨0, 8, .rwp, 0⟩, ⟨8, 8, .rwp, 0⟩]⟩,
  ⟨0x40f0010c, [(0x10000000, 4), (0x1000000, 8), (0x10, 32)], [⟨0, 16, .rwp, 0⟩, ⟨16, 2, .rwp, 0⟩, ⟨31, 1, .rwp, 0⟩]⟩]

/-- The register words of the DRC block. -/
def tableDRC : List WordRow := [
  ⟨0x800f0000, [], [⟨0, 3, .rw, 0⟩, ⟨4, 2, .rw, 0⟩, ⟨8, 1, .rw, 0⟩, ⟨9, 1, .rw, 0⟩, ⟨31, 1, .rw, 0⟩]⟩,
  ⟨0x800f0004, [], [⟨0, 1, .ro, 0⟩, ⟨1, 1, .ro, 0⟩, ⟨4, 3, .ro, 0⟩, ⟨8, 4, .ro, 0⟩]⟩,
  ⟨0x800f0008, [], [⟨0, 4, .rw, 8⟩, ⟨4, 1, .rw, 1⟩]⟩,
  ⟨0x800f000c, [], [⟨0, 32, .ro, 0⟩]⟩,
  ⟨0x800f0010, [], [⟨0, 8, .ro, 0⟩, ⟨8, 4, .ro, 0⟩]⟩,
  ⟨0x800f0020, [], [⟨0, 16, .ro, 0⟩, ⟨16, 16, .ro, 0⟩]⟩,
  ⟨0x800f0100, [], [⟨0, 1, .rwl, 1⟩, ⟨1, 1, .rw, 0⟩]⟩,
  ⟨0x800f0104, [], [⟨0, 16, .ro, 0⟩, ⟨16, 1, .ro, 0⟩, ⟨17, 1, .w1c, 0⟩]⟩,
  ⟨0x800f0108, [], [⟨0, 32, .ro, 0⟩]⟩,
  ⟨0x800f010c, [], [⟨0, 8, .ro, 0⟩]⟩]

/-- The register words of the CELL block. -/
def tableCELL : List WordRow := [
  ⟨0x40f01000, [(0x10000000, 4), (0x1000000, 8), (0x400, 8)], [⟨0, 1, .rw, 1⟩, ⟨1, 1, .wo, 0⟩]⟩,
  ⟨0x40f01004, [(0x10000000, 4), (0x1000000, 8), (0x400, 8)], [⟨0, 1, .ro, 1⟩, ⟨1, 1, .w1c, 0⟩, ⟨2, 1, .w1c, 0⟩, ⟨3, 1, .w1c, 0⟩, ⟨4, 1, .w1c, 0⟩, ⟨5, 1, .w1c, 0⟩, ⟨6, 1, .w1c, 0⟩, ⟨7, 1, .w1c, 0⟩, ⟨8, 1, .w1c, 0⟩, ⟨9, 5, .ro, 0⟩, ⟨14, 1, .ro, 0⟩]⟩,
  ⟨0x40f01008, [(0x10000000, 4), (0x1000000, 8), (0x400, 8)], [⟨0, 18, .ro, 0⟩]⟩,
  ⟨0x40f0100c, [(0x10000000, 4), (0x1000000, 8), (0x400, 8)], [⟨0, 18, .ro, 0⟩, ⟨31, 1, .wo, 0⟩]⟩,
  ⟨0x40f01010, [(0x10000000, 4), (0x1000000, 8), (0x400, 8)], [⟨0, 4, .ro, 0⟩, ⟨4, 5, .ro, 0⟩, ⟨9, 12, .ro, 0⟩]⟩,
  ⟨0x40f01014, [(0x10000000, 4), (0x1000000, 8), (0x400, 8)], [⟨0, 2, .rw, 0⟩]⟩,
  ⟨0x40f01018, [(0x10000000, 4), (0x1000000, 8), (0x400, 8)], [⟨0, 24, .ro, 0⟩]⟩,
  ⟨0x40f01100, [(0x10000000, 4), (0x1000000, 8), (0x400, 8), (0x10, 32)], [⟨0, 12, .rw, 0⟩, ⟨12, 1, .rw, 0⟩, ⟨13, 1, .rw, 0⟩, ⟨31, 1, .rw, 0⟩]⟩,
  ⟨0x40f01104, [(0x10000000, 4), (0x1000000, 8), (0x400, 8), (0x10, 32)], [⟨0, 18, .rw, 0⟩]⟩,
  ⟨0x40f01108, [(0x10000000, 4), (0x1000000, 8), (0x400, 8), (0x10, 32)], [⟨0, 13, .rw, 0⟩, ⟨13, 1, .rw, 0⟩, ⟨16, 12, .rw, 0⟩]⟩,
  ⟨0x40f01300, [(0x10000000, 4), (0x1000000, 8), (0x400, 8), (0x4, 64)], [⟨0, 14, .rw, 0⟩, ⟨31, 1, .rw, 0⟩]⟩,
  ⟨0x40f0110c, [(0x10000000, 4), (0x1000000, 8), (0x400, 8), (0x10, 32)], []⟩]

/-- The register words of the GYS block. -/
def tableGYS : List WordRow := [
  ⟨0x80050000, [], [⟨0, 17, .rw, 0x1000⟩]⟩,
  ⟨0x80050004, [], [⟨0, 17, .ro, 0x10000⟩, ⟨17, 1, .w1c, 0⟩, ⟨18, 1, .w1c, 0⟩, ⟨19, 1, .w1c, 0⟩, ⟨20, 1, .w1c, 0⟩, ⟨21, 1, .w1c, 0⟩, ⟨22, 1, .w1c, 0⟩]⟩,
  ⟨0x80050008, [], [⟨0, 21, .ro, 0⟩, ⟨21, 3, .ro, 0⟩]⟩,
  ⟨0x80050010, [], [⟨0, 21, .rw, 0⟩]⟩,
  ⟨0x80050014, [], [⟨0, 32, .ro, 0⟩]⟩,
  ⟨0x80050018, [], [⟨0, 16, .ro, 0⟩, ⟨16, 3, .ro, 0⟩, ⟨19, 1, .ro, 0⟩, ⟨20, 1, .ro, 0⟩, ⟨21, 1, .ro, 0⟩]⟩,
  ⟨0x80050020, [], [⟨0, 8, .ro, 0⟩, ⟨8, 8, .ro, 0⟩, ⟨16, 2, .ro, 0⟩]⟩,
  ⟨0x80050040, [(0x20, 4)], [⟨0, 1, .wo, 0⟩, ⟨1, 1, .wo, 0⟩, ⟨2, 1, .rw, 0⟩, ⟨3, 1, .ro, 0⟩, ⟨4, 4, .rw, 0⟩, ⟨8, 3, .ro, 0⟩, ⟨12, 4, .ro, 0⟩]⟩,
  ⟨0x80050044, [(0x20, 4)], [⟨0, 32, .rw, 0⟩]⟩,
  ⟨0x80050048, [(0x20, 4)], [⟨0, 32, .rw, 0⟩]⟩,
  ⟨0x8005004c, [(0x20, 4)], [⟨0, 32, .rw, 0⟩]⟩,
  ⟨0x80050050, [(0x20, 4)], [⟨0, 32, .rw, 0⟩]⟩,
  ⟨0x80050054, [(0x20, 4)], [⟨0, 32, .ro, 0⟩]⟩,
  ⟨0x80050058, [(0x20, 4)], [⟨0, 32, .ro, 0⟩]⟩,
  ⟨0x80050100, [(0x4, 64)], [⟨0, 2, .rw, 0⟩, ⟨2, 2, .rw, 0⟩, ⟨4, 2, .rw, 0⟩, ⟨6, 2, .rw, 0⟩, ⟨8, 2, .rw, 0⟩, ⟨10, 2, .rw, 0⟩, ⟨12, 2, .rw, 0⟩, ⟨14, 2, .rw, 0⟩, ⟨16, 2, .rw, 0⟩, ⟨18, 2, .rw, 0⟩, ⟨20, 2, .rw, 0⟩, ⟨22, 2, .rw, 0⟩, ⟨24, 2, .rw, 0⟩, ⟨26, 2, .rw, 0⟩, ⟨28, 2, .rw, 0⟩, ⟨30, 2, .rw, 0⟩]⟩,
  ⟨0x80051000, [(0x10, 256)], [⟨0, 23, .rw, 0⟩]⟩,
  ⟨0x80051004, [(0x10, 256)], [⟨0, 20, .rw, 0⟩]⟩,
  ⟨0x80051008, [(0x10, 256)], [⟨0, 32, .rw, 0⟩]⟩,
  ⟨0x8005100c, [(0x10, 256)], [⟨0, 8, .rw, 0⟩, ⟨8, 1, .rw, 0⟩, ⟨9, 1, .wo, 0⟩, ⟨10, 1, .wo, 0⟩, ⟨12, 3, .ro, 0⟩, ⟨15, 1, .ro, 0⟩, ⟨16, 4, .ro, 0⟩]⟩,
  ⟨0x8005005c, [(0x20, 4)], []⟩]

/-- The register words of the CNV block. -/
def tableCNV0 : List WordRow := [
  ⟨0x80070100, [(0x40, 32)], [⟨0, 1, .rw, 0⟩, ⟨1, 3, .rw, 0⟩, ⟨4, 3, .rw, 0⟩]⟩,
  ⟨0x80070104, [(0x40, 32)], [⟨0, 3, .ro, 0⟩, ⟨3, 1, .ro, 0⟩, ⟨4, 2, .ro, 0⟩, ⟨6, 1, .w1c, 0⟩, ⟨7, 1, .w1c, 0⟩, ⟨8, 5, .ro, 0⟩]⟩,
  ⟨0x80070108, [(0x40, 32)], [⟨0, 32, .ro, 0⟩]⟩,
  ⟨0x8007010c, [(0x40, 32)], [⟨0, 6, .ro, 0⟩]⟩,
  ⟨0x80070110, [(0x40, 32)], [⟨0, 3, .ro, 0⟩, ⟨3, 2, .ro, 0⟩]⟩,
  ⟨0x80071000, [(0x10, 256)], [⟨0, 14, .rw, 0⟩, ⟨31, 1, .wo, 0⟩]⟩,
  ⟨0x80071004, [(0x10, 256)], [⟨0, 24, .ro, 0x800000⟩]⟩,
  ⟨0x80071008, [(0x10, 256)], [⟨0, 24, .ro, 0x800000⟩]⟩,
  ⟨0x8007100c, [(0x10, 256)], [⟨0, 24, .ro, 0x800000⟩]⟩,
  ⟨0x80073000, [], [⟨0, 16, .ro, 0⟩, ⟨16, 1, .w1c, 0⟩, ⟨17, 1, .w1c, 0⟩, ⟨18, 1, .w1c, 0⟩]⟩,
  ⟨0x80073004, [], [⟨0, 16, .rw, 0⟩, ⟨16, 8, .rw, 1⟩, ⟨24, 1, .rw, 0⟩, ⟨25, 1, .rw, 0⟩]⟩,
  ⟨0x80073008, [], [⟨0, 32, .rw, 0⟩]⟩,
  ⟨0x8007300c, [], [⟨0, 32, .rw, 0⟩]⟩,
  ⟨0x80073010, [], [⟨0, 12, .wo, 0⟩, ⟨16, 1, .wo, 0⟩, ⟨17, 1, .wo, 0⟩, ⟨31, 1, .wo, 0⟩]⟩,
  ⟨0x80073014, [], [⟨0, 12, .rw, 0⟩, ⟨16, 6, .rw, 0⟩]⟩,
  ⟨0x80073040, [(0x4, 8)], [⟨0, 32, .ro, 0⟩]⟩,
  ⟨0x80073060, [(0x4, 4)], [⟨0, 32, .ro, 0⟩]⟩,
  ⟨0x80073100, [(0x10, 16)], [⟨0, 12, .rwp, 0x12c⟩, ⟨12, 5, .rwp, 2⟩, ⟨17, 5, .rwp, 0xe⟩]⟩,
  ⟨0x80073104, [(0x10, 16)], [⟨0, 16, .rwp, 0x2ee0⟩, ⟨16, 16, .rwp, 0xe⟩]⟩,
  ⟨0x80073108, [(0x10, 16)], [⟨0, 24, .rwp, 0xffff00⟩, ⟨24, 4, .rwp, 3⟩]⟩]

/-- The register words of the CNV block. -/
def tableCNV1 : List WordRow := [
  ⟨0x8007310c, [(0x10, 16)], [⟨0, 1, .rwp, 1⟩]⟩,
  ⟨0x80078000, [(0x8, 4096)], [⟨0, 32, .ro, 0⟩]⟩,
  ⟨0x80078004, [(0x8, 4096)], [⟨0, 6, .rwp, 0⟩, ⟨6, 1, .rwp, 0⟩, ⟨7, 2, .rwp, 0⟩]⟩]

/-- The register words of the AP block. -/
def tableAP : List WordRow := [
  ⟨0x80080000, [], [⟨0, 1, .wo, 0⟩, ⟨1, 1, .rw, 0⟩, ⟨2, 1, .rw, 0⟩, ⟨3, 1, .rw, 0⟩]⟩,
  ⟨0x80080004, [], [⟨0, 32, .rw, 0⟩]⟩,
  ⟨0x80080008, [], [⟨0, 32, .rw, 0⟩]⟩,
  ⟨0x8008000c, [], [⟨0, 1, .ro, 0⟩, ⟨1, 1, .w1c, 0⟩]⟩,
  ⟨0x80080100, [(0x40, 16)], [⟨0, 2, .rw, 0⟩, ⟨2, 1, .rw, 0⟩, ⟨3, 1, .rw, 0⟩, ⟨4, 2, .rw, 0⟩, ⟨6, 1, .rw, 1⟩]⟩,
  ⟨0x80080104, [(0x40, 16)], [⟨0, 1, .rw, 0⟩, ⟨1, 1, .rw, 0⟩]⟩,
  ⟨0x80080108, [(0x40, 16)], [⟨0, 2, .ro, 0⟩, ⟨2, 1, .ro, 0⟩, ⟨3, 1, .ro, 0⟩, ⟨4, 1, .w1c, 0⟩, ⟨5, 1, .w1c, 0⟩, ⟨6, 1, .w1c, 0⟩, ⟨7, 1, .w1c, 0⟩, ⟨16, 7, .ro, 0⟩]⟩,
  ⟨0x8008010c, [(0x40, 16)], [⟨0, 16, .rw, 0⟩, ⟨16, 8, .rw, 0x20⟩]⟩,
  ⟨0x80080110, [(0x40, 16)], [⟨0, 16, .rw, 0xffff⟩, ⟨16, 16, .rw, 0xffff⟩]⟩,
  ⟨0x80080114, [(0x40, 16)], [⟨0, 8, .rwl, 0xff⟩]⟩,
  ⟨0x80080118, [(0x40, 16)], [⟨0, 8, .ro, 0⟩]⟩,
  ⟨0x80081000, [(0x4, 256)], [⟨0, 32, .ro, 0⟩]⟩]

/-- The register words of the VNT block. -/
def tableVNT : List WordRow := [
  ⟨0x80090000, [], [⟨0, 1, .rwl, 1⟩, ⟨1, 1, .rwl, 0⟩, ⟨16, 16, .rwl, 0x1770⟩]⟩,
  ⟨0x80090004, [], [⟨0, 1, .rwl, 0⟩]⟩,
  ⟨0x80090008, [], [⟨0, 1, .ro, 0⟩, ⟨1, 1, .ro, 0⟩, ⟨2, 1, .ro, 0⟩, ⟨3, 1, .ro, 0⟩, ⟨4, 1, .ro, 0⟩, ⟨5, 1, .ro, 0⟩, ⟨6, 1, .w1c, 0⟩, ⟨7, 1, .w1c, 0⟩]⟩,
  ⟨0x80090100, [(0x10, 64)], [⟨0, 32, .ro, 0⟩]⟩,
  ⟨0x80090104, [(0x10, 64)], [⟨0, 32, .ro, 0⟩]⟩,
  ⟨0x80090108, [(0x10, 64)], [⟨0, 1, .ro, 0⟩, ⟨1, 1, .ro, 0⟩, ⟨2, 1, .ro, 0⟩]⟩,
  ⟨0x8009010c, [(0x10, 64)], []⟩]

/-- The register words of the NET block. -/
def tableNET : List WordRow := [
  ⟨0x800a0000, [(0x4000, 4)], [⟨0, 1, .rw, 0⟩, ⟨1, 1, .rw, 0⟩, ⟨2, 1, .rw, 0⟩, ⟨3, 1, .rw, 0⟩, ⟨4, 1, .rw, 1⟩, ⟨5, 1, .rw, 0⟩, ⟨6, 1, .rw, 0⟩, ⟨16, 14, .rw, 0x5f2⟩]⟩,
  ⟨0x800a0004, [(0x4000, 4)], [⟨0, 1, .ro, 0⟩, ⟨1, 1, .ro, 0⟩, ⟨2, 1, .ro, 0⟩, ⟨3, 1, .ro, 0⟩, ⟨4, 1, .ro, 0⟩, ⟨5, 1, .ro, 0⟩, ⟨6, 1, .w1c, 0⟩, ⟨7, 1, .w1c, 0⟩, ⟨8, 1, .w1c, 0⟩, ⟨9, 1, .w1c, 0⟩]⟩,
  ⟨0x800a0008, [(0x4000, 4)], [⟨0, 32, .rw, 0⟩]⟩,
  ⟨0x800a000c, [(0x4000, 4)], [⟨0, 16, .rw, 0⟩]⟩,
  ⟨0x800a0010, [(0x4000, 4), (0x8, 16)], [⟨0, 32, .rw, 0⟩]⟩,
  ⟨0x800a0014, [(0x4000, 4), (0x8, 16)], [⟨0, 16, .rw, 0⟩, ⟨31, 1, .rw, 0⟩]⟩,
  ⟨0x800a0090, [(0x4000, 4)], [⟨0, 16, .rw, 0⟩, ⟨16, 16, .rw, 0⟩]⟩,
  ⟨0x800a0094, [(0x4000, 4)], [⟨0, 16, .ro, 0⟩, ⟨16, 16, .ro, 0⟩]⟩,
  ⟨0x800a0098, [(0x4000, 4)], [⟨0, 16, .ro, 0⟩, ⟨16, 16, .ro, 0⟩]⟩,
  ⟨0x800a009c, [(0x4000, 4)], [⟨0, 16, .ro, 0⟩, ⟨16, 16, .ro, 0⟩]⟩,
  ⟨0x800a00a0, [(0x4000, 4)], [⟨0, 17, .ro, 0⟩]⟩,
  ⟨0x800a00a4, [(0x4000, 4)], [⟨0, 17, .rw, 0⟩]⟩,
  ⟨0x800a00a8, [(0x4000, 4)], [⟨0, 17, .rw, 0⟩]⟩,
  ⟨0x800a00ac, [(0x4000, 4)], [⟨0, 17, .ro, 0⟩]⟩,
  ⟨0x800a00b0, [(0x4000, 4)], [⟨0, 32, .ro, 0⟩]⟩,
  ⟨0x800a00b4, [(0x4000, 4)], [⟨0, 16, .ro, 0⟩, ⟨16, 1, .ro, 0⟩, ⟨31, 1, .ro, 0⟩]⟩]

/-- The register words of the STM block. -/
def tableSTM : List WordRow := [
  ⟨0x800b0000, [], [⟨0, 32, .rwp, 0⟩]⟩,
  ⟨0x800b0004, [], [⟨0, 11, .ro, 0⟩, ⟨16, 11, .ro, 0⟩]⟩,
  ⟨0x800b0008, [], [⟨0, 7, .ro, 0⟩, ⟨7, 1, .ro, 0⟩, ⟨8, 4, .ro, 0⟩]⟩,
  ⟨0x800b1000, [(0x20, 128)], [⟨0, 1, .rw, 0⟩, ⟨1, 1, .rw, 0⟩, ⟨2, 3, .rw, 1⟩, ⟨5, 1, .rw, 1⟩, ⟨6, 1, .rw, 0⟩, ⟨7, 1, .rw, 1⟩, ⟨8, 2, .rw, 0⟩, ⟨10, 7, .rw, 0⟩, ⟨17, 10, .rw, 0⟩, ⟨27, 3, .ro, 0⟩]⟩,
  ⟨0x800b1004, [(0x20, 128)], [⟨0, 6, .rw, 0⟩]⟩,
  ⟨0x800b1008, [(0x20, 128)], [⟨0, 32, .rw, 0⟩]⟩,
  ⟨0x800b100c, [(0x20, 128)], [⟨0, 16, .rw, 0⟩, ⟨16, 12, .rw, 0⟩]⟩,
  ⟨0x800b1010, [(0x20, 128)], [⟨0, 32, .rw, 0⟩]⟩,
  ⟨0x800b1014, [(0x20, 128)], [⟨0, 32, .rw, 0⟩]⟩,
  ⟨0x800b1018, [(0x20, 128)], [⟨0, 16, .rw, 0⟩, ⟨16, 7, .rw, 0⟩]⟩,
  ⟨0x800b101c, [(0x20, 128)], [⟨0, 11, .rw, 0x18⟩]⟩,
  ⟨0x800b2000, [(0x10, 128)], [⟨0, 1, .rw, 0⟩, ⟨1, 2, .rw, 0⟩, ⟨3, 1, .rw, 1⟩, ⟨4, 1, .rw, 0⟩, ⟨5, 1, .rw, 0⟩, ⟨6, 1, .rw, 0⟩, ⟨7, 2, .rw, 0⟩, ⟨9, 7, .rw, 0⟩, ⟨16, 2, .ro, 0⟩]⟩,
  ⟨0x800b2004, [(0x10, 128)], [⟨0, 16, .rw, 0⟩, ⟨16, 16, .rw, 0⟩]⟩,
  ⟨0x800b2008, [(0x10, 128)], [⟨0, 16, .ro, 0⟩]⟩,
  ⟨0x800b3000, [(0x10, 128)], [⟨0, 16, .ro, 0⟩, ⟨16, 16, .ro, 0⟩]⟩,
  ⟨0x800b3004, [(0x10, 128)], [⟨0, 16, .ro, 0⟩, ⟨16, 16, .ro, 0⟩]⟩,
  ⟨0x800b3008, [(0x10, 128)], [⟨0, 16, .ro, 0⟩, ⟨16, 16, .ro, 0⟩]⟩,
  ⟨0x800b200c, [(0x10, 128)], []⟩,
  ⟨0x800b300c, [(0x10, 128)], []⟩]

/-- The register words of the LNK block. -/
def tableLNK : List WordRow := [
  ⟨0x800c0000, [], [⟨0, 2, .rw, 0⟩, ⟨2, 3, .rw, 0⟩, ⟨5, 2, .rw, 0⟩, ⟨7, 2, .rw, 0⟩, ⟨9, 1, .rw, 0⟩]⟩,
  ⟨0x800c0004, [], [⟨0, 3, .ro, 0⟩, ⟨3, 1, .ro, 1⟩, ⟨4, 1, .ro, 0⟩, ⟨5, 1, .ro, 0⟩, ⟨8, 8, .ro, 0⟩]⟩,
  ⟨0x800c0100, [(0x40, 4)], [⟨0, 1, .rw, 0⟩, ⟨1, 1, .rw, 1⟩]⟩,
  ⟨0x800c0104, [(0x40, 4)], [⟨0, 2, .ro, 0⟩, ⟨2, 1, .ro, 0⟩, ⟨3, 1, .ro, 0⟩, ⟨4, 1, .ro, 0⟩, ⟨5, 3, .ro, 0⟩, ⟨8, 1, .w1c, 0⟩, ⟨16, 16, .ro, 0⟩]⟩,
  ⟨0x800c0108, [(0x40, 4)], [⟨0, 16, .ro, 0⟩, ⟨16, 16, .ro, 0⟩]⟩,
  ⟨0x800c0200, [], [⟨0, 2, .rw, 0⟩, ⟨2, 1, .rw, 0⟩, ⟨3, 1, .rw, 1⟩, ⟨8, 8, .rw, 0x40⟩]⟩,
  ⟨0x800c0204, [], [⟨0, 32, .rw, 0x10000⟩]⟩,
  ⟨0x800c0208, [], [⟨0, 1, .wo, 0⟩]⟩,
  ⟨0x800c020c, [], [⟨0, 1, .ro, 0⟩, ⟨1, 1, .ro, 0⟩, ⟨2, 1, .ro, 0⟩, ⟨3, 1, .ro, 0⟩, ⟨4, 1, .ro, 0⟩, ⟨5, 1, .w1c, 0⟩, ⟨16, 16, .ro, 0⟩]⟩,
  ⟨0x800c1000, [(0x400, 4), (0x4, 256)], [⟨0, 2, .rwp, 0⟩, ⟨2, 14, .rwp, 0⟩]⟩,
  ⟨0x800c2000, [(0x80, 4), (0x4, 32)], [⟨0, 9, .rwp, 0⟩, ⟨31, 1, .rwp, 0⟩]⟩]

/-- The register words of the SPARE block. -/
def tableSPARE : List WordRow := [
  ⟨0x40f03000, [(0x10000000, 4), (0x1000000, 8)], [⟨0, 1, .rw, 1⟩, ⟨1, 1, .rw, 1⟩]⟩,
  ⟨0x40f03004, [(0x10000000, 4), (0x1000000, 8)], [⟨0, 3, .ro, 0⟩, ⟨3, 4, .ro, 0xf⟩, ⟨7, 4, .ro, 0xf⟩, ⟨11, 8, .ro, 0⟩, ⟨19, 2, .ro, 0⟩]⟩,
  ⟨0x40f03008, [(0x10000000, 4), (0x1000000, 8)], [⟨0, 32, .rw, 0x10000⟩]⟩,
  ⟨0x40f0300c, [(0x10000000, 4), (0x1000000, 8)], [⟨0, 3, .ro, 0⟩, ⟨3, 5, .ro, 0⟩, ⟨8, 12, .ro, 0⟩, ⟨20, 2, .ro, 0⟩]⟩,
  ⟨0x40f03010, [(0x10000000, 4), (0x1000000, 8)], [⟨0, 16, .ro, 0⟩, ⟨16, 16, .ro, 0⟩]⟩,
  ⟨0x40f03014, [(0x10000000, 4), (0x1000000, 8)], [⟨0, 32, .ro, 0⟩]⟩]

/-- The register words of the FUM block. -/
def tableFUM : List WordRow := [
  ⟨0x800d0000, [], [⟨0, 2, .rwl, 0⟩, ⟨2, 2, .rwl, 0⟩, ⟨4, 2, .rwl, 2⟩, ⟨6, 2, .rwl, 1⟩, ⟨8, 1, .rwl, 0⟩, ⟨9, 2, .rwl, 1⟩, ⟨11, 2, .rwl, 2⟩, ⟨16, 8, .rwl, 0x40⟩]⟩,
  ⟨0x800d0004, [], [⟨0, 12, .rwl, 0x2b⟩, ⟨12, 4, .rwl, 6⟩, ⟨16, 16, .rwl, 0x60⟩]⟩,
  ⟨0x800d0008, [], [⟨0, 1, .wo, 0⟩, ⟨8, 1, .ro, 0⟩]⟩,
  ⟨0x800d000c, [], [⟨0, 1, .rw, 0⟩]⟩,
  ⟨0x800d0010, [], [⟨0, 1, .ro, 1⟩, ⟨1, 1, .ro, 0⟩, ⟨2, 1, .ro, 0⟩, ⟨3, 1, .ro, 0⟩, ⟨4, 10, .ro, 4⟩, ⟨14, 1, .ro, 0⟩, ⟨15, 1, .ro, 0⟩, ⟨16, 1, .w1c, 0⟩]⟩,
  ⟨0x800d0014, [], [⟨0, 32, .ro, 0⟩]⟩,
  ⟨0x800d0018, [], [⟨0, 8, .ro, 0⟩]⟩,
  ⟨0x800d001c, [], [⟨0, 32, .ro, 0⟩]⟩,
  ⟨0x800d0020, [], [⟨0, 9, .rw, 0⟩]⟩,
  ⟨0x800d0024, [], [⟨0, 1, .ro, 0⟩, ⟨1, 1, .ro, 0⟩, ⟨2, 1, .ro, 0⟩, ⟨3, 3, .ro, 0⟩]⟩,
  ⟨0x800d0028, [], [⟨0, 24, .ro, 0⟩]⟩,
  ⟨0x800d002c, [], [⟨0, 16, .ro, 0⟩, ⟨16, 16, .ro, 0⟩]⟩,
  ⟨0x800d0040, [], [⟨0, 8, .ro, 0⟩, ⟨8, 6, .ro, 1⟩, ⟨14, 1, .ro, 0⟩, ⟨15, 1, .ro, 0⟩, ⟨16, 1, .wo, 0⟩, ⟨17, 1, .wo, 0⟩]⟩,
  ⟨0x800d1000, [(0x10, 64)], [⟨0, 32, .ro, 0⟩]⟩,
  ⟨0x800d1004, [(0x10, 64)], [⟨0, 32, .ro, 0⟩]⟩,
  ⟨0x800d1008, [(0x10, 64)], [⟨0, 32, .ro, 0⟩]⟩,
  ⟨0x800d100c, [(0x10, 64)], [⟨0, 32, .ro, 0⟩]⟩]

/-- The register words of the CLK block. -/
def tableCLK0 : List WordRow := [
  ⟨0x80000000, [], [⟨0, 2, .rw, 0⟩, ⟨2, 2, .rw, 0⟩]⟩,
  ⟨0x80000004, [], [⟨0, 16, .rw, 0x40⟩]⟩,
  ⟨0x80000008, [], [⟨0, 24, .rw, 0⟩]⟩,
  ⟨0x8000000c, [], [⟨0, 1, .wo, 0⟩, ⟨1, 1, .wo, 0⟩, ⟨2, 2, .rw, 1⟩]⟩,
  ⟨0x80000010, [], [⟨0, 3, .ro, 0⟩, ⟨3, 2, .ro, 0⟩, ⟨5, 1, .ro, 0⟩, ⟨6, 1, .w1c, 0⟩, ⟨7, 1, .ro, 0⟩, ⟨8, 1, .ro, 0⟩, ⟨9, 1, .ro, 0⟩, ⟨10, 2, .ro, 0⟩]⟩,
  ⟨0x80000014, [], [⟨0, 32, .ro, 0⟩]⟩,
  ⟨0x80000018, [], [⟨0, 5, .ro, 0⟩, ⟨16, 12, .ro, 0⟩]⟩,
  ⟨0x8000001c, [], [⟨0, 10, .rw, 0xc8⟩]⟩,
  ⟨0x80000020, [], [⟨0, 2, .rw, 0⟩, ⟨2, 2, .rw, 0⟩]⟩,
  ⟨0x80000030, [], [⟨0, 4, .rw, 0⟩, ⟨16, 11, .rw, 0x7d0⟩]⟩,
  ⟨0x80000040, [(0x10, 8)], [⟨0, 16, .rw, 0⟩]⟩,
  ⟨0x80000044, [(0x10, 8)], [⟨0, 24, .rw, 0⟩]⟩,
  ⟨0x80000048, [(0x10, 8)], [⟨0, 11, .rw, 0x7d0⟩]⟩,
  ⟨0x800000c0, [(0x4, 6)], [⟨0, 32, .rw, 0⟩]⟩,
  ⟨0x80000100, [], [⟨0, 16, .rw, 0x400⟩]⟩,
  ⟨0x80000104, [], [⟨0, 10, .rw, 0⟩, ⟨12, 2, .rw, 0⟩, ⟨31, 1, .wo, 0⟩]⟩,
  ⟨0x80000108, [], [⟨0, 1, .ro, 0⟩, ⟨1, 1, .w1c, 0⟩, ⟨2, 1, .w1c, 0⟩, ⟨3, 1, .ro, 0⟩]⟩,
  ⟨0x80000110, [], [⟨0, 22, .ro, 0⟩]⟩,
  ⟨0x80000114, [], [⟨0, 1, .ro, 0⟩, ⟨1, 1, .ro, 0⟩]⟩,
  ⟨0x80000118, [], [⟨0, 4, .ro, 0⟩]⟩]

/-- The register words of the CLK block. -/
def tableCLK1 : List WordRow := [
  ⟨0x8000011c, [], [⟨0, 12, .ro, 0x672⟩]⟩,
  ⟨0x8000004c, [(0x10, 8)], []⟩]

/-- The register words of the REF block. -/
def tableREF0 : List WordRow := [
  ⟨0x80010000, [], [⟨0, 1, .rw, 0⟩, ⟨1, 2, .rw, 1⟩, ⟨3, 1, .rw, 1⟩, ⟨4, 10, .rw, 0x32⟩, ⟨14, 8, .rw, 0x14⟩, ⟨22, 9, .rw, 0xa⟩]⟩,
  ⟨0x80010004, [], [⟨0, 8, .rw, 0xa⟩, ⟨8, 8, .rw, 0x14⟩, ⟨16, 8, .rw, 0xa⟩, ⟨24, 8, .rw, 0x14⟩]⟩,
  ⟨0x80010008, [], [⟨0, 1, .rw, 0⟩, ⟨1, 1, .rw, 0⟩, ⟨2, 1, .rw, 0⟩, ⟨3, 1, .rw, 1⟩, ⟨16, 16, .rw, 0x1770⟩]⟩,
  ⟨0x8001000c, [], [⟨0, 1, .rw, 0⟩, ⟨1, 3, .rw, 0⟩, ⟨8, 1, .wo, 0⟩]⟩,
  ⟨0x80010010, [], [⟨0, 3, .ro, 7⟩, ⟨3, 1, .ro, 0⟩, ⟨4, 1, .ro, 0⟩, ⟨5, 1, .ro, 0⟩, ⟨6, 1, .ro, 0⟩, ⟨7, 1, .ro, 0⟩, ⟨8, 1, .w1c, 0⟩, ⟨9, 1, .w1c, 0⟩]⟩,
  ⟨0x80010014, [], [⟨0, 32, .rw, 0⟩]⟩,
  ⟨0x80010018, [], [⟨0, 32, .ro, 0⟩]⟩,
  ⟨0x8001001c, [], [⟨0, 32, .ro, 0⟩]⟩,
  ⟨0x80010040, [], [⟨0, 1, .rw, 1⟩, ⟨1, 4, .rw, 8⟩, ⟨5, 4, .rw, 0⟩, ⟨9, 1, .rw, 0⟩]⟩,
  ⟨0x80010050, [], [⟨0, 1, .rw, 0⟩, ⟨1, 4, .rw, 8⟩, ⟨5, 4, .rw, 1⟩, ⟨9, 1, .rw, 0⟩]⟩,
  ⟨0x80010060, [], [⟨0, 1, .rw, 0⟩, ⟨1, 4, .rw, 8⟩, ⟨5, 4, .rw, 2⟩, ⟨9, 1, .rw, 0⟩]⟩,
  ⟨0x80010070, [], [⟨0, 1, .rw, 0⟩, ⟨1, 4, .rw, 8⟩, ⟨5, 4, .rw, 3⟩, ⟨9, 1, .rw, 0⟩]⟩,
  ⟨0x80010080, [], [⟨0, 1, .rw, 0⟩, ⟨1, 4, .rw, 8⟩, ⟨5, 4, .rw, 4⟩, ⟨9, 1, .rw, 0⟩]⟩,
  ⟨0x80010090, [], [⟨0, 1, .rw, 0⟩, ⟨1, 4, .rw, 8⟩, ⟨5, 4, .rw, 5⟩, ⟨9, 1, .rw, 0⟩]⟩,
  ⟨0x80010044, [(0x10, 6)], [⟨0, 3, .ro, 0⟩, ⟨3, 3, .ro, 0⟩, ⟨6, 1, .ro, 0⟩, ⟨16, 16, .ro, 0⟩]⟩,
  ⟨0x80010048, [(0x10, 6)], [⟨0, 32, .ro, 0⟩]⟩,
  ⟨0x8001004c, [(0x10, 6)], [⟨0, 8, .ro, 0⟩]⟩,
  ⟨0x80010100, [(0x40, 2)], [⟨0, 32, .ro, 0⟩]⟩,
  ⟨0x80010104, [(0x40, 2)], [⟨0, 16, .ro, 0⟩]⟩,
  ⟨0x80010108, [(0x40, 2)], [⟨0, 30, .ro, 0⟩]⟩]

/-- The register words of the REF block. -/
def tableREF1 : List WordRow := [
  ⟨0x8001010c, [(0x40, 2)], [⟨0, 32, .ro, 0⟩]⟩,
  ⟨0x80010110, [(0x40, 2)], [⟨0, 32, .rw, 0x16155555⟩]⟩,
  ⟨0x80010114, [(0x40, 2)], [⟨0, 8, .rw, 5⟩]⟩,
  ⟨0x80010118, [(0x40, 2)], [⟨0, 32, .rw, 0⟩]⟩,
  ⟨0x8001011c, [(0x40, 2)], [⟨0, 16, .rw, 0⟩]⟩,
  ⟨0x80010120, [(0x40, 2)], [⟨0, 30, .rw, 0⟩]⟩,
  ⟨0x80010124, [(0x40, 2)], [⟨0, 32, .rw, 0⟩]⟩,
  ⟨0x80010128, [(0x40, 2)], [⟨0, 1, .wo, 0⟩, ⟨1, 1, .wo, 0⟩]⟩,
  ⟨0x80010200, [], [⟨0, 1, .wo, 0⟩, ⟨1, 1, .ro, 0⟩, ⟨2, 1, .w1c, 0⟩]⟩,
  ⟨0x80010204, [], [⟨0, 32, .ro, 0⟩]⟩,
  ⟨0x80010208, [], [⟨0, 32, .ro, 0⟩]⟩,
  ⟨0x8001020c, [], [⟨0, 32, .ro, 0⟩]⟩,
  ⟨0x80010210, [], [⟨0, 16, .ro, 0⟩]⟩,
  ⟨0x80010214, [], [⟨0, 30, .ro, 0⟩]⟩,
  ⟨0x80010218, [], [⟨0, 32, .ro, 0⟩]⟩,
  ⟨0x8001021c, [], [⟨0, 16, .ro, 0⟩]⟩,
  ⟨0x80010220, [], [⟨0, 30, .ro, 0⟩]⟩,
  ⟨0x80010224, [], [⟨0, 32, .ro, 0⟩]⟩,
  ⟨0x80010228, [], [⟨0, 32, .ro, 0⟩]⟩,
  ⟨0x80010300, [], [⟨0, 1, .rw, 1⟩, ⟨1, 1, .rw, 0⟩, ⟨2, 1, .rw, 0⟩, ⟨3, 1, .ro, 0⟩, ⟨4, 10, .rw, 0x64⟩]⟩]

/-- The register words of the FAB block. -/
def tableFAB : List WordRow := [
  ⟨0x80030000, [], [⟨0, 1, .rw, 0⟩, ⟨1, 1, .ro, 0⟩]⟩,
  ⟨0x80030004, [], [⟨0, 1, .w1c, 0⟩, ⟨1, 1, .w1c, 0⟩, ⟨2, 1, .w1c, 0⟩, ⟨3, 1, .w1c, 0⟩, ⟨4, 1, .w1c, 0⟩, ⟨5, 1, .w1c, 0⟩, ⟨6, 1, .ro, 0⟩, ⟨7, 1, .w1c, 0⟩, ⟨8, 1, .w1c, 0⟩, ⟨9, 1, .w1c, 0⟩]⟩,
  ⟨0x80030008, [], [⟨0, 16, .rwl, 0x1000⟩]⟩,
  ⟨0x8003000c, [], [⟨0, 32, .ro, 0⟩]⟩,
  ⟨0x80030010, [(0x4, 6)], [⟨0, 16, .rw, 0x1000⟩]⟩,
  ⟨0x80030030, [], [⟨0, 32, .ro, 0⟩]⟩,
  ⟨0x80030034, [], [⟨0, 8, .ro, 0⟩, ⟨8, 3, .ro, 0⟩, ⟨11, 4, .ro, 0⟩, ⟨15, 3, .ro, 0⟩]⟩,
  ⟨0x80030038, [], [⟨0, 32, .ro, 0⟩]⟩,
  ⟨0x8003003c, [], [⟨0, 8, .ro, 0⟩, ⟨8, 3, .ro, 0⟩, ⟨11, 5, .ro, 0⟩, ⟨16, 5, .ro, 0⟩, ⟨21, 2, .ro, 0⟩]⟩,
  ⟨0x80030040, [], [⟨0, 1, .ro, 0⟩, ⟨1, 6, .ro, 0⟩, ⟨7, 1, .ro, 0⟩, ⟨8, 6, .ro, 0⟩]⟩,
  ⟨0x80030044, [], [⟨0, 3, .ro, 0⟩, ⟨3, 6, .ro, 0⟩, ⟨9, 2, .ro, 0⟩]⟩,
  ⟨0x80030050, [(0x4, 6)], [⟨0, 5, .ro, 0⟩, ⟨5, 1, .ro, 0⟩]⟩,
  ⟨0x80030070, [], [⟨0, 16, .ro, 0⟩, ⟨16, 16, .ro, 0⟩]⟩]

/-- The register words of the PWR block. -/
def tablePWR0 : List WordRow := [
  ⟨0x80020000, [], [⟨0, 2, .rw, 0⟩, ⟨31, 1, .wo, 0⟩]⟩,
  ⟨0x80020004, [], [⟨0, 2, .ro, 0⟩, ⟨2, 1, .ro, 0⟩, ⟨3, 1, .ro, 0⟩, ⟨4, 1, .w1c, 0⟩]⟩,
  ⟨0x80020008, [], [⟨0, 1, .rwl, 1⟩]⟩,
  ⟨0x8002000c, [], [⟨0, 1, .rw, 0⟩, ⟨1, 2, .rw, 1⟩, ⟨8, 1, .ro, 0⟩, ⟨9, 2, .ro, 1⟩]⟩,
  ⟨0x80020010, [], [⟨0, 3, .rw, 0⟩, ⟨4, 9, .rw, 0⟩, ⟨31, 1, .wo, 0⟩]⟩,
  ⟨0x80020014, [], [⟨0, 1, .ro, 0⟩, ⟨1, 1, .w1c, 0⟩, ⟨2, 1, .w1c, 0⟩, ⟨3, 3, .ro, 0⟩]⟩,
  ⟨0x80020018, [], [⟨0, 4, .ro, 0⟩, ⟨4, 4, .ro, 0⟩, ⟨16, 8, .ro, 0⟩]⟩,
  ⟨0x80020020, [], [⟨0, 10, .ro, 0⟩, ⟨16, 10, .w1c, 0⟩]⟩,
  ⟨0x80020024, [], [⟨0, 4, .ro, 0⟩, ⟨4, 2, .ro, 0⟩]⟩,
  ⟨0x80020030, [(0x4, 8)], [⟨0, 13, .ro, 0⟩, ⟨13, 1, .ro, 0⟩, ⟨14, 1, .ro, 0⟩]⟩,
  ⟨0x80020050, [], [⟨0, 13, .ro, 0x1000⟩]⟩,
  ⟨0x80020060, [], [⟨0, 3, .ro, 0⟩, ⟨3, 1, .ro, 0⟩, ⟨4, 4, .ro, 0⟩, ⟨8, 4, .ro, 0⟩, ⟨12, 2, .ro, 0⟩, ⟨15, 1, .ro, 0⟩, ⟨16, 6, .ro, 0⟩]⟩,
  ⟨0x80020064, [], [⟨0, 1, .wo, 0⟩]⟩,
  ⟨0x80020068, [], [⟨0, 32, .ro, 0⟩]⟩,
  ⟨0x80020100, [], [⟨0, 1, .rwl, 0⟩, ⟨1, 1, .rwl, 0⟩, ⟨2, 1, .rwl, 1⟩, ⟨8, 8, .rw, 0x10⟩]⟩,
  ⟨0x80020104, [], [⟨0, 1, .ro, 0⟩, ⟨1, 1, .w1c, 0⟩, ⟨2, 1, .ro, 0⟩, ⟨3, 1, .w1c, 0⟩, ⟨4, 1, .ro, 0⟩]⟩,
  ⟨0x80020110, [(0x4, 6)], [⟨0, 32, .ro, 0⟩]⟩,
  ⟨0x80020130, [(0x4, 6)], [⟨0, 32, .ro, 0⟩]⟩,
  ⟨0x80020150, [], [⟨0, 1, .ro, 0⟩, ⟨1, 1, .ro, 0⟩, ⟨2, 1, .ro, 0⟩, ⟨4, 4, .ro, 0⟩, ⟨8, 4, .ro, 0⟩]⟩,
  ⟨0x80020160, [], [⟨0, 8, .rw, 0⟩, ⟨8, 8, .rw, 0⟩]⟩]

/-- The register words of the PWR block. -/
def tablePWR1 : List WordRow := [
  ⟨0x80020164, [], [⟨0, 8, .rw, 0⟩]⟩,
  ⟨0x80020168, [], [⟨0, 8, .ro, 0⟩]⟩]

/-- The register words of the EVT block. -/
def tableEVT : List WordRow := [
  ⟨0x80040000, [(0x4, 8)], [⟨0, 32, .w1c, 0⟩]⟩,
  ⟨0x80040020, [(0x4, 8)], [⟨0, 32, .rw, 0⟩]⟩,
  ⟨0x80040040, [], [⟨0, 4, .rw, 0xf⟩]⟩,
  ⟨0x80040044, [], [⟨0, 16, .wo, 0⟩]⟩,
  ⟨0x80040048, [], [⟨0, 32, .ro, 0⟩]⟩,
  ⟨0x8004004c, [], [⟨0, 16, .ro, 0⟩, ⟨16, 4, .ro, 0⟩]⟩,
  ⟨0x80041000, [(0x4, 256)], [⟨0, 5, .rw, 0⟩, ⟨5, 1, .rw, 0⟩, ⟨6, 4, .rw, 0⟩, ⟨10, 1, .rw, 0⟩, ⟨11, 4, .rw, 0⟩]⟩]

/-- The register words of the HST block. -/
def tableHST : List WordRow := [
  ⟨0x800e0000, [], [⟨0, 1, .rw, 0⟩]⟩,
  ⟨0x800e0004, [], [⟨0, 1, .ro, 0⟩, ⟨1, 3, .ro, 0⟩, ⟨4, 3, .ro, 0⟩, ⟨7, 1, .ro, 0⟩, ⟨8, 1, .ro, 0⟩, ⟨9, 1, .w1c, 0⟩, ⟨10, 1, .w1c, 0⟩, ⟨11, 1, .w1c, 0⟩]⟩,
  ⟨0x800e0008, [], [⟨0, 5, .rw, 0⟩]⟩,
  ⟨0x800e000c, [], [⟨0, 32, .ro, 0⟩]⟩,
  ⟨0x800e0010, [], [⟨0, 8, .ro, 0⟩, ⟨8, 3, .ro, 0⟩, ⟨11, 2, .ro, 0⟩]⟩,
  ⟨0x800e0014, [], [⟨0, 16, .rw, 0⟩, ⟨16, 16, .rw, 0⟩]⟩,
  ⟨0x800e0040, [], [⟨0, 1, .rw, 0⟩, ⟨1, 1, .rw, 0⟩, ⟨2, 1, .wo, 0⟩]⟩,
  ⟨0x800e0044, [], [⟨0, 1, .ro, 0⟩, ⟨1, 1, .ro, 0⟩, ⟨2, 1, .ro, 0⟩, ⟨3, 19, .ro, 0⟩]⟩]

/-- The register words of the ID block. -/
def tableID : List WordRow := [
  ⟨0x80100000, [], [⟨0, 32, .ro, 0x2ce10a41⟩]⟩,
  ⟨0x80100004, [], [⟨0, 8, .ro, 0xb0⟩]⟩,
  ⟨0x80100008, [], [⟨0, 32, .ro, 0⟩]⟩,
  ⟨0x8010000c, [], [⟨0, 32, .ro, 0⟩]⟩,
  ⟨0x80100010, [], [⟨0, 4, .ro, 0⟩, ⟨4, 4, .ro, 0⟩, ⟨8, 1, .ro, 0⟩, ⟨9, 1, .ro, 0⟩]⟩,
  ⟨0x80100100, [(0x4, 32)], [⟨0, 32, .ro, 0⟩]⟩]

/-- The register words of the MGM block. -/
def tableMGM : List WordRow := [
  ⟨0x10000020000, [], [⟨0, 1, .ro, 0⟩, ⟨1, 1, .ro, 0⟩, ⟨2, 1, .ro, 1⟩, ⟨3, 1, .ro, 1⟩, ⟨4, 1, .w1c, 0⟩, ⟨5, 1, .ro, 0⟩, ⟨6, 1, .w1c, 0⟩]⟩,
  ⟨0x10000020010, [(0x4, 8)], [⟨0, 32, .ro, 0⟩]⟩,
  ⟨0x10000020030, [], [⟨0, 32, .ro, 0⟩]⟩,
  ⟨0x10000020034, [], [⟨0, 32, .ro, 0⟩]⟩,
  ⟨0x10000020038, [], [⟨0, 1, .wo, 0⟩, ⟨1, 1, .rw, 1⟩, ⟨2, 1, .ro, 0⟩, ⟨3, 1, .ro, 0⟩]⟩,
  ⟨0x10000020040, [], [⟨0, 6, .rw, 0⟩]⟩,
  ⟨0x10000020044, [], [⟨0, 32, .rw, 0⟩]⟩,
  ⟨0x10000020048, [], [⟨0, 1, .wo, 0⟩]⟩,
  ⟨0x1000002004c, [], [⟨0, 1, .ro, 0⟩, ⟨1, 1, .w1c, 0⟩, ⟨2, 1, .w1c, 0⟩, ⟨3, 1, .w1c, 0⟩]⟩,
  ⟨0x10000020050, [], [⟨0, 32, .ro, 0x2ce10a41⟩]⟩,
  ⟨0x10000020060, [], [⟨0, 16, .rw, 0x40⟩, ⟨16, 2, .rw, 0⟩, ⟨18, 1, .rw, 0⟩, ⟨19, 2, .rw, 1⟩, ⟨21, 1, .rw, 1⟩, ⟨31, 1, .wo, 0⟩]⟩,
  ⟨0x10000020064, [], [⟨0, 24, .rw, 0⟩]⟩]

/-- Every word of the register space that holds a register. -/
def table : List WordRow :=
  tableCAL ++ tableCLU ++ tableDRC ++ tableCELL ++ tableGYS ++ tableCNV0 ++ tableCNV1 ++ tableAP ++ tableVNT ++ tableNET ++ tableSTM ++ tableLNK ++ tableSPARE ++ tableFUM ++ tableCLK0 ++ tableCLK1 ++ tableREF0 ++ tableREF1 ++ tableFAB ++ tablePWR0 ++ tablePWR1 ++ tableEVT ++ tableHST ++ tableID ++ tableMGM

end Sys2Proof.Machine.Reg
end

