-- ==== Sys2Proof/Machine/State.lean ====
section
/-! DEFINITION. The machine's state: everything the manual gives the engine, as plain data, and State.reset, the
machine right after power-on reset.  Register fields live in one store, `regs`, keyed by the field's address and place
(Reg.lean names them); each entry holds the field's difference (exclusive or) from its power-on value, so that an
unlisted field reads its power-on value (R16).  What is no register field has a structure of its own below. -/

namespace Sys2Proof.Machine

open Sys2Proof

/-! ### The processors: cells and the steward (03_cells, 04_instructions) -/

/-- A 72-bit accumulator with its residue and poison flag (03_cells, program-visible state; R107). -/
structure Acc where
  val : BitVec 72
  res : BitVec 7
  psn : Bool
  deriving DecidableEq, Repr

/-- Accumulator 0 with a valid residue and no poison (R94). -/
abbrev Acc.zero : Acc := ⟨0, 0, false⟩

/-- What a result in flight will be written to (R97): a G register, an accumulator as `sta` and other reads see it, an
accumulator as the next `mac` or `msu` into it sees it, or a control register by its creg code (R143). -/
inductive Dst where
  | g (r : Nat) | a (n : Nat) | am (n : Nat) | c (creg : Nat)
  deriving DecidableEq, Repr

/-- A value in flight. -/
inductive Val where
  | w (x : Sinter) | acc (x : Acc) | h (x : BitVec 16)
  deriving DecidableEq, Repr

/-- A result in flight: the bundle count at which it becomes readable and that of its bundle (R97, R98). -/
structure InFlight where
  due  : Nat
  born : Nat
  dst  : Dst
  val  : Val
  deriving DecidableEq, Repr

/-- An active hardware loop: first and last bundle of its body (R102). Its count is LCn, n its place in the list. -/
structure Loop where
  first : Nat
  last  : Nat
  deriving DecidableEq, Repr

/-- A processor core.  `g` and `c` hold what has been written since the last task entry; a register not listed reads
as the free value of entry generation `entry`, and as 0 in generation 0, after reset. -/
structure Core where
  g      : Assoc (Option Sinter)
  a      : Assoc Acc
  am     : Assoc Acc
  c      : Assoc (Option (BitVec 16))
  entry  : Nat
  st     : BitVec 32
  stRead : BitVec 32
  pc     : Nat
  npc    : Nat
  loops  : List Loop
  lbuf   : Option Loop
  stack  : List Nat
  fly    : List InFlight
  count  : Nat
  live   : Bool
  bundle : BitVec 64
  amo    : Option (Nat × Nat × Nat)
  deriving DecidableEq, Repr

/-- A core after reset: ST has SAT_EN = 1 (03_cells, ST table). -/
abbrev Core.reset : Core :=
  { g := [], a := [], am := [], c := [], entry := 0, st := 0x10000, stRead := 0x10000, pc := 0, npc := 0, loops := [],
    lbuf := none, stack := [], fly := [], count := 0, live := false, bundle := 0, amo := none }

/-- An enabled entry of an adopted task table (03_cells, TASKt). -/
structure Task where
  idx    : Nat
  entry  : Nat
  s3     : Bool
  satEn  : Bool
  budget : Nat
  ckBase : Nat
  ckY    : Bool
  ckLen  : Nat
  deriving DecidableEq, Repr

/-- A task table with its staged set, in force from window `win` on (R118, R125).  `srcs` maps an enabled staged input
to its channel number plus 1. -/
structure Adopted where
  win     : Nat
  tasks   : List Task
  baseSel : Nat
  srcs    : Assoc Nat
  deriving DecidableEq, Repr

/-- A physical cell beside its registers and memories. `tables` lists the adopted tables, newest first; `swap` the
tasks whose checkpoint halves are exchanged (R130); `ran` the tasks that executed `waitp` in this window; `spoiled` the
windows whose samples of this cell's slots are poison (R27, R128); `faultAt` the period of an unconfirmed fault (R20). -/
structure Cell where
  core      : Core
  tables    : List Adopted
  swap      : List Nat
  task      : Option Nat
  ran       : List Nat
  started   : Bool
  stopped   : Bool
  taskCyc   : Nat
  winCyc    : Nat
  used      : Nat
  once      : List Nat
  spoiled   : List Nat
  faultAt   : Option Nat
  confirmed : Bool
  deriving DecidableEq, Repr

abbrev Cell.reset : Cell :=
  { core := Core.reset, tables := [], swap := [], task := none, ran := [], started := false, stopped := false,
    taskCyc := 0, winCyc := 0, used := 0, once := [], spoiled := [], faultAt := none, confirmed := false }

/-- The steward: its core, its control registers (04_instructions, steward control registers), whether it is halted
(R186), halted by debug and to run one bundle (R591), waiting in `wfe` or `fence`; the windows that the
bundle's X and Y slots use, `xnow` and `ynow` (R95, R182); the load or closing store that it waits for: the
request's tag, the register plus 1 (0 for `fstu`) and the bundle; and the stores it has posted, with their bundles. -/
structure Steward where
  core    : Core
  ie      : Bool
  pie     : Bool
  exl     : Bool
  epc     : BitVec 19
  ecause  : BitVec 4
  einfo   : BitVec 16
  vbase   : BitVec 19
  fah     : BitVec 8
  xwin    : BitVec 4
  ywin    : BitVec 4
  xnow    : BitVec 4
  ynow    : BitVec 4
  eaddr   : BitVec 40
  running : Bool
  halted  : Bool
  debug   : Bool
  stepping : Bool
  waiting : Bool
  fencing : Bool
  wait    : Option (Nat × Nat × Nat)
  posted  : List (Nat × Nat)
  deriving DecidableEq, Repr

abbrev Steward.reset : Steward :=
  { core := Core.reset, ie := false, pie := false, exl := false, epc := 0, ecause := 0, einfo := 0, vbase := 0x100,
    fah := 0, xwin := 0, ywin := 1, xnow := 0, ynow := 1, eaddr := 0, running := false, halted := false, debug := false,
    stepping := false, waiting := false, fencing := false, wait := none, posted := [] }

/-! ### Memories and the period pipeline (01_engine, 02_memory) -/

/-- A bank handover in progress (R60): the values written to BANKCTLb that wait to apply. -/
structure Handover where
  owner : Nat
  mode  : Nat
  deriving DecidableEq, Repr

/-- A distributor descriptor's run (R69 to R72): words moved in the present run, whether a run is open, and whether
the descriptor has had its run in this window. -/
structure DqRun where
  moved : Nat
  run   : Bool
  had   : Bool
  deriving DecidableEq, Repr

/-- The memories.  `sram` holds on-chip words by fabric byte address, an unlisted word being 0 with a valid residue
(R538); `dram` holds the words of the DRAM window, an unlisted word being the free value of generation `dramGen`
(R539); `line` is a DRAM line that has been delivered and that no access has taken yet (R86), with its number; `scrub` marks
words a scrubber found faulty: 1 found, 2 rewritten since (R76); `scrubAt` the words of each SRAM read in the pass in progress (R74); `dirty` says that the pass in progress has found a mismatch, `passSince` that it began after the last
supply dip (R75, R436). -/
structure Mem where
  sram      : Assoc Sinter
  dram      : Assoc (Option Sinter)
  dramGen   : Nat
  line      : Option (Nat × List Sinter)
  postponed : Assoc Nat
  training  : Bool
  handover  : Assoc (Option Handover)
  dq        : Assoc DqRun
  scrub     : Assoc Nat
  scrubAt   : Assoc Nat
  dirty     : Bool
  passSince : Bool
  deriving DecidableEq, Repr

abbrev Mem.reset : Mem :=
  { sram := [], dram := [], dramGen := 0, line := none, postponed := [], training := false, handover := [], dq := [],
    scrub := [], scrubAt := [], dirty := false, passSince := false }

/-- The pipeline between ingress and egress (01_engine).  Samples are kept by frame and slot (`slotKey`): what the
ingress channels deposited, what the writers wrote into source, bus and egress slots, which staged inputs have had
their deposit, the egress samples sealed for Fumarole, the wide outputs and received wide sums of Caldera, and what the
egress map was handed.  `past` keeps the register file as it stood after each of the last period boundaries, newest
first, because a staged writer setting governs the samples of its period in whatever window they are worked (R41); `deadline` is the
window, plus 1, whose cell stage deadline has passed last (R26). -/
structure Eng where
  ingress   : Assoc (Option Sinter)
  deposited : Assoc Bool
  lateS0    : Assoc Bool
  lastDep   : Assoc Nat
  src       : Assoc (Option Sinter)
  bus       : Assoc (Option Sinter)
  egr       : Assoc (Option Sinter)
  sealed    : Assoc (Option Sinter)
  wideOut   : Assoc (Option Sinter)
  wideIn    : Assoc (Option Sinter)
  past      : List (Nat × Assoc Nat)
  degraded  : List Nat
  deadline  : Nat
  deriving DecidableEq, Repr

abbrev Eng.reset : Eng :=
  { ingress := [], deposited := [], lateS0 := [], lastDep := [], src := [], bus := [], egr := [], sealed := [],
    wideOut := [], wideIn := [], past := [], degraded := [], deadline := 0 }

/-! ### The event controller and MSI-X (16_events_host_mgmt) -/

/-- The event controller beside EVTSTAT, EVTEN and EVTROUTE.  `once` lists what has been raised in this period of the
events with an "at most once per period" limit; `seen` is the MSI-X condition last seen and `due` the vectors whose
message is due (R572); `pba` the pending bits, `vmask` the masked vectors, `sent` the messages sent, oldest first;
`inReset` that the controller is in reset (R569) and `latched` the supply and thermal events held for its release. -/
structure Evt where
  once    : List Nat
  seen    : Nat
  due     : Nat
  pba     : Nat
  vmask   : Nat
  table   : Assoc Nat
  sent    : List Nat
  inReset : Bool
  latched : List Nat
  deriving DecidableEq, Repr

abbrev Evt.reset : Evt :=
  { once := [], seen := 0, due := 0, pba := 0, vmask := 65535, table := [], sent := [], inReset := false, latched := [] }

/-! ### Caldera and Geyser (05_caldera, 06_geyser) -/

/-- A change of a crosspoint's coefficient (R208): its first frame, the Q5.27 coefficients of the frame before and of the target,
the target's gain code (R210), the law carried out, the length as named and as carried out, the commit slot number plus 1 that
started it (0 for none), whether its ramp has ended, and whether the word was poison (R643).  A step, or a change that leaves
the coefficient as it is, has length 0. -/
structure XpChange where
  first : Nat
  c0    : Int
  c1    : Int
  g1    : Int
  law   : Nat
  want  : Nat
  len   : Nat
  owner : Nat
  ended : Bool
  psn   : Bool
  deriving DecidableEq, Repr

/-- Caldera beside its registers.  `xp` lists each crosspoint's changes, newest first, an unlisted crosspoint being
muted (R192); `formed` the frames whose bus sums have been formed; `held` the local accumulators of deep buses (R203);
`badXp` the window in which a crosspoint's state word failed, plus 1 (R217); `rebuild` the crosspoints to rebuild;
`lastRes` the window, plus 1, in which a slice last raised E145 (R199); `active` the crosspoints not skipped in this
window (R195); `reload` the slices to reload at the next stage edge (R218). -/
structure Cal where
  xp      : Assoc (List XpChange)
  formed  : List Nat
  held    : Assoc Acc
  badXp   : Assoc Nat
  rebuild : List Nat
  lastRes : Assoc Nat
  active  : List Nat
  reload  : List Nat
  deriving DecidableEq, Repr

abbrev Cal.reset : Cal :=
  { xp := [], formed := [], held := [], badXp := [], rebuild := [], lastRes := [], active := [], reload := [] }

/-- A change of a parameter (R219): its first frame, the word in force the frame before, the target, law, length and
class (R222, R224), whether it holds a general ramp slot (R243), whether its ramp has ended, the commit slot number plus
1 that made it, and 0 for a direct write or a fault step. -/
structure Change where
  first : Nat
  v0    : Sinter
  v1    : Sinter
  law   : Nat
  len   : Nat
  cls   : Nat
  slot  : Bool
  ended : Bool
  owner : Nat
  deriving DecidableEq, Repr

/-- A resolved entry of a commit (R232): PID, value, law after substitution (R241), length, class, and whether the law was substituted. -/
structure Entry where
  pid : Nat
  val : Sinter
  law : Nat
  len : Nat
  cls : Nat
  subst : Bool
  deriving DecidableEq, Repr

/-- What a commit slot holds beside GYSCMTn (R230 to R252, R256 to R258): `list` is the overlay list latched at GO, `ovls`
the overlays it still holds locked; `go` numbers the commits in the order of GO (R219), `decided` says that the
cascade's master has sent CONFIRM or ABORT (R257). -/
structure Commit where
  t         : Nat
  novl      : Nat
  list      : List Nat
  ovls      : List Nat
  casc      : Bool
  entries   : List Entry
  reserved  : Nat
  f         : Nat
  confirmed : Bool
  folding   : Bool
  folded    : Bool
  shadowed  : List Nat
  go        : Nat
  decided   : Bool
  deriving DecidableEq, Repr

/-- What a LOAD latched of an overlay's directory entry (R226), and whether its range has been written since (R228). -/
structure OvlLatch where
  addr     : Nat
  count    : Nat
  loc      : Bool
  dram     : Nat
  modified : Bool
  deriving DecidableEq, Repr

/-- A direct write accepted for the next period boundary (R247), with the class of its block (R224). -/
structure DirectWrite where
  pid : Nat
  val : Sinter
  cls : Nat
  deriving DecidableEq, Repr

/-- Geyser beside its registers: the changes of each PID, newest first; the commit slots, the order of GO of those that
wait for preparation, and of those applied for folding; the latched overlays and the loads in progress, in order; the
direct writes of this period, their number, and those held (R248); the PIDs a direct write has written at this boundary;
the PIDs whose state failed in this period (R253), and the last period in which a state fault arose, plus 1 (R254); `bad` the
PID whose check fails at the present edge, and none between commands; the codes reported by the chips of a cascade, and the
slots that were busy when PREPARE came (R256). -/
structure Gys where
  chg      : Assoc (List Change)
  commits  : Assoc (Option Commit)
  prepq    : List Nat
  foldq    : List Nat
  ovl      : Assoc (Option OvlLatch)
  locks    : Assoc Nat
  loadq    : List Nat
  dw       : List DirectWrite
  dwCount  : Nat
  dwHeld   : List DirectWrite
  dwAt     : List Nat
  failed   : List Nat
  shadow   : List Nat
  lastBad  : Nat
  bad      : Option Nat
  codes    : Assoc Nat
  busy     : List Nat
  deriving DecidableEq, Repr

abbrev Gys.reset : Gys :=
  { chg := [], commits := [], prepq := [], foldq := [], ovl := [], locks := [], loadq := [], dw := [], dwCount := 0,
    dwHeld := [], dwAt := [], failed := [], shadow := [], lastBad := 0, bad := none, codes := [], busy := [] }

/-! ### Conversion units and Tephra (07_conversion_metering) -/

/-- A conversion unit beside its registers (R264 to R271): the last input interval in 1/256 PCLK, regular edges counted,
timed frames counted and their intervals summed, frames out of range, the frame from which the output starts, the frame
plus 1 at which FADE began, the frame from which the phase error has been small; the read point whose recentring waits, the
read point of the last recentring and the frame plus 1 at which its crossfade began (R269); whether the downsampling core is
in use, the response word shown, the one the filters use, and the response of this period and of the one before. -/
structure CnvUnit where
  last    : Nat
  good    : Nat
  coarse  : Nat
  sum     : Nat
  out     : Nat
  startAt : Nat
  fade    : Nat
  steady  : Nat
  slip    : Option Nat
  rpOld   : Nat
  slipAt  : Nat
  down    : Bool
  word    : Nat
  used    : Nat
  resp    : Nat
  old     : Nat
  deriving DecidableEq, Repr

abbrev CnvUnit.reset : CnvUnit :=
  { last := 0, good := 0, coarse := 0, sum := 0, out := 0, startAt := 0, fade := 0, steady := 0, slip := none,
    rpOld := 0, slipAt := 0, down := false, word := 0, used := 0, resp := 0, old := 0 }

/-- A conversion channel: its input samples, newest first; the free-valued filter states of the present and the previous
response; the largest magnitude, the last 1,024 squares and the envelope of its detectors (R275). -/
structure CnvChan where
  hist   : List Sinter
  iir    : Nat
  iirOld : Nat
  peak   : Nat
  sq     : List Nat
  env    : Int
  deriving DecidableEq, Repr

abbrev CnvChan.reset : CnvChan := { hist := [], iir := 0, iirOld := 0, peak := 0, sq := [], env := 0 }

/-- The conversion units: `out` holds what an egress channel gave for a frame, in order. -/
structure Cnv where
  units : Assoc CnvUnit
  chans : Assoc CnvChan
  out   : Assoc (List Sinter)
  deriving DecidableEq, Repr

abbrev Cnv.reset : Cnv := { units := [], chans := [], out := [] }

/-- A meter point (R276 to R289): its source word and word 1 of the last period, sums of squares with their counts per
period, newest first, and periods since the last restart; the peak and true peak since the last snapshot, the last
samples, the envelope, the held code with the periods it has stood, clips, the present run, frames missed, the K filter's
free-valued state and mean square of the last period, and the latched record. -/
structure Point where
  src     : Nat
  word1   : Nat
  sums    : List (Nat × Nat)
  elapsed : Nat
  peak    : Nat
  tpeak   : Nat
  tail    : List (BitVec 32)
  env     : Int
  hold    : Int
  holdAge : Nat
  clips   : Nat
  run     : Nat
  miss    : Nat
  kst     : Nat
  z       : Nat × Nat
  record  : List Nat
  deriving DecidableEq, Repr

abbrev Point.reset : Point :=
  { src := 0, word1 := 0, sums := [], elapsed := 0, peak := 0, tpeak := 0, tail := [], env := 0, hold := -8388608,
    holdAge := 0, clips := 0, run := 0, miss := 0, kst := 0, z := (0, 0), record := [] }

/-- A loudness group (R285 to R287): per period, newest first, the sum of squares in units of 2^-62 and the frames of each
member, periods since the last restart, and the latched record. -/
structure Group where
  sums    : List (List (Nat × Nat))
  elapsed : Nat
  record  : List Nat
  deriving DecidableEq, Repr

abbrev Group.reset : Group := { sums := [], elapsed := 0, record := [] }

/-- Tephra: what `mtap` passed, by frame and point; the points, the groups, the last snapshot handed to the host
(its address and its words), the number of periods latched, and the frame to which the last snapshot is being written (R291). -/
structure Mtr where
  taps   : Assoc (Option Sinter)
  points : Assoc Point
  groups : Assoc Group
  snap   : Option (Nat × List Nat)
  latched : Nat
  snapTo  : Nat
  deriving DecidableEq, Repr

abbrev Mtr.reset : Mtr := { taps := [], points := [], groups := [], snap := none, latched := 0, snapTo := 0 }

/-! ### Audio ports (08_audio_ports) -/

/-- The ports beside their registers: the channel masks in force and those that wait for the next port frame edge (R307),
ports that stop at their next edge, and ports whose clocks run (R302), the start frame as set (R304), ports that are receiving a
frame and the port frames received since the last frame edge (R307), port frames received, the last word of channel 1 of each
lane (R313), the port frame of each lane's latest detection plus 1 (R315), the samples the Vent takes, by frame and input
channel (R321), the words the output channels drive in the present frame and drove in the one before (none: high impedance), and
those of the channels of ports with RATEK ≠ 0 before the mask. -/
structure Ports where
  mask     : Assoc Nat
  maskNext : Assoc (Option Nat)
  stopping : List Nat
  clocks   : List Nat
  ts       : Nat
  framed   : List Nat
  sub      : Assoc Nat
  count    : Assoc Nat
  prev1    : Assoc Nat
  lastDet  : Assoc Nat
  ventIn   : Assoc (Option Sinter)
  out      : Assoc (Option (List (BitVec 32)))
  was      : Assoc (Option (List (BitVec 32)))
  full     : Assoc (List (BitVec 32))
  deriving DecidableEq, Repr

abbrev Ports.reset : Ports :=
  { mask := [], maskNext := [], stopping := [], clocks := [], ts := 0, framed := [], sub := [], count := [], prev1 := [],
    lastDet := [], ventIn := [], out := [], was := [], full := [] }

/-! ### Cascade links, pair mode and the spare (10_cascade_redundancy) -/

/-- The last link frame sent on a link (R371): its control block, its message with origin and sequence number, its words
and the pair record. -/
structure LinkFrame where
  head   : LinkHead
  msg    : Option (Nat × Nat × CtrlMsg)
  words  : LinkWords
  pair   : Option PairRecord
  deriving DecidableEq, Repr

/-- The cascade links beside their registers.  `seq` numbers the messages this chip originates, `seen` the messages
recognised, as origin and number, `out` those that wait for a slot on each link, `tx` the last frame sent on each; `crc` counts
consecutive frames that failed (R369); `srcChan` lists the received channels sent with KIND source (R380), `raw` the received
samples of channels that a conversion unit binds; `heard` the frame of the last heartbeat of each chip (R386); `fcBad` that
the counts disagree (R383); `started` the frame plus 1 of the first port start (R382, R406).  Pair mode (R398 to R408): that
the chip is to yield at the next edge, the peer's last record, the records received by period, the runs of periods without a
mismatch, ELIGIBLE, and with the peer ELIGIBLE, the frames ACT_IN has been low, and that the chip has been active since the
last switch-over.  The spare: the window of its self-test, then the first of a hold-off
by cluster (R395) and the cells that have been reverted once (R397). -/
structure Lnk where
  seq      : Nat
  seen     : List (Nat × Nat)
  out      : Assoc (List (Nat × Nat × CtrlMsg))
  tx       : Assoc (Option LinkFrame)
  crc      : Assoc Nat
  srcChan  : List Nat
  raw      : Assoc (Option Sinter)
  heard    : Assoc Nat
  fcBad    : Bool
  started  : Nat
  yield    : Bool
  peer     : Option PairRecord
  records  : List PairRecord
  clean    : Nat
  eligRun  : Nat
  peerRun  : Nat
  actLow   : Nat
  acted    : Bool
  hold     : Assoc Nat
  reverted : List Nat
  deriving DecidableEq, Repr

abbrev Lnk.reset : Lnk :=
  { seq := 0, seen := [], out := [], tx := [], crc := [], srcChan := [], raw := [], heard := [], fcBad := false,
    started := 0, yield := false, peer := none, records := [], clean := 0, eligRun := 0, peerRun := 0, actLow := 0,
    acted := false, hold := [], reverted := [] }

/-! ### Fumarole and the Vent (11_fumarole, 08_audio_ports) -/

/-- A cause of slot mute (R416 to R423): its code in FUMSLOTST, the frame at which the look-ahead saw it, and the last
frame at which its condition was met. -/
structure Mute where
  cause : Nat
  seen  : Nat
  since : Nat
  deriving DecidableEq, Repr

/-- What Fumarole holds of one egress slot: G of the last handed frame and the slew envelope, both in units of 2^-51
(R417, R418; no envelope yet is 0), the DC filter in units of 2^-62 (R419), the angle of M in units of π/288 (R423), the
causes of slot mute, the present run of unusable frames (R422), the last unusable frame plus 1 (R421), and whether the
last handed frame was limited and filled. -/
structure FumSlot where
  gain     : Int
  env      : Int
  dc       : Int
  ang      : Nat
  mutes    : List Mute
  run      : Nat
  lastBad  : Nat
  limiting : Bool
  filling  : Bool
  deriving DecidableEq, Repr

abbrev FumSlot.reset : FumSlot :=
  { gain := 2251799813685248, env := 0, dc := 0, ang := 0, mutes := [], run := 0, lastBad := 0, limiting := false,
    filling := false }

/-- The guards of a port output channel (R431): slew envelope, DC filter, the frame plus 1 at which the DC level last
stood above the level that clears the mute, and whether the DC mute is in force. -/
structure ChanGuard where
  env   : Int
  dc    : Int
  since : Nat
  muted : Bool
  deriving DecidableEq, Repr

abbrev ChanGuard.reset : ChanGuard := { env := 0, dc := 0, since := 0, muted := false }

/-- Fumarole beside its registers.  `ang` is the angle of the whole-chip weight C in units of π/288 (R425), `lookFrom`
the first frame of the period whose missing seals a look-ahead entry saw; `guard` the copies of the guard words with the frames
they hold from, by PID offset (R413); `req` the required gain of each frame of each slot, with whether the slew term set
it (R418); `handed` the samples handed to the egress map (R415); `seq` the entries written to the record (R439); `gate`
the edges since the port gate closed, plus 1 (R430); `since` for each cause, the frame plus 1 from which its clear
condition has held; `resetDue` that a safe reset is to be requested once C is 0 (R427); `seals` the periods whose egress
slots have been sealed, and `residues` the samples that failed their check (R414); `badHealth` the periods in which Fumarole
filled a frame (R401). -/
structure Fum where
  ang       : Nat
  lookFrom  : Nat
  guard     : Assoc (List (Nat × Sinter))
  slots     : Assoc FumSlot
  chans     : Assoc ChanGuard
  req       : Assoc (Option (Int × Bool))
  handed    : Assoc (Option Sinter)
  seq       : Nat
  gate      : Nat
  since     : Assoc Nat
  resetDue  : Bool
  seals     : List Nat
  badHealth : List Nat
  residues  : Nat
  deriving DecidableEq, Repr

abbrev Fum.reset : Fum :=
  { ang := 144, lookFrom := 0, guard := [], slots := [], chans := [], req := [], handed := [], seq := 0, gate := 0,
    since := [], resetDue := false, seals := [], badHealth := [], residues := 0 }

/-- A connection of a Vent route with its ramp (R323): the coefficient goes from `c0` to `c1`, whose code is `g1`, by law 4 over
128 frames from `first`; `out` marks a connection that only fades out. -/
structure RouteConn where
  src   : Nat
  dst   : Nat
  first : Nat
  c0    : Int
  c1    : Int
  g1    : Int
  out   : Bool
  deriving DecidableEq, Repr

/-- A Vent route from frame `first` on: its route and gain words, its connections, the live one first, and whether a
word is poison (R643). -/
structure RouteChange where
  first : Nat
  route : Word
  gain  : Word
  conns : List RouteConn
  psnR  : Bool
  psnG  : Bool
  deriving DecidableEq, Repr

/-- The Vent beside its registers: the changes of each route, newest first, an unlisted route being off; the angle, in
units of π/256, from which the faded contributions fade or return, and the frames faded since (R325 to R328); that the return
begins at the next output edge, and the frame from which EMERG_N has been high (R327). -/
structure Vent where
  routes    : Assoc (List RouteChange)
  ang       : Nat
  fade      : Nat
  due       : Bool
  highSince : Nat
  deriving DecidableEq, Repr

abbrev Vent.reset : Vent := { routes := [], ang := 0, fade := 0, due := false, highSince := 0 }

/-! ### Clocks, references and time (12_clocks, 13_references_time) -/

/-- The core loop and the islands beside their registers.  `first` says that the first lock after POR or a chip reset is
still to come, `init` the values it takes (NINT, FRAC, REFSCALE, FAMILY, MULT; R446) once the loop may start; `href` HREF
in Hz as last measured, 0 if never; `n` the N in force in units of 2^-24; `ramp` that the next lock ends in RAMP (R461);
`rampGo` and `floor` that the loop leaves for RAMP or FLOOR once C is 0 (R455); `lockedAt` the frame plus 1 from which it
has been LOCKED without spread; `leg` the leg of the ramp in progress and `paused` the frame edges for which the guard still
pauses it (R451, R453); `redo` that HOLD was entered from another state than LOCKED, and `back` that the input has returned
before the floor is reached (R461); `heldAt` the frame of the entry to HOLD (R485); `sdGood` and `pcGood` the good intervals
of SDREF and PCIE_REFCLK (R443); `gated` the islands whose clock is closed, `gating` the one that closes and `gateAt` the time of its command (R465); `join` the window plus 1 from which an island that was gated
or reset takes part again (R47, R467). -/
structure Clk where
  first    : Bool
  init     : Option (Nat × Nat × Nat × Nat × Nat)
  href     : Nat
  n        : Nat
  ramp     : Bool
  rampGo   : Bool
  floor    : Bool
  lockedAt : Nat
  leg      : Nat
  paused   : Nat
  redo     : Bool
  back     : Bool
  heldAt   : Nat
  sdGood   : Nat
  pcGood   : Nat
  gated    : List Nat
  gating   : Option Nat
  gateAt   : Nat × Nat
  join     : Assoc Nat
  deriving DecidableEq, Repr

abbrev Clk.reset : Clk :=
  { first := true, init := none, href := 0, n := 0, ramp := false, rampGo := false, floor := false, lockedAt := 0,
    leg := 0, paused := 0, redo := false, back := false, heldAt := 0, sdGood := 0, pcGood := 0, gated := [], gating := none, gateAt := (0, 0),
    join := [] }

/-- A time counter (R492, R493): seconds, nanoseconds, fraction, and the increment in force. -/
structure Domain where
  sec     : Nat
  ns      : Nat
  frac    : Nat
  incNs   : Nat
  incFrac : Nat
  deriving DecidableEq, Repr

abbrev Domain.reset : Domain := { sec := 0, ns := 0, frac := 0, incNs := 5, incFrac := 0x16155555 }

/-- The timing loop beside its registers: the frame at which each reference entered its state (R472); the target of a
switch in progress; the mean steering of the last full interval (R482) and the steering held before a fallback (R486),
both signed; the frame of the last REFSTEER write (R488); the frame from
which a realign slews, and how far, in 1/16 CCLK (R490); a REFCTL word that waits for the end of a switch (R477); and the
two time domains. -/
structure Refs where
  since  : Assoc Nat
  target : Nat
  mean   : Int
  saved  : Int
  swAt   : Nat
  slewAt : Nat
  slewBy : Nat
  ctl    : Option Nat
  a      : Domain
  b      : Domain
  deriving DecidableEq, Repr

abbrev Refs.reset : Refs :=
  { since := [], target := 7, mean := 0, saved := 0, swAt := 0, slewAt := 0, slewBy := 0, ctl := none, a := Domain.reset, b := Domain.reset }

/-! ### Network ports and streams (09_network) -/

/-- A network port beside its registers: the NETTXTS FIFO, oldest first, as stamp, TAG and domain (R344); the stream packets
staged on it, oldest first, with their streams (R364, R365); the quanta of the pause in progress (R334); the last frame sent,
with its FCS. -/
structure NetPort where
  stamps : List (Nat × Nat × Nat)
  queue  : List (Nat × List Nat)
  quanta : Nat
  sent   : List Nat
  deriving DecidableEq, Repr

abbrev NetPort.reset : NetPort := { stamps := [], queue := [], quanta := 0, sent := [] }

/-- A receive stream beside its registers: the sequence number plus 1 of the last accepted packet (R352), the frame of its
acceptance (R357), its packet phase plus 1 (R359), and for SYNC = 0 the next timestamp to present, whether presentation has
begun, the samples due in units of 10^-15 of a sample's share of the engine rate, and the steering in units of 10^-15 (R354). -/
structure StreamRx where
  seq    : Nat
  lastAt : Nat
  phase  : Nat
  next   : Option Nat
  begun  : Bool
  due    : Nat
  steer  : Int
  deriving DecidableEq, Repr

abbrev StreamRx.reset : StreamRx :=
  { seq := 0, lastAt := 0, phase := 0, next := none, begun := false, due := 0, steer := 0 }

/-- A transmit packet that is being collected (R361): its first frame and timestamp, the map words of its channels, and the
frames collected, each the samples of channel 0, then channel 1, and so on. -/
structure StreamTx where
  g      : Nat
  ts     : Nat
  words  : List Sinter
  frames : List (List (List (BitVec 32)))
  deriving DecidableEq, Repr

/-- The network and the streams beside their registers: `present` holds the presence bits, by buffer word (R355), `maps` the
receive map words in effect (R359). -/
structure Net where
  ports   : Assoc NetPort
  rx      : Assoc StreamRx
  tx      : Assoc (Option StreamTx)
  present : Assoc Bool
  maps    : Assoc Nat
  deriving DecidableEq, Repr

abbrev Net.reset : Net := { ports := [], rx := [], tx := [], present := [], maps := [] }


/-! ### The control fabric (14_fabric) -/

/-- What a transaction does (R500, R517, R518). -/
inductive FabOp where
  | read | write | lockedRead | closingWrite
  deriving DecidableEq, Repr

/-- A transaction at a target arbiter or in its master port (R499 to R512): FABTIME at issue and deadline, consecutive
losses, whether it is present, whether it is granted and stalled with beats delivered, whether its response is discarded; `tag` is the model's own number for it. -/
structure FabReq where
  master   : Nat
  id       : Nat
  op       : FabOp
  addr     : Nat
  beats    : Nat
  words    : List Sinter
  port     : Nat
  issue    : Nat
  deadline : Nat
  losses   : Nat
  present  : Bool
  granted  : Bool
  got      : Nat
  quiet    : Bool
  tag      : Nat
  deriving DecidableEq, Repr

/-- A response (R503): code, beats performed, and the words of a read; the request's tag and address. -/
structure FabResp where
  master : Nat
  id     : Nat
  code   : Nat
  done   : Nat
  words  : List Sinter
  tag    : Nat
  addr   : Nat
  deriving DecidableEq, Repr

/-- The fabric beside its registers: requests in order of issue, the responses given, newest first; the ports on which a
master's lock has been broken (R520); the ports where the watchdog has abandoned a transaction, and when (R525); when a
master's lock was opened and its reset began (R520, R521); the tags of writes of which Geyser holds words, each with the number
of held writes up to its last (R516); the master whose write of FABCFG.REMAP waits, plus 1 (R509). -/
structure Fab where
  reqs    : List FabReq
  resps   : List FabResp
  broken  : List (Nat × Nat)
  tripped : List Nat
  tripAt  : Assoc (Option (Nat × Nat))
  lockAt  : Assoc (Nat × Nat)
  resetAt : Assoc (Nat × Nat)
  waits   : List (Nat × Nat)
  remap   : Nat
  deriving DecidableEq, Repr

abbrev Fab.reset : Fab :=
  { reqs := [], resps := [], broken := [], tripped := [], tripAt := [], lockAt := [], resetAt := [],
    waits := [], remap := 0 }


/-! ### Resets, power and boot (15_reset_power_boot) -/

/-- The reset and power controllers beside their registers.  `want` is a power request plus 1 that waits for the end of a
transition, `goal` the state plus 1 to which a transition goes, `step` its step: 1 the loop waits for C = 0, 2 the islands are
gated and the loop falls, 3 the exit's relock, 4 its DRAM training (R545, R547); `before` the state before a thermal HOLD,
`hot` that a reading of 135 °C stands (R553), `warned` that E211 has been raised (R552).  `rst` is the scope and target of a
reset in progress, `safe` that a safe reset is in progress (R531, R533), `chip` the kind of a chip-scope reset: 0 none, 1 warm,
2 chip, 3 POR; `cause` and `rail` what RSTCAUSE takes (R535); `supply` the rail plus 1 whose fault waits for C = 0 and `supplyAt` since when (R551);
`safeAt` the period plus 1 of the last safe release (R534); `rampApply` that the next RAMP applies PWRRATE (R544). -/
structure Pwr where
  want      : Nat
  goal      : Nat
  step      : Nat
  before    : Nat
  hot       : Bool
  warned    : Bool
  rst       : Option (Nat × Nat)
  safe      : Bool
  chip      : Nat
  cause     : Nat
  rail      : Nat
  supply    : Nat
  safeAt    : Nat
  rampApply : Bool
  idleAt    : Nat × Nat
  supplyAt  : Nat × Nat
  deriving DecidableEq, Repr

abbrev Pwr.reset : Pwr :=
  { want := 0, goal := 0, step := 0, before := 0, hot := false, warned := false, rst := none, safe := false, chip := 3,
    cause := 0, rail := 0, supply := 0, safeAt := 0, rampApply := false, idleAt := (0, 0), supplyAt := (0, 0) }

/-- The boot ROM's progress (R557 to R565): whether an image has been handed over, its bytes as checked, the section to load
next, a REGS section that has passed its checks, and whether it has started. -/
structure Boot where
  started : Bool
  handed  : Bool
  image   : List (BitVec 8)
  sect    : Nat
  regs    : Bool
  deriving DecidableEq, Repr

abbrev Boot.reset : Boot := { started := false, handed := false, image := [], sect := 0, regs := false }


/-! ### Host, management port, debug and fuses (16_events_host_mgmt) -/

/-- The PCIe endpoint beside its registers: whether the MSI-X function mask is set, and the last completion: its status
(0 successful, 1 unsupported request, 2 completer abort), its data and the EP bit (R579, R580); and the error classes that
posted requests have reported through AER: an unsupported request, a completer abort (R579). -/
structure Pcie where
  fmask : Bool
  cpl   : Option (Nat × List (BitVec 32) × Bool)
  aerUr : Bool
  aerCa : Bool
  deriving DecidableEq, Repr

abbrev Pcie.reset : Pcie := { fmask := false, cpl := none, aerUr := false, aerCa := false }

/-- The management port's last answer (R582): status, data, POISON and MISMATCH maps. -/
structure Mgmt where
  status   : Nat
  data     : List (BitVec 32)
  poison   : Nat
  mismatch : Nat
  deriving DecidableEq, Repr

abbrev Mgmt.reset : Mgmt := { status := 0, data := [], poison := 0, mismatch := 0 }

/-- The TAP and the debug access port (R587 to R589): the instruction, the boundary-scan register, the value a data scan
captures; the write words queued, the words read, the response code and whether a response has arrived. -/
structure Tap where
  ir      : Nat
  bsr     : List Bool
  dr      : Nat
  queue   : List (BitVec 32)
  words   : List Sinter
  code    : Nat
  ready   : Bool
  deriving DecidableEq, Repr

abbrev Tap.reset : Tap :=
  { ir := 2, bsr := [], dr := 0x2CE10A41, queue := [], words := [], code := 0, ready := false }

/-- The fuses: the programmed words by fuse address (R592), and the word being programmed (R593). -/
structure Fuses where
  words : Assoc Nat
  prog  : Option (Nat × Nat)
  deriving DecidableEq, Repr

abbrev Fuses.reset : Fuses := { words := [], prog := none }


/-! ### Pins (17_pins_package) -/

/-- The balls beside their registers: the level outside drives on GPIO0 to GPIO7, consecutive probes that an input has
followed (R609), the level of PPS_OUT (R633), and the ports that return to RUN at the next frame edge (R532). -/
structure Pins where
  gpio    : Nat
  probe   : Assoc Nat
  pps     : Bool
  restart : List Nat
  deriving DecidableEq, Repr

abbrev Pins.reset : Pins := { gpio := 0, probe := [], pps := false, restart := [] }


/-- The machine.  `pending` is the queue of commands that wait, first in first out; `free` the model's own counter of
free values, which every command advances. -/
structure State where
  pending   : List Instr
  free      : Nat
  frame     : Nat
  regs      : Assoc Nat
  staged    : Assoc (Option Nat)
  mem       : Mem
  eng       : Eng
  cells     : Assoc Cell
  stw       : Steward
  evt       : Evt
  cal       : Cal
  gys       : Gys
  fum       : Fum
  vent      : Vent
  lnk       : Lnk
  cnv       : Cnv
  mtr       : Mtr
  ports     : Ports
  clk       : Clk
  refs      : Refs
  net       : Net
  fab       : Fab
  pwr       : Pwr
  boot      : Boot
  pcie      : Pcie
  mgmt      : Mgmt
  tap       : Tap
  fuses     : Fuses
  pins      : Pins
  deriving DecidableEq, Repr

/-- The machine right after power-on reset (R16, R529): every register field at the value its table gives, every
memory word 0 with a valid residue, no command waiting. -/
def State.reset : State :=
  { pending := [],
    free := 0,
    frame := 0,
    regs := [],
    staged := [],
    mem := Mem.reset,
    eng := Eng.reset,
    cells := [],
    stw := Steward.reset,
    evt := Evt.reset,
    cal := Cal.reset,
    gys := Gys.reset,
    fum := Fum.reset,
    vent := Vent.reset,
    lnk := Lnk.reset,
    cnv := Cnv.reset,
    mtr := Mtr.reset,
    ports := Ports.reset,
    clk       := Clk.reset,
    refs      := Refs.reset,
    net       := Net.reset,
    fab       := Fab.reset,
    pwr       := Pwr.reset,
    boot      := Boot.reset,
    pcie      := Pcie.reset,
    mgmt      := Mgmt.reset,
    tap       := Tap.reset,
    fuses     := Fuses.reset,
    pins      := Pins.reset }

/-- Why the machine stops with a fault. -/
inductive Fault where
  /-- No meaning raises it: the manual gives every command an effect.  Safe. -/
  | none
  deriving DecidableEq, Repr

/-- Why the machine refuses a command. -/
inductive Refusal where
  /-- Raised by an arm of Dispatch for a command without its meaning.  Safe. -/
  | notModelled (mnemonic : String)
  deriving DecidableEq, Repr

end Sys2Proof.Machine
end

