-- ==== Sys2Proof/Machine/Ops.lean ====
section
/-! DEFINITION. The named operations every meaning is written over: sparse maps, Sinter words (00_scope R7 to R9),
register fields (R14), the frame grid (R3, R23), and raising an event (R566). -/

namespace Sys2Proof

/-! ### Sparse maps -/

/-- What the map holds at `k`: `d` where nothing is listed. -/
def Assoc.look {α : Type} (d : α) : Assoc α → Nat → α
  | [], _ => d
  | (k', v) :: m, k => if k = k' then v else if k < k' then d else Assoc.look d m k

/-- The entries with keys above `k`. -/
def Assoc.above {α : Type} (k : Nat) : Assoc α → Assoc α
  | [] => []
  | (k', v) :: m => if k' ≤ k then Assoc.above k m else (k', v) :: m

/-- The map with `v` at `k`; writing what an unlisted key reads as removes the entry. -/
def Assoc.upd {α : Type} [DecidableEq α] (d : α) : Assoc α → Nat → α → Assoc α
  | [], k, v => if v = d then [] else [(k, v)]
  | (k', v') :: m, k, v =>
    if k < k' then (if v = d then (k', v') :: m else (k, v) :: (k', v') :: m)
    else if k = k' then (if v = d then Assoc.above k m else (k, v) :: Assoc.above k m)
    else (k', v') :: Assoc.upd d m k v

/-- The canonical form: keys strictly rising from `lo` on, no entry equal to `d`. -/
def Assoc.wfFrom {α : Type} [DecidableEq α] (d : α) : Nat → Assoc α → Bool
  | _, [] => true
  | lo, (k, v) :: m => decide (lo ≤ k) && decide (v ≠ d) && Assoc.wfFrom d (k + 1) m

/-- The canonical form of a sparse map. -/
def Assoc.wf {α : Type} [DecidableEq α] (d : α) (m : Assoc α) : Bool := Assoc.wfFrom d 0 m

/-! ### Sinter words -/

/-- The residue mod 127 of a whole number, 0 to 126 (R7). -/
def residueInt (x : Int) : BitVec 7 := BitVec.ofNat 7 (x % 127).toNat

/-- The residue of a data word, taken as a signed 32-bit integer (R7). -/
def residueOf (x : BitVec 32) : BitVec 7 := residueInt x.toInt

/-- Even parity over the residue field (R7): bit 39. -/
def parityOf (r : BitVec 7) : Bool :=
  (r.getLsbD 0 ^^ r.getLsbD 1 ^^ r.getLsbD 2 ^^ r.getLsbD 3 ^^ r.getLsbD 4 ^^ r.getLsbD 5 ^^ r.getLsbD 6)

/-- A word of the given data and residue, with its parity formed. -/
def Sinter.withRes (x : BitVec 32) (r : BitVec 7) : Sinter := ⟨x, r, parityOf r⟩

/-- A word with residue and parity generated from its data (R52, R112 bitwise row). -/
def Sinter.ofData (x : BitVec 32) : Sinter := Sinter.withRes x (residueOf x)

/-- Silence: data 0 with a valid residue (R37). -/
def Sinter.zero : Sinter := ⟨0, 0, false⟩

/-- The word is poison (R8). -/
def Sinter.isPoison (s : Sinter) : Bool := (s.res == 0x7F) && s.par

/-- The parity is right and the residue matches the data (R9). -/
def Sinter.ok (s : Sinter) : Bool := (s.par == parityOf s.res) && (s.res == residueOf s.data)

/-- The word is neither poison nor faulty. -/
def Sinter.good (s : Sinter) : Bool := s.ok && !s.isPoison

/-- A residue fault at a check point: not poison, and parity or residue wrong (R9). -/
def Sinter.faulty (s : Sinter) : Bool := !s.isPoison && !s.ok

/-- A poison word with the given data bits (R8). -/
def Sinter.poisonOf (x : BitVec 32) : Sinter := ⟨x, 0x7F, true⟩

/-- The residue as a number mod 127. -/
def Sinter.r (s : Sinter) : Nat := s.res.toNat % 127

/-- The 40 bits of a word (R7). -/
def Sinter.toBits (s : Sinter) : BitVec 40 := BitVec.ofBool s.par ++ s.res ++ s.data

/-- The word of 40 bits (R7). -/
def Sinter.ofBits (x : BitVec 40) : Sinter := ⟨x.setWidth 32, x.extractLsb' 32 7, x.getLsbD 39⟩

namespace Machine

/-- A step that completes: the next state, with the counter of free values advanced. -/
def done (s : State) : Host.Outcome State Fault Refusal := .next { s with free := s.free + 1 }

/-- The poison word the engine makes in this step; `i` tells apart the words made in one step (log 1). -/
def State.poison (s : State) (i : Nat) : Sinter := Sinter.poisonOf (Config.poisonData s.free i)

/-! ### Register fields -/

/-- The value of a register field. -/
def State.get (s : State) (f : Fld) : Nat := s.regs.look 0 f.key ^^^ f.rst

/-- The state with a register field set, its value cut to the field's width. -/
def State.put (s : State) (f : Fld) (v : Nat) : State :=
  { s with regs := s.regs.upd 0 f.key ((v % 2 ^ f.w) ^^^ f.rst) }

/-- A one-bit field as a truth value. -/
def State.bit (s : State) (f : Fld) : Bool := s.get f != 0

/-- The state with a one-bit field set or cleared. -/
def State.putBit (s : State) (f : Fld) (b : Bool) : State := s.put f b.toNat

/-- A value written to an RWP field: staged until the next period boundary (R14). -/
def State.stage (s : State) (f : Fld) (v : Nat) : State :=
  { s with staged := s.staged.upd none f.key (some ((v % 2 ^ f.w) ^^^ f.rst)) }

/-- What a read of an RWP field gives: the last value written (R14). -/
def State.lastWritten (s : State) (f : Fld) : Nat :=
  match s.staged.look none f.key with
  | some v => v ^^^ f.rst
  | none => s.get f

/-- A field as it stood after period boundary `p`, for the settings that govern the samples of their period (R41);
the value in force where no boundary is kept: none has passed since reset. -/
def State.getAt (s : State) (p : Nat) (f : Fld) : Nat :=
  match s.eng.past.find? (fun e => e.1 ≤ p) with
  | some e => e.2.look 0 f.key ^^^ f.rst
  | none => s.get f

/-- A counter field counts up and stays at its top value. -/
def State.bump (s : State) (f : Fld) : State := s.put f (Nat.min (s.get f + 1) (2 ^ f.w - 1))

/-- A counter field counts up by `n` and stays at its top value. -/
def State.bumpBy (s : State) (f : Fld) (n : Nat) : State := s.put f (Nat.min (s.get f + n) (2 ^ f.w - 1))

/-! ### The frame grid -/

/-- m, the multiplier in force (00_scope, headline figures; R544). -/
def State.mult (s : State) : Nat := 2 ^ s.get Reg.PWRRATE_MULT_NOW

/-- The family in force: true in the 44.1 kHz family. -/
def State.fam441 (s : State) : Bool := s.bit Reg.PWRRATE_FAMILY_NOW

/-- The base rate in Hz. -/
def State.baseRate (s : State) : Nat := if s.fam441 then 44100 else 48000

/-- The period of the present frame (R3). -/
def State.period (s : State) : Nat := s.frame / 16

/-- The window the present frame lies in: window w runs from E(w) = 16w + 1 on (R23). -/
def State.window (s : State) : Nat := (s.frame - 1) / 16

/-- Sources, buses and egress slots that exist at the current m (00_scope, headline figures; R34). -/
def State.nSrc (s : State) : Nat := if s.mult = 4 then 512 else 1024
def State.nBus (s : State) : Nat := if s.mult = 4 then 256 else 512
def State.nEgr (s : State) : Nat := if s.mult = 4 then 256 else 512

/-- CCLK cycles of a frame (00_scope, headline figures). -/
def State.cclkPerFrame (s : State) : Nat := 16384 / s.mult

/-- The key a sample is kept under: its frame, then its slot or channel. -/
def slotKey (frame slot : Nat) : Nat := frame * 16384 + slot

/-- A list of changes, newest first, cut after the first one in force at frame `f`: no reader looks further back. -/
def keepFrom {α : Type} (first : α → Nat) (f : Nat) : List α → List α
  | [] => []
  | x :: xs => if first x ≤ f then [x] else x :: keepFrom first f xs

/-- The frame behind which no stage still reads (R24, R30). -/
def State.horizon (s : State) : Nat := s.frame - 128

/-- The entries of a sample store at or after a frame. -/
def Assoc.fromFrame {α : Type} (f : Nat) : Assoc α → Assoc α
  | [] => []
  | (k, v) :: m => if k < slotKey f 0 then Assoc.fromFrame f m else (k, v) :: m

/-! ### Events -/

/-- The status bit of event n (R566). -/
def State.evtStat (s : State) (n : Nat) : Bool := (s.get (Reg.EVTSTAT_STAT (n / 32))).testBit (n % 32)

/-- The enable bit of event n (R566). -/
def State.evtEn (s : State) (n : Nat) : Bool := (s.get (Reg.EVTEN_EN (n / 32))).testBit (n % 32)

/-- Event n is active: its status and its enable are both 1 (R567). -/
def State.evtActive (s : State) (n : Nat) : Bool := s.evtStat n && s.evtEn n

/-- The state with the status bit of event n set. -/
def State.setStat (s : State) (n : Nat) : State :=
  s.put (Reg.EVTSTAT_STAT (n / 32)) (s.get (Reg.EVTSTAT_STAT (n / 32)) ||| 2 ^ (n % 32))

/-- Supply and thermal events, which the PWR block latches while the event controller is in reset (R551, R569). -/
def latchedEvent (n : Nat) : Bool := decide (208 ≤ n) && decide (n ≤ 215)

/-- An active event that has just been raised makes its MSI-X condition rise (R572). -/
def State.msixRise (s : State) (n : Nat) : State :=
  if s.evtActive n && s.bit (Reg.EVTROUTE_MEN n) && !(s.evt.seen.testBit (s.get (Reg.EVTROUTE_MSIX n))) then
    { s with evt := { s.evt with
        seen := s.evt.seen ||| 2 ^ s.get (Reg.EVTROUTE_MSIX n)
        due := s.evt.due ||| 2 ^ s.get (Reg.EVTROUTE_MSIX n) } }
  else s

/-- A raise of event n (R566): sets its status whatever its enable; lost while the event controller is in reset, save
for the events the PWR block latches (R569). -/
def State.raise (s : State) (n : Nat) : State :=
  if s.evt.inReset then
    (if latchedEvent n then { s with evt := { s.evt with latched := s.evt.latched ++ [n] } } else s)
  else (s.setStat n).msixRise n

/-- A raise that its chapter limits to once per period, and where `key` is not 0 once per period and unit: a second one
in the same period is no raise. -/
def State.raiseOnce (s : State) (n : Nat) (key : Nat := 0) : State :=
  if s.evt.once.contains (n + 256 * key) then s
  else ({ s with evt := { s.evt with once := (n + 256 * key) :: s.evt.once } }).raise n

end Machine
end Sys2Proof
end

