-- ==== Sys2Proof/Machine/Guard.lean ====
section
/-! DEFINITION. The guard operations that every unit can reach: Fumarole's record (R439), its causes of whole-chip mute
(R424 to R428, R433, R574), the precautionary window (R435, R436), the safety lock (R437, R438), and the causes of the
Vent's takeover (R324 to R328). -/

namespace Sys2Proof.Machine

/-! ### The Vent's takeover causes -/

/-- Some cause of takeover is in force (R324). -/
def State.vntCauses (s : State) : Bool :=
  s.bit Reg.VNTSTAT_CAUSE_EMERG || s.bit Reg.VNTSTAT_CAUSE_FUM || s.bit Reg.VNTSTAT_CAUSE_FORCE

/-- A cause of takeover arises (R324, R328): the faded contributions fade from the weight they have. -/
def State.vntCause (s : State) (f : Fld) : State :=
  if s.bit Reg.VNTSTAT_TAKEOVER then s.putBit f true
  else
    let s1 : State := { s with vent := { s.vent with fade := 0, due := false } }
    (((s1.putBit f true).putBit Reg.VNTSTAT_TAKEOVER true).putBit Reg.VNTSTAT_RETURNING false).raise 81

/-- A cause of takeover clears; with the last of them takeover ends, and the contributions return from the next output edge on
(R327). -/
def State.vntClear (s : State) (f : Fld) : State :=
  let s1 := s.putBit f false
  if s.bit Reg.VNTSTAT_TAKEOVER && !s1.vntCauses then
    let s2 : State := { s1 with vent := { s1.vent with ang := 128, fade := 0, due := true } }
    s2.putBit Reg.VNTSTAT_TAKEOVER false
  else s1

/-! ### The fault record -/

/-- The class of one of Fumarole's events (R439). -/
def fumClass (n : Nat) : Nat :=
  if n = 192 ∨ n = 193 then 0 else if (194 ≤ n ∧ n ≤ 199) ∨ n = 205 ∨ n = 206 then 1 else 2

/-- FAULT_N follows its conditions (R433). -/
def State.faultN (s : State) : State :=
  s.putBit Reg.FUMSTAT_FAULTN
    (s.bit Reg.FUMSTAT_MUTE_ALL || s.bit Reg.FUMRECSTAT_UNACK || (s.get Reg.FUMSTAT_CAUSE).testBit 9)

/-- The frame divider has started, at the first lock after the release (R22, R449), and no chip reset or POR holds it. -/
def State.dividerRuns (s : State) : Bool := decide (s.pwr.chip < 2) && !s.clk.first

/-- A record entry (R439): the first goes to entry 0, later ones round the ring 1 to 63. -/
def State.fumEntry (s : State) (n cls detail : Nat) : State :=
  let first := s.get Reg.FUMRECSTAT_COUNT = 0
  let i := if first then 0 else s.get Reg.FUMRECSTAT_NEXT % 64
  let s1 := (((s.put (Reg.FUMREC_WORD0 i) (s.fum.seq % 65536 + 65536 * n + 2 ^ 24 * cls)).put (Reg.FUMREC_WORD1 i)
    (if s.dividerRuns then s.frame else 2 ^ 32 - 1)).put (Reg.FUMREC_WORD2 i) (s.get Reg.FUMTICK_TICKS)).put
    (Reg.FUMREC_WORD3 i) detail
  let s2 := (s1.bump Reg.FUMRECSTAT_COUNT)
  let s3 := if first then s2 else if i = 63 then (s2.put Reg.FUMRECSTAT_NEXT 1).putBit Reg.FUMRECSTAT_WRAPPED true
    else s2.put Reg.FUMRECSTAT_NEXT (i + 1)
  { s3 with fum := { s3.fum with seq := s3.fum.seq + 1 } }

/-- An entry with its effect on UNACK and FAULT_N (R433, R439). -/
def State.fumRecord (s : State) (n cls detail : Nat) : State :=
  let s1 := if s.get Reg.FUMCFG_REC_SEV ≤ cls ∨ cls = 2 then s.fumEntry n cls detail else s
  (if s.get Reg.FUMCFG_FAULTN_SEV ≤ cls ∧ (s.get Reg.FUMCFG_REC_SEV ≤ cls ∨ cls = 2) then
    s1.putBit Reg.FUMRECSTAT_UNACK true else s1).faultN

/-- One of Fumarole's events: raised and recorded. -/
def State.fumEvent (s : State) (n detail : Nat) : State := (s.raise n).fumRecord n (fumClass n) detail

/-- One of the events E192 to E199 and E206, raised and recorded at most once per period. -/
def State.fumEventOnce (s : State) (n detail : Nat) : State :=
  if s.evt.once.contains n then s else (s.raiseOnce n).fumRecord n (fumClass n) detail

/-! ### Whole-chip mute -/

/-- The bits of FUMSTAT.CAUSE (R424). -/
def fumSafePin : Nat := 0
def fumMgmt : Nat := 1
def fumClock : Nat := 2
def fumThermal : Nat := 3
def fumSupply : Nat := 4
def fumGeyser : Nat := 5
def fumLockstep : Nat := 6
def fumFabric : Nat := 7
def fumStall : Nat := 8
def fumSelf : Nat := 9

def State.fumHas (s : State) (c : Nat) : Bool := (s.get Reg.FUMSTAT_CAUSE).testBit c

/-- A cause in force calls for fallback (R424, R426). -/
def State.fumWantsFallback (s : State) : Bool :=
  s.fumHas fumGeyser || s.fumHas fumLockstep || s.fumHas fumFabric || s.fumHas fumStall || s.fumHas fumSelf ||
    (s.bit Reg.FUMCFG_PRI_PASS && (s.fumHas fumSafePin || s.fumHas fumMgmt))

/-- The fallback follows the causes (R426). -/
def State.fumFallback (s : State) : State :=
  if s.fumWantsFallback && !s.bit Reg.FUMSTAT_FALLBACK then
    ((s.putBit Reg.FUMSTAT_FALLBACK true).vntCause Reg.VNTSTAT_CAUSE_FUM).fumEvent 202
      (4096 * (s.get Reg.FUMSTAT_CAUSE).log2)
  else if !s.fumWantsFallback && s.bit Reg.FUMSTAT_FALLBACK then
    (s.putBit Reg.FUMSTAT_FALLBACK false).vntClear Reg.VNTSTAT_CAUSE_FUM
  else s

/-- The chip is one of a pair (LNKCASC.MODE). -/
def State.pairMode (s : State) : Bool := s.get Reg.LNKCASC_MODE == 2

/-- Fumarole drives ACT_OUT low by its own authority (R404, R428). -/
def State.pairDrop (s : State) : State := if s.pairMode then s.putBit Reg.PAIRSTAT_ACTIVE false else s

/-! ### What the port output balls drive -/

/-- Output pin `pin` is at high impedance for a short (R606). -/
def State.pinHiz (s : State) (pin : Nat) : Bool := (s.get (Reg.PINSHORT_SHORT (pin / 32))).testBit (pin % 32)

/-- The ball of output channel `q` is at high impedance: a chip of a pair that does not hold ACT_OUT (R398, R604), the hold
after a reset (R603), or a short (R606). -/
def State.portHiz (s : State) (q : Nat) : Bool :=
  (s.pairMode && !s.bit Reg.PAIRSTAT_ACTIVE) || s.bit Reg.PINSTAT_HELD_HIZ || s.pinHiz (10 * (q / 16) + 2 + q % 16 / 2)

/-- What the ball of output channel `q` shows: the words of the frame, or none for high impedance; every port output is at high
impedance while a reset of chip scope is asserted (R601).  While VDD_IO is below its warning threshold what it shows is open
(R605). -/
def State.portBall (s : State) (q : Nat) : Option (List (BitVec 32)) :=
  if (s.get Reg.SUPSTAT_BELOW_WARN).testBit 3 then Config.weakBall s.free q
  else if s.pwr.chip ≠ 0 || s.portHiz q then none else s.ports.out.look none q

/-- Output channel `q` drives the words `x` of a frame; none is high impedance. -/
def State.setOut (s : State) (q : Nat) (x : List (BitVec 32)) : State :=
  { s with ports := { s.ports with out := s.ports.out.upd none q (if s.portHiz q then none else some x) } }

/-- Output channel `q` is driven low (R298, R302, R303, R532). -/
def State.lowChan (s : State) (q : Nat) : State := s.setOut q [0]

/-- Every port output is driven low. -/
def State.portsLow (s : State) : State := (List.range 256).foldl State.lowChan s

/-! ### Causes -/

/-- A cause of whole-chip mute arises (R424): MUTE_ALL and E200 with the first, then fallback, ACT_OUT and FAULT_N. -/
def State.fumCause (s : State) (c : Nat) : State :=
  if s.fumHas c then s else
  let s1 := (s.put Reg.FUMSTAT_CAUSE (s.get Reg.FUMSTAT_CAUSE ||| 2 ^ c))
  let s2 := if s.bit Reg.FUMSTAT_MUTE_ALL then s1
    else ((s1.putBit Reg.FUMSTAT_MUTE_ALL true).pairDrop).fumEvent 200 (4096 * c)
  ({ s2 with fum := { s2.fum with since := s2.fum.since.upd 0 c 0 } }.fumFallback).faultN

/-- A cause clears (R424); with the last of them MUTE_ALL ends, C returns and E201 is raised (R425). -/
def State.fumClear (s : State) (c : Nat) : State :=
  if !s.fumHas c then s else
  let s1 := (s.put Reg.FUMSTAT_CAUSE (s.get Reg.FUMSTAT_CAUSE ^^^ 2 ^ c)).fumFallback
  (if s1.get Reg.FUMSTAT_CAUSE = 0 then (s1.putBit Reg.FUMSTAT_MUTE_ALL false).fumEvent 201 (4096 * c) else s1).faultN

/-- A fault with an action field arises (R427): action 0 records it, 1 mutes, 2 and 3 mute and ask for a safe reset. -/
def State.fumAct (s : State) (act : Fld) (c evt : Nat) : State :=
  if s.get act = 0 then ((s.fumEntry evt 2 (4096 * c)).putBit Reg.FUMRECSTAT_UNACK true).faultN
  else
    let s1 := s.fumCause c
    if 2 ≤ s.get act then { s1 with fum := { s1.fum with resetDue := true } } else s1

/-! ### The precautionary window and the safety lock -/

/-- A rail dips and recovers: the precautionary window opens (R435). -/
def State.fumPrecaution (s : State) : State :=
  (({ s with mem := { s.mem with passSince := false } } : State).putBit Reg.FUMSTAT_PRECAUT true).fumEvent 205 0

/-- A scrub pass ends: one that began after the dip and was clean closes the window (R436). -/
def State.fumPassDone (s : State) (clean : Bool) : State :=
  if s.mem.passSince && clean then s.putBit Reg.FUMSTAT_PRECAUT false else s

/-- The safety lock is closed (R437). -/
def State.locked (s : State) : Bool := s.bit Reg.FUMLOCK_CLOSED

/-- A write refused by the lock (R438). -/
def State.fumLockWrite (s : State) (a : Nat) : State :=
  (((s.put Reg.FUMLWADDR_LO_ADDR a).put Reg.FUMLWADDR_HI_ADDR_HI (a / 2 ^ 32)).putBit Reg.FUMSTAT_LOCK_WR
    true).fumEventOnce 206 0

/-! ### Fumarole's copies of the guard words -/

/-- The reset value of the copy of a guard word, by PID less 0x1C_0000 (R441). -/
def guardReset (i : Nat) : BitVec 32 :=
  if i < 0x200 then 0x03000000 else if i < 0x400 then 0x0130001E else if i < 0x500 then 0 else 0x0030001E

/-- A guard word that takes effect at frame `f` enters the copy, unless the lock is closed or it is poison (R413,
R643). -/
def State.guardTake (s : State) (i f : Nat) (x : Sinter) : State :=
  if s.locked || x.isPoison || decide (0x600 ≤ i) then s
  else { s with fum := { s.fum with guard := s.fum.guard.upd [] i ((f, x) :: keepFrom Prod.fst s.horizon (s.fum.guard.look [] i)) } }

/-- The guard word in force for frame `f`: where Geyser delivers poison, that of the frame before (R643). -/
def State.guardAt (s : State) (i f : Nat) : BitVec 32 :=
  let g := if s.gys.bad = some (0x1C0000 + i) then f - 1 else f
  match (s.fum.guard.look [] i).find? (fun e => decide (e.1 ≤ g)) with
  | some e => e.2.data
  | none => guardReset i

end Sys2Proof.Machine
end

