-- ==== Sys2Proof/Machine/Locks.lean ====
section
/-! DEFINITION. The locks of the fabric's masters (R517 to R520) and the halt of the steward (R186, R424), which every unit
can bring about. -/

namespace Sys2Proof.Machine

/-- The port a master has locked. -/
def State.lockedPort (s : State) (m : Nat) : Option Nat :=
  if m = 0 ∧ s.bit Reg.FABLOCK_M0_OPEN then some (s.get Reg.FABLOCK_M0_PORT)
  else if m = 4 ∧ s.bit Reg.FABLOCK_M4_OPEN then some (s.get Reg.FABLOCK_M4_PORT)
  else none

/-- A lock is released. -/
def State.lockFree (s : State) (m : Nat) : State :=
  if m = 0 then (s.putBit Reg.FABLOCK_M0_OPEN false).put Reg.FABLOCK_M0_PORT 0
  else (s.putBit Reg.FABLOCK_M4_OPEN false).put Reg.FABLOCK_M4_PORT 0

/-- A master's lock is broken (R520): 0 reset, 1 timeout, 2 fault. -/
def State.lockBreak (s : State) (m cause : Nat) : State :=
  match s.lockedPort m with
  | none => s
  | some p =>
    let s1 := ((((s.lockFree m).put Reg.FABLOCKBRK_OWNER m).put Reg.FABLOCKBRK_PORT p).put Reg.FABLOCKBRK_CAUSE
      cause).putBit Reg.FABSTAT_LOCK_BROKEN true
    { s1 with fab := { s1.fab with broken := (m, p) :: s1.fab.broken } }.raise 178

/-- The steward halts (R186): its lock is broken (R520) and Fumarole acts (R424, R427). -/
def State.stewardHalt (s : State) : State :=
  let s1 := { s with stw := { s.stw with halted := true, running := false, core := { s.stw.core with live := false } } }
  (((s1.lockBreak 0 2).fumEvent 204 (4096 * fumLockstep))).fumAct Reg.FUMCFG_LOCKSTEP_ACT fumLockstep 204

end Sys2Proof.Machine
end

