-- ==== Sys2Proof/Machine/Flags.lean ====
section
/-! DEFINITION. The flag and mode bits of ST (03_cells), every flag computation of R147 and R148, and the fitting of an
exact result to 32 bits with its residue (R110, R112). -/

namespace Sys2Proof.Machine

/-- The five flags (ST bits 4:0). -/
structure Flags where
  z : Bool
  n : Bool
  v : Bool
  c : Bool
  u : Bool
  deriving DecidableEq, Repr

/-- ST bit numbers (03_cells, ST table). -/
def stZ : Nat := 0
def stN : Nat := 1
def stV : Nat := 2
def stC : Nat := 3
def stU : Nat := 4
def stSat : Nat := 8
def stRes : Nat := 9
def stPsn : Nat := 10
def stAov : Nat := 11
def stSatEn : Nat := 16

/-- The bits of ST that `mtc` writes: its RW fields (R144). -/
def stWritable : BitVec 32 := 0x10F1F

/-- ST with one bit set. -/
def stSet (st : BitVec 32) (b : Nat) : BitVec 32 := st ||| BitVec.twoPow 32 b

/-- ST with its five flags replaced. -/
def stFlags (st : BitVec 32) (f : Flags) : BitVec 32 :=
  (st &&& 0xFFFFFFE0) ||| ((if f.z then 1 else 0) ||| (if f.n then 2 else 0) ||| (if f.v then 4 else 0) |||
    (if f.c then 8 else 0) ||| (if f.u then 16 else 0))

/-- The flags of a poison operand: U set; Z, N, V and C clear (R116). -/
def Flags.unordered : Flags := ⟨false, false, false, false, true⟩

/-- Z and N of a result, with the given V and C (R148). -/
def Flags.ofResult (x : BitVec 32) (v c : Bool) : Flags := ⟨x == 0, x.msb, v, c, false⟩

/-- Carry out of the unsigned 32-bit sum (R148). -/
def carryAdd (a b : BitVec 32) : Bool := decide (2 ^ 32 ≤ a.toNat + b.toNat)

/-- Carry out of a + NOT b + 1 (R148). -/
def carrySub (a b : BitVec 32) : Bool := decide (2 ^ 32 ≤ a.toNat + (~~~b).toNat + 1)

/-- The largest and smallest 32-bit signed values. -/
def max32 : Int := 2147483647
def min32 : Int := -2147483648

/-- An exact result fitted to 32 bits. -/
structure Fit where
  word : Sinter
  v    : Bool
  sat  : Bool
  deriving DecidableEq, Repr

/-- Fits an exact result with carried residue `r`: in range it is kept; out of range it saturates, with the residue of
the constant, or wraps, 2^32 being 16 mod 127 (R110, R112). -/
def fit32 (exact r : Int) (sat : Bool) : Fit :=
  if min32 ≤ exact ∧ exact ≤ max32 then ⟨Sinter.withRes (BitVec.ofInt 32 exact) (residueInt r), false, false⟩
  else if sat then
    ⟨Sinter.ofData (BitVec.ofInt 32 (if 0 < exact then max32 else min32)), true, true⟩
  else
    ⟨Sinter.withRes (BitVec.ofInt 32 exact)
      (residueInt (r - 16 * ((exact - (BitVec.ofInt 32 exact).toInt) / 4294967296))), true, false⟩

/-- The condition of `sel` on ST (R147). -/
def selHolds (st : BitVec 32) : SelCond → Bool
  | .lt => st.getLsbD stN
  | .ge => !st.getLsbD stN
  | .eq => st.getLsbD stZ
  | .ne => !st.getLsbD stZ

/-- The condition of a conditional branch on ST: false when U is 1, save `uo` (R116, R163). -/
def branchHolds (st : BitVec 32) : BrCond → Bool
  | .uo => st.getLsbD stU
  | .eq => !st.getLsbD stU && st.getLsbD stZ
  | .ne => !st.getLsbD stU && !st.getLsbD stZ
  | .lt => !st.getLsbD stU && st.getLsbD stN
  | .ge => !st.getLsbD stU && !st.getLsbD stN
  | .gt => !st.getLsbD stU && (!st.getLsbD stN && !st.getLsbD stZ)
  | .le => !st.getLsbD stU && (st.getLsbD stN || st.getLsbD stZ)
  | .vs => !st.getLsbD stU && st.getLsbD stV
  | .vc => !st.getLsbD stU && !st.getLsbD stV
  | .cs => !st.getLsbD stU && st.getLsbD stC
  | .cc => !st.getLsbD stU && !st.getLsbD stC

end Sys2Proof.Machine
end

