-- ==== Sys2Proof/Machine/Operands.lean ====
section
/-! DEFINITION. Reading and writing a core's registers (R92, R94, R95, R97) and every pointer and modifier form the
memory slots have (R101, R140). -/

namespace Sys2Proof.Machine

/-! ### Registers -/

/-- A G register: G0 reads as 0 with a valid residue (R92); a register not written since task entry holds the free
value of the entry (R94), and 0 after reset (log 2). -/
def Core.rdG (c : Core) (r : Nat) : Sinter :=
  if r = 0 then Sinter.zero else
  match c.g.look none r with
  | some v => v
  | none => if c.entry = 0 then Sinter.zero else Config.entryG c.entry r

/-- A P, M, L, B or LC register by its creg code (R143). -/
def Core.rdC (c : Core) (k : Nat) : BitVec 16 :=
  match c.c.look none k with
  | some v => v
  | none => if c.entry = 0 then 0 else Config.entryC c.entry k

/-- An accumulator as `sta` and every other read but `mac` and `msu` into it see it (R97). -/
def Core.rdA (c : Core) (n : Nat) : Acc := c.a.look Acc.zero n

/-- An accumulator as `mac` and `msu` into it see it (R97). -/
def Core.rdAM (c : Core) (n : Nat) : Acc := c.am.look Acc.zero n

def Core.p (c : Core) (n : Nat) : BitVec 16 := c.rdC n
def Core.m (c : Core) (n : Nat) : BitVec 16 := c.rdC (8 + n)
def Core.l (c : Core) (n : Nat) : BitVec 16 := c.rdC (16 + n)
def Core.b (c : Core) (n : Nat) : BitVec 16 := c.rdC (24 + n)
def Core.lc (c : Core) (n : Nat) : BitVec 16 := c.rdC (32 + n)

/-- A result on its way: readable `lat` bundles after the bundle that issued it (R97). -/
def Core.send (c : Core) (lat : Nat) (d : Dst) (v : Val) : Core :=
  { c with fly := c.fly ++ [⟨c.count + lat, c.count, d, v⟩] }

/-- ST with a sticky or flag bit set. -/
def Core.stBit (c : Core) (b : Nat) : Core := { c with st := stSet c.st b }

/-- A poison result sets ST.PSN (R115; log 12). -/
def Core.notePoison (c : Core) (x : Sinter) : Core := if x.isPoison then c.stBit stPsn else c

/-- A result for Gd: every write to G0 is discarded (R92), its effects on ST are not (R139). -/
def Core.sendG (c : Core) (lat r : Nat) (x : Sinter) : Core :=
  if r = 0 then c.notePoison x else (c.notePoison x).send lat (.g r) (.w x)

/-- A result for An: for the next `mac` after 1 bundle, for every other read after 3 (R97). -/
def Core.sendA (c : Core) (n : Nat) (x : Acc) : Core := (c.send 1 (.am n) (.acc x)).send 3 (.a n) (.acc x)

/-- A result in flight that lands is written to its register. -/
def Core.land1 (c : Core) (e : InFlight) : Core :=
  match e.dst, e.val with
  | .g r, .w x => { c with g := c.g.upd none r (some x) }
  | .a n, .acc x => { c with a := c.a.upd Acc.zero n x }
  | .am n, .acc x => { c with am := c.am.upd Acc.zero n x }
  | .c k, .h x => { c with c := c.c.upd none k (some x) }
  | _, _ => c

/-- The results due by bundle count `n` land, those of earlier bundles first, so that of two for one register the later
bundle's stands (R98). -/
def Core.land (c : Core) (n : Nat) : Core :=
  (c.fly.filter (fun e => decide (e.due ≤ n))).foldl Core.land1
    { c with fly := c.fly.filter (fun e => !decide (e.due ≤ n)) }

/-! ### Modifiers and pointers -/

/-- The low `k` bits of `x` in reverse order. -/
def revBits : Nat → Nat → Nat
  | 0, _ => 0
  | k + 1, x => (x % 2) * 2 ^ k + revBits k (x / 2)

/-- A decoded modifier: the amount d, and whether the bit-reversed form is selected (R140). -/
structure Modifier where
  d   : Int
  rev : Bool
  deriving DecidableEq, Repr

/-- The AM4 field (R140). -/
def Core.am4 (c : Core) (am : BitVec 4) : Modifier :=
  if am.toNat < 8 then ⟨(c.m am.toNat).toInt, false⟩
  else if am.toNat = 8 then ⟨0, false⟩
  else if am.toNat = 9 then ⟨1, false⟩
  else if am.toNat = 10 then ⟨-1, false⟩
  else if am.toNat = 11 then ⟨2, false⟩
  else ⟨(c.m (am.toNat - 12)).toInt, true⟩

/-- The AM2 field of a pointer Pn (R140). -/
def Core.am2 (c : Core) (n : Nat) (am : BitVec 2) : Modifier :=
  if am.toNat = 0 then ⟨0, false⟩
  else if am.toNat = 1 then ⟨1, false⟩
  else if am.toNat = 2 then ⟨16, false⟩
  else ⟨(c.m n).toInt, false⟩

/-- The new Pn after an access (R101): linear, circular or bit-reversed. -/
def Core.newPtr (c : Core) (n : Nat) (m : Modifier) : BitVec 16 :=
  if m.rev then
    BitVec.ofInt 16 ((c.b n).toNat +
      revBits (if (c.l n).toNat = 0 then 16 else Nat.log2 (c.l n).toNat)
        (revBits (if (c.l n).toNat = 0 then 16 else Nat.log2 (c.l n).toNat)
            (((c.p n).toNat - (c.b n).toNat : Int) % 2 ^ (if (c.l n).toNat = 0 then 16 else Nat.log2 (c.l n).toNat)).toNat +
          revBits (if (c.l n).toNat = 0 then 16 else Nat.log2 (c.l n).toNat)
            (m.d % 2 ^ (if (c.l n).toNat = 0 then 16 else Nat.log2 (c.l n).toNat)).toNat))
  else if (c.l n).toNat = 0 then BitVec.ofInt 16 ((c.p n).toNat + m.d)
  else BitVec.ofInt 16 ((c.b n).toNat + ((c.p n).toNat - (c.b n).toNat + m.d) % ((c.l n).toNat : Int))

/-- The post-modify of Pn, readable 1 bundle later (R97, R101). -/
def Core.post (c : Core) (n : Nat) (m : Modifier) : Core := c.send 1 (.c n) (.h (c.newPtr n m))

/-- The shift of an `sta`, a two's-complement field, is in range (R154, R168). -/
def shiftOk (sh : BitVec 5) : Bool := decide (-8 ≤ sh.toInt) && decide (sh.toInt ≤ 8)

/-- The creg codes `mtc` may name (R143): P, M, L, B, LC and ST. -/
def cregWritable (k : BitVec 6) : Bool := decide (k.toNat ≤ 0x23)

/-- The creg codes `mfc` may name (R143). -/
def cregReadable (k : BitVec 6) : Bool := decide (k.toNat ≤ 0x24)

/-- The target of a branch, 12 bits: absolute in a cell (R163), an offset from the branch bundle on the steward
(R181), within its 19-bit PC. -/
def targetOf (u : Exe) (pc : Nat) (t : BitVec 12) : Nat :=
  match u with
  | .cell _ => t.toNat
  | .steward => (((pc : Int) + t.toInt) % 2 ^ 19).toNat

end Sys2Proof.Machine
end

