-- ==== Sys2Proof/Machine/Cell.lean ====
section
/-! DEFINITION. The frame every instruction runs in: which work a datapath carries (R40, R391), the running task (R25,
R94, R126), traps and residue faults of a cell (R113, R114, R128), the exceptions of the steward in their place (R186),
and the one operation by which a compute-slot instruction acts. -/

namespace Sys2Proof.Machine

/-! ### Cells and the work they carry -/

/-- Cluster and position of a physical cell. -/
def cellCl (p : Nat) : Nat := p / 9
def cellK (p : Nat) : Nat := p % 9

/-- The physical cell of working cell W (00_scope, cell addressing). -/
def physOf (w : Nat) : Nat := 9 * (w / 8) + w % 8

/-- The working cell number of a physical cell with k below 8. -/
def workOf (p : Nat) : Nat := 8 * (p / 9) + p % 9

/-- The spare of a cluster carries another cell's work (STATE CARRY or HOLDOFF). -/
def State.spareCarries (s : State) (cl : Nat) : Bool :=
  s.get (Reg.SPARESTAT_STATE cl) == 2 || s.get (Reg.SPARESTAT_STATE cl) == 3

/-- The cell whose work the datapath of physical cell `p` runs: its own; for a carrying spare that of the cell it
carries; none for a cell whose work is carried, for a patrolling spare (its stores reach nothing, R59), or in a
degraded cluster (R20). -/
def State.eff (s : State) (p : Nat) : Option Nat :=
  if s.eng.degraded.contains (cellCl p) then none
  else if cellK p = 8 then
    (if s.spareCarries (cellCl p) then some (9 * cellCl p + s.get (Reg.SPARESTAT_CARRY_K (cellCl p))) else none)
  else if s.spareCarries (cellCl p) && s.get (Reg.SPARESTAT_CARRY_K (cellCl p)) == cellK p then none
  else some p

/-- The record of a cell. -/
def State.cell (s : State) (e : Nat) : Cell := s.cells.look Cell.reset e

/-- The state with the record of a cell replaced. -/
def State.setCell (s : State) (e : Nat) (c : Cell) : State := { s with cells := s.cells.upd Cell.reset e c }

/-- The core an instruction addressed to `u` runs on; a datapath that runs no work shows an idle core. -/
def State.core (s : State) (u : Exe) : Core :=
  match u with
  | .steward => s.stw.core
  | .cell p => match s.eff p with
    | some e => (s.cell e).core
    | none => Core.reset

/-- The state with that core replaced. -/
def State.setCore (s : State) (u : Exe) (c : Core) : State :=
  match u with
  | .steward => { s with stw := { s.stw with core := c } }
  | .cell p => match s.eff p with
    | some e => s.setCell e { s.cell e with core := c }
    | none => s

/-! ### The running task -/

/-- The task table in force for window `w`. -/
def Cell.table (c : Cell) (w : Nat) : Option Adopted := c.tables.find? (fun a => decide (a.win ≤ w))

/-- The running task of a cell. -/
def Cell.runningTask (c : Cell) (w : Nat) : Option Task :=
  match c.task, c.table w with
  | some t, some a => a.tasks.find? (fun x => decide (x.idx = t))
  | _, _ => none

/-- The running task is an S3 task. -/
def Cell.isS3 (c : Cell) (w : Nat) : Bool :=
  match c.runningTask w with
  | some t => t.s3
  | none => false

/-- Frame j of the period a task of this window works on, counted with 64 added so that the first windows have one:
period w - 1 in S1, w - 3 in S3 (R25). -/
def State.workFrame (s : State) (s3 : Bool) (j : Nat) : Nat := 16 * (s.window + 4 - (if s3 then 3 else 1)) + j

/-- A core at the entry of a task (R94): ST cleared but for SAT_EN, no loop, an empty call stack, accumulators 0; no
other register has a defined value: `gen` numbers the entry and selects the free values. -/
def Core.enter (c : Core) (t : Task) (gen : Nat) : Core :=
  { Core.reset with
    entry := gen, st := (if t.satEn then 0x10000 else 0), stRead := (if t.satEn then 0x10000 else 0),
    npc := t.entry, pc := t.entry, count := c.count + 8, bundle := 0 }

/-- A cell that enters a task, 4 cycles (R99), or ends its window when there is none left (R126). -/
def Cell.enter (c : Cell) (t : Option Task) (gen : Nat) : Cell :=
  match t with
  | some t => { c with core := c.core.enter t gen, task := some t.idx, taskCyc := 4, winCyc := c.winCyc + 4 }
  | none => { c with core := { c.core with live := false }, task := none, used := c.winCyc }

/-- The enabled task after index `t` in the table in force (R126). -/
def Cell.nextTask (c : Cell) (w t : Nat) : Option Task :=
  match c.table w with
  | some a => a.tasks.find? (fun x => decide (t < x.idx))
  | none => none

/-- The generation number of a task entry of cell `e` in this step. -/
def State.entryGen (s : State) (e : Nat) : Nat := (s.free + 1) * 288 + e

/-- An event raised at most once per cell per window (R127, R129). -/
def State.raiseCellOnce (s : State) (e n : Nat) : State :=
  if (s.cell e).once.contains n then s
  else (s.setCell e { s.cell e with once := n :: (s.cell e).once }).raise n

/-! ### Faults and traps -/

/-- The task field of CELLFAULT. -/
def Cell.taskNo (c : Cell) : Nat := match c.task with | some t => t | none => 0

/-- The record of a trap or fault in CELLFAULT. -/
def State.cellFault (s : State) (e cause addr : Nat) : State :=
  ((s.put (Reg.CELLFAULT_CAUSE (cellCl e) (cellK e)) cause).put (Reg.CELLFAULT_TASK (cellCl e) (cellK e))
    (s.cell e).taskNo).put (Reg.CELLFAULT_ADDR (cellCl e) (cellK e)) addr

/-- A fault the cell raises to its cluster (R20): a second within 8 periods of the first confirms it. -/
def State.noteFault (s : State) (e : Nat) : State :=
  match (s.cell e).faultAt with
  | some q => if s.period ≤ q + 8 then s.setCell e { s.cell e with confirmed := true }
              else s.setCell e { s.cell e with faultAt := some s.period }
  | none => s.setCell e { s.cell e with faultAt := some s.period }

/-- The steward takes an exception (R186): EPC and EINFO as given, IE copied to PIE, IE cleared, EXL set, execution at
VBASE + 16 * ECAUSE.  An exception other than an event while EXL is 1 halts the steward. -/
def State.stwException (s : State) (cause info epc : Nat) : State :=
  if s.stw.exl && cause != 0xB then
    s.stewardHalt
  else
    { s with stw := { s.stw with
        epc := BitVec.ofNat 19 epc, ecause := BitVec.ofNat 4 cause, einfo := BitVec.ofNat 16 info, pie := s.stw.ie,
        ie := false, exl := true, waiting := false,
        core := { s.stw.core with live := false, npc := (s.stw.vbase.toNat / 16 * 16 + 16 * cause) % 2 ^ 19 } } }

/-- The slots of the bundle that traps take no effect (R178): its results in flight are dropped and ST is as it was. -/
def Core.abort (c : Core) : Core :=
  { c with live := false, st := c.stRead, fly := c.fly.filter (fun x => decide (x.born ≠ c.count)) }

/-- Cell `e` stops at bundle `addr` with its core as given (R128): for the rest of the window, its slots treated as for an
overrun (R27), and E98 raised. -/
def State.cellStop (s : State) (e cause addr : Nat) (c : Core) : State :=
  (((s.cellFault e cause addr).putBit (Reg.CELLSTAT_TRAPPED (cellCl e) (cellK e)) true).noteFault e).setCell e
    { ((((s.cellFault e cause addr).putBit (Reg.CELLSTAT_TRAPPED (cellCl e) (cellK e)) true).noteFault e).cell e) with
      core := c, stopped := true, used := 0x3FFFF, spoiled := s.window :: (s.cell e).spoiled }
    |>.raise 98

/-- A trap of cell `e` at bundle `addr`: no slot of the bundle takes effect (R178). -/
def State.cellTrap (s : State) (e cause addr : Nat) : State := s.cellStop e cause addr (s.cell e).core.abort

/-- A trap of the unit `u` at its present bundle: the cell stops (R128); the steward takes the exception of the same
number with EPC at the bundle (R186). -/
def State.trap (s : State) (u : Exe) (cause : Nat) : State :=
  match u with
  | .cell p => match s.eff p with
    | some e => s.cellTrap e cause (s.cell e).core.pc
    | none => s
  | .steward => (s.setCore .steward s.stw.core.abort).stwException cause 0 s.stw.core.pc

/-- A fault that is no trap (R113, R114, R66): ST.RES is set, CELLFAULT records the bundle, E97 is raised and the cell
continues.  The steward takes the exception of the same number (R185, R186) and raises no E97, an event of the cells (log 198). -/
def State.softFault (s : State) (u : Exe) (cause : Nat) : State :=
  match u with
  | .cell p => match s.eff p with
    | some e => ((((s.setCore u ((s.core u).stBit stRes)).cellFault e cause (s.core u).pc).noteFault e).raise 97)
    | none => s
  | .steward => (s.setCore u ((s.core u).stBit stRes)).stwException cause 0 s.stw.core.pc

/-! ### How an instruction acts -/

/-- What an instruction reports beside its results: nothing, a fault that is no trap, or a trap. -/
inductive Note where
  | ok
  | soft (cause : Nat)
  | trap (cause : Nat)
  deriving DecidableEq, Repr

/-- The state after an instruction of `u` whose core became `c`, with the report `n`: a trap discards the core's change
(R178). -/
def State.commit (s : State) (u : Exe) (c : Core) : Note → State
  | .ok => s.setCore u c
  | .soft k => (s.setCore u c).softFault u k
  | .trap k => s.trap u k

/-- A compute-slot instruction: it acts only in a bundle that has issued and not trapped (R178).  `f` gives the core
after it and its report; the second argument of `f` is a poison word for its result. -/
def State.compute (s : State) (u : Exe) (f : Core → Sinter → Core × Note) : State :=
  if (s.core u).live then s.commit u (f (s.core u) (s.poison 0)).1 (f (s.core u) (s.poison 0)).2 else s

end Sys2Proof.Machine
end

