-- ==== Sys2Proof/Machine/Alu.lean ====
section
/-! DEFINITION. The ALU, select, shift, immediate and register-move instructions of the compute slot (R142 to R150,
R160). -/

namespace Sys2Proof.Machine

/-- A result for Gd, readable after 1 bundle, with the flags it sets and whether it saturated. -/
def Core.result (c : Core) (gd : Nat) (x : Sinter) (f : Option Flags) (sat : Bool) : Core :=
  let c1 := c.sendG 1 gd x
  let c2 := match f with | some f => { c1 with st := stFlags c1.st f } | none => c1
  if sat then c2.stBit stSat else c2

/-- A flag-setting operation with a poison operand (R116, R150). -/
def Core.poisoned (c : Core) (gd : Nat) (pz : Sinter) : Core := c.result gd pz (some Flags.unordered) false

/-- `add`, `sub`, `adds`, `subs` (R110, R112, R147, R148): `minus` subtracts, `always` saturates whatever SAT_EN is. -/
def Core.addSub (c : Core) (gd ga gb : Nat) (minus always : Bool) (pz : Sinter) : Core × Note :=
  let a := c.rdG ga
  let b := c.rdG gb
  if a.isPoison || b.isPoison then (c.poisoned gd pz, .ok)
  else
    let f := if minus then fit32 (a.data.toInt - b.data.toInt) (a.r - b.r) (always || c.stRead.getLsbD stSatEn)
             else fit32 (a.data.toInt + b.data.toInt) (a.r + b.r) (always || c.stRead.getLsbD stSatEn)
    let cy := if minus then carrySub a.data b.data else carryAdd a.data b.data
    (c.result gd f.word (some (Flags.ofResult f.word.data f.v cy)) f.sat, .ok)

/-- The result of a unit built twice (R114): where the copies disagree the result is poison, with a fault that is no
trap. -/
def Core.dupResult (c : Core) (gd lat : Nat) (x : BitVec 32) (f : Option (BitVec 32 → Flags)) (dup : Bool)
    (pz : Sinter) : Core × Note :=
  let w := if dup then pz else Sinter.ofData x
  let c1 := c.sendG lat gd w
  (match f with | some f => { c1 with st := stFlags c1.st (f w.data) } | none => c1, if dup then .soft 8 else .ok)

/-- `and`, `or`, `xor` (R147): `op` on the data, residue generated. -/
def Core.bitwise (c : Core) (gd ga gb : Nat) (op : BitVec 32 → BitVec 32 → BitVec 32) (dup : Bool) (pz : Sinter) :
    Core × Note :=
  if (c.rdG ga).isPoison || (c.rdG gb).isPoison then (c.poisoned gd pz, if dup then .soft 8 else .ok)
  else c.dupResult gd 1 (op (c.rdG ga).data (c.rdG gb).data) (some (fun x => Flags.ofResult x false false)) dup pz

/-- `cmp` (R147, R148): the flags of the exact difference. -/
def Core.compare (c : Core) (ga gb : Nat) : Core × Note :=
  let a := c.rdG ga
  let b := c.rdG gb
  if a.isPoison || b.isPoison then ({ c with st := stFlags c.st Flags.unordered }, .ok)
  else
    let f : Flags := ⟨a.data == b.data, decide (a.data.toInt < b.data.toInt), false, carrySub a.data b.data, false⟩
    ({ c with st := stFlags c.st f }, .ok)

/-- `min` and `max` (R147): the chosen operand; no flag. -/
def Core.minMax (c : Core) (gd ga gb : Nat) (larger : Bool) (pz : Sinter) : Core × Note :=
  let a := c.rdG ga
  let b := c.rdG gb
  if a.isPoison || b.isPoison then (c.result gd pz none false, .ok)
  else
    let first := if larger then decide (b.data.toInt ≤ a.data.toInt) else decide (a.data.toInt ≤ b.data.toInt)
    (c.result gd (if first then a else b) none false, .ok)

/-- `abs` (R110, R147): saturates or wraps by SAT_EN; C = 0. -/
def Core.absolute (c : Core) (gd ga : Nat) (pz : Sinter) : Core × Note :=
  let a := c.rdG ga
  if a.isPoison then (c.poisoned gd pz, .ok)
  else
    let f := if a.data.toInt < 0 then fit32 (-a.data.toInt) (-(a.r : Int)) (c.stRead.getLsbD stSatEn)
             else fit32 a.data.toInt a.r (c.stRead.getLsbD stSatEn)
    (c.result gd f.word (some (Flags.ofResult f.word.data f.v false)) f.sat, .ok)

/-- The limit of `clip`: |b| saturated to 0x7FFF_FFFF, with its residue (R147, R112). -/
def clipLimit (b : Sinter) : Sinter :=
  if b.data.toInt = min32 then Sinter.ofData 0x7FFFFFFF
  else if b.data.toInt < 0 then Sinter.withRes (-b.data) (residueInt (-(b.r : Int)))
  else b

/-- The negative limit of `clip`. -/
def clipLow (b : Sinter) : Sinter :=
  Sinter.withRes (-(clipLimit b).data) (residueInt (-((clipLimit b).r : Int)))

/-- `clip` (R111, R115, R147): the operand, or the limit it exceeds; V = 1 when limited. -/
def Core.clipTo (c : Core) (gd ga gb : Nat) (pz : Sinter) : Core × Note :=
  let a := c.rdG ga
  let b := c.rdG gb
  if a.isPoison || b.isPoison then (c.poisoned gd pz, .ok)
  else
    let x := if (clipLimit b).data.toInt < a.data.toInt then clipLimit b
             else if a.data.toInt < -(clipLimit b).data.toInt then clipLow b else a
    let lim := decide ((clipLimit b).data.toInt < a.data.toInt) || decide (a.data.toInt < -(clipLimit b).data.toInt)
    (c.result gd x (some (Flags.ofResult x.data lim false)) false, .ok)

/-- `sel` (R115, R147): poison when U is set or the chosen operand is poison. -/
def Core.select (c : Core) (cond : SelCond) (gd ga gb : Nat) (pz : Sinter) : Core × Note :=
  if c.stRead.getLsbD stU then (c.result gd pz none false, .ok)
  else (c.result gd (if selHolds c.stRead cond then c.rdG ga else c.rdG gb) none false, .ok)

/-- The kinds of shift (R147). -/
inductive ShiftKind where
  | shl | sra | shr | norm
  deriving DecidableEq, Repr

/-- C of a left shift by `t`: the last bit out of bit 31 (R147). -/
def carryLeft (x : BitVec 32) (t cnt : Nat) : Bool :=
  if t = 0 then Config.shiftCarry0 cnt else decide (t ≤ 32) && x.getLsbD (32 - t)

/-- C of a right shift by `t`: the last bit out of bit 0, past the width the fill (R147). -/
def carryRight (x : BitVec 32) (t cnt : Nat) (fill : Bool) : Bool :=
  if t = 0 then Config.shiftCarry0 cnt else if t ≤ 32 then x.getLsbD (t - 1) else fill

/-- A shift by `t`, 0 to 63, of an operand that is not poison (R111, R112, R147). -/
def Core.shift (c : Core) (k : ShiftKind) (gd : Nat) (a : Sinter) (t : Nat) (dup : Bool) (pz : Sinter) :
    Core × Note :=
  match k with
  | .shl => c.dupResult gd 1 (a.data <<< t)
      (some (fun x => Flags.ofResult x false (carryLeft a.data t c.count))) dup pz
  | .shr => c.dupResult gd 1 (a.data >>> t)
      (some (fun x => Flags.ofResult x false (carryRight a.data t c.count false))) dup pz
  | .sra =>
      let q := a.data.toInt / 2 ^ t
      let r := ((a.r : Int) - (residueInt (a.data.toInt % 2 ^ t)).toNat) * 2 ^ ((7 - t % 7) % 7)
      let w := Sinter.withRes (BitVec.ofInt 32 q) (residueInt r)
      (c.result gd w (some (Flags.ofResult w.data false (carryRight a.data t c.count a.data.msb))) false, .ok)
  | .norm =>
      let f := fit32 (a.data.toInt * 2 ^ t) ((a.r : Int) * 2 ^ (t % 7)) true
      (c.result gd f.word (some (Flags.ofResult f.word.data f.v false)) f.sat, .ok)

/-- A shift by an immediate count (R147, R150). -/
def Core.shiftImm (c : Core) (k : ShiftKind) (gd ga t : Nat) (dup : Bool) (pz : Sinter) : Core × Note :=
  if (c.rdG ga).isPoison then (c.poisoned gd pz, if dup then .soft 8 else .ok)
  else c.shift k gd (c.rdG ga) t dup pz

/-- A shift by bits 5:0 of Gb (R149): a faulty count traps with CAUSE 0x6, a poison count gives poison. -/
def Core.shiftReg (c : Core) (k : ShiftKind) (gd ga gb : Nat) (dup : Bool) (pz : Sinter) : Core × Note :=
  if (c.rdG gb).faulty then (c, .trap 6)
  else if (c.rdG ga).isPoison || (c.rdG gb).isPoison then (c.poisoned gd pz, if dup then .soft 8 else .ok)
  else c.shift k gd (c.rdG ga) ((c.rdG gb).data.toNat % 64) dup pz

/-- `mtc` (R93, R143, R144): an unassigned creg or PRD is an illegal encoding; a poison or faulty Gs traps with CAUSE
0x6; L and B are readable after 2 bundles, the others after 1 (R97). -/
def Core.mtc (c : Core) (creg : BitVec 6) (gs : Nat) : Core × Note :=
  if !cregWritable creg then (c, .trap 2)
  else if !(c.rdG gs).ok then (c, .trap 6)
  else if creg.toNat = 0x23 then
    ({ c with st := (c.st &&& ~~~stWritable) ||| ((c.rdG gs).data &&& stWritable) }, .ok)
  else (c.send (if 16 ≤ creg.toNat ∧ creg.toNat < 32 then 2 else 1) (.c creg.toNat)
      (.h ((c.rdG gs).data.setWidth 16)), .ok)

/-- What `mfc` reads (R145): P, L, B and LC zero-extended, M sign-extended, ST, and PRD as given. -/
def Core.mfcValue (c : Core) (creg : BitVec 6) (prd : BitVec 32) : BitVec 32 :=
  if creg.toNat = 0x24 then prd
  else if creg.toNat = 0x23 then c.stRead
  else if 8 ≤ creg.toNat ∧ creg.toNat < 16 then (c.rdC creg.toNat).signExtend 32
  else (c.rdC creg.toNat).setWidth 32

/-- `mfc` (R143, R145). -/
def Core.mfc (c : Core) (gd : Nat) (creg : BitVec 6) (prd : BitVec 32) (dup : Bool) (pz : Sinter) : Core × Note :=
  if !cregReadable creg then (c, .trap 2) else c.dupResult gd 1 (c.mfcValue creg prd) none dup pz

/-- PRD as the unit reads it (03_cells, PRD table). -/
def State.prd (s : State) (u : Exe) : BitVec 32 :=
  match u with
  | .steward => BitVec.ofNat 32 (s.frame % 65536)
  | .cell p => match s.eff p with
    | none => BitVec.ofNat 32 (s.frame % 65536)
    | some e => match (s.cell e).runningTask s.window with
      | none => BitVec.ofNat 32 (s.frame % 65536)
      | some t => BitVec.ofNat 32 (s.frame % 65536 + 2 ^ 16 * (if t.s3 then 3 else 1) + 2 ^ 18 * t.idx +
          2 ^ 24 * ((s.window + 256 - (if t.s3 then 3 else 1)) % 256))

/-! ### The instructions -/

def execNop (u : Exe) (s : State) : Host.Outcome State Fault Refusal := done (s.compute u (fun c _ => (c, .ok)))

/-- `add` saturates or wraps by SAT_EN (R110, R147). -/
def execAdd (u : Exe) (gd ga gb : Fin 32) (s : State) : Host.Outcome State Fault Refusal :=
  done (s.compute u (fun c pz => c.addSub gd ga gb false false pz))

/-- `sub` saturates or wraps by SAT_EN (R110, R147). -/
def execSub (u : Exe) (gd ga gb : Fin 32) (s : State) : Host.Outcome State Fault Refusal :=
  done (s.compute u (fun c pz => c.addSub gd ga gb true false pz))

/-- `adds` always saturates (R110, R147). -/
def execAdds (u : Exe) (gd ga gb : Fin 32) (s : State) : Host.Outcome State Fault Refusal :=
  done (s.compute u (fun c pz => c.addSub gd ga gb false true pz))

/-- `subs` always saturates (R110, R147). -/
def execSubs (u : Exe) (gd ga gb : Fin 32) (s : State) : Host.Outcome State Fault Refusal :=
  done (s.compute u (fun c pz => c.addSub gd ga gb true true pz))

def execAnd (u : Exe) (gd ga gb : Fin 32) (dup : Bool) (s : State) : Host.Outcome State Fault Refusal :=
  done (s.compute u (fun c pz => c.bitwise gd ga gb (fun x y => x &&& y) dup pz))

def execOr (u : Exe) (gd ga gb : Fin 32) (dup : Bool) (s : State) : Host.Outcome State Fault Refusal :=
  done (s.compute u (fun c pz => c.bitwise gd ga gb (fun x y => x ||| y) dup pz))

def execXor (u : Exe) (gd ga gb : Fin 32) (dup : Bool) (s : State) : Host.Outcome State Fault Refusal :=
  done (s.compute u (fun c pz => c.bitwise gd ga gb (fun x y => x ^^^ y) dup pz))

def execCmp (u : Exe) (ga gb : Fin 32) (s : State) : Host.Outcome State Fault Refusal :=
  done (s.compute u (fun c _ => c.compare ga gb))

def execMin (u : Exe) (gd ga gb : Fin 32) (s : State) : Host.Outcome State Fault Refusal :=
  done (s.compute u (fun c pz => c.minMax gd ga gb false pz))

def execMax (u : Exe) (gd ga gb : Fin 32) (s : State) : Host.Outcome State Fault Refusal :=
  done (s.compute u (fun c pz => c.minMax gd ga gb true pz))

def execAbs (u : Exe) (gd ga : Fin 32) (s : State) : Host.Outcome State Fault Refusal :=
  done (s.compute u (fun c pz => c.absolute gd ga pz))

def execClip (u : Exe) (gd ga gb : Fin 32) (s : State) : Host.Outcome State Fault Refusal :=
  done (s.compute u (fun c pz => c.clipTo gd ga gb pz))

def execSel (u : Exe) (cond : SelCond) (gd ga gb : Fin 32) (s : State) : Host.Outcome State Fault Refusal :=
  done (s.compute u (fun c pz => c.select cond gd ga gb pz))

def execShl (u : Exe) (gd ga gb : Fin 32) (dup : Bool) (s : State) : Host.Outcome State Fault Refusal :=
  done (s.compute u (fun c pz => c.shiftReg .shl gd ga gb dup pz))

def execSra (u : Exe) (gd ga gb : Fin 32) (s : State) : Host.Outcome State Fault Refusal :=
  done (s.compute u (fun c pz => c.shiftReg .sra gd ga gb false pz))

def execShr (u : Exe) (gd ga gb : Fin 32) (dup : Bool) (s : State) : Host.Outcome State Fault Refusal :=
  done (s.compute u (fun c pz => c.shiftReg .shr gd ga gb dup pz))

def execNorm (u : Exe) (gd ga gb : Fin 32) (s : State) : Host.Outcome State Fault Refusal :=
  done (s.compute u (fun c pz => c.shiftReg .norm gd ga gb false pz))

def execShli (u : Exe) (gd ga t : Fin 32) (dup : Bool) (s : State) : Host.Outcome State Fault Refusal :=
  done (s.compute u (fun c pz => c.shiftImm .shl gd ga t dup pz))

def execSrai (u : Exe) (gd ga t : Fin 32) (s : State) : Host.Outcome State Fault Refusal :=
  done (s.compute u (fun c pz => c.shiftImm .sra gd ga t false pz))

def execShri (u : Exe) (gd ga t : Fin 32) (dup : Bool) (s : State) : Host.Outcome State Fault Refusal :=
  done (s.compute u (fun c pz => c.shiftImm .shr gd ga t dup pz))

def execNormi (u : Exe) (gd ga t : Fin 32) (s : State) : Host.Outcome State Fault Refusal :=
  done (s.compute u (fun c pz => c.shiftImm .norm gd ga t false pz))

/-- `li` (R160): the immediate, sign-extended from 12 bits. -/
def execLi (u : Exe) (gd : Fin 32) (imm : BitVec 12) (dup : Bool) (s : State) : Host.Outcome State Fault Refusal :=
  done (s.compute u (fun c pz => c.dupResult gd 1 (imm.signExtend 32) none dup pz))

/-- `lui` (R160): the immediate in bits 31:20. -/
def execLui (u : Exe) (gd : Fin 32) (imm : BitVec 12) (dup : Bool) (s : State) : Host.Outcome State Fault Refusal :=
  done (s.compute u (fun c pz => c.dupResult gd 1 (imm.setWidth 32 <<< 20) none dup pz))

def execMtc (u : Exe) (creg : BitVec 6) (gs : Fin 32) (s : State) : Host.Outcome State Fault Refusal :=
  done (s.compute u (fun c _ => c.mtc creg gs))

def execMfc (u : Exe) (gd : Fin 32) (creg : BitVec 6) (dup : Bool) (s : State) : Host.Outcome State Fault Refusal :=
  done (s.compute u (fun c pz => c.mfc gd creg (s.prd u) dup pz))

end Sys2Proof.Machine
end

