-- ==== Sys2Proof/Machine/Clocks.lean ====
section
/-! DEFINITION. The core loop (R443 to R463, R469): its states, inputs, ranges, spread and monitors; and the islands'
clocks (R464 to R468).  What a lost input and the entry to a ramp bring about beyond the loop is in References.lean and
Power.lean. -/

namespace Sys2Proof.Machine

/-! ### The loop's states (R448) -/

def loopOff : Nat := 0
def loopCal : Nat := 1
def loopAcquire : Nat := 2
def loopRamp : Nat := 3
def loopAlign : Nat := 4
def loopLocked : Nat := 5
def loopHold : Nat := 6
def loopFloor : Nat := 7

def State.loop (s : State) : Nat := s.get Reg.CORESTAT_STATE

/-- A clock command is refused (R445, R452, R454, R456, R464). -/
def State.clkRefuse (s : State) (kind : Nat) : State := (s.put Reg.CLKFAULT_KIND kind).raise 15

/-- Spread stops (R456). -/
def State.sscStop (s : State) : State :=
  if s.bit Reg.CORESTAT_SSC_ON then (s.putBit Reg.CORESTAT_SSC_ON false).raise 13 else s

/-- C is 0 (R425, R455). -/
def State.cZero (s : State) : Bool := decide (s.fum.ang = 144)

/-- The root in Hz that N (in units of 2^-24) gives on the present input, where the input's frequency is known (R444,
R445). -/
def State.rootHz (s : State) (insel refscale n : Nat) : Option Nat :=
  if insel ≠ 0 then some (32768 * s.baseRate)
  else if s.clk.href = 0 then none
  else some ((if refscale = 1 then 2 * s.clk.href else if refscale = 2 then s.clk.href / 2 else s.clk.href) * n / 2 ^ 24)

/-- A root above the guard frequency, 1,633.5 MHz (R452); an unknown HREF cannot be judged. -/
def aboveGuard (hz : Option Nat) : Bool := match hz with | some f => decide (1633500000 < f) | none => false

/-- The service N of the selected input in units of 2^-24 (R444). -/
def State.serviceN (s : State) : Nat :=
  match s.get Reg.CORECFG_INSEL with
  | 0 => s.get Reg.CORENINT_NINT * 2 ^ 24 + s.get Reg.CORENFRAC_FRAC
  | 1 => 32768 * 2 ^ 24 / 2 ^ s.get Reg.CLKINCFG_WCK0_M
  | 2 => 32768 * 2 ^ 24 / 2 ^ s.get Reg.CLKINCFG_WCK1_M
  | _ => 32768 * 2 ^ 24 / s.mult

/-- An input is usable: a reserved multiplier makes a word clock unusable (CLKINCFG). -/
def State.inputUsable (s : State) (i : Nat) : Bool :=
  !(i == 1 && s.get Reg.CLKINCFG_WCK0_M == 3) && !(i == 2 && s.get Reg.CLKINCFG_WCK1_M == 3)

/-- A spread setting takes effect in LOCKED (R456). -/
def State.sscApply (s : State) : State :=
  let v := s.get Reg.CORECTL_SSC
  let high := match s.rootHz (s.get Reg.CORESTAT_INPUT_NOW) (s.get Reg.CORECFG_REFSCALE) s.clk.n with
    | some f => decide (v = 2) && decide (1633500000 * 10000 < f * 10025)
    | none => false
  if v = 0 then (s.putBit Reg.CORESTAT_SSC_NOREF false).sscStop
  else if !s.bit Reg.AUXSTAT_SDREF_OK then ((s.sscStop).putBit Reg.CORESTAT_SSC_NOREF true).raise 15
  else if high then (s.sscStop.putBit Reg.CORESTAT_SSC_NOREF false).clkRefuse 4
  else
    let s1 := s.putBit Reg.CORESTAT_SSC_NOREF false
    (if s.bit Reg.CORESTAT_SSC_ON then s1 else (s1.putBit Reg.CORESTAT_SSC_ON true).raise 13).fumCause fumClock

/-- The frame from which the loop has been LOCKED without spread follows (R424). -/
def State.lockNote (s : State) : State :=
  { s with clk := { s.clk with lockedAt :=
      if s.loop = loopLocked ∧ !s.bit Reg.CORESTAT_SSC_ON then
        (if s.clk.lockedAt = 0 then s.frame + 1 else s.clk.lockedAt) else 0 } }

/-- The loop enters a state: outside LOCKED the time domains are disturbed (R497) and spread stops; outside LOCKED and
HOLD the CLOCK cause is announced (R448). -/
def State.setLoop (s : State) (st : Nat) : State :=
  let s0 := if st = loopLocked ∧ !s.boot.started then s.put Reg.BOOTSTAT_STAGE 1 else s
  let s1 := (s0.put Reg.CORESTAT_STATE st).putBit Reg.MGSTAT_FCLK_OK (st != loopOff)
  let s2 := if st = loopLocked then ((s1.putBit Reg.MGSTAT_CORE_LOCKED true).raise 0).sscApply
    else ((s1.putBit Reg.MGSTAT_CORE_LOCKED false).putBit Reg.TCLATCHCTL_DISTURBED true).sscStop
  let s3 : State := { s2 with clk := { s2.clk with
    ramp := s2.clk.ramp && decide (st ≠ loopLocked), heldAt := if st = loopHold then s.frame else s2.clk.heldAt } }
  (if st = loopLocked ∨ st = loopHold then s3 else s3.fumCause fumClock).lockNote

/-- The N that gives the root its floor, 1,200 MHz (R454, R460), the input being that whose service root is 32,768 × the base
rate. -/
def State.floorN (s : State) : Nat := 1200000000 * s.serviceN / (32768 * s.baseRate)

/-- The loop relocks through CAL; E3 from LOCKED, HOLD, or FLOOR and COAST (R448). -/
def State.loopToCal (s : State) : State :=
  let from7 := s.loop = loopFloor
  let s1 := if s.loop = loopLocked ∨ s.loop = loopHold ∨ from7 then s.raise 3 else s
  let s2 := (((s1.setLoop loopCal).putBit Reg.CORESTAT_INPUT_LOST false).putBit Reg.CORESTAT_COAST false).put
    Reg.CORESTAT_INPUT_NOW (s.get Reg.CORECFG_INSEL)
  { s2 with clk := { s2.clk with
    ramp := s.clk.ramp || decide from7, floor := false, redo := false, back := false, n := if from7 then s.floorN else s.clk.n } }

/-- The selected input is captured hitlessly within CAPWIN, else the loop relocks (R458, R459); so it does from a HOLD that
another state than LOCKED was left for (R461). -/
def State.loopCapture (s : State) (dev : Nat) : State :=
  if !(decide (s.loop = loopHold) && s.clk.redo) && decide (dev ≤ s.get Reg.CLKCAP_CAPWIN) && decide (s.get Reg.CLKCAP_CAPWIN ≠ 0) && s.inputUsable (s.get Reg.CORECFG_INSEL) then
    let s1 := ((s.putBit Reg.CORESTAT_INPUT_LOST false).put Reg.CORESTAT_INPUT_NOW (s.get Reg.CORECFG_INSEL)).raise 2
    let s2 : State := { s1 with clk := { s1.clk with n := s1.serviceN } }
    if s.loop = loopHold then s2.setLoop loopLocked else s2
  else s.loopToCal

/-- INSEL takes a new value and the loop acts on it by its state (R459, R469, R485): while hold has ended, the relock waits
for the floor. -/
def State.inselTo (s : State) (i dev : Nat) : State :=
  if s.get Reg.CORECFG_INSEL = i then s
  else
    let s1 := s.put Reg.CORECFG_INSEL i
    if s.loop = loopOff ∨ s.loop = loopFloor ∨ s.clk.floor then s1
    else if s.loop = loopCal ∨ s.loop = loopAcquire then s1.loopToCal
    else s1.loopCapture dev

/-- A field that is accepted only in QUIESCE (R445, R543): refused outside it where it would change. -/
def State.quiesceField (s : State) (f : Fld) (v : Nat) : State :=
  if v % 2 ^ f.w = s.get f then s
  else if s.get Reg.PWRSTAT_STATE ≠ 1 then s.clkRefuse 1
  else s.put f v

/-- A scaling that HREF does not admit (R445): the reserved one, HREF above 50 MHz doubled, below 20 MHz halved. -/
def State.scaleBad (s : State) (sc : Nat) : Bool :=
  sc == 3 || (decide (s.clk.href ≠ 0) && ((sc == 1 && decide (50000000 < s.clk.href)) ||
    (sc == 2 && decide (s.clk.href < 20000000))))

/-- A write to REFSCALE (R445, R452): a scaling that HREF does not admit or that puts the root above the guard is refused. -/
def State.refscaleWrite (s : State) (v : Nat) : State :=
  let v := v % 4
  if v ≠ s.get Reg.CORECFG_REFSCALE ∧ s.get Reg.PWRSTAT_STATE = 1 ∧ (s.scaleBad v ∨ aboveGuard (s.rootHz 0 v
      (s.get Reg.CORENINT_NINT * 2 ^ 24 + s.get Reg.CORENFRAC_FRAC)) = true) then s.clkRefuse 2
  else s.quiesceField Reg.CORECFG_REFSCALE v

/-- Writes to NINT and FRAC (R444, R445, R452). -/
def State.nintWrite (s : State) (v : Nat) : State :=
  if v % 65536 ≠ s.get Reg.CORENINT_NINT ∧ s.get Reg.PWRSTAT_STATE = 1 ∧ v % 65536 < 8 then s.clkRefuse 6
  else if v % 65536 ≠ s.get Reg.CORENINT_NINT ∧ s.get Reg.PWRSTAT_STATE = 1 ∧ aboveGuard (s.rootHz 0
      (s.get Reg.CORECFG_REFSCALE) (v % 65536 * 2 ^ 24 + s.get Reg.CORENFRAC_FRAC)) = true then s.clkRefuse 2
  else s.quiesceField Reg.CORENINT_NINT v

def State.nfracWrite (s : State) (v : Nat) : State :=
  if v % 2 ^ 24 ≠ s.get Reg.CORENFRAC_FRAC ∧ s.get Reg.PWRSTAT_STATE = 1 ∧ aboveGuard (s.rootHz 0
      (s.get Reg.CORECFG_REFSCALE) (s.get Reg.CORENINT_NINT * 2 ^ 24 + v % 2 ^ 24)) = true then s.clkRefuse 2
  else s.quiesceField Reg.CORENFRAC_FRAC v

def execCoreNWrite (reg : Fin 3) (v : BitVec 24) (s : State) : Host.Outcome State Fault Refusal :=
  done (if reg.val = 0 then s.refscaleWrite v.toNat else if reg.val = 1 then s.nintWrite v.toNat else s.nfracWrite v.toNat)

/-- CORECTL.RELOCK (R448, R469). -/
def State.loopRelock (s : State) : State :=
  if (s.loop = loopLocked ∨ s.loop = loopHold) ∧ !s.clk.floor then s.loopToCal else s

def execRelock (s : State) : Host.Outcome State Fault Refusal := done s.loopRelock

/-- CORECTL.SSC (R456). -/
def State.sscWrite (s : State) (v : Nat) : State :=
  if v % 4 = 3 then s.clkRefuse 4
  else
    let s1 := s.put Reg.CORECTL_SSC v
    if s.loop = loopLocked then s1.sscApply.lockNote else s1

def execSscWrite (v : BitVec 2) (s : State) : Host.Outcome State Fault Refusal := done (s.sscWrite v.toNat)

/-! ### The first lock (R446) -/

/-- LOOPINIT as written may start the loop. -/
def State.loopinitGood (s : State) : Bool :=
  let sc := s.get Reg.LOOPINIT_REFSCALE
  decide (8 ≤ s.get Reg.LOOPINIT_NINT) && decide (s.get Reg.LOOPINIT_MULT ≠ 3) && !s.scaleBad sc &&
    !aboveGuard (s.rootHz 0 sc (s.get Reg.LOOPINIT_NINT * 2 ^ 24 + s.get Reg.LOOPINIT_FRAC_FRAC))

/-- The loop may start, or waits with LOOP_BAD. -/
def State.loopStart (s : State) : State :=
  if s.loopinitGood then
    let s1 := (s.putBit Reg.MGSTAT_LOOP_WAIT false).putBit Reg.MGSTAT_LOOP_BAD false
    { s1 with clk := { s1.clk with init := some (s.get Reg.LOOPINIT_NINT, s.get Reg.LOOPINIT_FRAC_FRAC,
        s.get Reg.LOOPINIT_REFSCALE, s.get Reg.LOOPINIT_FAMILY, s.get Reg.LOOPINIT_MULT) } }
  else (s.putBit Reg.MGSTAT_LOOP_WAIT true).putBit Reg.MGSTAT_LOOP_BAD true

def State.loopinitGo (s : State) : State := if s.bit Reg.MGSTAT_LOOP_WAIT then s.loopStart else s

def execLoopinitGo (s : State) : Host.Outcome State Fault Refusal := done s.loopinitGo

/-- HREF within 1,000 ppm of a nominal frequency. -/
def nearHz (hz nom : Nat) : Bool := decide (1000 * (hz - nom) ≤ nom) && decide (1000 * (nom - hz) ≤ nom)

/-- The automatic measurement ends (R446). -/
def execHrefMeasureDone (hz : BitVec 32) (sdref : Bool) (s : State) : Host.Outcome State Fault Refusal :=
  done (if s.pwr.chip ≠ 0 ∨ s.loop ≠ loopOff ∨ !s.clk.first ∨ s.clk.init.isSome ∨ !s.bit Reg.LOOPINIT_AUTO ∨ s.bit Reg.MGSTAT_LOOP_WAIT then s
    else
      let s1 := { s with clk := { s.clk with href := hz.toNat } }
      let fam := if nearHz hz.toNat 24576000 then some 0 else if nearHz hz.toNat 22579200 then some 1 else none
      match sdref, fam with
      | true, some f => ((((s1.put Reg.LOOPINIT_FAMILY f).put Reg.LOOPINIT_NINT 64).put Reg.LOOPINIT_FRAC_FRAC 0).put
          Reg.LOOPINIT_REFSCALE 0).loopStart
      | _, _ => s1.putBit Reg.MGSTAT_LOOP_WAIT true)

/-- The power state holds the loop at the floor (R545, R546). -/
def State.floorHolds (s : State) : Bool := s.get Reg.PWRSTAT_STATE == 2 || s.pwr.step == 2

/-- The selected input has been present for 2^16 PFD cycles (R448, R546); before the floor is reached that is only noted
(R461). -/
def execLoopInputPresent (s : State) : Host.Outcome State Fault Refusal :=
  done (if !s.inputUsable (s.get Reg.CORECFG_INSEL) then s
    else if s.loop = loopOff then (if s.clk.first && s.clk.init.isNone then s else s.loopToCal)
    else if s.loop = loopFloor ∧ s.bit Reg.CORESTAT_COAST then (if s.floorHolds then s else s.loopToCal)
    else if s.loop = loopFloor ∨ (s.loop = loopHold ∧ s.clk.floor) then { s with clk := { s.clk with back := true } }
    else s)

/-- The band search ends (R447). -/
def execBandSearchDone (band : BitVec 5) (floorCode : BitVec 12) (fits : Bool) (s : State) :
    Host.Outcome State Fault Refusal :=
  done (if s.loop ≠ loopCal then s
    else if fits then ((s.put Reg.CORECAL_BAND band.toNat).put Reg.CORECAL_FLOOR_CODE floorCode.toNat).setLoop loopAcquire
    else s.raiseOnce 9)

/-- The values of the first lock enter the registers (R446). -/
def State.firstLock (s : State) : State :=
  match s.clk.first, s.clk.init with
  | true, some (nint, frac, sc, fam, mult) =>
    let s1 := ((s.put Reg.CORENINT_NINT nint).put Reg.CORENFRAC_FRAC frac).put Reg.CORECFG_REFSCALE sc
    let s2 := (((s1.put Reg.PWRRATE_FAMILY fam).put Reg.PWRRATE_MULT mult).put Reg.PWRRATE_FAMILY_NOW fam).put
      Reg.PWRRATE_MULT_NOW mult
    { s2 with clk := { s2.clk with first := false } }
  | _, _ => { s with clk := { s.clk with first := false } }

/-! ### The ramp generator (R453) -/

/-- A slope in ppm/ms as applied. -/
def slopeOf (v : Nat) : Nat := if v = 0 then 1 else Nat.min 2000 v

/-- The waypoints used: NSEG, at most 8. -/
def State.rampSegs (s : State) : Nat := Nat.min 8 (s.get Reg.RAMPCTL_NSEG)

/-- The N that the present leg approaches, and its slope: waypoint by waypoint, then the service N. -/
def State.rampLeg (s : State) : Nat × Nat :=
  if s.clk.leg < s.rampSegs then
    (s.get (Reg.RAMPSEG_NINT s.clk.leg) * 2 ^ 24 + s.get (Reg.RAMPSEG_FRAC s.clk.leg), slopeOf (s.get (Reg.RAMPSEG_SLOPE s.clk.leg)))
  else (s.serviceN, slopeOf (s.get Reg.RAMPCTL_SLOPE))

/-- The move of N in one frame at a slope in ppm of the service root per millisecond: a frame at N lasts serviceN / N of a frame
of the service root. -/
def State.rampMove (s : State) (slope : Nat) : Nat :=
  slope * s.serviceN * s.serviceN / (1000 * s.baseRate * s.mult * s.clk.n)

/-- The root lies below 1,625.3 MHz, where a paused ramp continues (R451). -/
def State.rampClear (s : State) : Bool := decide (32768 * s.baseRate * s.clk.n < 1625300000 * s.serviceN)

/-- The ramp at a frame edge: N moves along its leg; while the guard pauses it, it waits (R451, R453). -/
def State.rampStep (s : State) : State :=
  if s.loop ≠ loopRamp then s
  else if s.clk.paused ≠ 0 then
    (if s.rampClear then { s with clk := { s.clk with paused := s.clk.paused - 1 } } else s)
  else
    let t := s.rampLeg
    let d := s.rampMove t.2
    let n := if s.clk.n ≤ t.1 then Nat.min t.1 (s.clk.n + d) else Nat.max t.1 (s.clk.n - d)
    { s with clk := { s.clk with n := n, leg := if n = t.1 ∧ s.clk.leg < s.rampSegs then s.clk.leg + 1 else s.clk.leg } }

/-- A ramp begins (R453). -/
def State.rampEnter (s : State) : State :=
  let s1 := (s.setLoop loopRamp).raise 4
  { s1 with clk := { s1.clk with leg := 0, paused := 0 } }

/-- The service N is reached (R453). -/
def State.rampDone (s : State) : State :=
  ({ s with clk := { s.clk with n := s.serviceN, leg := 0 } }.setLoop loopAlign).raise 5

/-- A ramp whose service N equals the present N ends at once (R544). -/
def State.rampSettle (s : State) : State := if s.loop = loopRamp ∧ s.clk.n = s.serviceN then s.rampDone else s

/-- The phase error has settled (R448): to RAMP where the root is not at its service N, else to ALIGN. -/
def execAcquireLock (s : State) : Host.Outcome State Fault Refusal :=
  done (if s.loop ≠ loopAcquire then s
    else
      let s1 := s.firstLock
      if s1.clk.ramp then s1.rampEnter.rampSettle
      else { s1 with clk := { s1.clk with n := s1.serviceN } }.setLoop loopAlign)

def execCoreLockFailed (s : State) : Host.Outcome State Fault Refusal :=
  done (if s.loop = loopAcquire then (s.setLoop loopCal).raiseOnce 9 else s)

/-- The ramp is on its last leg and less than one frame's move from the service N (R453); a paused ramp does not reach it
(R451). -/
def State.rampReaches (s : State) : Bool :=
  let n := s.serviceN
  decide (s.loop = loopRamp) && decide (s.clk.paused = 0) && decide (s.rampSegs ≤ s.clk.leg) &&
    decide (n - s.clk.n ≤ s.rampMove s.rampLeg.2) && decide (s.clk.n - n ≤ s.rampMove s.rampLeg.2)

/-- The ramp generator reports the service N (R453). -/
def execCoreRampDone (s : State) : Host.Outcome State Fault Refusal :=
  done (if s.rampReaches then s.rampDone else s)

/-- ALIGN completes (R450): with no frame event to align to, PHASE is FREE. -/
def execCorePhaseAligned (s : State) : Host.Outcome State Fault Refusal :=
  done (if s.loop = loopAlign then
    let free := s.get Reg.REFSTAT_SEL = 0 ∨ s.get Reg.REFSTAT_SEL = 7
    ((s.put Reg.CORESTAT_PHASE (if free then 2 else 1)).raise 10).setLoop loopLocked
    else s)

/-- HOLD_TIME in frames: units of 0.1 s of the frame grid, at most 100 (R485). -/
def State.holdTime (s : State) : Nat := Nat.min 100 (s.get Reg.REFTIME_HOLD_TIME) * s.baseRate * s.mult / 10

/-- HOLD_TIME has passed without a capture (R455, R460, R485). -/
def execHoldExpired (s : State) : Host.Outcome State Fault Refusal :=
  done (if s.loop = loopHold ∧ !s.clk.floor ∧ s.clk.heldAt + s.holdTime ≤ s.frame then
    let s1 := (s.raise 24).fumCause fumClock
    let s2 : State := { s1 with clk := { s1.clk with floor := true } }
    if s2.cZero then s2.setLoop loopFloor else s2
    else s)

/-- The overshoot monitor acts (R451). -/
def execCoreOvershoot (s : State) : Host.Outcome State Fault Refusal :=
  let s1 := ((s.putBit Reg.CORESTAT_GUARD true).raiseOnce 7).fumCause fumClock
  done { s1 with clk := { s1.clk with
    lockedAt := 0, paused := if s.loop = loopRamp then 2 else s.clk.paused } }.lockNote

/-! ### Auxiliary clocks and DLLs -/

/-- One clock's count over 4,096 PCLK, nominally `f` Hz (R443): the new count of good intervals and its OK bit. -/
def State.auxCount (s : State) (f count good : Nat) (ok : Bool) : Nat × Bool :=
  let c := count * s.baseRate
  let g := if 1000 * (c - f) ≤ f ∧ 1000 * (f - c) ≤ f then Nat.min 16 (good + 1) else 0
  (g, if 2 * c < f then false else ok || decide (g = 16))

/-- The end of a 4,096-PCLK interval (R443), counted from the first lock; spread follows SDREF (R456). -/
def execAuxclkCheck (sdref pcie : BitVec 16) (s : State) : Host.Outcome State Fault Refusal :=
  let a := s.auxCount 156250000 sdref.toNat s.clk.sdGood (s.bit Reg.AUXSTAT_SDREF_OK)
  let b := s.auxCount 100000000 pcie.toNat s.clk.pcGood (s.bit Reg.AUXSTAT_PCIE_OK)
  let lost := (s.bit Reg.AUXSTAT_SDREF_OK && !a.2) || (s.bit Reg.AUXSTAT_PCIE_OK && !b.2)
  let s1 := { (s.putBit Reg.AUXSTAT_SDREF_OK a.2).putBit Reg.AUXSTAT_PCIE_OK b.2 with
    clk := { s.clk with sdGood := a.1, pcGood := b.1 } }
  let s2 := if lost then s1.raise 14 else s1
  done (if s.clk.first then s
    else if s.loop = loopLocked ∧ a.2 ≠ s.bit Reg.AUXSTAT_SDREF_OK ∧ s.get Reg.CORECTL_SSC ≠ 0 then s2.sscApply.lockNote
    else s2)

/-- A DLL locks or loses lock (R463). -/
def execDllLock (d : Fin 22) (locked : Bool) (s : State) : Host.Outcome State Fault Refusal :=
  let m := s.get Reg.DLLSTAT_LOCKED
  done (if m.testBit d = locked then s
    else if locked then s.put Reg.DLLSTAT_LOCKED (m ||| 2 ^ d.val)
    else (s.put Reg.DLLSTAT_LOCKED (m ^^^ 2 ^ d.val)).raise 11)

/-! ### Islands (R464 to R468) -/

/-- Island numbers. -/
def islCell (p : Nat) : Nat := p
def islBank (cl : Nat) : Nat := 0x120 + cl
def islSlice (r : Nat) : Nat := 0x140 + r
def islGateway (r : Nat) : Nat := 0x144 + r
def islFabric : Nat := 0x148
def islSteward : Nat := 0x149
def islGeyser : Nat := 0x14A
def islTephra : Nat := 0x14B
def islConv : Nat := 0x14C
def islStream : Nat := 0x14D
def islPorts : Nat := 0x14E
def islNet (n : Nat) : Nat := 0x14F + n
def islLink (n : Nat) : Nat := 0x153 + n
def islDrc (n : Nat) : Nat := 0x157 + n

/-- Island `i` lies in the scope of a reset of scope 0 to 3 (R529). -/
def inScope (scope target i : Nat) : Bool :=
  match scope with
  | 0 => i == target
  | 1 => (decide (i < 0x120) && i / 9 == target) || i == islBank target
  | 2 => (decide (i < 0x120) && i / 72 == target) || (decide (0x120 ≤ i) && decide (i < 0x140) && (i - 0x120) / 8 == target) ||
      i == islSlice target || i == islGateway target
  | _ => decide (i < islFabric) || (decide (islTephra ≤ i) && decide (i < 0x157))

/-- A reset in progress holds island `i` (R529, R532, R533). -/
def State.resetHolds (s : State) (i : Nat) : Bool :=
  s.pwr.chip != 0 || (s.pwr.safe && decide (i < 0x157)) ||
    (match s.pwr.rst with | some r => inScope r.1 r.2 i | none => false)

/-- An island's clock is closed, it is in reset, or its gateway no longer accepts transactions (R46, R465, R532). -/
def State.islandShut (s : State) (i : Nat) : Bool := s.clk.gated.contains i || s.clk.gating == some i || s.resetHolds i

/-- An island's clock is closed, or the island is in reset: until its clock closes an island that is being gated goes on (R45,
R465). -/
def State.islandStopped (s : State) (i : Nat) : Bool := s.clk.gated.contains i || s.resetHolds i

/-- The present time, as FABTIME and FRAME_COUNT show it. -/
def State.now (s : State) : Nat × Nat := (s.get Reg.FABTIME_TIME, s.frame)

/-- The FCLK cycles that have passed since a time: as FABTIME counts them, and at least those of the whole frames between (R462). -/
def State.fclkSince (s : State) (t : Nat × Nat) : Nat :=
  Nat.max ((s.get Reg.FABTIME_TIME + 2 ^ 32 - t.1) % 2 ^ 32) ((s.frame - t.2 - 1) * (8192 / s.mult))

/-- ISLCFG.IDLE_TO as applied, in FCLK cycles. -/
def State.idleTimeout (s : State) : Nat := Nat.max 64 (s.get Reg.ISLCFG_IDLE_TO)

/-- An island takes part in the pipeline in window `w` (R47, R467). -/
def State.takesPart (s : State) (i w : Nat) : Bool := !s.clk.gated.contains i && !s.resetHolds i &&
  decide (s.clk.join.look 0 i ≤ w + 1)

/-- The first whole window from now on, plus 1. -/
def State.joinWindow (s : State) : Nat := s.window + 2

/-- An island's clock closes (R465, R466). -/
def State.islandClose (s : State) (i : Nat) (forced : Bool) : State :=
  let s1 := ((s.putBit Reg.ISLSTAT_BUSY false).putBit Reg.ISLSTAT_FORCED forced)
  let s2 := { s1 with clk := { s1.clk with gating := none, gated := i :: s1.clk.gated.filter (fun k => k != i) } }
  if forced then s2.raise 12 else s2

/-- ISLCMD with GO = 1 (R464): ignored while BUSY; refused for the fabric, a reserved OP or no island.  No requester's path has
its island in a region (R499, R504), so no region gateway is refused. -/
def State.islandCmd (s : State) (isl op : Nat) : State :=
  if s.bit Reg.ISLSTAT_BUSY then s.putBit Reg.ISLSTAT_CMD_IGNORED true
  else
    let s1 := (s.put Reg.ISLCMD_ISLAND isl).put Reg.ISLCMD_OP op
    if op = 3 ∨ 0x159 ≤ isl ∨ (op ≠ 0 ∧ isl = islFabric) then s1.clkRefuse 5
    else if op = 0 then
      (if s.clk.gated.contains isl then
        { s1 with clk := { s1.clk with gated := s1.clk.gated.filter (fun k => k != isl),
                                       join := s1.clk.join.upd 0 isl s.joinWindow } }
       else s1)
    else if op = 2 then s1.islandClose isl true
    else { s1.putBit Reg.ISLSTAT_BUSY true with clk := { s1.clk with gating := some isl, gateAt := s.now } }

def execIslandUngate (isl : BitVec 10) (s : State) : Host.Outcome State Fault Refusal := done (s.islandCmd isl.toNat 0)
def execIslandGate (isl : BitVec 10) (s : State) : Host.Outcome State Fault Refusal := done (s.islandCmd isl.toNat 1)

end Sys2Proof.Machine
end

