-- ==== Sys2Proof/Machine/Conv.lean ====
section
/-! DEFINITION. `lin2g`, `g2lin` and `bexp` (R111, R156 to R159), and the limits of a gain code (R10, R11). -/

namespace Sys2Proof.Machine

/-- The muted gain code. -/
def codeMuted : Int := -8388608

/-- The lowest and highest valid gain codes (R10): -144 dB and +24 dB. -/
def codeMin : Int := -589824
def codeMax : Int := 98304

/-- A gain code as the datapath applies it (R11). -/
def limitCode (g : Int) : Int :=
  if g = codeMuted then g else if g < codeMin then codeMin else if codeMax < g then codeMax else g

/-- A gain code lies in the valid range or is the muted code (R10). -/
def codeValid (g : Int) : Bool := decide (g = codeMuted) || (decide (codeMin ≤ g) && decide (g ≤ codeMax))

/-- Bits 23:0 of a word as a signed gain code. -/
def codeOf (x : BitVec 32) : Int := (x.setWidth 24).toInt

/-- A code of 24 bits, sign-extended to a word. -/
def codeWord (g : Int) : BitVec 32 := BitVec.ofInt 32 g

/-- The largest of `0 .. 2^n - 1`, added to `base`, for which `ok` holds, `ok` failing from some point on. -/
def searchUp (ok : Nat → Bool) : Nat → Nat → Nat
  | 0, base => base
  | n + 1, base => if ok (base + 2 ^ n) then searchUp ok n (base + 2 ^ n) else searchUp ok n base

/-- ⌈-81,920 * log10(n / 2^31)⌉: one more than the largest k with n^81920 * 10^k < 2^(31 * 81920). -/
def lin2gDepth (n : Nat) : Nat :=
  if n = 2 ^ 31 then 0 else searchUp (fun k => decide (n ^ 81920 * 10 ^ k < 2 ^ (31 * 81920))) 20 0 + 1

/-- The gain code of a magnitude n / 2^31 (R156): within 2 code units of the exact value, which of them is free (log
4), never above 0 and not below -144 dB; muted for 0. -/
def lin2gCode (n : Nat) : Int :=
  if n = 0 then codeMuted
  else if n = 2 ^ 31 then min 0 (Config.lin2gErr n % 5 - 2)
  else max codeMin (min 0 (-(lin2gDepth n : Int) + (Config.lin2gErr n % 4 - 1)))

/-- ⌊2^51 * 10^(g / 81,920)⌋: the linear gain in Q5.27 with 24 more bits. -/
def gainScaled (g : Int) : Nat :=
  if 0 ≤ g then searchUp (fun n => decide (n ^ 81920 ≤ 2 ^ (51 * 81920) * 10 ^ g.toNat)) 56 0
  else searchUp (fun n => decide (n ^ 81920 * 10 ^ (-g).toNat ≤ 2 ^ (51 * 81920))) 56 0

/-- The Q5.27 gain of a code (R157): the rounded value, or another whose relative error is at most 2^-24, which of them is free
(log 4). -/
def g2linGain (g : Int) : Int :=
  if g = codeMuted then 0
  else
    let f : Int := gainScaled (limitCode g)
    let r := (f + 2 ^ 23) / 2 ^ 24
    let k := r + (Config.g2linErr g % 257 - 128)
    if f + 1 - f / 2 ^ 24 ≤ k * 2 ^ 24 ∧ k * 2 ^ 24 ≤ f + f / 2 ^ 24 then k else r

/-- The count of redundant sign bits of a `w`-bit value (R111). -/
def redundantSigns (w : Nat) (x : Int) : Nat :=
  let n := if 0 ≤ x then x.toNat else (-x - 1).toNat
  if n = 0 then w - 1 else w - 2 - Nat.log2 n

/-- `lin2g` (R156, R159). -/
def execLin2g (u : Exe) (gd ga : Fin 32) (dup : Bool) (s : State) : Host.Outcome State Fault Refusal :=
  done (s.compute u (fun c pz =>
    if (c.rdG ga).isPoison then (c.sendG 2 gd pz, if dup then .soft 8 else .ok)
    else c.dupResult gd 2 (codeWord (lin2gCode (c.rdG ga).data.toInt.natAbs)) none dup pz))

/-- `g2lin` (R157, R159). -/
def execG2lin (u : Exe) (gd ga : Fin 32) (dup : Bool) (s : State) : Host.Outcome State Fault Refusal :=
  done (s.compute u (fun c pz =>
    if (c.rdG ga).isPoison then (c.sendG 2 gd pz, if dup then .soft 8 else .ok)
    else c.dupResult gd 2 (BitVec.ofInt 32 (g2linGain (codeOf (c.rdG ga).data))) none dup pz))

/-- `bexp` (R111, R158, R159). -/
def execBexp (u : Exe) (gd : Fin 32) (src : BexpSrc) (dup : Bool) (s : State) : Host.Outcome State Fault Refusal :=
  done (s.compute u (fun c pz =>
    match src with
    | .g ga =>
      if (c.rdG ga).isPoison then (c.sendG 1 gd pz, if dup then .soft 8 else .ok)
      else c.dupResult gd 1 (BitVec.ofNat 32 (redundantSigns 32 (c.rdG ga).data.toInt)) none dup pz
    | .a an =>
      if (c.rdA an).psn then (c.sendG 1 gd pz, if dup then .soft 8 else .ok)
      else c.dupResult gd 1 (BitVec.ofNat 32 (redundantSigns 72 (c.rdA an).val.toInt)) none dup pz))

end Sys2Proof.Machine
end

