-- ==== Sys2Proof/Machine/Events.lean ====
section
/-! DEFINITION. The event controller (16_events_host_mgmt): routes, MSI-X and the commands that write its registers. -/

namespace Sys2Proof.Machine

/-! ### Routes (R567, R570 to R573) -/

/-- The steward vectors that are pending (R571), as EVTPEND shows them. -/
def State.evtPend (s : State) : Nat :=
  (List.range 256).foldl (fun a e =>
    if s.evtActive e && s.bit (Reg.EVTROUTE_SEN e) then a ||| 2 ^ s.get (Reg.EVTROUTE_SVEC e) else a) 0

/-- The MSI-X conditions (R572). -/
def State.msixCond (s : State) : Nat :=
  (List.range 256).foldl (fun a e =>
    if s.evtActive e && s.bit (Reg.EVTROUTE_MEN e) then a ||| 2 ^ s.get (Reg.EVTROUTE_MSIX e) else a) 0

/-- The conditions of EVT_OUT (R573). -/
def State.evtOutCond (s : State) : Nat :=
  (List.range 256).foldl (fun a e => if s.evtActive e then a ||| s.get (Reg.EVTROUTE_OUT e) else a) 0

/-- The level of EVT_OUT[i] (R573): inactive while the event controller is in reset. -/
def State.evtOut (s : State) (i : Nat) : Bool :=
  (!s.evt.inReset && s.evtOutCond.testBit i) == (s.get Reg.EVTOUTCFG_POL).testBit i

/-- After a change of a route, the conditions that have risen have their messages due (R572, R575). -/
def State.msixFollow (s : State) : State :=
  let c := s.msixCond
  { s with evt := { s.evt with due := s.evt.due ||| (c ^^^ (c &&& s.evt.seen)), seen := c } }

/-- After a write to EVTSTAT or EVTEN every condition that is 1 has its message due (R572). -/
def State.msixResend (s : State) : State :=
  let c := s.msixCond
  { s with evt := { s.evt with due := s.evt.due ||| c, seen := c } }

/-! ### Writes of the registers -/

def State.evtenWrite (s : State) (w v : Nat) : State :=
  if s.evt.inReset then s else (s.put (Reg.EVTEN_EN w) v).msixResend

/-- The data-side sources that stay active (R6): the faults that a status field of the data plane goes on showing — a stale
or badly configured stream, a stopped or swapped port clock, an inert route, a degraded cluster, a retired spare, a degraded
slice.  Log 195. -/
def State.standing (s : State) : List Nat :=
  [(49, (List.range 128).any (fun r => s.get (Reg.STRX_STATE r) == 3)),
   (55, (List.range 128).any (fun r => s.get (Reg.STRX_STATE r) == 4 || s.get (Reg.STTX_STATE r) == 2)),
   (66, (List.range 16).any (fun n => s.bit (Reg.PORTSTAT_CLK_STOPPED n))),
   (68, (List.range 16).any (fun n => s.bit (Reg.PORTSTAT_SWAPPED n))),
   (80, (List.range 64).any (fun v => s.bit (Reg.VNTRT_INERT v))),
   (115, !s.eng.degraded.isEmpty),
   (117, (List.range 32).any (fun cl => s.get (Reg.SPARESTAT_STATE cl) == 4)),
   (146, s.bit Reg.CALSTAT_DEGRADED)].filterMap (fun e => if e.2 then some e.1 else none)

/-- A W1C write of EVTSTATw (R14, R566, R572); a data-side source that is still active sets its status again (R6). -/
def State.evtstatClear (s : State) (w v : Nat) : State :=
  let x := s.get (Reg.EVTSTAT_STAT w)
  let again := s.standing.filter (fun n => n / 32 == w && (x &&& v).testBit (n % 32))
  if s.evt.inReset then s else (again.foldl State.setStat (s.put (Reg.EVTSTAT_STAT w) (x ^^^ (x &&& v)))).msixResend

def State.evtrouteWrite (s : State) (e v : Nat) : State :=
  if s.evt.inReset then s
  else (((((s.put (Reg.EVTROUTE_SVEC e) v).put (Reg.EVTROUTE_SEN e) (v / 2 ^ 5)).put (Reg.EVTROUTE_MSIX e) (v / 2 ^ 6)).put
    (Reg.EVTROUTE_MEN e) (v / 2 ^ 10)).put (Reg.EVTROUTE_OUT e) (v / 2 ^ 11)).msixFollow

/-- EVTSWSET (R568). -/
def State.evtswset (s : State) (v : Nat) : State :=
  (List.range 16).foldl (fun t n => if v.testBit n then t.raise (240 + n) else t) s

def execEvtenWrite (w : Fin 8) (v : BitVec 32) (s : State) : Host.Outcome State Fault Refusal := done (s.evtenWrite w v.toNat)

def execEvtrouteWrite (e : Fin 256) (v : BitVec 15) (s : State) : Host.Outcome State Fault Refusal :=
  done (s.evtrouteWrite e v.toNat)

def execEvtstatClear (w : Fin 8) (v : BitVec 32) (s : State) : Host.Outcome State Fault Refusal :=
  done (s.evtstatClear w v.toNat)

def execEvtswset (v : BitVec 16) (s : State) : Host.Outcome State Fault Refusal := done (s.evtswset v.toNat)

/-! ### MSI-X (R572) -/

/-- MSI-X Enable and Bus Master Enable are both 1. -/
def State.msixOn (s : State) : Bool := s.bit Reg.HSTSTAT_MSIX_EN && s.bit Reg.HSTSTAT_BME

/-- The vector or the function is masked. -/
def State.msixMasked (s : State) (x : Nat) : Bool := s.pcie.fmask || s.evt.vmask.testBit x

/-- The message of vector x, if it is due, is sent or sets the pending bit; while messages are off there is none. -/
def State.msixSend (s : State) (x : Nat) : State :=
  if !s.evt.due.testBit x then s
  else
    let e := { s.evt with due := s.evt.due ^^^ 2 ^ x }
    if !s.msixOn then { s with evt := e }
    else if s.msixMasked x then { s with evt := { e with pba := e.pba ||| 2 ^ x } }
    else { s with evt := { e with sent := e.sent ++ [x] } }

def execMsixSend (x : Fin 16) (s : State) : Host.Outcome State Fault Refusal := done (s.msixSend x)

/-- A pending bit whose mask is gone sends its message. -/
def State.msixPending (s : State) (x : Nat) : State :=
  if s.evt.pba.testBit x && !s.msixMasked x && s.msixOn then
    { s with evt := { s.evt with pba := s.evt.pba ^^^ 2 ^ x, sent := s.evt.sent ++ [x] } }
  else s

/-- The mask of a vector, or of the function, is removed. -/
def State.msixUnmask (s : State) (x : Option Nat) : State :=
  match x with
  | some v => ({ s with evt := { s.evt with vmask := s.evt.vmask &&& (65535 ^^^ 2 ^ v) } }).msixPending v
  | none => (List.range 16).foldl State.msixPending { s with pcie := { s.pcie with fmask := false } }

def execMsixUnmask (x : Option (Fin 16)) (s : State) : Host.Outcome State Fault Refusal :=
  done (s.msixUnmask (x.map Fin.val))

end Sys2Proof.Machine
end

