-- ==== Sys2Proof/Machine/Mac.lean ====
section
/-! DEFINITION. The accumulator instructions: MAC, dual-lane MAC, accumulator moves, and the rounding store `sta`
(R107 to R112, R146, R151 to R155). -/

namespace Sys2Proof.Machine

def max72 : Int := 2361183241434822606847
def min72 : Int := -2361183241434822606848

/-- An exact sum for an accumulator with its carried residue: kept in range, else saturated with the residue of the
constant (R108, R112). -/
def accFit (exact r : Int) : Acc × Bool :=
  if min72 ≤ exact ∧ exact ≤ max72 then (⟨BitVec.ofInt 72 exact, residueInt r, false⟩, false)
  else if 0 < exact then (⟨BitVec.ofInt 72 max72, residueInt max72, false⟩, true)
  else (⟨BitVec.ofInt 72 min72, residueInt min72, false⟩, true)

/-- An accumulator that holds poison (R115). -/
def Acc.poison : Acc := ⟨0, 0, true⟩

/-- An accumulator result: poison sets PSN, saturation sets AOV and SAT (R108, R115). -/
def Core.accResult (c : Core) (n : Nat) (x : Acc) (ovf : Bool) : Core :=
  let c1 := c.sendA n x
  let c2 := if x.psn then c1.stBit stPsn else c1
  if ovf then (c2.stBit stAov).stBit stSat else c2

/-- One lane: `mpy`, `mac` or `msu` of a × b into An (R108, R112, R115, R151). -/
def Core.lane (c : Core) (op : LaneOp) (n : Nat) (a b : Sinter) : Core :=
  let p := a.data.toInt * b.data.toInt
  let r := (a.r : Int) * b.r
  let acc := c.rdAM n
  match op with
  | .none => c
  | .mpy => if a.isPoison || b.isPoison then c.accResult n Acc.poison false
            else c.accResult n (accFit p r).1 (accFit p r).2
  | .mac => if a.isPoison || b.isPoison || acc.psn then c.accResult n Acc.poison false
            else c.accResult n (accFit (acc.val.toInt + p) (acc.res.toNat + r)).1
                (accFit (acc.val.toInt + p) (acc.res.toNat + r)).2
  | .msu => if a.isPoison || b.isPoison || acc.psn then c.accResult n Acc.poison false
            else c.accResult n (accFit (acc.val.toInt - p) (acc.res.toNat - r)).1
                (accFit (acc.val.toInt - p) (acc.res.toNat - r)).2

/-- `aadd` and `asub` (R146). -/
def Core.accAdd (c : Core) (ad as : Nat) (minus : Bool) : Core :=
  let x := c.rdA ad
  let y := c.rdA as
  if x.psn || y.psn then c.accResult ad Acc.poison false
  else if minus then
    c.accResult ad (accFit (x.val.toInt - y.val.toInt) (x.res.toNat - y.res.toNat)).1
      (accFit (x.val.toInt - y.val.toInt) (x.res.toNat - y.res.toNat)).2
  else
    c.accResult ad (accFit (x.val.toInt + y.val.toInt) (x.res.toNat + y.res.toNat)).1
      (accFit (x.val.toInt + y.val.toInt) (x.res.toNat + y.res.toNat)).2

/-- What `sta` makes of an accumulator value (R109, R112, R113). -/
structure StaOut where
  word     : Sinter
  sat      : Bool
  mismatch : Bool
  deriving DecidableEq, Repr

/-- The rounded value of `x` shifted right by `t`, half to even (R109). -/
def roundHalfEven (x : Int) (t : Nat) : Int :=
  let q := x / 2 ^ t
  let d := x % 2 ^ t
  if 2 ^ t < 2 * d ∨ (2 * d = 2 ^ t ∧ q % 2 = 1) then q + 1 else q

/-- `sta` of the value `x` with carried residue `r` and shift s = 31 - t (R109): rounds half to even, checks the carried
residue against the rounded value (R113), then saturates to 32 bits; a value beyond 32 bits counts as saturated even where the
word stored is poison (log 191). -/
def staRound (x r : Int) (t : Nat) (pz : Sinter) : StaOut :=
  let d := x % 2 ^ t
  let k := roundHalfEven x t
  let u := k - x / 2 ^ t
  let cr := residueInt ((r - (residueInt d).toNat) * 2 ^ ((7 - t % 7) % 7) + u)
  if cr ≠ residueInt k then ⟨pz, decide (k < min32) || decide (max32 < k), true⟩
  else if k < min32 then ⟨Sinter.ofData (BitVec.ofInt 32 min32), true, false⟩
  else if max32 < k then ⟨Sinter.ofData (BitVec.ofInt 32 max32), true, false⟩
  else ⟨Sinter.withRes (BitVec.ofInt 32 k) cr, false, false⟩

/-- The number of bits `sta` discards for a shift field (R109). -/
def staShift (sh : BitVec 5) : Nat := (31 - sh.toInt).toNat

/-- The word an `sta` of An, or of A(n) + A(n + 1) with `pair`, stores (R109, R154, R155). -/
def Core.staWord (c : Core) (n : Nat) (sh : BitVec 5) (pair : Bool) (pz : Sinter) : StaOut :=
  let x := c.rdA n
  let y := c.rdA (n + 1)
  if x.psn || (pair && y.psn) then ⟨pz, false, false⟩
  else if pair then staRound (x.val.toInt + y.val.toInt) (x.res.toNat + y.res.toNat) (staShift sh) pz
  else staRound x.val.toInt x.res.toNat (staShift sh) pz

/-- The sticky bits and V an `sta` sets when it saturates (R109). -/
def Core.staFlags (c : Core) (o : StaOut) : Core := if o.sat then (c.stBit stSat).stBit stV else c

/-- `sta` to a G register, readable after 2 bundles (R97, R113, R154, R155). -/
def Core.staG (c : Core) (gd n : Nat) (sh : BitVec 5) (pair : Bool) (pz : Sinter) : Core × Note :=
  if !shiftOk sh || (pair && n % 2 == 1) then (c, .trap 2)
  else
    let o := c.staWord n sh pair pz
    ((c.staFlags o).sendG 2 gd o.word, if o.mismatch then .soft 7 else .ok)

/-! ### The instructions -/

def execMpy (u : Exe) (an : Fin 8) (ga gb : Fin 32) (s : State) : Host.Outcome State Fault Refusal :=
  done (s.compute u (fun c _ => (c.lane .mpy an (c.rdG ga) (c.rdG gb), .ok)))

def execMac (u : Exe) (an : Fin 8) (ga gb : Fin 32) (s : State) : Host.Outcome State Fault Refusal :=
  done (s.compute u (fun c _ => (c.lane .mac an (c.rdG ga) (c.rdG gb), .ok)))

def execMsu (u : Exe) (an : Fin 8) (ga gb : Fin 32) (s : State) : Host.Outcome State Fault Refusal :=
  done (s.compute u (fun c _ => (c.lane .msu an (c.rdG ga) (c.rdG gb), .ok)))

/-- The dual-lane form (R152): lane 0 on G(2a), G(2b) into A(2q); lane 1 on G(2a + 1) and G(2b + 1), or G(2b) when X,
into A(2q + 1); both lanes none is an illegal encoding. -/
def execDmac (u : Exe) (op0 op1 : LaneOp) (q : Fin 4) (a b : Fin 16) (x : Bool) (s : State) :
    Host.Outcome State Fault Refusal :=
  done (s.compute u (fun c _ =>
    if op0 = .none ∧ op1 = .none then (c, .trap 2)
    else ((c.lane op0 (2 * q) (c.rdG (2 * a)) (c.rdG (2 * b))).lane op1 (2 * q + 1) (c.rdG (2 * a + 1))
      (c.rdG (if x then 2 * b else 2 * b + 1)), .ok)))

def execSta (u : Exe) (gd : Fin 32) (an : Fin 8) (sh : BitVec 5) (s : State) : Host.Outcome State Fault Refusal :=
  done (s.compute u (fun c pz => c.staG gd an sh false pz))

def execStaP (u : Exe) (gd : Fin 32) (an : Fin 8) (sh : BitVec 5) (s : State) : Host.Outcome State Fault Refusal :=
  done (s.compute u (fun c pz => c.staG gd an sh true pz))

/-- `amov` copies value, residue and poison flag (R146). -/
def execAmov (u : Exe) (ad as : Fin 8) (s : State) : Host.Outcome State Fault Refusal :=
  done (s.compute u (fun c _ => (c.accResult ad (c.rdA as) false, .ok)))

def execAadd (u : Exe) (ad as : Fin 8) (s : State) : Host.Outcome State Fault Refusal :=
  done (s.compute u (fun c _ => (c.accAdd ad as false, .ok)))

def execAsub (u : Exe) (ad as : Fin 8) (s : State) : Host.Outcome State Fault Refusal :=
  done (s.compute u (fun c _ => (c.accAdd ad as true, .ok)))

end Sys2Proof.Machine
end

