-- ==== Sys2Proof/Machine/Digest.lean ====
section
/-! DEFINITION. Checks as functions of bytes: CRC-32C (02_memory R83), the frame check of IEEE 802.3 (09_network R330), SHA-256 (FIPS 180-4) and
ECDSA P-256 verification (FIPS 186-4), as R558 to R561 use them. -/

namespace Sys2Proof.Machine.Digest

/-! ### CRC-32C -/

/-- Steps of the reflected register of polynomial `p` over the low bits of `c`. -/
def crcBits (p : BitVec 32) : Nat → BitVec 32 → BitVec 32
  | 0, c => c
  | n + 1, c => crcBits p n (if c.getLsbD 0 then (c >>> 1) ^^^ p else c >>> 1)

/-- A CRC of bytes with the reflected polynomial `p`. -/
def crc (p : BitVec 32) (bs : List (BitVec 8)) : BitVec 32 :=
  (bs.foldl (fun c b => crcBits p 8 (c ^^^ b.setWidth 32)) 0xFFFFFFFF#32) ^^^ 0xFFFFFFFF#32

/-- CRC-32C of bytes (R83). -/
def crc32c (bs : List (BitVec 8)) : BitVec 32 := crc 0x82F63B78#32 bs

/-- The frame check sequence of IEEE 802.3, clause 4 (R330; log 94). -/
def fcs (bs : List (BitVec 8)) : BitVec 32 := crc 0xEDB88320#32 bs

/-! ### SHA-256 -/

def shaK : List (BitVec 32) :=
  [0x428a2f98, 0x71374491, 0xb5c0fbcf, 0xe9b5dba5, 0x3956c25b, 0x59f111f1, 0x923f82a4, 0xab1c5ed5] ++
  [0xd807aa98, 0x12835b01, 0x243185be, 0x550c7dc3, 0x72be5d74, 0x80deb1fe, 0x9bdc06a7, 0xc19bf174] ++
  [0xe49b69c1, 0xefbe4786, 0x0fc19dc6, 0x240ca1cc, 0x2de92c6f, 0x4a7484aa, 0x5cb0a9dc, 0x76f988da] ++
  [0x983e5152, 0xa831c66d, 0xb00327c8, 0xbf597fc7, 0xc6e00bf3, 0xd5a79147, 0x06ca6351, 0x14292967] ++
  [0x27b70a85, 0x2e1b2138, 0x4d2c6dfc, 0x53380d13, 0x650a7354, 0x766a0abb, 0x81c2c92e, 0x92722c85] ++
  [0xa2bfe8a1, 0xa81a664b, 0xc24b8b70, 0xc76c51a3, 0xd192e819, 0xd6990624, 0xf40e3585, 0x106aa070] ++
  [0x19a4c116, 0x1e376c08, 0x2748774c, 0x34b0bcb5, 0x391c0cb3, 0x4ed8aa4a, 0x5b9cca4f, 0x682e6ff3] ++
  [0x748f82ee, 0x78a5636f, 0x84c87814, 0x8cc70208, 0x90befffa, 0xa4506ceb, 0xbef9a3f7, 0xc67178f2]

def shaInit : List (BitVec 32) :=
  [0x6a09e667, 0xbb67ae85, 0x3c6ef372, 0xa54ff53a, 0x510e527f, 0x9b05688c, 0x1f83d9ab, 0x5be0cd19]

/-- The message schedule, newest word first: `n` more words. -/
def shaExpand : Nat → List (BitVec 32) → List (BitVec 32)
  | 0, w => w
  | n + 1, w =>
    let a := w.getD 14 0
    let b := w.getD 1 0
    let s0 := a.rotateRight 7 ^^^ a.rotateRight 18 ^^^ a >>> 3
    let s1 := b.rotateRight 17 ^^^ b.rotateRight 19 ^^^ b >>> 10
    shaExpand n ((w.getD 15 0 + s0 + w.getD 6 0 + s1) :: w)

/-- One round on the eight working variables. -/
def shaRound (v : List (BitVec 32)) (kw : BitVec 32 × BitVec 32) : List (BitVec 32) :=
  match v with
  | [a, b, c, d, e, f, g, h] =>
    let s1 := e.rotateRight 6 ^^^ e.rotateRight 11 ^^^ e.rotateRight 25
    let ch := (e &&& f) ^^^ (~~~e &&& g)
    let t1 := h + s1 + ch + kw.1 + kw.2
    let s0 := a.rotateRight 2 ^^^ a.rotateRight 13 ^^^ a.rotateRight 22
    let mj := (a &&& b) ^^^ (a &&& c) ^^^ (b &&& c)
    [t1 + (s0 + mj), a, b, c, d + t1, e, f, g]
  | _ => v

/-- The big-endian word of four bytes. -/
def word4 (bs : List (BitVec 8)) : BitVec 32 := bs.foldl (fun a b => (a <<< 8) ||| b.setWidth 32) 0

/-- The words of a block of 64 bytes. -/
def blockWords (bs : List (BitVec 8)) : List (BitVec 32) := (List.range 16).map (fun i => word4 ((bs.drop (4 * i)).take 4))

/-- One block. -/
def shaBlock (h : List (BitVec 32)) (bs : List (BitVec 8)) : List (BitVec 32) :=
  List.zipWith (· + ·) h ((shaK.zip (shaExpand 48 (blockWords bs).reverse).reverse).foldl shaRound h)

def shaBlocks : Nat → List (BitVec 32) → List (BitVec 8) → List (BitVec 32)
  | 0, h, _ => h
  | n + 1, h, bs => shaBlocks n (shaBlock h (bs.take 64)) (bs.drop 64)

/-- A number as `n` bytes, most significant first. -/
def bytesOf : Nat → Nat → List (BitVec 8)
  | 0, _ => []
  | n + 1, x => BitVec.ofNat 8 (x / 256 ^ n) :: bytesOf n x

/-- The padded message. -/
def shaPad (bs : List (BitVec 8)) : List (BitVec 8) :=
  bs ++ [0x80#8] ++ List.replicate ((119 - bs.length % 64) % 64) 0#8 ++ bytesOf 8 (8 * bs.length)

/-- SHA-256: eight words, the first bytes in the first word's bits 31:24. -/
def sha256 (bs : List (BitVec 8)) : List (BitVec 32) := shaBlocks ((shaPad bs).length / 64) shaInit (shaPad bs)

/-- A digest as a number. -/
def digestNat (h : List (BitVec 32)) : Nat := h.foldl (fun a w => a * 2 ^ 32 + w.toNat) 0

/-! ### ECDSA on P-256 -/

def pP : Nat := 0xffffffff00000001000000000000000000000000ffffffffffffffffffffffff
def pN : Nat := 0xffffffff00000000ffffffffffffffffbce6faada7179e84f3b9cac2fc632551
def pB : Nat := 0x5ac635d8aa3a93e7b3ebbd55769886bc651d06b0cc53b0f63bce3c3e27d2604b
def pGx : Nat := 0x6b17d1f2e12c4247f8bce6e563a440f277037d812deb33a0f4a13945d898c296
def pGy : Nat := 0x4fe342e2fe1a7f9b8ee7eb4a7c0f9e162bce33576b315ececbb6406837bf51f5

/-- `b ^ e` mod `m`, over the low `n` bits of `e`. -/
def powMod (m b : Nat) : Nat → Nat → Nat
  | 0, _ => 1 % m
  | n + 1, e =>
    let h := powMod m b n (e / 2)
    if e % 2 = 1 then h * h % m * b % m else h * h % m

/-- The inverse mod a prime. -/
def invMod (m x : Nat) : Nat := powMod m x 256 (m - 2)

/-- A point in Jacobian coordinates; the point at infinity has z = 0. -/
structure Pt where
  x : Nat
  y : Nat
  z : Nat
  deriving DecidableEq, Repr

/-- `a - b` mod p. -/
def subP (a b : Nat) : Nat := (a + (pP - b % pP)) % pP

def Pt.dbl (q : Pt) : Pt :=
  if q.z = 0 ∨ q.y = 0 then ⟨1, 1, 0⟩
  else
    let zz := q.z * q.z % pP
    let yy := q.y * q.y % pP
    let s := 4 * q.x * yy % pP
    let m := 3 * (subP q.x zz) * ((q.x + zz) % pP) % pP
    let x := subP (m * m) (2 * s)
    ⟨x, subP (m * subP s x) (8 * yy * yy), 2 * q.y * q.z % pP⟩

def Pt.add (a b : Pt) : Pt :=
  if a.z = 0 then b else if b.z = 0 then a
  else
    let za := a.z * a.z % pP
    let zb := b.z * b.z % pP
    let u1 := a.x * zb % pP
    let u2 := b.x * za % pP
    let s1 := a.y * zb * b.z % pP
    let s2 := b.y * za * a.z % pP
    if u1 = u2 then (if s1 = s2 then a.dbl else ⟨1, 1, 0⟩)
    else
      let h := subP u2 u1
      let r := subP s2 s1
      let hh := h * h % pP
      let hhh := hh * h % pP
      let v := u1 * hh % pP
      let x := subP (subP (r * r) hhh) (2 * v)
      ⟨x, subP (r * subP v x) (s1 * hhh), h * a.z * b.z % pP⟩

/-- `k` times a point, over the low `n` bits of `k`. -/
def Pt.mul (q : Pt) : Nat → Nat → Pt
  | 0, _ => ⟨1, 1, 0⟩
  | n + 1, k =>
    let h := (Pt.mul q n (k / 2)).dbl
    if k % 2 = 1 then h.add q else h

/-- A public key lies on the curve. -/
def onCurve (x y : Nat) : Bool :=
  decide (x < pP) && decide (y < pP) && decide (y * y % pP = (x * x * x + (pP - 3) * x + pB) % pP)

/-- The signature (r, s) of the digest `e` verifies under the key (x, y). -/
def ecdsaOk (e x y r s : Nat) : Bool :=
  if r = 0 ∨ pN ≤ r ∨ s = 0 ∨ pN ≤ s ∨ onCurve x y = false then false
  else
    let w := invMod pN s
    let q := ((⟨pGx, pGy, 1⟩ : Pt).mul 256 (e * w % pN)).add ((⟨x, y, 1⟩ : Pt).mul 256 (r * w % pN))
    if q.z = 0 then false
    else
      let zi := invMod pP q.z
      decide (q.x * zi % pP * zi % pP % pN = r)

end Sys2Proof.Machine.Digest
end

