-- ==== Sys2Proof/Machine/Memory.lean ====
section
/-! DEFINITION. The memories: where an address lies (R77, R79, R80, R84, R504, R508), the words of the SRAMs and of the
DRAM with its line checks (R83 to R91), bank ownership and modes (R57 to R68), the scrubber (R74 to R76), and the
commands of these units. -/

namespace Sys2Proof.Machine

/-! ### Where an address lies -/

/-- What lies at a fabric address. -/
inductive Place where
  /-- The boot ROM, by byte offset. -/
  | rom (off : Nat)
  /-- An on-chip SRAM word that a fabric access reaches at any time, by the address it is kept under. -/
  | sram (key : Nat)
  /-- The base configuration of a PID (R77). -/
  | base (pid : Nat)
  /-- The overlay arena, by byte offset (R77). -/
  | arena (off : Nat)
  /-- A bank word: cluster, bank, word. -/
  | bank (cl b w : Nat)
  /-- An instruction memory word: cluster, position, word. -/
  | imem (cl k w : Nat)
  /-- A register word of a register block or of a cluster page. -/
  | reg (a : Nat)
  /-- An unbacked part of a cluster window (R80). -/
  | hole
  /-- The DRAM window. -/
  | dram (a : Nat)
  /-- No target (R506). -/
  | none
  deriving DecidableEq, Repr

/-- Base of the window of cluster `cl` (R504). -/
def clusterBase (cl : Nat) : Nat := 0x40000000 + 0x10000000 * (cl / 8) + 0x1000000 * (cl % 8)

/-- The address a bank word is kept under (02_memory, cluster banks). -/
def bankKey (cl b w : Nat) : Nat := clusterBase cl + 0x40000 * b + 4 * w

/-- The addresses the words of a cell's memories are kept under (R80). -/
def imemKey (cl k w : Nat) : Nat := clusterBase cl + 0x800000 + 0x20000 * k + 4 * w
def xmemKey (cl k w : Nat) : Nat := clusterBase cl + 0x800000 + 0x20000 * k + 0x8000 + 4 * w
def ymemKey (cl k w : Nat) : Nat := clusterBase cl + 0x800000 + 0x20000 * k + 0x10000 + 4 * w

/-- The place of an offset in a cluster window (R80). -/
def clusterPlace (cl off : Nat) : Place :=
  if off < 0x200000 then .bank cl (off / 0x40000) (off % 0x40000 / 4)
  else if off < 0x800000 then .hole
  else if off < 0x920000 then
    (if off % 0x20000 < 0x8000 then .imem cl ((off - 0x800000) / 0x20000) (off % 0x20000 / 4)
     else if off % 0x20000 < 0x18000 then .sram (clusterBase cl + off / 4 * 4)
     else .hole)
  else if off < 0xF00000 then .hole
  else .reg (clusterBase cl + off / 4 * 4)

/-- The place of a fabric address under the mapping `remap` (R504, R508). -/
def placeOf (remap : Bool) (a : Nat) : Place :=
  if a < 0x40000 then (if remap then .sram (0x10000000 + a / 4 * 4) else .rom (a / 4 * 4))
  else if a < 0x10000000 then .none
  else if a < 0x10040000 then (if remap then .rom (a % 0x40000 / 4 * 4) else .sram (a / 4 * 4))
  else if a < 0x10400000 then .sram (a / 4 * 4)
  else if a < 0x20000000 then .none
  else if a < 0x20800000 then .base (a % 0x800000 / 4)
  else if a < 0x21000000 then .arena (a % 0x800000 / 4 * 4)
  else if a < 0x30000000 then .none
  else if a < 0x30400000 then .sram (a / 4 * 4)
  else if a < 0x40000000 then .none
  else if a < 0x80000000 then
    (if a % 0x10000000 < 0x8000000 then
      clusterPlace (8 * ((a - 0x40000000) / 0x10000000) + a % 0x10000000 / 0x1000000) (a % 0x1000000)
     else .none)
  else if a < 0x80110000 then .reg (a / 4 * 4)
  else if a < 0x100000000 then .none
  else if a < 0x300000000 then .dram (a / 4 * 4)
  else .none

/-- The place of a fabric address now (R508). -/
def State.place (s : State) (a : Nat) : Place := placeOf (s.bit Reg.FABCFG_REMAP_NOW) a

/-! ### On-chip words -/

/-- An on-chip word: unlisted words are 0 with a valid residue, as the initialiser leaves them (R538). -/
def State.ram (s : State) (key : Nat) : Sinter := s.mem.sram.look Sinter.zero key

/-- The state with an on-chip word written. A word a scrubber found faulty counts as rewritten (R76). -/
def State.setRam (s : State) (key : Nat) (x : Sinter) : State :=
  { s with mem := { s.mem with
      sram := s.mem.sram.upd Sinter.zero key x
      scrub := if s.mem.scrub.look 0 key = 1 then s.mem.scrub.upd 0 key 2 else s.mem.scrub } }

/-- A word of an I memory: in the spare, what the engine places there for the self-test (R81; log 192). -/
def State.imemWord (s : State) (cl k w : Nat) : Sinter :=
  if k = 8 then Sinter.ofData (Config.selftestWord cl w) else s.ram (imemKey cl k w)

/-- The key of a base configuration word and of an arena word (R77). -/
def baseKey (pid : Nat) : Nat := 0x20000000 + 4 * pid
def arenaKey (off : Nat) : Nat := 0x20800000 + off

/-! ### DRAM -/

/-- DRAM data bytes that are fitted: three quarters of the DRAM (R82, R85). -/
def State.dramCapacity (s : State) : Nat := 3 * 2 ^ 28 * 2 ^ s.get Reg.DRCCFG_DENSITY

/-- DRAM accesses are served: enabled, trained and not in self-refresh (R90, R545). -/
def State.dramUp (s : State) : Bool :=
  s.bit Reg.DRCCFG_EN && s.bit Reg.DRCSTAT_TRAINED && !s.bit Reg.DRCSTAT_SELF_REFRESH

/-- The line and the word within it of a DRAM data address (R84). -/
def dramLineOf (a : Nat) : Nat := (a - 0x100000000) / 48
def dramWordOf (a : Nat) : Nat := (a - 0x100000000) % 48 / 4

/-- The data address of word `i` of a line (R84). -/
def dramAddr (line i : Nat) : Nat := 0x100000000 + 48 * line + 4 * i

/-- The address lies in the DRAM window (R84). -/
def inDram (a : Nat) : Bool := decide (0x100000000 ≤ a) && decide (a < 0x300000000)

/-- The channel of a line, and the byte of that channel at which it sits (R84). -/
def dramChannel (line : Nat) : Nat := line % 4
def dramByte (line : Nat) : Nat := 64 * (line / 4)

/-- The 480-bit field of a line (R83): word i at bits 40i to 40i + 39. -/
def lineField : List Sinter → Nat
  | [] => 0
  | x :: xs => x.toBits.toNat + 2 ^ 40 * lineField xs

/-- The 64 bytes of a line (R83): the field in bytes 0 to 59, least significant first, then its CRC-32C. -/
def lineBytes (ws : List Sinter) : List (BitVec 8) :=
  let body := (List.range 60).map (fun k => BitVec.ofNat 8 (lineField ws / 2 ^ (8 * k)))
  body ++ (List.range 4).map (fun k => (Digest.crc32c body).extractLsb' (8 * k) 8)

/-- The CRC check of the 64 bytes of a line (R83, R86). -/
def lineCrcOk (bs : List (BitVec 8)) : Bool :=
  bs.drop 60 == (List.range 4).map (fun k => (Digest.crc32c (bs.take 60)).extractLsb' (8 * k) 8)

/-- A stored DRAM word; one not written since the DRAM lost its contents holds a free value (R539, log 3). -/
def State.dramRaw (s : State) (a : Nat) : Sinter :=
  match s.mem.dram.look none a with
  | some x => x
  | none => Config.dramWord s.mem.dramGen a

/-- The state with a DRAM word stored; a delivered line that held it is out of date. -/
def State.setDram (s : State) (a : Nat) (x : Sinter) : State :=
  { s with mem := { s.mem with
      dram := s.mem.dram.upd none a (some x)
      line := match s.mem.line with
        | some e => if e.1 = dramLineOf a then none else some e
        | none => none } }

/-- The byte that a channel of the DRAM holds (R83, R84); every stored line has a correct CRC (R87). -/
def State.dramByteAt (s : State) (ch b : Nat) : BitVec 8 :=
  (lineBytes ((List.range 12).map (fun i => s.dramRaw (dramAddr (4 * (b / 64) + ch) i)))).getD (b % 64) 0

/-- A fault record of the DRAM controller. -/
def State.dramFault (s : State) (a kind : Nat) : State :=
  ((s.put Reg.DRAMFAULT_LO_ADDR a).put Reg.DRAMFAULT_HI_ADDR_HI (a / 2 ^ 32)).put Reg.DRAMFAULT_HI_KIND kind

/-- Words of a line with a good CRC: a faulty word is delivered as poison (R86). -/
def State.lineWords (s : State) (line : Nat) : List Sinter :=
  (List.range 12).map (fun i => if (s.dramRaw (dramAddr line i)).faulty then s.poison i
    else s.dramRaw (dramAddr line i))

/-- The check of the words of a line with a good CRC (R86). -/
def State.checkLine (s : State) (line : Nat) : State :=
  match (List.range 12).find? (fun i => (s.dramRaw (dramAddr line i)).faulty) with
  | some i => (s.dramFault (dramAddr line i) 2).raise 170
  | none => s

/-- A line fetch (R86); `crc1` and `crc2` say whether the CRC of the first and of the second fetch passes.  DRAMFAULT takes
the address of the line's first word on a CRC fault, that of its first faulty word otherwise, and E170 is raised once for the
line (log 193). -/
def State.fetchLine (s : State) (line : Nat) (crc1 crc2 : Bool) : List Sinter × State :=
  if crc1 then (s.lineWords line, s.checkLine line)
  else if crc2 then
    (s.lineWords line, (((s.bump Reg.DRAMCNT_RETRIED).dramFault (dramAddr line 0) 1).raise 169).checkLine line)
  else ((List.range 12).map (fun i => s.poison i),
    ((s.bump Reg.DRAMCNT_FAILED).dramFault (dramAddr line 0) 0).raise 168)

/-- Words of a line written: each pair gives the place in the line and the word. -/
def State.putLine (s : State) (line : Nat) (ws : List (Nat × Sinter)) : State :=
  ws.foldl (fun t w => t.setDram (dramAddr line w.1) w.2) s

/-- The line an access fetches (R86): the one that DRAM_LINE_FETCH has delivered, if it is that line; else it is fetched with
a good CRC, as every stored line has one (R87, log 33). -/
def State.takeLine (s : State) (line : Nat) : List Sinter × State :=
  match s.mem.line with
  | some e => if e.1 = line then (e.2, { s with mem := { s.mem with line := none } }) else s.fetchLine line true true
  | none => s.fetchLine line true true

/-- A write of words of one line (R87): a whole line is written without a fetch, any other write is a read-modify-write of the
line that `fetch` gives; where that fetch failed, every other word of the line becomes poison. -/
def State.mergeLine (s : State) (line : Nat) (ws : List (Nat × Sinter)) (fetch : State → List Sinter × State) : State :=
  if (List.range 12).all (fun i => ws.any (fun w => w.1 == i)) then s.putLine line ws
  else
    let f := fetch s
    (f.2.putLine line ((List.range 12).zip f.1)).putLine line ws

/-- A write of words of one line whose fetch passes its CRC as told. -/
def State.writeLine (s : State) (line : Nat) (ws : List (Nat × Sinter)) (crc1 crc2 : Bool) : State :=
  s.mergeLine line ws (fun t => t.fetchLine line crc1 crc2)

/-- Words stored from `a` on, line by line, in at most `fuel` lines (R87). -/
def State.dramStore : Nat → Nat → List Sinter → State → State
  | 0, _, _, s => s
  | fuel + 1, a, ws, s =>
    if ws.isEmpty then s
    else
      let k := 12 - dramWordOf a
      let part := ((List.range k).zip ws).map (fun e => (dramWordOf a + e.1, e.2))
      State.dramStore fuel (a + 4 * k) (ws.drop k)
        (s.mergeLine (dramLineOf a) part (fun t => t.takeLine (dramLineOf a)))

/-- `n` words read from `a` on, each line fetched once, in at most `fuel` lines (R86). -/
def State.dramLoad : Nat → Nat → Nat → State → State × List Sinter
  | 0, _, _, s => (s, [])
  | fuel + 1, a, n, s =>
    if n = 0 then (s, [])
    else
      let k := Nat.min n (12 - dramWordOf a)
      let f := s.takeLine (dramLineOf a)
      let r := State.dramLoad fuel (a + 4 * k) (n - k) f.2
      (r.1, (f.1.drop (dramWordOf a)).take k ++ r.2)

/-- A refused DRAM access beyond the data capacity (R85). -/
def State.dramRangeError (s : State) (a : Nat) : State := (s.dramFault a 3).raise 174

/-- A DRAM access is refused: beyond the data capacity, in every state of the DRAM (R85), or while it is not up (R90). -/
def State.dramRefuses (s : State) (a : Nat) : Option State :=
  if 0x100000000 + s.dramCapacity ≤ a then some (s.dramRangeError a)
  else if !s.dramUp then some s
  else none

/-! ### Bank ownership and modes -/

/-- The owner code an access to the bank is judged by: while a handover is in progress the new owner's accesses are held
and then served, and the old owner's refused (R60, R61). -/
def State.bankOwner (s : State) (cl b : Nat) : Nat :=
  match s.mem.handover.look none (8 * cl + b) with
  | some h => h.owner
  | none => s.get (Reg.BANKCTL_OWNER cl b)

/-- The mode an access to the bank is judged by (R68). -/
def State.bankMode (s : State) (cl b : Nat) : Nat :=
  match s.mem.handover.look none (8 * cl + b) with
  | some h => h.mode
  | none => s.get (Reg.BANKCTL_MODE cl b)

/-- A refused access recorded in MEMFAULT, with its event (R58, R64, R81).  An access of the spare while it carries the work of
position k records k (log 194). -/
def State.memFault (s : State) (cl target req kind word evt : Nat) : State :=
  ((((s.put (Reg.MEMFAULT_TARGET cl) target).put (Reg.MEMFAULT_REQ cl) req).put (Reg.MEMFAULT_KIND cl) kind).put
    (Reg.MEMFAULT_WORD cl) word).raise evt

/-- The requester code of a fabric master in MEMFAULT (R58): PCIe or another. -/
def masterReq (m : Nat) : Nat := if m = 1 then 0xB else 0xC

/-! ### Commands of the memories -/

/-- A write to BANKCTLb: PENDING is set and the values wait; a write while PENDING replaces them (R60, R62). -/
def State.bankWrite (s : State) (cl b v : Nat) : State :=
  { s.putBit (Reg.BANKCTL_PENDING cl b) true with
    mem := { s.mem with handover := s.mem.handover.upd none (8 * cl + b) (some ⟨v % 16, v / 16 % 4⟩) } }

def execBankHandover (cl : Fin 32) (b : Fin 8) (v : BitVec 32) (s : State) : Host.Outcome State Fault Refusal :=
  done (s.bankWrite cl b v.toNat)

/-- The new owner and mode apply and PENDING clears; the contents stay (R60, R63). -/
def execBankHandoverDone (cl : Fin 32) (b : Fin 8) (s : State) : Host.Outcome State Fault Refusal :=
  match s.mem.handover.look none (8 * cl.val + b.val) with
  | none => done s
  | some h =>
    let s1 : State := { s with mem := { s.mem with handover := s.mem.handover.upd none (8 * cl.val + b.val) none } }
    done (((s1.put (Reg.BANKCTL_OWNER cl b) h.owner).put (Reg.BANKCTL_MODE cl b) h.mode).putBit (Reg.BANKCTL_PENDING cl b) false)

/-- A word as the scrubber sees it: only on-chip SRAM words are scrubbed. -/
def State.scrubbed (s : State) (a : Nat) : Option (Nat × Sinter) :=
  match s.place a with
  | .sram k => some (k, s.ram k)
  | .base p => some (baseKey p, s.ram (baseKey p))
  | .arena o => some (arenaKey o, s.ram (arenaKey o))
  | .bank cl b w => some (bankKey cl b w, s.ram (bankKey cl b w))
  | .imem cl k w => some (imemKey cl k w, s.imemWord cl k w)
  | _ => none

/-- A line delivered by the controller (R86), where no access is refused (R85, R90); the next access to it takes it. -/
def execDramLineFetch (line : BitVec 28) (crc1 crc2 : Bool) (s : State) : Host.Outcome State Fault Refusal :=
  done (match s.dramRefuses (dramAddr line.toNat 0) with
    | some t => t
    | none =>
      let f := s.fetchLine line.toNat crc1 crc2
      { f.2 with mem := { f.2.mem with line := some (line.toNat, f.1) } })

/-- Words of a line written (R87), where no access is refused (R85, R90). -/
def execDramWrite (line : BitVec 28) (ws : List (Fin 12 × Sinter)) (crc1 crc2 : Bool) (s : State) :
    Host.Outcome State Fault Refusal :=
  done (match s.dramRefuses (dramAddr line.toNat 0) with
    | some t => t
    | none => s.writeLine line.toNat (ws.map (fun w => (w.1.val, w.2))) crc1 crc2)

/-- POSTPONE_MAX as applied (REFCFG). -/
def State.postponeMax (s : State) : Nat :=
  if s.get Reg.REFCFG_POSTPONE_MAX = 0 ∨ 8 < s.get Reg.REFCFG_POSTPONE_MAX then 8 else s.get Reg.REFCFG_POSTPONE_MAX

/-- The postponed count of a channel, and DRCSTAT's highest of the four. -/
def State.setPostponed (s : State) (ch n : Nat) : State :=
  let m := s.mem.postponed.upd 0 ch n
  ({ s with mem := { s.mem with postponed := m } }).put Reg.DRCSTAT_POSTPONED
    (Nat.max (Nat.max (m.look 0 0) (m.look 0 1)) (Nat.max (m.look 0 2) (m.look 0 3)))

/-- A refresh issued in idle time; `due` is the count of postponed refreshes on the channel with this one (R89). -/
def execDramRefresh (ch : Fin 4) (due : Fin 9) (s : State) : Host.Outcome State Fault Refusal :=
  done (s.setPostponed ch (Nat.min due.val s.postponeMax - 1))

/-- The postponed count reaches POSTPONE_MAX: refresh takes the grant, is issued, and E171 is raised (R89). -/
def execDramRefreshEmergency (ch : Fin 4) (s : State) : Host.Outcome State Fault Refusal :=
  done ((s.setPostponed ch (s.postponeMax - 1)).raise 171)

/-- An MR4 poll: a changed rate is adopted, shown and announced (R91). -/
def execDramMr4Poll (rate : BitVec 3) (s : State) : Host.Outcome State Fault Refusal :=
  done (if s.get Reg.DRCSTAT_MR4_RATE = rate.toNat then s else (s.put Reg.DRCSTAT_MR4_RATE rate.toNat).raise 173)

/-- A write to DRCCFG (R90): the other fields change only while EN is 0; EN 0 to 1 starts training, EN 1 to 0 places
the channels in self-refresh.  TRAINED stays as it is when EN becomes 0, and SELF_REFRESH reads 0 from the write that sets EN
(log 34). -/
def State.drcWrite (s : State) (v : Nat) : State :=
  let s1 := if s.bit Reg.DRCCFG_EN then s else
    (((s.put Reg.DRCCFG_RATE v).put Reg.DRCCFG_DENSITY (v / 2 ^ 4)).put Reg.DRCCFG_DBI_RD (v / 2 ^ 8)).put
      Reg.DRCCFG_DBI_WR (v / 2 ^ 9)
  if v.testBit 31 then
    (if s.bit Reg.DRCCFG_EN then s1
     else { ((s1.putBit Reg.DRCCFG_EN true).putBit Reg.DRCSTAT_TRAINED false).putBit Reg.DRCSTAT_SELF_REFRESH false with
       mem := { s1.mem with training := true } })
  else if s.bit Reg.DRCCFG_EN then
    { (s1.putBit Reg.DRCCFG_EN false).putBit Reg.DRCSTAT_SELF_REFRESH true with mem := { s1.mem with training := false } }
  else s1

def execDramEnable (v : BitVec 31) (s : State) : Host.Outcome State Fault Refusal :=
  done (s.drcWrite (2 ^ 31 + v.toNat))

def execDramDisable (v : BitVec 31) (s : State) : Host.Outcome State Fault Refusal := done (s.drcWrite v.toNat)

/-- Training ends: TRAINED is set, or stays 0 and E172 is raised (R90). -/
def execDramTrainingDone (ok : Bool) (s : State) : Host.Outcome State Fault Refusal :=
  if s.mem.training then
    let s1 : State := { s with mem := { s.mem with training := false } }
    done (if ok then s1.putBit Reg.DRCSTAT_TRAINED true else s1.raise 172)
  else done s

end Sys2Proof.Machine
end

