-- ==== Sys2Proof/Machine/Flow.lean ====
section
/-! DEFINITION. Fetching and decoding a bundle (R55, R95 to R99, R137 to R141, R165, R177 to R182), loops, branches and
calls (R102 to R106, R161 to R164), and the end of a task (R126, R129). -/

namespace Sys2Proof.Machine

/-! ### Decoding a bundle (R137 to R177) -/

/-- Bits `lo .. lo + w - 1` of a number. -/
def fieldOf (x lo w : Nat) : Nat := x / 2 ^ lo % 2 ^ w

/-- Bits `lo .. lo + 4` as a G register number. -/
def gField (x lo : Nat) : Fin 32 := Fin.ofNat 32 (x / 2 ^ lo)
def pField (x lo : Nat) : Fin 8 := Fin.ofNat 8 (x / 2 ^ lo)

/-- The lane operation of a two-bit code (R152). -/
def laneOf : Nat → LaneOp
  | 0 => .mpy
  | 1 => .mac
  | 2 => .msu
  | _ => .none

/-- The branch condition of codes 0x1 to 0xB (R163). -/
def condOf : Nat → Option BrCond
  | 1 => some .eq
  | 2 => some .ne
  | 3 => some .lt
  | 4 => some .ge
  | 5 => some .gt
  | 6 => some .le
  | 7 => some .vs
  | 8 => some .vc
  | 9 => some .cs
  | 10 => some .cc
  | 11 => some .uo
  | _ => none

/-- SYS (R142, R143): `none` is an illegal encoding. -/
def decodeSys (u : Exe) (x : Nat) : Option Instr :=
  match fieldOf x 12 5 with
  | 0 => if x % 4096 = 0 then some (.nop u) else none
  | 1 => if x % 4096 = 0 ∧ u ≠ .steward then some (.waitp u) else none
  | 2 => if x % 4096 = 0 then some (.ret u) else none
  | 3 => if x % 4096 = 0 then some (.trap u) else none
  | 4 => if fieldOf x 4 8 = 0 then some (.evt u (Fin.ofNat 16 x)) else none
  | 5 => if fieldOf x 6 1 = 0 ∧ cregWritable (BitVec.ofNat 6 x) then
      some (.mtc u (BitVec.ofNat 6 x) (gField x 7)) else none
  | 6 => if fieldOf x 6 1 = 0 ∧ cregReadable (BitVec.ofNat 6 x) then
      some (.mfc u (gField x 7) (BitVec.ofNat 6 x) false) else none
  | 7 => if fieldOf x 6 6 = 0 then some (.amov u (pField x 3) (pField x 0)) else none
  | 8 => if fieldOf x 6 6 = 0 then some (.aadd u (pField x 3) (pField x 0)) else none
  | 9 => if fieldOf x 6 6 = 0 then some (.asub u (pField x 3) (pField x 0)) else none
  | _ => none

/-- ALU-A, ALU-B, ALU-C, SEL, SHR and SHI (R147). -/
def decodeAlu (u : Exe) (major x : Nat) : Option Instr :=
  let d := gField x 10
  let a := gField x 5
  let b := gField x 0
  match major, fieldOf x 15 2 with
  | 1, 0 => some (.add u d a b)
  | 1, 1 => some (.sub u d a b)
  | 1, 2 => some (.adds u d a b)
  | 1, _ => some (.subs u d a b)
  | 2, 0 => some (.and u d a b false)
  | 2, 1 => some (.or u d a b false)
  | 2, 2 => some (.xor u d a b false)
  | 2, _ => if fieldOf x 10 5 = 0 then some (.cmp u a b) else none
  | 3, 0 => some (.min u d a b)
  | 3, 1 => some (.max u d a b)
  | 3, 2 => if fieldOf x 0 5 = 0 then some (.abs u d a) else none
  | 3, _ => some (.clip u d a b)
  | 4, 0 => some (.sel u .lt d a b)
  | 4, 1 => some (.sel u .ge d a b)
  | 4, 2 => some (.sel u .eq d a b)
  | 4, _ => some (.sel u .ne d a b)
  | 5, 0 => some (.shl u d a b false)
  | 5, 1 => some (.sra u d a b)
  | 5, 2 => some (.shr u d a b false)
  | 5, _ => some (.norm u d a b)
  | 6, 0 => some (.shli u d a b false)
  | 6, 1 => some (.srai u d a b)
  | 6, 2 => some (.shri u d a b false)
  | 6, _ => some (.normi u d a b)
  | _, _ => none

/-- MAC, DMAC, STA and CONV (R151, R152, R154 to R158). -/
def decodeMac (u : Exe) (major x : Nat) : Option Instr :=
  match major with
  | 7 =>
    if x % 4 ≠ 0 then none else
    match fieldOf x 15 2 with
    | 0 => some (.mpy u (pField x 12) (gField x 7) (gField x 2))
    | 1 => some (.mac u (pField x 12) (gField x 7) (gField x 2))
    | 2 => some (.msu u (pField x 12) (gField x 7) (gField x 2))
    | _ => none
  | 8 =>
    if x % 4 ≠ 0 ∨ (fieldOf x 15 2 = 3 ∧ fieldOf x 13 2 = 3) then none else
    some (.dmac u (laneOf (fieldOf x 15 2)) (laneOf (fieldOf x 13 2)) (Fin.ofNat 4 (x / 2 ^ 11))
      (Fin.ofNat 16 (x / 2 ^ 7)) (Fin.ofNat 16 (x / 2 ^ 3)) (fieldOf x 2 1 == 1))
  | 9 =>
    if x % 8 ≠ 0 ∨ shiftOk (BitVec.ofNat 5 (x / 2 ^ 4)) = false then none
    else if fieldOf x 3 1 = 0 then some (.sta u (gField x 12) (pField x 9) (BitVec.ofNat 5 (x / 2 ^ 4)))
    else if fieldOf x 9 1 = 1 then none
    else some (.staP u (gField x 12) (pField x 9) (BitVec.ofNat 5 (x / 2 ^ 4)))
  | 10 =>
    if fieldOf x 0 5 ≠ 0 then none else
    match fieldOf x 15 2 with
    | 0 => some (.lin2g u (gField x 10) (gField x 5) false)
    | 1 => some (.g2lin u (gField x 10) (gField x 5) false)
    | 2 => some (.bexp u (gField x 10) (.g (gField x 5)) false)
    | _ => if fieldOf x 8 2 = 0 then some (.bexp u (gField x 10) (.a (pField x 5)) false) else none
  | _ => none

/-- CTL, the steward control extension (R183). -/
def decodeCtl (x : Nat) : Option Instr :=
  let d := gField x 8
  let a := gField x 3
  match fieldOf x 13 4 with
  | 0 => if x % 8 = 0 then some (.fld d a) else none
  | 1 => if x % 8 = 0 then some (.fst a d) else none
  | 2 => if x % 8 = 0 then some (.fldl d a) else none
  | 3 => if x % 8 = 0 then some (.fstu a d) else none
  | 4 => if x % 8192 = 0 then some .fence else none
  | 5 => if x % 8192 = 0 then some .eret else none
  | 6 => if x % 8192 = 0 then some .wfe else none
  | 7 => if x % 8192 = 0 then some .ei else none
  | 8 => if x % 8192 = 0 then some .di else none
  | 9 => if fieldOf x 5 3 = 0 ∧ x % 32 ≤ 9 then some (.mtcs (BitVec.ofNat 5 x) d) else none
  | 10 => if fieldOf x 5 3 = 0 ∧ x % 32 ≤ 9 then some (.mfcs d (BitVec.ofNat 5 x) false) else none
  | 11 => if fieldOf x 8 5 = 0 ∧ x % 8 = 0 then some (.jr a) else none
  | 12 => if fieldOf x 8 5 = 0 ∧ x % 8 = 0 then some (.jalr a) else none
  | _ => none

/-- LI, LUI, LOOP and BR (R160, R161, R163). -/
def decodeFlow (u : Exe) (major x : Nat) : Option Instr :=
  match major with
  | 11 => some (.li u (gField x 12) (BitVec.ofNat 12 x) false)
  | 12 => some (.lui u (gField x 12) (BitVec.ofNat 12 x) false)
  | 13 =>
    if fieldOf x 16 1 = 0 then some (.loop u (.imm (BitVec.ofNat 10 (x / 2 ^ 6)) (BitVec.ofNat 6 x)))
    else some (.loop u (.reg (gField x 11) (BitVec.ofNat 11 x)))
  | 14 =>
    if fieldOf x 16 1 = 1 then
      (if fieldOf x 12 4 = 0 then some (.call u (BitVec.ofNat 12 x)) else none)
    else if fieldOf x 12 4 = 0 then some (.br u (BitVec.ofNat 12 x))
    else (condOf (fieldOf x 12 4)).map (fun k => .bcc u k (BitVec.ofNat 12 x))
  | _ => none

/-- The compute slot (R141). -/
def decodeCompute (u : Exe) (slot : Nat) : Option Instr :=
  let major := fieldOf slot 17 4
  let x := slot % 2 ^ 17
  if major = 0 then decodeSys u x
  else if major ≤ 6 then decodeAlu u major x
  else if major ≤ 10 then decodeMac u major x
  else if major ≤ 14 then decodeFlow u major x
  else match u with
    | .steward => decodeCtl x
    | .cell _ => none

/-- The X slot (R166). -/
def decodeX (u : Exe) (x : Nat) : Option Instr :=
  match fieldOf x 12 2 with
  | 0 => some (.ldX u (gField x 7) (pField x 4) (BitVec.ofNat 4 x))
  | 1 => some (.stX u (pField x 4) (BitVec.ofNat 4 x) (gField x 7))
  | 2 => if u = .steward then none else some (.sin u (gField x 7) (pField x 4) (BitVec.ofNat 4 x))
  | _ =>
    if fieldOf x 11 1 = 0 then
      (if shiftOk (BitVec.ofNat 5 (x / 2 ^ 3)) then
        some (.staX u (pField x 8) (BitVec.ofNat 5 (x / 2 ^ 3)) (pField x 0)) else none)
    else if fieldOf x 10 1 = 0 ∧ u ≠ .steward then
      some (.ldUX u (gField x 5) (pField x 2) (BitVec.ofNat 2 x))
    else none

/-- The Y slot (R169). -/
def decodeY (u : Exe) (x : Nat) : Option Instr :=
  match fieldOf x 12 2 with
  | 0 => some (.ldY u (gField x 7) (pField x 4) (BitVec.ofNat 4 x))
  | 1 => some (.stY u (pField x 4) (BitVec.ofNat 4 x) (gField x 7))
  | 2 => if u = .steward then none else some (.sout u (pField x 4) (BitVec.ofNat 4 x) (gField x 7))
  | _ =>
    if fieldOf x 11 1 = 0 then
      (if shiftOk (BitVec.ofNat 5 (x / 2 ^ 3)) then
        some (.staY u (pField x 8) (BitVec.ofNat 5 (x / 2 ^ 3)) (pField x 0)) else none)
    else if u = .steward then none
    else if fieldOf x 10 1 = 0 then some (.mtap u (pField x 2) (BitVec.ofNat 2 x) (gField x 5))
    else some (.ldUY u (gField x 5) (pField x 2) (BitVec.ofNat 2 x))

/-- The Z slot (R172): on the steward every encoding but the all-zero nop is illegal (R182). -/
def decodeZ (u : Exe) (x : Nat) : Option Instr :=
  if u = .steward then (if x = 0 then some (.ldZ u 0 0 0 0) else none) else
  match fieldOf x 13 2 with
  | 0 => some (.ldZ u (gField x 8) (pField x 5) (pField x 2) (BitVec.ofNat 2 x))
  | 1 => some (.stZ u (gField x 8) (pField x 5) (pField x 2) (BitVec.ofNat 2 x))
  | 2 =>
    if fieldOf x 12 1 = 0 then some (.pget u (gField x 7) (pField x 4) (pField x 1) (fieldOf x 0 1 == 1) false)
    else if 1 ≤ fieldOf x 7 5 ∧ fieldOf x 7 5 ≤ 29 then
      some (.pgetTwin u (gField x 7) (pField x 4) (pField x 1) (fieldOf x 0 1 == 1) false)
    else none
  | _ =>
    match fieldOf x 11 2 with
    | 0 => some (.amoAdd u (gField x 6) (pField x 3) (pField x 0) false)
    | 1 => some (.amoSwap u (gField x 6) (pField x 3) (pField x 0))
    | 2 => some (.ldUZ u (gField x 6) (pField x 3) (pField x 0) false)
    | _ => none

/-- The destinations an instruction names (R96, R177): 0 to 31 a G register, 32 up an accumulator, 64 up a control
register, pointers among them.  G0 is never one. -/
def destinations : Instr → List Nat
  | .mtc _ k _ => [64 + k.toNat]
  | .mfc _ d _ _ => [d.val]
  | .amov _ d _ | .aadd _ d _ | .asub _ d _ => [32 + d.val]
  | .add _ d _ _ | .sub _ d _ _ | .adds _ d _ _ | .subs _ d _ _ => [d.val]
  | .and _ d _ _ _ | .or _ d _ _ _ | .xor _ d _ _ _ => [d.val]
  | .min _ d _ _ | .max _ d _ _ | .abs _ d _ | .clip _ d _ _ | .sel _ _ d _ _ => [d.val]
  | .shl _ d _ _ _ | .sra _ d _ _ | .shr _ d _ _ _ | .norm _ d _ _ => [d.val]
  | .shli _ d _ _ _ | .srai _ d _ _ | .shri _ d _ _ _ | .normi _ d _ _ => [d.val]
  | .mpy _ n _ _ | .mac _ n _ _ | .msu _ n _ _ => [32 + n.val]
  | .dmac _ o0 o1 q _ _ _ => (if o0 = .none then [] else [32 + 2 * q.val]) ++ (if o1 = .none then [] else [33 + 2 * q.val])
  | .sta _ d _ _ | .staP _ d _ _ => [d.val]
  | .lin2g _ d _ _ | .g2lin _ d _ _ | .bexp _ d _ _ => [d.val]
  | .li _ d _ _ | .lui _ d _ _ => [d.val]
  | .ldX _ d p _ | .ldY _ d p _ | .sin _ d p _ => if d.val = 0 then [] else [d.val, 64 + p.val]
  | .ldUX _ d p _ | .ldUY _ d p _ => if d.val = 0 then [] else [d.val, 64 + p.val]
  | .stX _ p _ _ | .stY _ p _ _ | .sout _ p _ _ | .staX _ _ _ p | .staY _ _ _ p | .mtap _ p _ _ => [64 + p.val]
  | .ldZ _ d _ p _ => if d.val = 0 then [] else [d.val, 64 + p.val]
  | .stZ _ _ _ p _ => [64 + p.val]
  | .pget _ d _ p hold _ => d.val :: (if hold then [] else [64 + p.val])
  | .pgetTwin _ d _ p hold _ => [d.val, d.val + 1, d.val + 2] ++ (if hold then [] else [64 + p.val])
  | .amoAdd _ g _ _ _ | .amoSwap _ g _ _ => [g.val]
  | .ldUZ _ d _ _ _ => [d.val]
  | .fld d _ | .fldl d _ | .mfcs d _ _ => [d.val]
  | _ => []

/-- No destination is named twice (R96). -/
def noClash : List Nat → Bool
  | [] => true
  | d :: ds => !(ds.contains d) && noClash ds

/-- The four instructions of a bundle, or none for an illegal encoding (R177, R179). -/
def decodeBundle (u : Exe) (w : Nat) : Option (List Instr) :=
  match decodeCompute u (fieldOf w 43 21), decodeX u (fieldOf w 29 14), decodeY u (fieldOf w 15 14),
      decodeZ u (fieldOf w 0 15) with
  | some c, some x, some y, some z =>
    if noClash (((destinations c ++ destinations x) ++ (destinations y ++ destinations z)).filter (fun d => d != 0)) then
      some [c, x, y, z]
    else none
  | _, _, _, _ => none

/-- The place of an instruction among the commands of its bundle: `trap`, whose cause goes before the run-time causes (R178), those
that can trap at run time, those that reach memory, and what ends the task. -/
def slotRank : Instr → Nat
  | .trap _ => 0
  | .pget _ _ _ _ _ _ | .pgetTwin _ _ _ _ _ _ => 1
  | .waitp _ => 4
  | .ldZ _ _ _ _ _ | .stZ _ _ _ _ _ | .amoAdd _ _ _ _ _ | .amoSwap _ _ _ _ | .ldUZ _ _ _ _ _ => 3
  | .ldX _ _ _ _ | .stX _ _ _ _ | .sin _ _ _ _ | .staX _ _ _ _ | .ldUX _ _ _ _ => 3
  | .ldY _ _ _ _ | .stY _ _ _ _ | .sout _ _ _ _ | .staY _ _ _ _ | .mtap _ _ _ _ | .ldUY _ _ _ _ => 3
  | _ => 2

/-- The commands a bundle spells, in the order in which they are sent after BUNDLE_FETCH: those that may trap before any
that reaches memory, since no slot of a bundle that traps takes effect (R178), and `waitp` last (log 11). -/
def bundleCommands (u : Exe) (w : Nat) : List Instr :=
  match decodeBundle u w with
  | none => []
  | some is => (List.range 5).flatMap (fun r => is.filter (fun i => slotRank i == r))

/-! ### Fetching a bundle -/

/-- Cycles a cell's running task has taken. -/
def State.cycles (s : State) (u : Exe) (n : Nat) : State :=
  match u with
  | .steward => s
  | .cell p => match s.eff p with
    | some e => s.setCell e { s.cell e with taskCyc := (s.cell e).taskCyc + n, winCyc := (s.cell e).winCyc + n }
    | none => s

/-- The word at a fabric address that the steward fetches or reaches in its working memory (R180, R182). -/
def State.stewardWord (s : State) (a : Nat) : Sinter :=
  match s.place a with
  | .rom off => Config.bootRom off
  | .sram k => s.ram k
  | _ => Sinter.zero

/-- The fabric address of a steward bundle (R180). -/
def stewardFetchAddr (pc : Nat) : Nat := if pc < 32768 then 8 * pc else 0x10000000 + 8 * pc

/-- The two halves of the bundle at `pc`: bits 31:0, then bits 63:32 (R80, R137). -/
def State.bundleAt (s : State) (u : Exe) (pc : Nat) : Sinter × Sinter :=
  match u with
  | .cell p =>
    match s.eff p with
    | some e => (s.ram (imemKey (cellCl e) (cellK e) (2 * pc)), s.ram (imemKey (cellCl e) (cellK e) (2 * pc + 1)))
    | none => (Sinter.zero, Sinter.zero)
  | .steward => (s.stewardWord (stewardFetchAddr pc), s.stewardWord (stewardFetchAddr pc + 4))

/-- The last bundle address: 4,095 in a cell (R165), the last of the 19-bit PC on the steward (R180, log 13). -/
def lastBundle (u : Exe) : Nat :=
  match u with
  | .cell _ => 4095
  | .steward => 2 ^ 19 - 1

/-! ### Loops, branches and calls -/

/-- A flow instruction in the last bundle of a loop body traps (R105). -/
def Core.atLoopEnd (c : Core) : Bool := c.loops.any (fun l => decide (l.last = c.pc))

/-- A taken branch continues at the target, and ends every loop whose body the target leaves with the loops inside it
(R104). -/
def Core.branch (c : Core) (target : Nat) : Core :=
  { c with npc := target, loops := c.loops.takeWhile (fun l => decide (l.first ≤ target ∧ target ≤ l.last)) }

/-- A flow instruction: it traps in the last bundle of a loop body, else acts; a taken one costs 2 more cycles (R99,
R164).  `f` gives the core, whether the flow is taken, and the report. -/
def State.flow (s : State) (u : Exe) (f : Core → Core × Bool × Note) : State :=
  let c := s.core u
  if !c.live then s
  else if c.atLoopEnd then s.trap u 2
  else
    let r := f c
    match r.2.2 with
    | .ok => if r.2.1 then (s.setCore u r.1).cycles u 2 else s.setCore u r.1
    | n => s.commit u r.1 n

/-- `br` (R163). -/
def execBr (u : Exe) (target : BitVec 12) (s : State) : Host.Outcome State Fault Refusal :=
  done (s.flow u (fun c => (c.branch (targetOf u c.pc target), true, .ok)))

/-- A conditional branch (R116, R163). -/
def execBcc (u : Exe) (cond : BrCond) (target : BitVec 12) (s : State) : Host.Outcome State Fault Refusal :=
  done (s.flow u (fun c =>
    if branchHolds c.stRead cond then (c.branch (targetOf u c.pc target), true, .ok) else (c, false, .ok)))

/-- `call` pushes the address of the next bundle; a ninth traps with CAUSE 0x5; it ends no loop (R104, R163).  From bundle 4,095
it pushes 4,096, and a `ret` to it runs off as R165 says (log 199). -/
def execCall (u : Exe) (target : BitVec 12) (s : State) : Host.Outcome State Fault Refusal :=
  done (s.flow u (fun c =>
    if 8 ≤ c.stack.length then (c, false, .trap 5)
    else ({ c with stack := (c.pc + 1) :: c.stack, npc := targetOf u c.pc target }, true, .ok)))

/-- `ret` (R104, R142): from an empty stack it traps with CAUSE 0x5. -/
def execRet (u : Exe) (s : State) : Host.Outcome State Fault Refusal :=
  done (s.flow u (fun c =>
    match c.stack with
    | [] => (c, false, .trap 5)
    | a :: rest => ({ c with stack := rest, npc := a }, true, .ok)))

/-- The bundles of a body (R161). -/
def loopBody : LoopForm → Nat
  | .imm _ e => e.toNat + 1
  | .reg _ e => e.toNat + 1

/-- The count of a loop; a register count that is poison or faulty has none (R93, R102). -/
def Core.loopCount (c : Core) : LoopForm → Option Nat
  | .imm n _ => some n.toNat
  | .reg g _ => if (c.rdG g).ok then some ((c.rdG g).data.toNat % 65536) else none

/-- `loop` (R102, R103, R106, R161, R162).  Every active loop counts as enclosing the new one, a caller's loop seen from a
subroutine too (log 199). -/
def Core.startLoop (c : Core) (u : Exe) (form : LoopForm) : Core × Bool × Note :=
  let stop := c.pc + loopBody form
  match c.loopCount form with
  | none => (c, false, .trap 6)
  | some n =>
    if lastBundle u < stop ∨ c.loops.any (fun l => decide (l.last < stop)) then (c, false, .trap 2)
    else if n = 0 then ({ c with npc := stop + 1 }, true, .ok)
    else if 3 ≤ c.loops.length then (c, false, .trap 4)
    else
      ({ c with
          loops := c.loops ++ [⟨c.pc + 1, stop⟩],
          c := c.c.upd none (32 + c.loops.length) (some (BitVec.ofNat 16 n)),
          lbuf := if loopBody form ≤ 64 then some ⟨c.pc + 1, stop⟩ else c.lbuf }, false, .ok)

def execLoop (u : Exe) (form : LoopForm) (s : State) : Host.Outcome State Fault Refusal :=
  done (s.flow u (fun c => c.startLoop u form))

/-- The body of a loop lies in the range the loop buffer has captured (R106). -/
def Core.buffered (c : Core) (l : Loop) : Bool :=
  match c.lbuf with
  | some b => decide (b.first ≤ l.first ∧ l.last ≤ b.last)
  | none => false

/-- The end of the innermost body is reached: it repeats while iterations remain, else ends, and an enclosing loop that
ends at the same bundle is judged in turn (R103, R106).  The second part is the cost in cycles (R99). -/
def Core.backEdge : Nat → Core → Core × Nat
  | 0, c => (c, 0)
  | n + 1, c =>
    match c.loops.getLast? with
    | none => (c, 0)
    | some l =>
      if l.last ≠ c.pc then (c, 0)
      else if (c.lc (c.loops.length - 1)).toNat ≤ 1 then
        Core.backEdge n { c with loops := c.loops.dropLast, c := c.c.upd none (31 + c.loops.length) (some 0) }
      else
        ({ c with
            npc := l.first
            c := c.c.upd none (31 + c.loops.length) (some (c.lc (c.loops.length - 1) - 1)) },
          if c.buffered l then 0 else 2)

def execLoopBackEdge (u : Exe) (s : State) : Host.Outcome State Fault Refusal :=
  let c := s.core u
  done (if c.live then (s.setCore u (Core.backEdge 3 c).1).cycles u (Core.backEdge 3 c).2 else s)

/-! ### The other SYS instructions -/

/-- `trap` traps with CAUSE 0x1 (R128, R142). -/
def execTrap (u : Exe) (s : State) : Host.Outcome State Fault Refusal :=
  done (s.compute u (fun c _ => (c, .trap 1)))

/-- `evt n` raises E(240 + n) (R142, R568). -/
def execEvt (u : Exe) (n : Fin 16) (s : State) : Host.Outcome State Fault Refusal :=
  done (if (s.core u).live then s.raise (240 + n) else s)

/-- The sticky bits of ST go to CELLSTAT at the end of a task, with E103 and E105 (R129). -/
def State.taskEndStatus (s : State) (e : Nat) : State :=
  let st := (s.cell e).core.st
  let cl := cellCl e
  let k := cellK e
  let s1 := if st.getLsbD stRes then s.putBit (Reg.CELLSTAT_RES cl k) true else s
  let s2 := if st.getLsbD stPsn then s1.putBit (Reg.CELLSTAT_PSN cl k) true else s1
  let s3 := if st.getLsbD stSat then (s2.putBit (Reg.CELLSTAT_SAT cl k) true).raiseCellOnce e 103 else s2
  if st.getLsbD stAov then (s3.putBit (Reg.CELLSTAT_AOV cl k) true).raiseCellOnce e 105 else s3

/-- `waitp` ends the running task, and the next enabled one is entered (R94, R126, R129). -/
def State.endTask (s : State) (e : Nat) : State :=
  let s1 := s.taskEndStatus e
  let c := s1.cell e
  let t := c.taskNo
  s1.setCell e ({ c with ran := t :: c.ran }.enter (c.nextTask s1.window t) (s.entryGen e))

def execWaitp (u : Exe) (s : State) : Host.Outcome State Fault Refusal :=
  done (if !(s.core u).live then s else
    match u with
    | .steward => s.trap u 2
    | .cell p => match s.eff p with
      | some e => s.endTask e
      | none => s)

/-- A task whose count has reached its BUDGET (R127): OVER_BUDGET, BUDGET_TASK and E99; the task keeps running. -/
def execTaskBudgetReached (p : Fin 288) (s : State) : Host.Outcome State Fault Refusal :=
  done (match s.eff p with
    | none => s
    | some e => match (s.cell e).runningTask s.window with
      | none => s
      | some t =>
        if (s.cell e).taskCyc < t.budget then s
        else ((s.putBit (Reg.CELLSTAT_OVER_BUDGET (cellCl e) (cellK e)) true).put
          (Reg.CELLSTAT_BUDGET_TASK (cellCl e) (cellK e)) t.idx).raiseCellOnce e 99)

end Sys2Proof.Machine
end

