-- ==== Sys2Proof/Machine/Slots.lean ====
section
/-! DEFINITION. The X and Y slots (R101, R113, R118 to R121, R130, R166 to R170), with the slots between stages they
reach (R34 to R39). -/

namespace Sys2Proof.Machine

/-- A memory-slot instruction acts only in a bundle that has issued and not trapped (R178). -/
def State.slot (s : State) (u : Exe) (f : State → Core → State) : State :=
  if (s.core u).live then f s (s.core u) else s

/-- The word of X or Y memory an address reaches, the halves of an exchanged checkpoint region swapped (R130). -/
def Cell.translate (c : Cell) (w : Nat) (y : Bool) (a : Nat) : Nat :=
  match c.table w with
  | none => a
  | some tb =>
    match tb.tasks.find? (fun t => t.ckY == y && decide (t.ckBase ≤ a ∧ a < t.ckBase + 2 * t.ckLen)) with
    | none => a
    | some t =>
      if c.swap.contains t.idx then (if a < t.ckBase + t.ckLen then a + t.ckLen else a - t.ckLen) else a

/-- The key of the word that an X-slot or Y-slot access of `u` reaches through a pointer value (03_cells, addressing;
R182). -/
def State.xyKey (s : State) (u : Exe) (y : Bool) (p : Nat) : Nat :=
  match u with
  | .steward => 0x10000000 + 4 * ((if y then s.stw.ynow.toNat else s.stw.xnow.toNat) * 65536 + p)
  | .cell q => match s.eff q with
    | some e => if y then ymemKey (cellCl e) (cellK e) ((s.cell e).translate s.window true (p % 8192))
                else xmemKey (cellCl e) (cellK e) ((s.cell e).translate s.window false (p % 8192))
    | none => 0

/-- A word as a check point passes it (R9, R113): a faulty word becomes poison. -/
def State.checked (s : State) (x : Sinter) : Sinter := if x.faulty then s.poison 0 else x

/-- The fault of a store whose word fails its check (R113). -/
def State.storeNote (s : State) (u : Exe) (bad : Bool) : State := if bad then s.softFault u 7 else s

/-- `ld` of X or Y: into G0 it makes no access (R139); the word is not checked (R112). -/
def State.loadXY (s : State) (u : Exe) (y : Bool) (gd pn : Nat) (m : Modifier) (c : Core) : State :=
  if gd = 0 then s else s.setCore u ((c.post pn m).sendG 2 gd (s.ram (s.xyKey u y (c.p pn).toNat)))

/-- `st` to X or Y: a check point (R113). -/
def State.storeXY (s : State) (u : Exe) (y : Bool) (gs pn : Nat) (m : Modifier) (c : Core) : State :=
  ((s.setRam (s.xyKey u y (c.p pn).toNat) (s.checked (c.rdG gs))).setCore u (c.post pn m)).storeNote u
    (c.rdG gs).faulty

/-- `sta` to X or Y, which post-modifies by 1 (R109, R113, R140, R168). -/
def State.staXY (s : State) (u : Exe) (y : Bool) (an : Nat) (sh : BitVec 5) (pn : Nat) (c : Core) : State :=
  if !shiftOk sh then s.trap u 2
  else
    let o := c.staWord an sh false (s.poison 0)
    ((s.setRam (s.xyKey u y (c.p pn).toNat) o.word).setCore u
      (((c.staFlags o).notePoison o.word).post pn ⟨1, false⟩)).storeNote u o.mismatch

/-- `ld.u` aimed at X or Y memory: always refused, recorded, and the pointer post-modified (R64).  MEMFAULT.WORD takes the pointer
mod 8,192 without the exchange of R130, and the poison is readable after the 2 bundles of an X or Y `ld` (log 200). -/
def State.refuseXY (s : State) (u : Exe) (y : Bool) (gd pn : Nat) (m : Modifier) (c : Core) : State :=
  match u with
  | .steward => s.trap u 2
  | .cell q => if gd = 0 then s else match s.eff q with
    | some e => (s.setCore u ((c.post pn m).sendG 2 gd (s.poison 0))).memFault (cellCl e)
        ((if y then 26 else 17) + cellK e) (cellK e) 1 ((c.p pn).toNat % 8192) 161
    | none => s

/-! ### Staged inputs and slots -/

/-- The key of a staged-input sample: period, working cell, input, frame (R118). -/
def stagedKey (per w i j : Nat) : Nat := ((per * 256 + w) * 64 + i) * 16 + j

/-- The X word a staged-input sample is deposited in (R118). -/
def stagedWord (baseSel per i j : Nat) : Nat := 2048 * baseSel + 1024 * (per % 2) + 16 * i + j

/-- The staged set of period `per` (R118). -/
def Cell.stagedSet (c : Cell) (per : Nat) : Option Adopted := c.tables.find? (fun a => decide (a.win ≤ per))

/-- Frame j of staged input i of period `per` as `sin` reads it (R119): silence where the input is not enabled, poison
where the deposit missed its deadline (R28). -/
def State.stagedInput (s : State) (e per i j : Nat) : Sinter :=
  match (s.cell e).stagedSet per with
  | none => Sinter.zero
  | some a =>
    if a.srcs.look 0 i = 0 then Sinter.zero
    else if s.eng.lateS0.look false (stagedKey per (workOf e) i j) then s.poison 0
    else s.ram (xmemKey (cellCl e) (cellK e)
      ((s.cell e).translate s.window false (stagedWord a.baseSel per i j % 8192)))

/-- Bus b is deep for the sums of period `q` (R203, R205). -/
def State.deepAt (s : State) (q b : Nat) : Bool := s.getAt q (Reg.CALBUS_WIDE_IN b) == 1

/-- Frame j of bus `b` as a reader of window `v` takes it (R120, R203, R205): the sums of period v - 3, of a deep bus of
period v - 4; poison in the two windows after a change of WIDE_IN and where Caldera has not formed the sum. Frames are
counted with 64 added. -/
def State.busRead (s : State) (v b j : Nat) : Sinter :=
  let wf := 16 * (if s.deepAt (v - 3) b then v else v + 1) + j
  if s.deepAt (v - 2) b != s.deepAt (v - 3) b || s.deepAt (v - 3) b != s.deepAt (v - 4) b then s.poison 0
  else match s.eng.bus.look none (slotKey wf b) with
    | some x => x
    | none => if s.cal.formed.contains wf then Sinter.zero else s.poison 0

/-- A bus sample as `sin` reads it (R34, R120): silence for an absent bus. -/
def State.busSample (s : State) (b j : Nat) : Sinter :=
  if s.nBus ≤ b then Sinter.zero else s.busRead s.window b j

/-- The word `sin` returns (R167). -/
def State.sinWord (s : State) (e p : Nat) : Sinter :=
  if (s.cell e).isS3 s.window then s.busSample (p / 16 % 512) (p % 16)
  else s.stagedInput e (s.window - 1) (p / 16 % 64) (p % 16)

/-- A cell is the declared writer of a slot for the period a task of this window works on (R36, R41). -/
def State.writerOk (s : State) (s3 : Bool) (w k : Nat) : Bool :=
  if s3 then s.getAt (s.window - 3) (Reg.EGW_KIND k) == 1 && s.getAt (s.window - 3) (Reg.EGW_CELL k) == w
  else s.getAt (s.window - 1) (Reg.SRCW_KIND k) == 2 && s.getAt (s.window - 1) (Reg.SRCW_CELL k) == w

/-- A `sout` of the word `x` to slot k, frame j (R38, R121, R170): discarded without an event where the slot does not
exist, discarded with E100 where the cell is not the declared writer. -/
def State.soutTo (s : State) (e : Nat) (s3 : Bool) (k j : Nat) (x : Sinter) : State :=
  if (if s3 then s.nEgr else s.nSrc) ≤ k then s
  else if !s.writerOk s3 (workOf e) k then s.raise 100
  else if s3 then { s with eng := { s.eng with egr := s.eng.egr.upd none (slotKey (s.workFrame true j) k) (some x) } }
  else { s with eng := { s.eng with src := s.eng.src.upd none (slotKey (s.workFrame false j) k) (some x) } }

/-- `sout` (R113, R121, R170). -/
def State.sout (s : State) (u : Exe) (pn : Nat) (m : Modifier) (gs : Nat) (c : Core) : State :=
  match u with
  | .steward => s.trap u 2
  | .cell q => match s.eff q with
    | none => s
    | some e =>
      let x := s.checked (c.rdG gs)
      let p := (c.p pn).toNat
      let s1 := (s.setCore u (c.post pn m)).soutTo e ((s.cell e).isS3 s.window) (p / 16 % 1024) (p % 16) x
      (if x.isPoison then s1.raiseCellOnce e 104 else s1).storeNote u (c.rdG gs).faulty

/-! ### The instructions -/

def execLdX (u : Exe) (gd : Fin 32) (pn : Fin 8) (am : BitVec 4) (s : State) : Host.Outcome State Fault Refusal :=
  done (s.slot u (fun s c => s.loadXY u false gd pn (c.am4 am) c))

def execStX (u : Exe) (pn : Fin 8) (am : BitVec 4) (gs : Fin 32) (s : State) : Host.Outcome State Fault Refusal :=
  done (s.slot u (fun s c => s.storeXY u false gs pn (c.am4 am) c))

/-- `sin` (R119, R120, R139, R167); an illegal encoding on the steward (R182). -/
def execSin (u : Exe) (gd : Fin 32) (pn : Fin 8) (am : BitVec 4) (s : State) : Host.Outcome State Fault Refusal :=
  done (s.slot u (fun s c =>
    match u with
    | .steward => s.trap u 2
    | .cell q => match s.eff q with
      | none => s
      | some e => if gd.val = 0 then s else
          s.setCore u ((c.post pn (c.am4 am)).sendG 2 gd (s.sinWord e (c.p pn).toNat))))

def execStaX (u : Exe) (an : Fin 8) (sh : BitVec 5) (pn : Fin 8) (s : State) : Host.Outcome State Fault Refusal :=
  done (s.slot u (fun s c => s.staXY u false an sh pn c))

def execLdUX (u : Exe) (gd : Fin 32) (pn : Fin 8) (am : BitVec 2) (s : State) : Host.Outcome State Fault Refusal :=
  done (s.slot u (fun s c => s.refuseXY u false gd pn (c.am2 pn am) c))

def execLdY (u : Exe) (gd : Fin 32) (pn : Fin 8) (am : BitVec 4) (s : State) : Host.Outcome State Fault Refusal :=
  done (s.slot u (fun s c => s.loadXY u true gd pn (c.am4 am) c))

def execStY (u : Exe) (pn : Fin 8) (am : BitVec 4) (gs : Fin 32) (s : State) : Host.Outcome State Fault Refusal :=
  done (s.slot u (fun s c => s.storeXY u true gs pn (c.am4 am) c))

def execSout (u : Exe) (pn : Fin 8) (am : BitVec 4) (gs : Fin 32) (s : State) : Host.Outcome State Fault Refusal :=
  done (s.slot u (fun s c => s.sout u pn (c.am4 am) gs c))

def execStaY (u : Exe) (an : Fin 8) (sh : BitVec 5) (pn : Fin 8) (s : State) : Host.Outcome State Fault Refusal :=
  done (s.slot u (fun s c => s.staXY u true an sh pn c))

def execLdUY (u : Exe) (gd : Fin 32) (pn : Fin 8) (am : BitVec 2) (s : State) : Host.Outcome State Fault Refusal :=
  done (s.slot u (fun s c => s.refuseXY u true gd pn (c.am2 pn am) c))

end Sys2Proof.Machine
end

