-- ==== Sys2Proof/Machine/Spare.lean ====
section
/-! DEFINITION. The spare cell of each cluster: patrol, takeover, hold-off and revert (10_cascade_redundancy, R387 to
R397), and the escalation of cell faults (R20). -/

namespace Sys2Proof.Machine

def sparePatrol : Nat := 0
def spareRepeat : Nat := 1
def spareCarry : Nat := 2
def spareHoldoff : Nat := 3
def spareOut : Nat := 4

def State.spareState (s : State) (cl : Nat) : Nat := s.get (Reg.SPARESTAT_STATE cl)
def State.carryK (s : State) (cl : Nat) : Nat := s.get (Reg.SPARESTAT_CARRY_K cl)

/-- The spare is retired (R390): it carries nothing. -/
def State.spareRetire (s : State) (cl : Nat) : State :=
  ((((s.put (Reg.SPARESTAT_STATE cl) spareOut).put (Reg.SPARESTAT_PATROL_K cl) 0xF).put (Reg.SPARESTAT_CARRY_K cl) 0xF).put
    (Reg.HOLDREMAIN_REMAIN cl) 0).raise 117

/-- A cell is retired (R394, R395, R397). -/
def State.cellRetire (s : State) (cl k : Nat) : State :=
  (s.put (Reg.SPARESTAT_RETIRED cl) (s.get (Reg.SPARESTAT_RETIRED cl) ||| 2 ^ k)).raise 116

/-- The slots that cell `e` wrote in window `w` are sealed as poison. -/
def State.spoil (s : State) (e w : Nat) : State :=
  s.setCell e { s.cell e with spoiled := if (s.cell e).spoiled.contains w then (s.cell e).spoiled else w :: (s.cell e).spoiled }

/-- The region declares a cluster degraded (R20): its cells stop, and what they have written in this window is poison. -/
def State.degrade (s : State) (cl : Nat) : State :=
  if s.eng.degraded.contains cl then s
  else ((List.range 8).foldl (fun (t : State) k => t.spoil (9 * cl + k) s.window)
    { s with eng := { s.eng with degraded := cl :: s.eng.degraded } }).raise 115

/-- The fault history of a cell is cleared. -/
def State.clearFault (s : State) (e : Nat) : State := s.setCell e { s.cell e with faultAt := none, confirmed := false }

/-- The spare takes over cell `k` at the turnover reserve of window `w` (R391); a cell that has been reverted once is retired
at the same time (R397).  The read copies are restored by not sealing the cell's checkpoints. -/
def State.takeover (s : State) (cl k w : Nat) : State :=
  let e := 9 * cl + k
  let s1 := ((s.spoil e w).clearFault e)
  let s2 := ((((s1.put (Reg.SPARESTAT_STATE cl) spareCarry).put (Reg.SPARESTAT_CARRY_K cl) k).put
    (Reg.SPARESTAT_PATROL_K cl) 0xF).put (Reg.SPARESTAT_SELFTEST cl) 0).raise 112
  let s3 := { s2 with lnk := { s2.lnk with hold := s2.lnk.hold.upd 0 cl (w + 1) } }
  if s.lnk.reverted.contains e then s3.cellRetire cl k else s3

/-- A confirmed fault of cell `k` in window `w` (R20, R391, R393). -/
def State.confirmed (s : State) (cl k w : Nat) : State :=
  let e := 9 * cl + k
  if s.spareState cl = spareOut then (s.clearFault e).degrade cl
  else if s.spareCarries cl then
    (if s.carryK cl = k then ((s.clearFault e).spareRetire cl).degrade cl else (s.clearFault e).degrade cl)
  else s.takeover cl k w

/-- The cell that the spare patrols in window `w` (R387): none where the target is halted or has no enabled task. -/
def State.patrolTarget (s : State) (cl w : Nat) : Option Nat :=
  let k := if s.spareState cl = spareRepeat then s.get (Reg.PATROLFAULT_K cl) else w % 8
  let c := s.cell (9 * cl + k)
  let idle := s.bit (Reg.CELLSTAT_HALTED cl k) || (match c.table w with | some a => a.tasks.isEmpty | none => true)
  if s.eng.degraded.contains cl || idle then none
  else if s.spareState cl = spareRepeat then some k
  else if s.spareState cl = sparePatrol ∧ s.bit (Reg.SPARECTL_PATROL_EN cl) then some k
  else none

/-- PATROL_K at a stage edge. -/
def State.patrolShow (s : State) (cl w : Nat) : State :=
  s.put (Reg.SPARESTAT_PATROL_K cl) ((s.patrolTarget cl w).getD 0xF)

/-- What a comparison shows (R389): the target's word failed its own check (0), the other one did (1), or both passed and differ in
data or residue (2); none where they are the same. -/
def patrolKind (p : PatrolResult) : Option Nat :=
  if p.target.faulty then some 0 else if p.other.faulty then some 1 else if p.target = p.other then none else some 2

/-- The verdict of a patrolled window (R389). -/
def State.patrolVerdict (s : State) (cl k w : Nat) (r : Option PatrolResult) : State :=
  let e := 9 * cl + k
  let again := decide (s.spareState cl = spareRepeat)
  let s1 := s.bump (Reg.PATROLCNT_CHECKS cl)
  match r with
  | none => if again then (s1.put (Reg.SPARESTAT_STATE cl) sparePatrol).put (Reg.PATROLFAULT_VERDICT cl) 3 else s1
  | some p =>
    let verdict := if patrolKind p = some 0 then 1 else if patrolKind p = some 1 then 2 else if again then 1 else 0
    let s2 := (((((s1.bump (Reg.PATROLCNT_MISMATCHES cl)).put (Reg.PATROLFAULT_K cl) k).put (Reg.PATROLFAULT_TASK cl)
      p.task.toNat).put (Reg.PATROLFAULT_ADDR cl) p.addr.toNat).put (Reg.PATROLFAULT_VERDICT cl) verdict).raise 113
    if verdict = 1 then (s2.put (Reg.SPARESTAT_STATE cl) sparePatrol).confirmed cl k w
    else if verdict = 2 then s2.spareRetire cl
    else (s2.put (Reg.SPARESTAT_STATE cl) spareRepeat).spoil e w

/-- The comparison of a hold-off window (R395). -/
def State.holdoffWindow (s : State) (cl w : Nat) (r : Option PatrolResult) : State :=
  if w < s.lnk.hold.look 0 cl then s
  else match r with
    | some _ => ((s.put (Reg.SPARESTAT_STATE cl) spareCarry).put (Reg.HOLDREMAIN_REMAIN cl) 0).cellRetire cl (s.carryK cl)
    | none =>
      let left := s.get (Reg.HOLDREMAIN_REMAIN cl)
      if left ≤ 1 ∧ !s.bit (Reg.SPARECTL_REVERT_EN cl) then s else s.put (Reg.HOLDREMAIN_REMAIN cl) (left - 1)

/-- The spare of a cluster at the turnover reserve of window `w`: confirmed faults, then its comparison. -/
def State.spareWindow (w : Nat) (rs : List PatrolResult) (s : State) (cl : Nat) : State :=
  let r := rs.find? (fun p => decide (p.cl.val = cl) && (patrolKind p).isSome)
  let target := s.patrolTarget cl w
  let holding := decide (s.spareState cl = spareHoldoff)
  let s1 := if holding then s.holdoffWindow cl w r
    else match target with
      | some k => s.patrolVerdict cl k w r
      | none => if s.spareState cl = spareRepeat then s.put (Reg.SPARESTAT_STATE cl) sparePatrol else s
  (List.range 8).foldl (fun t k => if (t.cell (9 * cl + k)).confirmed then t.confirmed cl k w else t) s1

/-- The cluster self-test ends, in the first window after a takeover (R394); a cell that is retired is not reverted (R397). -/
def execClusterSelftest (cl : Fin 32) (result : Fin 4) (s : State) : Host.Outcome State Fault Refusal :=
  let s1 := s.put (Reg.SPARESTAT_SELFTEST cl) result
  let out := (s.get (Reg.SPARESTAT_RETIRED cl)).testBit (s.carryK cl)
  done (if s.spareState cl ≠ spareCarry ∨ s.get (Reg.SPARESTAT_SELFTEST cl) ≠ 0 ∨ s.lnk.hold.look 0 cl ≠ s.window then s
    else if result = 1 then
      if out then s1 else
      let s2 := (s1.put (Reg.SPARESTAT_STATE cl) spareHoldoff).put (Reg.HOLDREMAIN_REMAIN cl)
        (Nat.max 1 (s.get (Reg.REVERT_HOLDOFF_PERIODS cl)))
      { s2 with lnk := { s2.lnk with hold := s2.lnk.hold.upd 0 cl (s.window + 1) } }
    else if result = 2 then (if out then s1 else s1.cellRetire cl (s.carryK cl))
    else if result = 3 then s1.degrade cl
    else s)

/-- After a clean hold-off cell k runs its own work again (R396). -/
def execSpareReverted (cl : Fin 32) (s : State) : Host.Outcome State Fault Refusal :=
  done (if s.spareState cl = spareHoldoff ∧ s.get (Reg.HOLDREMAIN_REMAIN cl) = 0 then
    let e := 9 * cl.val + s.carryK cl
    let s1 := (((s.put (Reg.SPARESTAT_STATE cl) sparePatrol).put (Reg.SPARESTAT_CARRY_K cl) 0xF).put
      (Reg.SPARESTAT_SELFTEST cl) 0).raise 114
    { s1 with lnk := { s1.lnk with reverted := e :: s1.lnk.reverted } }
    else s)

def State.patrolcntClear (s : State) (cl : Nat) : State :=
  (s.put (Reg.PATROLCNT_CHECKS cl) 0).put (Reg.PATROLCNT_MISMATCHES cl) 0
def execPatrolcntClear (cl : Fin 32) (s : State) : Host.Outcome State Fault Refusal := done (s.patrolcntClear cl)

end Sys2Proof.Machine
end

