-- ==== Sys2Proof/Machine/Tables.lean ====
section
/-! DEFINITION. Task tables and windows (03_cells, R125 to R134): the shadow table and its check, adoption at the period
boundary, halts and task starts at the stage edge, overruns and checkpoint seals at the cell stage deadline (R27). -/

namespace Sys2Proof.Machine

/-! ### The shadow table -/

/-- The enabled tasks of the shadow table (TASKt). -/
def State.shadowTasks (s : State) (cl k : Nat) : List Task :=
  (List.range 32).filterMap (fun t =>
    if s.bit (Reg.TASK_EN cl k t) then
      some { idx := t, entry := s.get (Reg.TASK_ENTRY cl k t), s3 := s.bit (Reg.TASK_STAGE cl k t),
             satEn := s.bit (Reg.TASK_SAT_EN cl k t), budget := s.get (Reg.TASK_BUDGET cl k t),
             ckBase := s.get (Reg.TASK_CKPT_BASE cl k t), ckY := s.bit (Reg.TASK_CKPT_MEM cl k t),
             ckLen := s.get (Reg.TASK_CKPT_LEN cl k t) }
    else none)

/-- The enabled staged inputs of the shadow set, each with its channel plus 1 (STGSRCi). -/
def State.shadowSrcs (s : State) (cl k : Nat) : Assoc Nat :=
  (List.range 64).filterMap (fun i =>
    if s.bit (Reg.STGSRC_EN cl k i) then some (i, s.get (Reg.STGSRC_CHAN cl k i) + 1) else none)

/-- The sum of the budgets of a table (TTSUM, R133). -/
def budgetSum (ts : List Task) : Nat := (ts.map Task.budget).sum

/-- TTSUM as a read gives it. -/
def State.ttSum (s : State) (cl k : Nat) : Nat := budgetSum (s.shadowTasks cl k)

/-- The usable budget of a cell in a window (R133). -/
def State.usableBudget (s : State) : Nat := 262144 / s.mult - 2048

/-- Two ranges of words share one: base and length of each. -/
def rangesMeet (a n b m : Nat) : Bool := decide (a < b + m) && decide (b < a + n) && decide (0 < n) && decide (0 < m)

/-- The regions of two tasks overlap (R134). -/
def Task.meets (x y : Task) : Bool := (x.ckY == y.ckY) && rangesMeet x.ckBase (2 * x.ckLen) y.ckBase (2 * y.ckLen)

/-- No two tasks of a list overlap (R134). -/
def noOverlap : List Task → Bool
  | [] => true
  | t :: ts => !(ts.any t.meets) && noOverlap ts

/-- The checks of R133 and R134 on a table of these tasks with its staging area at `sel`, made at boundary 16p of a cell
whose table in force for period p - 1 is `old`. -/
def State.tableOk (s : State) (ts : List Task) (sel p : Nat) (old : Option Adopted) : Bool :=
  decide (budgetSum ts ≤ s.usableBudget) && noOverlap ts &&
  ts.all (fun t => decide (t.ckBase + 2 * t.ckLen ≤ 8192) &&
    (t.ckY || (!rangesMeet t.ckBase (2 * t.ckLen) (2048 * sel) 2048 &&
      (match old with
       | some a => !rangesMeet t.ckBase (2 * t.ckLen) (2048 * a.baseSel + 1024 * ((p + 1) % 2)) 1024
       | none => true))))

/-! ### The commands -/

/-- A write of 1 to CELLCTL.TT_APPLY (R125). -/
def State.ttApply (s : State) (cl k : Nat) : State := s.putBit (Reg.CELLSTAT_TT_PENDING cl k) true

/-- A write to CELLCTL (R125, R132). -/
def State.cellctlWrite (s : State) (cl k v : Nat) : State :=
  let s1 := s.putBit (Reg.CELLCTL_HALT cl k) (v.testBit 0)
  if v.testBit 1 then s1.ttApply cl k else s1

def State.cellpeakClr (s : State) (cl k : Nat) : State := s.put (Reg.CELLPEAK_PEAK cl k) 0

def execTtApply (w : Fin 256) (s : State) : Host.Outcome State Fault Refusal := done (s.ttApply (w / 8) (w % 8))
def execCellHalt (w : Fin 256) (s : State) : Host.Outcome State Fault Refusal :=
  done (s.putBit (Reg.CELLCTL_HALT (w / 8) (w % 8)) true)
def execCellRun (w : Fin 256) (s : State) : Host.Outcome State Fault Refusal :=
  done (s.putBit (Reg.CELLCTL_HALT (w / 8) (w % 8)) false)
def execCellpeakClr (w : Fin 256) (s : State) : Host.Outcome State Fault Refusal :=
  done (s.cellpeakClr (w / 8) (w % 8))

/-! ### The period boundary -/

/-- The staged table of working cell `w` at boundary 16p: adopted for window p, or rejected with E101 (R125). -/
def State.tableAdopt (p : Nat) (s : State) (w : Nat) : State :=
  let cl := w / 8
  let k := w % 8
  let e := physOf w
  if !s.bit (Reg.CELLSTAT_TT_PENDING cl k) then s
  else
    let s1 := s.putBit (Reg.CELLSTAT_TT_PENDING cl k) false
    let ts := s.shadowTasks cl k
    let sel := s.get (Reg.STAGE_BASE_SEL cl k)
    if s.tableOk ts sel p ((s.cell e).stagedSet (p - 1)) then
      s1.setCell e { s1.cell e with
        tables := ⟨p, ts, sel, s.shadowSrcs cl k⟩ :: keepFrom Adopted.win (p - 4) (s1.cell e).tables }
    else (s1.putBit (Reg.CELLSTAT_TT_REJECTED cl k) true).raise 101

/-- Every staged table at boundary 16p (R125). -/
def State.tablesAdopt (s : State) (p : Nat) : State := (List.range 256).foldl (State.tableAdopt p) s

/-- After a change of rate an adopted table that no longer passes R133 is dropped, with E101 (R544). -/
def State.tableRecheck (s : State) (w : Nat) : State :=
  match (s.cell (physOf w)).tables with
  | [] => s
  | a :: _ =>
    if budgetSum a.tasks ≤ s.usableBudget then s
    else ((s.setCell (physOf w) { s.cell (physOf w) with tables := [] }).putBit (Reg.CELLSTAT_TT_REJECTED (w / 8) (w % 8))
      true).raise 101

/-! ### The stage edge -/

/-- A task's region is the same in another table (R130). -/
def Task.sameRegion (t : Task) (a : Adopted) : Bool :=
  a.tasks.any (fun x => x.idx == t.idx && x.ckY == t.ckY && x.ckBase == t.ckBase && x.ckLen == t.ckLen)

/-- The exchange state a table takes over as it comes into force in window `w` (R130). -/
def Cell.exchangeAt (c : Cell) (w : Nat) : List Nat :=
  match c.table w with
  | none => []
  | some a =>
    if a.win ≠ w then c.swap
    else match c.tables.find? (fun b => decide (b.win < w)) with
      | none => []
      | some b => c.swap.filter (fun i => a.tasks.any (fun t => t.idx == i && t.sameRegion b))

/-- What CELLUSED shows for the window that ends (CELLUSED). -/
def Cell.usedShown (c : Cell) : Nat :=
  if !c.started then 0 else if c.stopped || c.task.isSome then 0x3FFFF else Nat.min c.used 0x3FFFE

/-- The datapath that runs the work of cell k: the spare while it carries it (R391). -/
def State.datapath (s : State) (cl k : Nat) : Nat :=
  if s.spareCarries cl && s.carryK cl == k then 9 * cl + 8 else 9 * cl + k

/-- Working cell `v` at E(w): what the window before used, the halt (R132), and the start at task 0 (R24, R126). -/
def State.cellEdge (w : Nat) (s : State) (v : Nat) : State :=
  let cl := v / 8
  let k := v % 8
  let e := physOf v
  let c := s.cell e
  let used := c.usedShown
  let s1 := (s.put (Reg.CELLUSED_USED cl k) used).put (Reg.CELLPEAK_PEAK cl k)
    (Nat.max used (s.get (Reg.CELLPEAK_PEAK cl k)))
  let halt := s.bit (Reg.CELLCTL_HALT cl k)
  let s2 := if halt && !s.bit (Reg.CELLSTAT_HALTED cl k) then (s1.putBit (Reg.CELLSTAT_HALTED cl k) true).raise 102
    else if halt then s1 else s1.putBit (Reg.CELLSTAT_HALTED cl k) false
  let tasks := match c.table w with | some a => a.tasks | none => []
  let runs := !halt && !tasks.isEmpty && !s.eng.degraded.contains cl && s.takesPart (islCell (s.datapath cl k)) w
  let c1 := { c with
    swap := c.exchangeAt w, ran := [], once := [], started := runs, stopped := false, winCyc := 0, taskCyc := 0,
    used := 0, task := none, spoiled := c.spoiled.filter (fun x => decide (w ≤ x + 8)), core := { c.core with live := false } }
  s2.setCell e (if runs then c1.enter tasks.head? (s.entryGen e) else c1)

/-- Every working cell at E(w). -/
def State.cellsEdge (s : State) (w : Nat) : State := (List.range 256).foldl (State.cellEdge w) s

/-! ### The cell stage deadline -/

/-- A cell that has not executed `waitp` by the deadline of window `w` is stopped (R27); a gated one raises no E96
(R467). -/
def State.cellDeadline (w : Nat) (s : State) (v : Nat) : State :=
  let e := physOf v
  let c := s.cell e
  if !c.started || c.stopped || c.task.isNone then s
  else
    let s1 := (s.setCell e { c with stopped := true, core := { c.core with live := false } }).spoil e w
    if s.clk.gated.contains (islCell (s.datapath (v / 8) (v % 8))) || s.eng.degraded.contains (v / 8) then s1
    else (s1.putBit (Reg.CELLSTAT_OVERRUN (v / 8) (v % 8)) true).raise 96

/-- The checkpoints of the tasks that executed `waitp` are sealed: their halves are exchanged (R130). -/
def toggle (swap : List Nat) (t : Nat) : List Nat :=
  if swap.contains t then swap.filter (fun x => x != t) else t :: swap

/-- The seal of a cell's checkpoints in window `w`; a cell just taken over keeps its read copies (R391). -/
def State.cellSeal (before : State) (s : State) (v : Nat) : State :=
  let cl := v / 8
  let taken := !before.spareCarries cl && s.spareCarries cl && s.carryK cl == v % 8
  let c := s.cell (physOf v)
  if taken then s else s.setCell (physOf v) { c with swap := c.ran.foldl toggle c.swap }

end Sys2Proof.Machine
end

