-- ==== Sys2Proof/Machine/Arbiter.lean ====
section
/-! DEFINITION. The fabric's bookkeeping (14_fabric): ports, error records, locks, shortened writes, master resets and the
watchdog.  What a transaction does at its target stands in Fabric.lean. -/

namespace Sys2Proof.Machine

/-! ### Ports (R504) -/

/-- The port of a transaction that waits for a REMAP change to be decoded (R509): no target has it. -/
def portWait : Nat := 63

/-- The port of a write to FABCFG that has been performed and has its response still to come (R509): no target has it. -/
def portHeld : Nat := 62

/-- The port of a write that Geyser holds (R516): it waits there without a path, and no target has it. -/
def portDw : Nat := 61

/-- The port of the parameter store (R504). -/
def portStore : Nat := 2

/-- The port of the FAB block (R504). -/
def portFab : Nat := 0x27

/-- The target port of an address (R504, R508). -/
def portOf (remap : Bool) (a : Nat) : Option Nat :=
  if a < 0x40000 then some (if remap then 1 else 0)
  else if a < 0x10000000 then none
  else if a < 0x10040000 then some (if remap then 0 else 1)
  else if a < 0x10400000 then some 1
  else if a < 0x20000000 then none
  else if a < 0x21000000 then some 2
  else if a < 0x30000000 then none
  else if a < 0x30400000 then some 3
  else if a < 0x40000000 then none
  else if a < 0x80000000 then
    (if a % 0x10000000 < 0x8000000 then some (4 + 8 * ((a - 0x40000000) / 0x10000000) + a % 0x10000000 / 0x1000000)
     else none)
  else if a < 0x80110000 then some (0x24 + (a - 0x80000000) / 0x10000)
  else if a < 0x100000000 then none
  else if a < 0x300000000 then some 0x35
  else none

/-- The address lies in one of the two ranges that REMAP exchanges (R508). -/
def inRemap (a : Nat) : Bool := decide (a < 0x40000) || (decide (0x10000000 ≤ a) && decide (a < 0x10040000))

/-- The islands an access to an address needs (R46): its target's, and the gateway of a cluster window (R505). A register
block is reached through the island of the unit it belongs to, where that unit has one. -/
def targetIslands (a : Nat) : List Nat :=
  if a < 0x20000000 then [islSteward]
  else if a < 0x30000000 then [islGeyser]
  else if a < 0x40000000 then [islStream]
  else if a < 0x80000000 then
    let cl := 8 * ((a - 0x40000000) / 0x10000000) + a % 0x10000000 / 0x1000000
    let off := a % 0x1000000
    islGateway (cl / 8) :: (if off < 0x200000 then [islBank cl]
      else if 0x800000 ≤ off ∧ off < 0x920000 then [islCell (9 * cl + (off - 0x800000) / 0x20000)] else [])
  else if a < 0x100000000 then
    match (a - 0x80000000) / 0x10000 with
    | 5 => [islGeyser]
    | 7 => if a < 0x80073000 then [islConv] else [islTephra]
    | 8 => [islPorts]
    | 9 => [islPorts]
    | 10 => [islNet (a % 0x10000 / 0x4000)]
    | 11 => [islStream]
    | 12 => if 0x800C0100 ≤ a ∧ a < 0x800C0200 then [islLink (a % 0x100 / 0x40)] else []
    | _ => []
  else [islDrc ((a - 0x100000000) / 48 % 4 / 2)]

def State.fabTime (s : State) : Nat := s.get Reg.FABTIME_TIME

/-- Response codes (R503). -/
def fabOk : Nat := 0
def fabTarget : Nat := 1
def fabDecode : Nat := 2
def fabIsland : Nat := 3
def fabLockBroken : Nat := 4
def fabAbandoned : Nat := 5
def fabBurst : Nat := 6
def fabParity : Nat := 7

/-! ### Records -/

/-- FABERR takes a transaction that was not answered OK (R503). -/
def State.fabErr (s : State) (m id addr code : Nat) : State :=
  ((((s.put Reg.FABERR_LO_ADDR addr).put Reg.FABERR_HI_ADDR_HI (addr / 2 ^ 32)).put Reg.FABERR_HI_MASTER m).put
    Reg.FABERR_HI_ID id).put Reg.FABERR_HI_CODE code

/-- What each error response sets and raises beside FABERR (R500, R506, R526, R527). -/
def State.fabErrEvent (s : State) (code : Nat) : State :=
  if code = fabBurst then (s.putBit Reg.FABSTAT_BURST true).raise 177
  else if code = fabDecode then (s.putBit Reg.FABSTAT_DECODE true).raiseOnce 176
  else if code = fabParity then (s.putBit Reg.FABSTAT_PARITY true).raise 187
  else if code = fabIsland then s.raiseOnce 189
  else s

/-- An error response of a transaction with its records; OK leaves nothing. -/
def State.fabFail (s : State) (m id addr code : Nat) : State :=
  if code = fabOk then s else (s.fabErr m id addr code).fabErrEvent code

/-- A shortened write is recorded (R522): 0 master reset, 1 watchdog, 2 forced close. -/
def State.fabPart (s : State) (m addr len got why : Nat) : State :=
  ((((((((s.put Reg.FABPART_LO_ADDR addr).put Reg.FABPART_HI_ADDR_HI (addr / 2 ^ 32)).put Reg.FABPART_HI_MASTER m).put
    Reg.FABPART_HI_DONE got).put Reg.FABPART_HI_LEN len).put Reg.FABPART_HI_WHY why).bump Reg.FABCNT_ABANDONED).putBit
    Reg.FABSTAT_PARTIAL true).raise 180

/-! ### Requests -/

def FabOp.isWrite : FabOp → Bool
  | .write | .closingWrite => true
  | _ => false

/-- The DRAM controller performs the delivered beats of a write that ends before its length (R87, R522): it has seen the
transaction as one. -/
def State.fabDelivered (s : State) (r : FabReq) : State :=
  if inDram r.addr then
    match s.dramRefuses r.addr with
    | some t => t
    | none => State.dramStore r.got r.addr (r.words.take r.got) s
  else s

/-- A granted write whose beats have not all been delivered ends at the last one delivered (R522). -/
def State.fabEnd (s : State) (r : FabReq) (why : Nat) : State :=
  if r.granted && r.op.isWrite && decide (r.got < r.beats) then
    (s.fabDelivered r).fabPart r.master r.addr r.beats r.got why
  else s

/-- The transactions of a master that are outstanding (R501): the first 16 it issued. -/
def State.outstanding (s : State) (m : Nat) : List FabReq := (s.fab.reqs.filter (fun r => r.master == m)).take 16

/-- FABMSTm.OUTSTANDING. -/
def State.fabOutstanding (s : State) (m : Nat) : Nat := (s.outstanding m).length

/-- The deadline of a request (R511, R513): the time of issue plus the budget in force for M0, M1, M4 and M5, else its own. -/
def State.dueOf (s : State) (r : FabReq) : Nat :=
  if r.granted || !(r.master == 0 || r.master == 1 || r.master == 4 || r.master == 5) then r.deadline
  else (r.issue + s.get (Reg.FABQOS_BUDGET r.master)) % 2 ^ 32

/-- No deadline at all, which ranks after every other (R499). -/
def noDeadline : Nat := 2 ^ 32

/-- Time `a` lies before time `b`, as a signed difference (R511). -/
def timeBefore (a b : Nat) : Bool :=
  if a = noDeadline then false else if b = noDeadline then true else decide ((BitVec.ofInt 32 ((a : Int) - b)).toInt < 0)

/-- A request is taken from the list; the first of its master that had waited for a place is issued now (R501). -/
def State.fabRemove (s : State) (r : FabReq) : State :=
  let rest := s.fab.reqs.filter (fun x => x.tag != r.tag)
  let next := ((rest.filter (fun x => x.master == r.master)).drop 15).head?
  let full := decide (16 < (s.fab.reqs.filter (fun x => x.master == r.master)).length)
  let rest := match next with
    | some x => if full then rest.map (fun y => if y.tag = x.tag then { y with issue := s.fabTime } else y) else rest
    | none => rest
  { s with fab := { s.fab with reqs := rest } }

/-- The words of a read response: each beat not performed returns poison (R503). -/
def State.padWords (s : State) (n : Nat) (ws : List Sinter) : List Sinter :=
  ws ++ (List.range (n - ws.length)).map (fun i => s.poison (ws.length + i))

/-- The steward waits for the response to this request, or it is that of a store it has posted. -/
def State.stewardAwaits (s : State) (tag : Nat) : Bool :=
  (match s.stw.wait with | some w => w.1 == tag | none => false) || s.stw.posted.any (fun p => p.1 == tag)

/-- A response is given (R503), unless the master's reset discards it (R521). -/
def State.fabAnswer (s : State) (r : FabReq) (code got : Nat) (words : List Sinter) : State :=
  if r.quiet then s
  else
    let p : FabResp := ⟨r.master, r.id, code, got, words, r.tag, r.addr⟩
    let s1 := { s with fab := { s.fab with resps := p :: s.fab.resps.filter (fun x => x.master != r.master || s.stewardAwaits x.tag) } }
    s1.fabFail r.master r.id r.addr code

/-- A reset handshake ends when no transaction of the master remains (R521). -/
def State.fabSettle (s : State) (m : Nat) : State :=
  if s.fab.reqs.any (fun r => r.master == m) then s else s.putBit (Reg.FABMST_RESET m) false

/-! ### Locks (R517 to R520) -/

/-- A lock is opened (R517); its time runs from here (R520). -/
def State.lockOpen (s : State) (m port : Nat) : State :=
  let s1 := if m = 0 then (s.putBit Reg.FABLOCK_M0_OPEN true).put Reg.FABLOCK_M0_PORT port
    else (s.putBit Reg.FABLOCK_M4_OPEN true).put Reg.FABLOCK_M4_PORT port
  { s1 with fab := { s1.fab with
    broken := s1.fab.broken.filter (fun b => b != (m, port)), lockAt := s1.fab.lockAt.upd (0, 0) m s.now } }

/-- A refused locked read or closing store (R517, R518). -/
def State.lockRefuse (s : State) : State := (s.putBit Reg.FABSTAT_LOCK_REFUSED true).raise 179

/-- A locked read that opens nothing (R517). -/
def State.lockBad (s : State) (m port : Nat) : Bool :=
  port == 0 || port == 0x35 || (s.lockedPort m).isSome || !(m == 0 || m == 4)

/-- The arbiter of a port grants master `m`: the port is free of another's lock (R517, R519). -/
def State.lockPasses (s : State) (m port : Nat) : Bool :=
  m == 4 || s.lockedPort m == some port || (s.lockedPort 0 != some port && s.lockedPort 4 != some port)

/-- 4,096 FCLK cycles have passed without a granted closing store (R520). -/
def execLockTimeout (m4 : Bool) (s : State) : Host.Outcome State Fault Refusal :=
  let m := if m4 then 4 else 0
  done (if s.fclkSince (s.fab.lockAt.look (0, 0) m) < 4096 then s else s.lockBreak m 1)

/-! ### Master reset (R521, R522) -/

/-- The granted transaction of a master whose reset begins: a read goes on with its data discarded, a write ends at its last
delivered beat. -/
def State.fabCut (why : Nat) (s : State) (r : FabReq) : State :=
  if r.op.isWrite then (s.fabEnd r why).fabRemove r
  else { s with fab := { s.fab with reqs := s.fab.reqs.map (fun x => if x.tag = r.tag then { x with quiet := true } else x) } }

/-- The reset handshake of master `m` (R521): what waits is withdrawn, its lock is broken. -/
def State.masterReset (s : State) (m : Nat) : State :=
  let s1 := ((s.lockBreak m 0).putBit (Reg.FABMST_RESET m) true).raise 181
  let s2 := { s1 with fab := { s1.fab with
    reqs := s1.fab.reqs.filter (fun r => r.master != m || r.granted), resetAt := s1.fab.resetAt.upd (0, 0) m s.now } }
  ((s2.fab.reqs.filter (fun r => r.master == m)).foldl (State.fabCut 0) s2).fabSettle m

def execMasterResetHandshake (m : Fin 6) (s : State) : Host.Outcome State Fault Refusal := done (s.masterReset m)

/-- 4,096 FCLK cycles after it began, a handshake ends (R521). -/
def execHandshakeTimeout (m : Fin 6) (s : State) : Host.Outcome State Fault Refusal :=
  done (if s.bit (Reg.FABMST_RESET m) ∧ 4096 ≤ s.fclkSince (s.fab.resetAt.look (0, 0) m) then
    let s1 := s.putBit (Reg.FABMST_RESET m) false
    { s1 with fab := { s1.fab with reqs := s1.fab.reqs.filter (fun r => r.master != m.val) } }
    else s)

/-! ### The watchdog (R523 to R525) -/

/-- The watchdog reports a deadlock (R525). -/
def State.fabDeadlock (s : State) : State :=
  ((s.putBit Reg.FABSTAT_DEADLOCK true).raise 183).fumAct Reg.FUMCFG_FABRIC_ACT fumFabric 183

/-- The transaction the watchdog abandons at a port: the one that holds its path, else the oldest (R524). -/
def State.fabOldest (s : State) (port : Nat) : Option FabReq :=
  match s.fab.reqs.find? (fun r => r.port == port && r.granted) with
  | some r => some r
  | none => s.fab.reqs.find? (fun r => r.port == port)

/-- A transaction is abandoned (R524): a granted write ends under R522, and an owner's lock is broken (R520). -/
def State.fabAbandon (s : State) (r : FabReq) : State :=
  let s1 := s.fabEnd r 1
  let words := if r.op.isWrite then [] else s.padWords r.beats r.words
  let s2 := ((s1.putBit Reg.FABSTAT_TIMEOUT true).raise 182).fabAnswer r fabAbandoned r.got words
  ((s2.fabRemove r).lockBreak r.master 2).fabSettle r.master

/-- FABWD.LIMIT as applied. -/
def State.wdLimit (s : State) : Nat := Nat.max 1 (s.get Reg.FABWD_LIMIT)

/-- The watchdog has abandoned a transaction at the port within the last LIMIT × 16 cycles (R525). -/
def State.tripsAgain (s : State) (port : Nat) : Bool :=
  match s.fab.tripAt.look none port with
  | some t => decide (s.fclkSince t ≤ 16 * s.wdLimit)
  | none => false

/-- The watchdog's count at a port has reached so many cycles: without a beat of the transaction that holds the path, or else since
the issue of the oldest.  At its limit the transaction is abandoned (R523, R524); a second time within LIMIT × 16 cycles is a deadlock (R525). -/
def execFabTimeout (wait : PortTime) (s : State) : Host.Outcome State Fault Refusal :=
  done (match s.fabOldest wait.port with
    | none => s
    | some r =>
      if wait.fclk.toNat < (if r.granted then 16 else 256) * s.wdLimit then s else
      let s1 := s.fabAbandon r
      if s.tripsAgain wait.port then s1.fabDeadlock
      else { s1 with fab := { s1.fab with
        tripped := wait.port.val :: s1.fab.tripped.filter (fun p => p != wait.port.val)
        tripAt := s1.fab.tripAt.upd none wait.port (some s.now) } })

/-- An abandoned path is still not free after further cycles (R525). -/
def execFabDeadlock (wait : PortTime) (s : State) : Host.Outcome State Fault Refusal :=
  done (if s.fab.tripped.contains wait.port.val ∧ 16 * s.wdLimit ≤ wait.fclk.toNat then s.fabDeadlock else s)

/-! ### Back-off and budgets -/

/-- A losing request backs off (R512); M4 never does (R514). -/
def State.fabLose (s : State) (r : FabReq) : State :=
  if r.master = 4 then s
  else
    let s1 := { s with fab := { s.fab with
      reqs := s.fab.reqs.map (fun x => if x.tag = r.tag then { x with losses := x.losses + 1, present := false } else x) } }
    if 8 ≤ r.losses then (s1.putBit Reg.FABSTAT_BACKOFF_MAX true).raiseOnce 185 else s1

/-- The cycles a request backs off after its k-th loss in a row (R512). -/
def backoffCycles (k : Nat) : Nat := Nat.min (2 ^ (k - 1)) 256

/-- A request has backed off for so many cycles: at the end of its back-off it is present again (R512). -/
def execBackoffExpired (m : Fin 8) (id : BitVec 4) (wait : PortTime) (s : State) :
    Host.Outcome State Fault Refusal :=
  done { s with fab := { s.fab with reqs := s.fab.reqs.map (fun r =>
    if r.master = m.val ∧ r.id = id.toNat ∧ r.port = wait.port.val ∧ backoffCycles r.losses ≤ wait.fclk.toNat then
      { r with present := true } else r) } }

/-- A new budget counts at the next arbitration of a waiting request (R513). -/
def execFabqosWrite (m : Fin 6) (budget : BitVec 16) (s : State) : Host.Outcome State Fault Refusal :=
  done (s.put (Reg.FABQOS_BUDGET m) budget.toNat)

/-- Any write to FABCNT sets both counts to 0. -/
def State.fabcntClear (s : State) : State := (s.put Reg.FABCNT_MISSED 0).put Reg.FABCNT_ABANDONED 0
def execFabcntClear (s : State) : Host.Outcome State Fault Refusal := done s.fabcntClear

/-! ### REMAP (R508, R509) -/

/-- The requests that have waited for a REMAP change are decoded with the value `v` (R509). -/
def redecode (v : Bool) (rs : List FabReq) : List FabReq :=
  rs.map (fun (r : FabReq) => if r.port = portWait then { r with port := (portOf v r.addr).getD portWait } else r)

/-- The response of a write that has been performed and whose response had to wait (R509, R516). -/
def State.lateReply (s : State) (r : FabReq) : State := ((s.fabAnswer r fabOk r.got []).fabRemove r).fabSettle r.master

/-- Every write that has waited for the change has its response (R509). -/
def State.remapAnswer (s : State) : State := (s.fab.reqs.filter (fun r => r.port == portHeld)).foldl State.lateReply s

/-- A write of FABCFG.REMAP: M0 and M4 only; a change waits for the transactions before it, and a write of the value in force
takes back one that waits. -/
def State.remapWrite (s : State) (m : Nat) (v : Bool) : State :=
  if m = 0 ∨ m = 4 then
    if v = s.bit Reg.FABCFG_REMAP_NOW then
      ({ s.putBit Reg.FABCFG_REMAP v with fab := { s.fab with remap := 0, reqs := redecode v s.fab.reqs } } : State).remapAnswer
    else { s.putBit Reg.FABCFG_REMAP v with fab := { s.fab with remap := m + 1 } }
  else s

def execRemapWrite (m : Fin 8) (v : Bool) (s : State) : Host.Outcome State Fault Refusal := done (s.remapWrite m v)

/-- The change takes effect once no transaction to either range from before it is left; those that have waited are decoded
under the new mapping, and the write that asked for it has its response (R509). -/
def State.remapDone (s : State) : State :=
  if s.fab.remap = 0 ∨ s.fab.reqs.any (fun r => inRemap r.addr && r.port != portWait) then s
  else
    let v := s.bit Reg.FABCFG_REMAP
    let s1 := { s.putBit Reg.FABCFG_REMAP_NOW v with fab := { s.fab with remap := 0, reqs := redecode v s.fab.reqs } }
    (s1.raise 188).remapAnswer

def execFabRemapDone (s : State) : Host.Outcome State Fault Refusal := done s.remapDone

end Sys2Proof.Machine
end

