-- ==== Sys2Proof/Machine/Curves.lean ====
section
/-! DEFINITION. The ramp laws of the crosspoints (R208 to R211) and of every other parameter (R238 to R242), over exact
whole-number arithmetic; where the manual gives a tolerance, the deviation is a free value cut to it (log 4). -/

namespace Sys2Proof.Machine

/-- π in units of 2^-62. -/
def piQ : Int := 14488038916154245684

/-- A product of two values in units of 2^-62. -/
def mulQ (a b : Int) : Int := a * b / 2 ^ 62

/-- The Taylor terms of the sine from term `n` on: `x2` is the square of the angle. -/
def sinTail : Nat → Nat → Int → Int → Int
  | 0, _, _, _ => 0
  | fuel + 1, n, term, x2 => term + sinTail fuel (n + 1) (-(mulQ term x2) / ((2 * n + 2) * (2 * n + 3))) x2

/-- The sine of an angle between 0 and π/2, all in units of 2^-62. -/
def sinQ (x : Int) : Int := sinTail 16 0 x (mulQ x x)

/-- An error cut to `bound`. -/
def cutErr (e bound : Int) : Int := e % (2 * bound + 1) - bound

/-- sin(π p / q) for p / q between 0 and 1/2 within 2^-24 of full scale (R210, R240). -/
def sinPi (p q : Nat) : Int := sinQ (piQ * p / q) + cutErr (Config.trigErr p q) (2 ^ 38)

/-- cos(π p / q) for p / q between 0 and 1, within 2^-24 of full scale (R210, R240). -/
def cosPi (p q : Nat) : Int :=
  if 2 * p ≤ q then sinPi (q - 2 * p) (2 * q) else -(sinPi (2 * p - q) (2 * q))

/-- n / d rounded half to even. -/
def divHalfEven (n : Int) (d : Nat) : Int :=
  let q := n / d
  let r := n % d
  if (d : Int) < 2 * r ∨ (2 * r = d ∧ q % 2 = 1) then q + 1 else q

/-- ⌊81,920 log10(n / 2^S)⌋ of an amplitude. -/
def codeFloor (S n : Nat) : Int :=
  (searchUp (fun k =>
    if 2 ^ 20 ≤ k then decide (10 ^ (k - 2 ^ 20) * 2 ^ (S * 81920) ≤ n ^ 81920)
    else decide (2 ^ (S * 81920) ≤ n ^ 81920 * 10 ^ (2 ^ 20 - k))) 21 0 : Nat) - 2 ^ 20

/-- The gain code of an amplitude n / 2^S, formed as `lin2g` forms it but with no limit above (R156, R210): within 2
code units, limited below at -144 dB. -/
def ampCode (S n : Nat) : Int :=
  if n = 0 then codeMin else max codeMin (codeFloor S n + (Config.codeErr n % 4 - 1))

/-- The gain code of an amplitude as a ramp returns it (R240): the logarithm is within 2^-24 of full scale, half a unit of a
code, before it is rounded, so the code is one of the two around the exact value, or that value. -/
def nearCode (S n : Nat) : Int :=
  let c := codeFloor S n
  let exact := if 0 ≤ c then decide (10 ^ c.toNat * 2 ^ (S * 81920) = n ^ 81920)
    else decide (2 ^ (S * 81920) = n ^ 81920 * 10 ^ (-c).toNat)
  if n = 0 then codeMin else max codeMin (if exact then c else c + Config.codeErr n % 2)

/-- The amplitude of a gain code in units of 2^-S, S at most 51: in Q5.27 what `g2lin` gives (R157, R210). -/
def codeAmp (S : Nat) (g : Int) : Int :=
  if S = 27 then g2linGain g
  else
    let f : Int := gainScaled g
    let b := f / 2 ^ 24
    divHalfEven (f + cutErr (Config.g2linErr g) b) (2 ^ (51 - S))

/-- Law 2 between two amplitudes in units of 2^-S at t = p / q below 1 (R210); `g1` is the target's own code. -/
def lawDb (S : Nat) (c0 c1 g1 : Int) (p q : Nat) : Int :=
  let g0 := if c0 = 0 then codeMin else ampCode S c0.natAbs
  if c0 = 0 ∨ c1 = 0 ∨ (0 < c0 ∧ 0 < c1) ∨ (c0 < 0 ∧ c1 < 0) then
    (if 0 ≤ (if c0 = 0 then c1 else c0) then 1 else -1) * codeAmp S (divHalfEven (g0 * q + (g1 - g0) * p) q)
  else if 2 * p ≤ q then c0.sign * codeAmp S (divHalfEven (g0 * q + (codeMin - g0) * 2 * p) q)
  else c1.sign * codeAmp S (divHalfEven (codeMin * q + (g1 - codeMin) * (2 * p - q)) q)

/-- Law 4 between two amplitudes in units of 2^-S at t = p / q below 1 (R210). -/
def lawPower (S : Nat) (c0 c1 g1 : Int) (p q : Nat) : Int :=
  if c0 = 0 then divHalfEven (c1 * sinPi p (2 * q)) (2 ^ 62)
  else if c1 = 0 then divHalfEven (c0 * cosPi p (2 * q)) (2 ^ 62)
  else if c0.sign = c1.sign then lawDb S c0 c1 g1 p q
  else if 2 * p ≤ q then divHalfEven (c0 * cosPi p q) (2 ^ 62)
  else divHalfEven (c1 * sinPi (2 * p - q) (2 * q)) (2 ^ 62)

/-! ### Crosspoints -/

/-- The target coefficient of a crosspoint word in Q5.27 (R189, R190). -/
def xpTarget (w : BitVec 32) : Int :=
  if w.getLsbD 25 ∨ codeOf w = codeMuted then 0
  else if w.getLsbD 24 then -(g2linGain (codeOf w)) else g2linGain (codeOf w)

/-- The gain code of a crosspoint word's target, -144 dB where it is muted (R210). -/
def xpTargetCode (w : BitVec 32) : Int := if xpTarget w = 0 then codeMin else limitCode (codeOf w)

/-- The coefficient of a change at frame `f` at or after its first (R208, R210). -/
def XpChange.at (x : XpChange) (f : Nat) : Int :=
  if x.len ≤ f - x.first + 1 ∨ x.law = 0 then x.c1
  else if x.law = 2 then lawDb 27 x.c0 x.c1 x.g1 (f - x.first + 1) x.len
  else lawPower 27 x.c0 x.c1 x.g1 (f - x.first + 1) x.len

/-- A change is ramping at frame `f`: before the last frame of a ramp. -/
def XpChange.rampingAt (x : XpChange) (f : Nat) : Bool := decide (x.law ≠ 0) && decide (f + 1 < x.first + x.len)

/-! ### Every other parameter -/

/-- The amplitude of a gain code as the ramps of R240 take it, in units of 2^-31: a mute is 0. -/
def codeAmpOrMute (g : Int) : Int := if g = codeMuted then 0 else codeAmp 31 g

/-- An amplitude in units of 2^-31 returned as a gain code (R240 law 1). -/
def ampToCode (a : Int) : Int := if a ≤ 0 then codeMuted else nearCode 31 a.natAbs

/-- A gain code with a mute taken as -589,824 (R240). -/
def codeOrFloor (g : Int) : Int := if g = codeMuted then codeMin else g

/-- (1 - cos π t) / 2 in units of 2^-63. -/
def raised (p q : Nat) : Int := 2 ^ 62 - cosPi p q

/-- The gain code of a LIN-class target, as the rows of R210 take it. -/
def linCode (v : Int) : Int := if v = 0 then codeMin else nearCode 31 v.natAbs

/-- A LIN-class value at t = p / q below 1 (R240); equal ends of laws 2 and 4 give that value (R210). -/
def linAt (law : Nat) (v0 v1 : Int) (p q : Nat) : Int :=
  if v0 = v1 then v1
  else if law = 1 then divHalfEven (v0 * q + (v1 - v0) * p) q
  else if law = 2 then max min32 (min max32 (lawDb 31 v0 v1 (linCode v1) p q))
  else if law = 3 then divHalfEven (v0 * 2 ^ 63 + (v1 - v0) * raised p q) (2 ^ 63)
  else max min32 (min max32 (lawPower 31 v0 v1 (linCode v1) p q))

/-- A GAIN-class code at t = p / q below 1 (R240). -/
def gainAt (law : Nat) (g0 g1 : Int) (p q : Nat) : Int :=
  if law = 1 then
    ampToCode (divHalfEven (codeAmpOrMute g0 * q + (codeAmpOrMute g1 - codeAmpOrMute g0) * p) q)
  else if law = 2 then divHalfEven (codeOrFloor g0 * q + (codeOrFloor g1 - codeOrFloor g0) * p) q
  else if law = 3 then
    divHalfEven (codeOrFloor g0 * 2 ^ 63 + (codeOrFloor g1 - codeOrFloor g0) * raised p q) (2 ^ 63)
  else if codeAmpOrMute g0 = codeAmpOrMute g1 then ampToCode (codeAmpOrMute g1)
  else ampToCode (lawPower 31 (codeAmpOrMute g0) (codeAmpOrMute g1) (codeOrFloor g1) p q)

/-- A GAIN-class word as Geyser delivers it (R223): the code limited under R11, sign-extended; a faulty or poison word
is delivered as it is. -/
def deliverGain (x : Sinter) : Sinter :=
  if x.ok then Sinter.ofData (codeWord (limitCode (codeOf x.data))) else x

/-- A word in the format its class delivers (R222, R223). -/
def deliver (cls : Nat) (x : Sinter) : Sinter := if cls = 2 then deliverGain x else x

/-- The word of a change at frame `f` at or after its first (R238 to R242). -/
def Change.at (c : Change) (f : Nat) : Sinter :=
  if c.law = 0 ∨ c.len ≤ f - c.first + 1 then deliver c.cls c.v1
  else if c.law = 5 then deliver c.cls c.v0
  else if !c.v1.ok then deliver c.cls c.v1
  else if !c.v0.ok then c.v0
  else if c.cls = 1 then
    Sinter.ofData (BitVec.ofInt 32 (linAt c.law c.v0.data.toInt c.v1.data.toInt (f - c.first + 1) c.len))
  else if c.cls = 2 then
    Sinter.ofData (codeWord (gainAt c.law (limitCode (codeOf c.v0.data)) (limitCode (codeOf c.v1.data))
      (f - c.first + 1) c.len))
  else deliver c.cls c.v1

/-- The weight of the new value under law 5 (R123, R242). -/
def twinWeight (k n : Nat) : BitVec 32 := BitVec.ofInt 32 (min max32 (divHalfEven ((k + 1 : Int) * 2 ^ 31) n))

end Sys2Proof.Machine
end

