-- ==== Sys2Proof/Machine/Crosspoint.lean ====
section
/-! DEFINITION. How a crosspoint moves from one value to another (R189 to R192, R208 to R213, R217, R643). -/

namespace Sys2Proof.Machine

/-- The change of a crosspoint in force at frame `f`. -/
def xpFind (xs : List XpChange) (f : Nat) : Option XpChange := xs.find? (fun x => decide (x.first ≤ f))

/-- The coefficient of a crosspoint at frame `f` (R192, R208). -/
def xpCoef (xs : List XpChange) (f : Nat) : Int :=
  match xpFind xs f with
  | some x => x.at f
  | none => 0

/-- The coefficient of a crosspoint at frame `f` is poison (R643). -/
def xpPoison (xs : List XpChange) (f : Nat) : Bool :=
  match xpFind xs f with
  | some x => x.psn
  | none => false

/-- A record of a crosspoint in CALFAULT_XP. -/
def State.xpReport (s : State) (xp kind : Nat) : State :=
  (s.put Reg.CALFAULT_XP_XP xp).put Reg.CALFAULT_XP_KIND kind

/-- The law Caldera carries out (R209). -/
def xpLaw (law : Nat) : Nat := if law = 0 then 0 else if law = 2 then 2 else 4

/-- MIN_RAMP as applied (CALCFG). -/
def State.minRamp (s : State) : Nat := Nat.max 1 (s.get Reg.CALCFG_MIN_RAMP)

/-- The reports of a crosspoint word and law that arrive: a limited gain (R191) and a substituted law (R209). -/
def State.xpArrive (s : State) (xp : Nat) (x : Sinter) (law : Nat) : State :=
  let s1 := if x.ok && !codeValid (codeOf x.data) then
    ((s.putBit Reg.CALSTAT_GAIN_LIM true).xpReport xp 1).raiseOnce 149 else s
  if law = xpLaw law then s1 else ((s1.putBit Reg.CALSTAT_LAW_SUBST true).xpReport xp 2).raiseOnce 150

/-- A change from the coefficient `c0`: its length, at least MIN_RAMP where the coefficient changes under a law other than 0
(R210, R211). -/
def XpChange.from (x : XpChange) (minRamp : Nat) (c0 : Int) : XpChange :=
  let n := if x.law = 0 ∨ c0 = x.c1 then 0 else Nat.max x.want minRamp
  { x with c0 := c0, len := n, ended := decide (n = 0) || (x.ended && x.len == n) }

/-- The coefficient a change at frame `f` starts from (R208, R212): that of the frame before; at the boundary at which R253 has
rebuilt the crosspoint, the target of the rebuild. -/
def xpBefore (xs : List XpChange) (f : Nat) : Int :=
  match xs.find? (fun x => x.first == f && x.owner == 0 && x.law == 4 && x.want == 0 && x.c0 == 0) with
  | some x => x.c1
  | none => xpCoef xs (f - 1)

/-- The change a word makes at frame `f` (R208 to R212): no ramp where the coefficient stays as it is. -/
def State.xpChange (s : State) (xs : List XpChange) (x : Sinter) (law len f owner : Nat) : XpChange :=
  ({ first := f, c0 := 0, c1 := (if x.ok then xpTarget x.data else 0),
     g1 := (if x.ok then xpTargetCode x.data else codeMin), law := xpLaw law, want := len, len := 0, owner := owner,
     ended := false, psn := !x.ok } : XpChange).from s.minRamp (xpBefore xs f)

/-- A change put in its place among the changes, newest first; those that start later keep their targets and take their start
from it (R208, R211, R217). -/
def xpInsert (minRamp : Nat) (r : XpChange) : List XpChange → List XpChange
  | [] => [r]
  | x :: rest => if x.first ≤ r.first then r :: x :: rest
      else x.from minRamp (xpCoef (xpInsert minRamp r rest) (x.first - 1)) :: xpInsert minRamp r rest

/-- A crosspoint with a further change. -/
def State.xpPush (s : State) (xp : Nat) (x : XpChange) : State :=
  { s with cal := { s.cal with
      xp := s.cal.xp.upd [] xp (xpInsert s.minRamp x (keepFrom XpChange.first s.horizon (s.cal.xp.look [] xp))) } }

/-- The crosspoint exists at the current m (R13). -/
def State.xpExists (s : State) (xp : Nat) : Bool := decide (xp % 1024 < s.nSrc) && decide (xp / 1024 < s.nBus)

/-- A crosspoint word reaches Caldera with its law and length and starts its ramp at frame `f`; an absent crosspoint takes its
value without a ramp or a report, to have it when it exists again (R13, R34). -/
def State.xpStart (s : State) (xp : Nat) (x : Sinter) (law len f owner : Nat) : State :=
  if s.xpExists xp then (s.xpArrive xp x law).xpPush xp (s.xpChange (s.cal.xp.look [] xp) x law len f owner)
  else s.xpPush xp (s.xpChange (s.cal.xp.look [] xp) x 0 0 f owner)

/-- The change that rebuilds a crosspoint with the word `x` (R217, R218, R643): a law 4 ramp from 0 over MIN_RAMP frames from
frame `f`. -/
def State.xpRebuild (s : State) (x : Sinter) (f : Nat) : XpChange :=
  ({ first := f, c0 := 0, c1 := (if x.ok then xpTarget x.data else 0), g1 := (if x.ok then xpTargetCode x.data else codeMin),
     law := 4, want := 0, len := 0, owner := 0, ended := false, psn := !x.ok } : XpChange).from s.minRamp 0

def State.xpRebuildAt (s : State) (xp : Nat) (x : Sinter) (f : Nat) : State := s.xpPush xp (s.xpRebuild x f)

end Sys2Proof.Machine
end

