-- ==== Sys2Proof/Machine/Routes.lean ====
section
/-! DEFINITION. How a Vent route moves from one connection and coefficient to another (R319, R323, R643). -/

namespace Sys2Proof.Machine

/-- A route nothing has set. -/
def RouteChange.off : RouteChange := { first := 0, route := 0, gain := 0, conns := [], psnR := false, psnG := false }

/-- A route as it stands at frame `f`. -/
def State.routeAt (s : State) (v f : Nat) : RouteChange :=
  match (s.vent.routes.look [] v).find? (fun x => decide (x.first ≤ f)) with
  | some x => x
  | none => RouteChange.off

/-- The coefficient of a connection at frame `f` (R323). -/
def RouteConn.at (c : RouteConn) (f : Nat) : Int :=
  if f < c.first then c.c0
  else ({ first := c.first, c0 := c.c0, c1 := c.c1, g1 := c.g1, law := 4, want := 128,
          len := (if c.c0 = c.c1 then 0 else 128), owner := 0, ended := false, psn := false } : XpChange).at f

/-- A connection of the route words that starts from 0 at frame `f`. -/
def RouteConn.enter (route gain : Word) (f : Nat) : RouteConn :=
  { src := (route.extractLsb' 0 8).toNat, dst := (route.extractLsb' 8 8).toNat, first := f, c0 := 0, c1 := xpTarget gain,
    g1 := xpTargetCode gain, out := false }

/-- The connections with the live one fading out from frame `f`. -/
def fadeLive (cs : List RouteConn) (f : Nat) : List RouteConn :=
  match cs with
  | [] => []
  | c :: rest => if c.out then cs else { c with first := f, c0 := c.at (f - 1), c1 := 0, g1 := codeMin, out := true } :: rest

/-- The connections after a change of the route word at frame `f` (R323). -/
def routeConns (r : RouteChange) (route : Word) (f : Nat) : List RouteConn :=
  let was := r.route.getLsbD 16
  let is := route.getLsbD 16
  let moved := r.route.extractLsb' 0 16 != route.extractLsb' 0 16
  let cs := if was && (!is || moved) then fadeLive r.conns f else r.conns
  if is && (!was || moved) then RouteConn.enter route r.gain (if was then f + 128 else f) :: cs else cs

/-- The connections after a change of the gain word at frame `f` (R212, R323); a fade-in that has not begun takes the new
target. -/
def gainConns (cs : List RouteConn) (gain : Word) (f : Nat) : List RouteConn :=
  match cs with
  | [] => []
  | c :: rest =>
    if c.out then cs
    else if f ≤ c.first then { c with c1 := xpTarget gain, g1 := xpTargetCode gain } :: rest
    else { c with first := f, c0 := c.at (f - 1), c1 := xpTarget gain, g1 := xpTargetCode gain } :: rest

/-- A port that may carry a Vent route: enabled, master grid, RATEK = 0 (R320). -/
def State.ventPort (s : State) (n : Nat) : Bool :=
  s.get (Reg.PORTCFG_MODE n) == 1 && s.get (Reg.PORTCFG_RATEK n) == 0 && s.bit (Reg.PORTCTL_EN n)

/-- An enabled route is inert (R320). -/
def State.routeInert (s : State) (w : Word) : Bool :=
  w.getLsbD 16 && (!s.ventPort (w.toNat % 256 / 16) || !s.ventPort (w.toNat / 256 % 256 / 16) ||
    (w.getLsbD 18 && !w.getLsbD 17))

/-- VNTRTv.INERT follows; E80 when the route becomes inert (R320). -/
def State.vntInert (s : State) (v : Nat) : State :=
  let i := s.routeInert (s.routeAt v s.frame).route
  let s1 := s.putBit (Reg.VNTRT_INERT v) i
  if i && !s.bit (Reg.VNTRT_INERT v) then s1.raise 80 else s1

def State.vntInertAll (s : State) : State := (List.range 64).foldl State.vntInert s

/-- A word of a Vent PID takes effect at frame `f`: `i` is the PID less 0x19_0000. A poison word makes the route's
contribution poison (R643). -/
def State.vntTake (s : State) (i f : Nat) (x : Sinter) : State :=
  if 0x80 ≤ i then s else
  let v := i % 64
  let r := s.routeAt v f
  let r' : RouteChange :=
    if i < 64 then
      (if x.isPoison then { r with first := f, psnR := true }
       else { r with first := f, route := x.data, conns := routeConns r x.data f, psnR := false })
    else if x.isPoison then { r with first := f, psnG := true }
    else { r with first := f, gain := x.data, conns := gainConns r.conns x.data f, psnG := false }
  let keep := r'.conns.filter (fun c => !c.out || decide (s.frame < c.first + 136))
  let s1 := { s with vent := { s.vent with
      routes := s.vent.routes.upd [] v ({ r' with conns := keep } ::
        keepFrom RouteChange.first s.horizon (s.vent.routes.look [] v)) } }
  (s1.putBit (Reg.VNTRT_RAMPING v) (keep.any (fun c => decide (c.c0 ≠ c.c1) && decide (f < c.first + 127)))).vntInert v

end Sys2Proof.Machine
end

