-- ==== Sys2Proof/Machine/ZSlot.lean ====
section
/-! DEFINITION. The Z slot's bank accesses: ownership, modes and the busy sub-bank (R57 to R59, R64 to R67, R100, R172 to
R176). -/

namespace Sys2Proof.Machine

/-- What a Z access asks of the bank: a plain word access, an unaligned load, or an atomic operation. -/
inductive BankUse where
  | plain | rotate | atomic
  deriving DecidableEq, Repr

/-- Sub-bank of a bank word: bits 5:3 of its byte address (R48). -/
def subBank (w : Nat) : Nat := w / 2 % 8

/-- The core's last bundle held an atomic operation on this sub-bank (R100). -/
def Core.amoBusy (c : Core) (b w : Nat) : Bool :=
  match c.amo with
  | some (b', sb, n) => b' == b && sb == subBank w && n + 1 == c.count
  | none => false

/-- The verdict on a port A access of cell `e`: none when it is served, else the KIND of the refusal: 0 owner violation
(R58), 1 mode violation (R64, R100). -/
def State.bankVerdict (s : State) (e : Nat) (c : Core) (b w : Nat) (use : BankUse) : Option Nat :=
  if s.bankOwner (cellCl e) b ≠ cellK e then some 0
  else if s.bankMode (cellCl e) b = 3 then some 1
  else if use = .rotate ∧ s.bankMode (cellCl e) b ≠ 1 then some 1
  else if use = .atomic ∧ s.bankMode (cellCl e) b ≠ 2 then some 1
  else if c.amoBusy b w then some 1
  else none

/-- A refused Z access is recorded in MEMFAULT with E160 or E161 (R58, R64). -/
def State.bankRefused (s : State) (e b w kind : Nat) : State :=
  s.memFault (cellCl e) b (cellK e) kind w (160 + kind)

/-- A Z-slot instruction of a cell; on the steward every Z encoding but the nop is illegal (R182). -/
def State.zslot (s : State) (u : Exe) (f : State → Core → Nat → State) : State :=
  s.slot u (fun s c =>
    match u with
    | .steward => s.trap u 2
    | .cell q => match s.eff q with
      | none => s
      | some e => f s c e)

/-- `ld` of a bank word (R139, R172); a refused read returns poison (R58, R64). -/
def State.loadZ (s : State) (u : Exe) (gd b pn : Nat) (m : Modifier) (c : Core) (e : Nat) : State :=
  if gd = 0 then s else
  let w := (c.p pn).toNat
  match s.bankVerdict e c b w .plain with
  | none => s.setCore u ((c.post pn m).sendG 3 gd (s.ram (bankKey (cellCl e) b w)))
  | some k => (s.setCore u ((c.post pn m).sendG 3 gd (s.poison 0))).bankRefused e b w k

/-- `st` to a bank word: a check point (R113); a refused store is discarded (R58, R64), and the word that fails its check is
reported all the same (log 200). -/
def State.storeZ (s : State) (u : Exe) (gs b pn : Nat) (m : Modifier) (c : Core) (e : Nat) : State :=
  let w := (c.p pn).toNat
  match s.bankVerdict e c b w .plain with
  | none => ((s.setRam (bankKey (cellCl e) b w) (s.checked (c.rdG gs))).setCore u (c.post pn m)).storeNote u
      (c.rdG gs).faulty
  | some k => ((s.setCore u (c.post pn m)).bankRefused e b w k).storeNote u (c.rdG gs).faulty

/-- The word an `amo.add` stores (R66, R67); `dup` says that its two residues disagree. -/
def State.amoSum (s : State) (old op : Sinter) (dup : Bool) : Sinter :=
  if dup || !old.ok || !op.ok then s.poison 0
  else (fit32 (old.data.toInt + op.data.toInt) (old.r + op.r) true).word

/-- The word an `amo.swap` stores (R66, R67). -/
def State.amoOperand (s : State) (op : Sinter) : Sinter := if op.faulty then s.poison 0 else op

/-- An atomic operation (R66, R67, R115, R174): the new word is stored, the old word returned as it was read, and a failed
check of the old word, the operand or the sum is a fault that is no trap. -/
def State.amo (s : State) (u : Exe) (g b pn : Nat) (new : Sinter → Sinter → Sinter) (dup : Bool) (c : Core) (e : Nat) :
    State :=
  let w := (c.p pn).toNat
  match s.bankVerdict e c b w .atomic with
  | some k => (s.setCore u (c.sendG 3 g (s.poison 0))).bankRefused e b w k
  | none =>
    let old := s.ram (bankKey (cellCl e) b w)
    let op := c.rdG g
    ((s.setRam (bankKey (cellCl e) b w) (new old op)).setCore u
      (({ c with amo := some (b, subBank w, c.count) }.notePoison (new old op)).sendG 3 g old)).storeNote u (dup || old.faulty || op.faulty)

/-- The four bytes that start at byte `o` of the first of two words, least significant first (R175). -/
def rotateWords (lo hi : BitVec 32) (o : Nat) : BitVec 32 := ((hi ++ lo) >>> (8 * o)).setWidth 32

/-- `ld.u` (R65, R175): poison where either word is poison or faulty, or the two rotators disagree. -/
def State.loadUZ (s : State) (u : Exe) (gd b pn : Nat) (dup : Bool) (c : Core) (e : Nat) : State :=
  if gd = 0 then s else
  let w := (c.p pn).toNat
  match s.bankVerdict e c b w .rotate with
  | some k => (s.setCore u (c.sendG 3 gd (s.poison 0))).bankRefused e b w k
  | none =>
    let x := s.ram (bankKey (cellCl e) b w)
    let y := s.ram (bankKey (cellCl e) b ((w + 1) % 65536))
    let r := if dup || !x.ok || !y.ok then s.poison 0
             else Sinter.ofData (rotateWords x.data y.data ((c.m pn).toNat % 4))
    let s1 := s.setCore u (c.sendG 3 gd r)
    if dup then s1.softFault u 8 else s1

/-! ### The instructions -/

def execLdZ (u : Exe) (gd : Fin 32) (bank pn : Fin 8) (am : BitVec 2) (s : State) : Host.Outcome State Fault Refusal :=
  done (if u = .steward ∧ gd.val = 0 then s else s.zslot u (fun s c e => s.loadZ u gd bank pn (c.am2 pn am) c e))

def execStZ (u : Exe) (gs : Fin 32) (bank pn : Fin 8) (am : BitVec 2) (s : State) : Host.Outcome State Fault Refusal :=
  done (s.zslot u (fun s c e => s.storeZ u gs bank pn (c.am2 pn am) c e))

def execAmoAdd (u : Exe) (g : Fin 32) (bank pn : Fin 8) (dup : Bool) (s : State) : Host.Outcome State Fault Refusal :=
  done (s.zslot u (fun s c e => s.amo u g bank pn (fun old op => s.amoSum old op dup) dup c e))

def execAmoSwap (u : Exe) (g : Fin 32) (bank pn : Fin 8) (s : State) : Host.Outcome State Fault Refusal :=
  done (s.zslot u (fun s c e => s.amo u g bank pn (fun _ op => s.amoOperand op) false c e))

def execLdUZ (u : Exe) (gd : Fin 32) (bank pn : Fin 8) (dup : Bool) (s : State) : Host.Outcome State Fault Refusal :=
  done (s.zslot u (fun s c e => s.loadUZ u gd bank pn dup c e))

end Sys2Proof.Machine
end

