-- ==== Sys2Proof/Machine/Geyser.lean ====
section
/-! DEFINITION. Geyser (06_geyser): the value in force of every parameter (R219 to R224), overlays (R225 to R229),
commits (R230 to R237, R243 to R246), direct writes (R247 to R249), folds (R250 to R252), faults of its own state (R253,
R254), cascade commits (R256 to R258), and the parameter reads of cells (R122, R123, R173). -/

namespace Sys2Proof.Machine

/-! ### Values in force -/

/-- The class field of a block of general PIDs (R222). -/
def gysClassFld (n : Nat) : Fld := { Reg.GYSCLASS_CLASS0 (n / 16) with lo := 2 * (n % 16) }

/-- The class of a PID (R222): a reserved class, and every PID that is not general, counts as INT. -/
def State.pidClass (s : State) (pid : Nat) : Nat :=
  if 0x100000 ≤ pid then 0
  else if s.get (gysClassFld (pid / 1024)) = 3 then 0 else s.get (gysClassFld (pid / 1024))

/-- A crosspoint PID (R13). -/
def isXp (pid : Nat) : Bool := decide (0x100000 ≤ pid) && decide (pid < 0x180000)

/-- A guard PID (R231). -/
def isGuard (pid : Nat) : Bool := decide (0x1C0000 ≤ pid) && decide (pid < 0x1D0000)

/-- The law Geyser carries out (R241): crosspoint laws go to Caldera as named. -/
def gysLaw (pid cls law : Nat) : Nat :=
  if isXp pid then law
  else if 0x180000 ≤ pid then 0
  else if cls = 0 ∧ law ≠ 5 then 0 else law

/-- A PID that is reserved, and so applied to nothing (R221). -/
def reservedPid (pid : Nat) : Bool :=
  (decide (0x194000 ≤ pid) && decide (pid < 0x1A0000)) || decide (0x1D0000 ≤ pid)

/-- The value in force for a PID at frame `f` (R219, R220): poison where Geyser's check fails at this edge (R253); of a reserved
PID the stored word (R221). -/
def State.valueAt (s : State) (pid f : Nat) : Sinter :=
  if s.gys.bad = some pid then s.poison 4
  else if reservedPid pid then s.ram (baseKey pid)
  else match (s.gys.chg.look [] pid).find? (fun c => decide (c.first ≤ f)) with
    | some c => c.at f
    | none => deliver (s.pidClass pid) (s.ram (baseKey pid))

/-- The changes of a PID; before the first one stands the base word as it was, for the frames before it (R42, R219). -/
def State.history (s : State) (pid : Nat) : List Change :=
  match s.gys.chg.look [] pid with
  | [] => [{ first := 0, v0 := s.ram (baseKey pid), v1 := s.ram (baseKey pid), law := 0, len := 0, cls := s.pidClass pid,
             slot := false, ended := true, owner := 0 }]
  | l => l

/-- A change put in its place among the changes, newest first (R219). -/
def insertChange (c : Change) : List Change → List Change
  | [] => [c]
  | x :: xs => if c.first < x.first then x :: insertChange c xs else c :: x :: xs

/-- The word a change at frame `f` starts from (R238, R245): the value in force at `f - 1`; at the boundary at which R253 makes the
PID take a target as a step, that target. -/
def State.valueBefore (s : State) (pid f : Nat) : Sinter :=
  match (s.gys.chg.look [] pid).find? (fun c => c.first == f && c.law == 0 && c.v0 == c.v1 && c.owner == 0) with
  | some c => c.v1
  | none => s.valueAt pid (f - 1)

/-- A commit in slot `n` is READY to take effect at frame `f`, and nothing refuses it there (R235, R237, R258). -/
def State.cmtTakes (s : State) (f n : Nat) : Bool :=
  match s.gys.commits.look none n with
  | none => false
  | some c => s.get (Reg.GYSCMT_STATE n) == 2 && c.f == f && (!c.casc || c.confirmed) &&
      !(s.locked && c.entries.any (fun e => isGuard e.pid))

/-- A change of a PID at frame `f` is resolved away: a commit accepted later than `go` takes effect on it there too (R212,
R219). -/
def State.overruled (s : State) (pid f go : Nat) : Bool :=
  (List.range 4).any (fun n => s.cmtTakes f n &&
    (match s.gys.commits.look none n with
     | some c => decide (go < c.go) && c.entries.any (fun e => e.pid == pid)
     | none => false))

/-- The number in the order of GO of the commit that owns a change; 0 for a direct write. -/
def State.goOf (s : State) (owner : Nat) : Nat :=
  match owner with
  | 0 => 0
  | n + 1 => match s.gys.commits.look none n with
    | some c => c.go
    | none => 0

/-- A record of a PID or overlay in GYSFAULT. -/
def State.gysReport (s : State) (pid kind : Nat) : State := (s.put Reg.GYSFAULT_PID pid).put Reg.GYSFAULT_KIND kind

/-- A GAIN-class code outside R10 is reported (R223). -/
def State.gainReport (s : State) (pid cls : Nat) (x : Sinter) : State :=
  if cls = 2 ∧ x.ok ∧ !codeValid (codeOf x.data) then
    ((s.putBit Reg.GYSSTAT_GAIN_LIM true).gysReport pid 2).raiseOnce 140
  else s

/-- A word reaches the unit that owns its PID (R221): Caldera, the Vent or Fumarole; every other unit reads the value
in force when it needs it. -/
def State.ownerTake (s : State) (pid : Nat) (x : Sinter) (law len f owner : Nat) : State :=
  if isXp pid then s.xpStart (pid - 0x100000) x law len f owner
  else if 0x190000 ≤ pid ∧ pid < 0x194000 then s.vntTake (pid - 0x190000) f x
  else if isGuard pid then s.guardTake (pid - 0x1C0000) f x
  else s

/-- A change takes effect at frame `f` (R219, R238, R239, R245): a step, and a change of a crosspoint, has no ramp of Geyser's
own; the unit that owns the PID does not see one that Geyser resolves away (R212). -/
def State.gysEffect (s : State) (pid : Nat) (x : Sinter) (law len f cls owner : Nat) : State :=
  let ramps := law ≠ 0 ∧ 2 ≤ len ∧ !isXp pid
  let c : Change := { first := f, v0 := s.valueBefore pid f, v1 := x, law := (if ramps then law else 0),
                      len := (if ramps then len else 0), cls := cls, slot := decide (ramps ∧ owner ≠ 0),
                      ended := !decide ramps, owner := owner }
  let s1 : State := { s with gys := { s.gys with
      chg := s.gys.chg.upd [] pid (insertChange c (keepFrom Change.first s.horizon (s.history pid))) } }
  if s.overruled pid f (s.goOf owner) then s1 else s1.ownerTake pid x law len f owner

/-! ### Faults of Geyser's own state -/

/-- A failed check of a PID's state or of a ramped value (R253, R254): the delivered word is poison, E141 is raised, and
with it in two consecutive periods the GEYSER fault arises. -/
def State.gysStateFault (s : State) (pid : Nat) : State :=
  let s1 := ((s.putBit Reg.GYSSTAT_STATE_FAULT true).gysReport pid 0).raise 141
  let s2 := { s1 with gys := { s1.gys with
      failed := if s1.gys.failed.contains pid then s1.gys.failed else pid :: s1.gys.failed
      lastBad := s.period + 1 } }
  if s.gys.lastBad = s.period ∧ 0 < s.period then s2.fumAct Reg.FUMCFG_GEYSER_ACT fumGeyser 141 else s2

/-- At the boundary after a failure the PID takes the target of the change whose state failed, as a step (R253); a
crosspoint is rebuilt (R643). -/
def State.gysFaultStep (s : State) (pid : Nat) : State :=
  let f := 16 * s.period
  let old := ((s.history pid).headD ⟨0, s.ram (baseKey pid), s.ram (baseKey pid), 0, 0, s.pidClass pid, false, true, 0⟩)
  let x := old.v1
  let c : Change := { first := f, v0 := x, v1 := x, law := 0, len := 0, cls := old.cls, slot := false, ended := true, owner := 0 }
  let s1 := { s with gys := { s.gys with
      chg := s.gys.chg.upd [] pid (insertChange c (keepFrom Change.first s.horizon (s.history pid))) } }
  if isXp pid then s1.xpRebuildAt (pid - 0x100000) x f else s1.ownerTake pid x 0 0 f 0

def State.gysFaultSteps (s : State) : State :=
  { (s.gys.failed.foldl State.gysFaultStep s) with gys := { (s.gys.failed.foldl State.gysFaultStep s).gys with failed := [] } }

/-! ### Ramp capacity -/

/-- FREE_RAMPS changes; E132 when it falls below RAMP_LOW (R244). -/
def State.setFreeRamps (s : State) (n : Nat) : State :=
  let s1 := s.put Reg.GYSSTAT_FREE_RAMPS n
  if s.get Reg.GYSCFG_RAMP_LOW ≤ s.get Reg.GYSSTAT_FREE_RAMPS ∧ n < s.get Reg.GYSCFG_RAMP_LOW then s1.raiseOnce 132
  else s1

/-- The changes of a PID, newest first, with the slots released whose ramp's last frame, or the frame before the change
that replaced it, lies in period `n` or before (R244, R245); the number released. -/
def releaseSlots (n : Nat) : Option Nat → List Change → List Change × Nat
  | _, [] => ([], 0)
  | next, c :: rest =>
    let r := releaseSlots n (some c.first) rest
    let last := match next with
      | some g => Nat.min (c.first + c.len - 1) (g - 1)
      | none => c.first + c.len - 1
    if c.slot && decide (last / 16 ≤ n) then ({ c with slot := false } :: r.1, r.2 + 1) else (c :: r.1, r.2)

/-- At E(w) the slots of ramps that ended in period w - 4 or before are released (R244). -/
def State.rampRelease (s : State) : State :=
  if s.window < 4 then s else
  let step (acc : Assoc (List Change) × Nat) (e : Nat × List Change) : Assoc (List Change) × Nat :=
    let r := releaseSlots (s.window - 4) none e.2
    (acc.1 ++ [(e.1, r.1)], acc.2 + r.2)
  let r := s.gys.chg.foldl step ([], 0)
  { s with gys := { s.gys with chg := r.1 } }.setFreeRamps (s.get Reg.GYSSTAT_FREE_RAMPS + r.2)

/-! ### Overlays -/

/-- The bytes of an overlay. -/
def OvlLatch.size (o : OvlLatch) : Nat := 12 * o.count

/-- The overlay's range holds arena byte `off`. -/
def OvlLatch.covers (o : OvlLatch) (off : Nat) : Bool := decide (o.addr ≤ off) && decide (off < o.addr + o.size)

/-- Overlay `n` is VALID, LOADING or locked, and its latched range meets that of `o` (R226). -/
def State.ovlMeets (s : State) (o : OvlLatch) (n : Nat) : Bool :=
  match s.gys.ovl.look none n with
  | none => false
  | some p =>
    (s.get (Reg.OVL_STATE n) == 1 || s.get (Reg.OVL_STATE n) == 2 || decide (s.gys.locks.look 0 n ≠ 0)) &&
      decide (o.addr < p.addr + p.size) && decide (p.addr < o.addr + o.size)

/-- Word `k` of entry `i` of an overlay in the arena. -/
def State.ovlWord (s : State) (o : OvlLatch) (i k : Nat) : Sinter := s.ram (arenaKey (o.addr + 12 * i + 4 * k))

/-- The check of the entries of an overlay in ascending order (R225, R226): the REASON, 0 for none. -/
def State.ovlEntries (s : State) (o : OvlLatch) : Nat → Nat → Option Nat → Nat
  | 0, _, _ => 0
  | fuel + 1, i, prev =>
    let w0 := s.ovlWord o i 0
    let w1 := s.ovlWord o i 1
    let w2 := s.ovlWord o i 2
    let pid := w0.data.toNat % 2 ^ 21
    if !(w0.good && w1.good && w2.good) then 8
    else if w0.data.toNat / 2 ^ 21 ≠ 0 ∨ w2.data.toNat / 2 ^ 19 ≠ 0 ∨ 5 < w2.data.toNat / 2 ^ 16 % 8 then 5
    else if (match prev with | some p => decide (pid ≤ p) | none => false) then 6
    else s.ovlEntries o fuel (i + 1) (some pid)

/-- The checks of R226 that come before the entries: the REASON, 0 for none. -/
def State.ovlFrame (s : State) (n : Nat) (o : OvlLatch) : Nat :=
  if o.addr % 4 ≠ 0 then 1
  else if o.count = 0 ∨ 699050 < o.count then 2
  else if 0x800000 < o.addr + o.size then 3
  else if (List.range 256).any (fun m => m != n && s.ovlMeets o m) then 4
  else 0

/-- The words that the staging of an overlay gets from the DRAM line of address `a` (R86, R226): those of the line; poison where
the access is refused (R85, R90, R503); `bad` says that the CRC of the line fails. -/
def State.ovlFetch (s : State) (a : Nat) (bad : Bool) : List Sinter × State :=
  let none12 := (List.range 12).map (fun i => s.poison i)
  if !inDram a then (none12, s)
  else match s.dramRefuses a with
    | some t => (none12, t)
    | none => if bad then s.fetchLine (dramLineOf a) false false else s.takeLine (dramLineOf a)

/-- A word that staging puts into the arena; beyond the arena there is none (R226). -/
def State.ovlStore (s : State) (off : Nat) (x : Sinter) : State :=
  if off < 0x800000 then s.setRam (arenaKey (off / 4 * 4)) x else s

/-- The copy of an overlay from DRAM, from word `i` on, in at most `fuel` lines (R226); `bad` names the lines that fail, counted from
the first. -/
def State.ovlCopy (o : OvlLatch) (bad : List Nat) : Nat → Nat → State → State
  | 0, _, s => s
  | fuel + 1, i, s =>
    if 3 * o.count ≤ i then s
    else
      let a := (o.dram + 4 * i) / 4 * 4
      let k := if inDram a then 12 - dramWordOf a else 12
      let f := s.ovlFetch a (bad.contains (dramLineOf a - dramLineOf o.dram))
      let ws := (f.1.drop (12 - k)).take (3 * o.count - i)
      State.ovlCopy o bad fuel (i + k)
        (((List.range k).zip ws).foldl (fun t e => t.ovlStore (o.addr + 4 * (i + e.1)) e.2) f.2)

/-- A LOAD (R226): ignored for a locked overlay and for one that is LOADING. -/
def State.ovlLoad (s : State) (n : Nat) : State :=
  if s.gys.locks.look 0 n ≠ 0 ∨ s.get (Reg.OVL_STATE n) = 1 then s else
  let o : OvlLatch := { addr := s.get (Reg.OVL_ADDR n), count := s.get (Reg.OVL_COUNT n), loc := s.bit (Reg.OVL_LOC n),
                        dram := s.get (Reg.OVL_DRAM_ADDR n) + 2 ^ 32 * s.get (Reg.OVL_DRAM_HI n), modified := false }
  { ((s.put (Reg.OVL_STATE n) 1).put (Reg.OVL_REASON n) 0) with
    gys := { s.gys with ovl := s.gys.ovl.upd none n (some o), loadq := s.gys.loadq ++ [n] } }

/-- The end of the load of overlay `n`, the one whose turn it is (R226 to R228): the copy, where it lies in DRAM, then the checks;
`bad` names the DRAM lines whose CRC failed. -/
def State.ovlLoadDone (s : State) (n : Nat) (bad : List Nat) : State :=
  match s.gys.ovl.look none n with
  | none => s
  | some o =>
    if s.gys.loadq.head? ≠ some n then s else
    let s0 := { s with gys := { s.gys with loadq := s.gys.loadq.tail } }
    let pre := s.ovlFrame n o
    let s1 := if o.loc then State.ovlCopy o bad (3 * o.count) 0 s0 else s0
    let r := if o.modified then 7 else if pre ≠ 0 then pre else s1.ovlEntries o o.count 0 none
    if r = 0 then (s1.put (Reg.OVL_STATE n) 2).raise 133
    else ((s1.put (Reg.OVL_STATE n) 3).put (Reg.OVL_REASON n) r).raise 134

/-- A DROP (R229). -/
def State.ovlDrop (s : State) (n : Nat) : State :=
  if s.gys.locks.look 0 n ≠ 0 then s
  else { ((s.put (Reg.OVL_STATE n) 0).put (Reg.OVL_REASON n) 0) with
    gys := { s.gys with ovl := s.gys.ovl.upd none n none, loadq := s.gys.loadq.filter (fun m => m != n) } }

/-- The locked overlay whose range holds arena byte `off`, if any (R228). -/
def State.ovlLockedAt (s : State) (off : Nat) : Option Nat :=
  (List.range 256).find? (fun n => decide (s.gys.locks.look 0 n ≠ 0) &&
    (match s.gys.ovl.look none n with | some o => o.covers off | none => false))

/-- A fabric write that reaches arena byte `off`, outside every locked range: the overlays it falls in become INVALID, or
will when their load ends (R228). -/
def State.ovlTouched (s : State) (off : Nat) : State :=
  (List.range 256).foldl (fun t n =>
    match t.gys.ovl.look none n with
    | none => t
    | some o =>
      if !o.covers off then t
      else if t.get (Reg.OVL_STATE n) = 2 then ((t.put (Reg.OVL_STATE n) 3).put (Reg.OVL_REASON n) 7).raise 134
      else if t.get (Reg.OVL_STATE n) = 1 then
        { t with gys := { t.gys with ovl := t.gys.ovl.upd none n (some { o with modified := true }) } }
      else t) s

/-- A fabric write into a locked range is refused (R228). -/
def State.ovlWriteRefused (s : State) (n : Nat) : State := (s.gysReport n 4).raise 135

/-! ### Commits -/

/-- Commit slot states and results (GYSCMTn word 0). -/
def cmtPreparing : Nat := 1
def cmtReady : Nat := 2
def cmtApplied : Nat := 3
def cmtDone : Nat := 4
def cmtRefused : Nat := 5
def cmtAborted : Nat := 6

def State.cmtState (s : State) (n : Nat) : Nat := s.get (Reg.GYSCMT_STATE n)

/-- The slot is PREPARING, READY or APPLIED. -/
def State.cmtBusy (s : State) (n : Nat) : Bool :=
  s.cmtState n == cmtPreparing || s.cmtState n == cmtReady || s.cmtState n == cmtApplied

/-- A slot that holds no commit. -/
def noCommit : Commit := ⟨0, 0, [], [], false, [], 0, 0, false, false, false, [], 0, false⟩

def State.commitOf (s : State) (n : Nat) : Commit := (s.gys.commits.look none n).getD noCommit

def State.setCommit (s : State) (n : Nat) (c : Commit) : State :=
  { s with gys := { s.gys with commits := s.gys.commits.upd none n (some c) } }

/-- One more, or one less, commit holds the overlay (R228). -/
def State.lockOvl (s : State) (n : Nat) : State :=
  { (s.putBit (Reg.OVL_LOCKED n) true) with gys := { s.gys with locks := s.gys.locks.upd 0 n (s.gys.locks.look 0 n + 1) } }

def State.unlockOvl (s : State) (n : Nat) : State :=
  { (s.putBit (Reg.OVL_LOCKED n) (decide (2 ≤ s.gys.locks.look 0 n))) with
    gys := { s.gys with locks := s.gys.locks.upd 0 n (s.gys.locks.look 0 n - 1) } }

/-- The overlays a list of eight bytes names, the first `novl` of them. -/
def ovlList (ovla ovlb novl : Nat) : List Nat :=
  (List.range (Nat.min novl 8)).map (fun i => (ovla + 2 ^ 32 * ovlb) / 256 ^ i % 256)

/-- A commit is latched into its slot and waits for preparation; its overlays are locked (R228, R230). -/
def State.cmtStart (s : State) (n t novl ovla ovlb : Nat) (casc : Bool) : State :=
  let os := ovlList ovla ovlb novl
  let s1 := (((s.put (Reg.GYSCMT_STATE n) cmtPreparing).put (Reg.GYSCMT_RESULT n) 0).putBit (Reg.GYSCMT_LATE n)
    false).setCommit n ⟨t, novl, os, os.eraseDups, casc, [], 0, 0, false, false, false, [], s.free + 1, false⟩
  let s2 := os.eraseDups.foldl State.lockOvl s1
  { s2 with gys := { s2.gys with prepq := s2.gys.prepq ++ [n] } }

/-- The commit in the slot ends with the given state and result: its reservation and its locks are released. -/
def State.cmtEnd (s : State) (n st res : Nat) : State :=
  let c := s.commitOf n
  let s1 := c.ovls.foldl State.unlockOvl s
  let s2 := ((s1.put (Reg.GYSCMT_STATE n) st).put (Reg.GYSCMT_RESULT n) res).put Reg.GYSSTAT_FREE_RAMPS
    (s1.get Reg.GYSSTAT_FREE_RAMPS + c.reserved)
  let s3 := s2.setCommit n { c with ovls := [], reserved := 0 }
  { s3 with gys := { s3.gys with prepq := s3.gys.prepq.filter (fun m => m != n) } }

/-- The chip's CASCADE_ID, whether it is the master, and the mask of the cascade's chips (R256, LNKCASC). -/
def State.cascadeId (s : State) : Nat := s.get Reg.LNKCASCSTAT_ID
def State.isMaster (s : State) : Bool := s.cascadeId == 0
def State.cascadeMask (s : State) : Nat := 2 ^ (s.get Reg.LNKCASC_NCHIPS + 1) - 1

/-- A control message originates here (R385). -/
def State.sendCtl (s : State) (m : CtrlMsg) : State :=
  { s with lnk := { s.lnk with
      seq := s.lnk.seq + 1
      seen := (s.cascadeId, s.lnk.seq) :: s.lnk.seen
      out := (List.range 4).foldl (fun o n =>
        if s.get (Reg.LNKSTAT_STATE n) = 2 then o.upd [] n (o.look [] n ++ [(s.cascadeId, s.lnk.seq, m)]) else o) s.lnk.out } }

/-- D of a cascade commit (R256). -/
def cascD (t : Nat) : Int := ((16 * (t / 16) : Nat) : Int) - 16

/-- The abort of a cascade commit in its slot (R257, R258). -/
def State.cascAbort (s : State) (n : Nat) : State := (s.cmtEnd n cmtAborted 5).raise 138

/-- The master's ABORT (R257): sent to every chip, and carried out here. -/
def State.cascAbortAll (s : State) (n : Nat) : State :=
  ((s.setCommit n { s.commitOf n with decided := true }).sendCtl (.abort n)).cascAbort n

/-- A write of 1 to GO (R230, R256, R257, R542). -/
def State.commitGo (s : State) (n : Nat) : State :=
  let t := s.get (Reg.GYSCMT_T_LO n) + 2 ^ 32 * s.get (Reg.GYSCMT_T_HI n)
  let casc := s.bit (Reg.GYSCMT_CASC n) && s.isMaster
  let a := s.get (Reg.GYSCMT_OVLA n)
  let b := s.get (Reg.GYSCMT_OVLB n)
  if s.cmtBusy n then s.putBit Reg.GYSSTAT_GO_IGNORED true
  else if s.get Reg.PWRSTAT_STATE ≠ 0 then
    ((s.put (Reg.GYSCMT_STATE n) cmtRefused).put (Reg.GYSCMT_RESULT n) 7).raise 130
  else
    let s1 := s.cmtStart n t (s.get (Reg.GYSCMT_NOVL n)) a b casc
    if !casc then s1
    else
      let s2 := ((((s1.put Reg.GYSCASC_READY 0).put Reg.GYSCASC_REFUSED 0).put Reg.GYSCASC_SLOT n).sendCtl
        (.prepare n t (s.get (Reg.GYSCMT_NOVL n)) a b))
      let s3 : State := { s2 with gys := { s2.gys with codes := [] } }
      if cascD t < s.frame then s3.cascAbortAll n else s3

/-- A write of 1 to CANCEL (R236). -/
def State.commitCancel (s : State) (n : Nat) : State :=
  if s.cmtState n = cmtPreparing ∨ (s.cmtState n = cmtReady ∧ s.frame < 16 * ((s.commitOf n).f / 16)) then
    s.cmtEnd n cmtAborted 6
  else s

/-- An entry of an overlay, resolved with the class of its block (R224, R241). -/
def State.entryOf (s : State) (o : OvlLatch) (i : Nat) : Entry :=
  let pid := (s.ovlWord o i 0).data.toNat % 2 ^ 21
  let w2 := (s.ovlWord o i 2).data.toNat
  let law := w2 / 2 ^ 16 % 8
  let cls := s.pidClass pid
  { pid := pid, val := s.ovlWord o i 1, law := gysLaw pid cls law, len := w2 % 2 ^ 16, cls := cls,
    subst := decide (gysLaw pid cls law ≠ law) }

/-- The entries of the named overlays, one per PID, the latest overlay winning (R232). -/
def State.resolve (s : State) (os : List Nat) : List Entry :=
  ((os.foldl (fun (m : Assoc (Option Entry)) n =>
    match s.gys.ovl.look none n with
    | none => m
    | some o => (List.range o.count).foldl (fun m i => m.upd none (s.entryOf o i).pid (some (s.entryOf o i))) m) []).map
      Prod.snd).filterMap id

/-- A resolved entry needs a general ramp slot (R243). -/
def Entry.needsSlot (e : Entry) : Bool := !isXp e.pid && decide (e.law ≠ 0) && decide (2 ≤ e.len)

/-- F shown in the slot (R234). -/
def State.setF (s : State) (n f : Nat) : State :=
  (s.put (Reg.GYSCMT_F_LO n) f).put (Reg.GYSCMT_F_HI n) (f / 2 ^ 32)

/-- The master takes a chip's report: READY, or REFUSED with the code of the refusal (R256). -/
def State.cascTake (s : State) (chip code : Nat) : State :=
  let s1 : State := { s with gys := { s.gys with codes := s.gys.codes.upd 0 chip code } }
  if code = 0 then s1.put Reg.GYSCASC_READY (s1.get Reg.GYSCASC_READY ||| 2 ^ chip)
  else s1.put Reg.GYSCASC_REFUSED (s1.get Reg.GYSCASC_REFUSED ||| 2 ^ chip)

/-- The end of a preparation is reported to the cascade's master: code 0 for READY, else that of the refusal (R256). -/
def State.cascReport (s : State) (n code : Nat) : State :=
  if !(s.commitOf n).casc then s
  else if s.isMaster then s.cascTake 0 code
  else s.sendCtl (.report s.cascadeId n code)

/-- The end of the preparation of the commit in slot `n`, the one whose turn it is (R231 to R234). -/
def State.commitPrepareDone (s : State) (n : Nat) : State :=
  if s.gys.prepq.head? ≠ some n then s else
  let c := s.commitOf n
  let os := c.list
  let s0 := { s with gys := { s.gys with prepq := s.gys.prepq.tail } }
  let es := s.resolve os
  let need := (es.filter Entry.needsSlot).length
  let guarded := es.find? (fun e => isGuard e.pid)
  let refuse (t : State) (r : Nat) : State := ((t.cmtEnd n cmtRefused r).raise 130).cascReport n r
  if c.novl = 0 ∨ 8 < c.novl then refuse s0 2
  else if os.any (fun o => s.get (Reg.OVL_STATE o) != 2) then refuse s0 1
  else
    match (if s.locked then guarded else none) with
    | some e => refuse (s0.fumLockWrite (baseKey e.pid)) 4
    | none =>
      if s.get Reg.GYSSTAT_FREE_RAMPS < need then refuse s0 3
      else
        let onTime := c.casc || decide (s.frame < 16 * (c.t / 16))
        let f := if onTime then c.t else 16 * (s.period + 1)
        let s1 := ((((s0.setFreeRamps (s.get Reg.GYSSTAT_FREE_RAMPS - need)).setCommit n
          { c with entries := es, reserved := need, f := f }).put (Reg.GYSCMT_STATE n) cmtReady).setF n f).raise 128
        (if onTime then s1 else (s1.putBit (Reg.GYSCMT_LATE n) true).raise 137).cascReport n 0

/-- A resolved entry takes effect at F (R223, R235, R241); one that meets a direct write of the same frame shadows it
(R216, R249). -/
def State.applyEntry (n f : Nat) (s : State) (e : Entry) : State :=
  let s1 := if e.subst then ((s.putBit Reg.GYSSTAT_LAW_SUBST true).gysReport e.pid 1).raiseOnce 136 else s
  let s2 := (s1.gainReport e.pid e.cls e.val).gysEffect e.pid e.val e.law e.len f e.cls (n + 1)
  if f = 16 * s.period ∧ s.gys.dwAt.contains e.pid then
    let c := s2.commitOf n
    let s3 := ((s2.putBit Reg.GYSSTAT_SHADOWED true).gysReport e.pid 3).raiseOnce 139
    { s3.setCommit n { c with shadowed := e.pid :: c.shadowed } with
      gys := { (s3.setCommit n { c with shadowed := e.pid :: c.shadowed }).gys with
        shadow := if s3.gys.shadow.contains e.pid then s3.gys.shadow else e.pid :: s3.gys.shadow } }
  else { s2 with gys := { s2.gys with shadow := s2.gys.shadow.filter (fun p => p != e.pid) } }

/-- A commit that takes effect before the one in slot `n`, or at the same frame and was accepted earlier, is still to be applied
(R219). -/
def State.cmtBehind (s : State) (n : Nat) : Bool :=
  let c := s.commitOf n
  (List.range 4).any (fun m =>
    let d := s.commitOf m
    m != n && s.cmtState m == cmtReady && (!d.casc || d.confirmed) &&
      (decide (d.f < c.f) || (d.f == c.f && decide (d.go < c.go))))

/-- At F the commit takes effect, in the order of R219, or is aborted for a closed lock (R235, R237); a cascade commit takes effect
at T or never (R258). -/
def State.commitApply (s : State) (n : Nat) : State :=
  let c := s.commitOf n
  if s.cmtState n ≠ cmtReady ∨ s.frame < c.f ∨ (c.casc && !c.confirmed) ∨ s.cmtBehind n then s
  else if c.casc && decide (c.f < s.frame) then s.cascAbort n
  else if s.locked && c.entries.any (fun e => isGuard e.pid) then (s.cmtEnd n cmtAborted 4).raise 130
  else
    let s1 := (s.setCommit n { c with reserved := 0 }).put (Reg.GYSCMT_STATE n) cmtApplied
    let s2 := (c.entries.foldl (State.applyEntry n c.f) s1).raise 129
    { s2 with gys := { s2.gys with foldq := s2.gys.foldq ++ [n] } }

/-- The fold of the commit whose turn it is begins at E(n + 4) (R250). -/
def State.foldStart (s : State) (n : Nat) : State :=
  let c := s.commitOf n
  if s.gys.foldq.head? = some n ∧ 16 * (c.f / 16 + 4) + 1 ≤ s.frame ∧ !c.folding then
    s.setCommit n { c with folding := true }
  else s

/-- The fold ends: every value not shadowed is in its base word (R249, R250). -/
def State.foldEnd (s : State) (n : Nat) : State :=
  let c := s.commitOf n
  if !c.folding || c.folded then s else
  let s1 := c.entries.foldl (fun t e => if c.shadowed.contains e.pid then t else t.setRam (baseKey e.pid) e.val) s
  { s1.setCommit n { c with folding := false, folded := true } with
    gys := { (s1.setCommit n { c with folding := false, folded := true }).gys with
      foldq := s1.gys.foldq.filter (fun m => m != n) } }

/-- A crosspoint ramp that the commit in slot `n` started has not ended (R252). -/
def State.xpOpen (s : State) (n : Nat) (e : Entry) : Bool :=
  isXp e.pid && (match s.cal.xp.look [] (e.pid - 0x100000) with
    | x :: _ => x.owner == n + 1 && !x.ended
    | [] => false)

/-- Some slot that the commit in slot `n` bound is not yet released. -/
def State.slotOpen (s : State) (n : Nat) (e : Entry) : Bool :=
  (s.gys.chg.look [] e.pid).any (fun c => c.owner == n + 1 && c.slot)

/-- A folded commit whose slots are released and whose crosspoint ramps have ended is DONE (R252). -/
def State.commitDone (s : State) (n : Nat) : State :=
  let c := s.commitOf n
  if s.cmtState n = cmtApplied ∧ c.folded ∧ !(c.entries.any (fun e => s.xpOpen n e || s.slotOpen n e)) then
    (s.cmtEnd n cmtDone 0).raise 131
  else s

/-- A Geyser ramp reaches its last frame (R238). -/
def State.paramRampEnd (s : State) (pid : Nat) : State :=
  match s.gys.chg.look [] pid with
  | c :: rest => if c.first + c.len - 1 ≤ s.frame then
      { s with gys := { s.gys with chg := s.gys.chg.upd [] pid ({ c with ended := true } :: rest) } } else s
  | [] => s

/-! ### Direct writes -/

/-- A direct write is accepted for the next boundary (R215, R223, R224, R247). -/
def State.dwAccept (s : State) (pid : Nat) (x : Sinter) : State :=
  let s1 := s.gainReport pid (s.pidClass pid) x
  { s1 with gys := { s1.gys with
      dw := s1.gys.dw.filter (fun d => d.pid != pid) ++ [⟨pid, x, s.pidClass pid⟩], dwCount := s1.gys.dwCount + 1 } }

/-- A fabric write to a base word (R78, R247, R248, R438). -/
def State.directWrite (s : State) (pid : Nat) (x : Sinter) : State :=
  if isGuard pid && s.locked then s.fumLockWrite (baseKey pid)
  else if s.gys.dwCount < 8192 then s.dwAccept pid x
  else { (s.putBit Reg.GYSSTAT_DW_HELD true).raiseOnce 142 with
    gys := { ((s.putBit Reg.GYSSTAT_DW_HELD true).raiseOnce 142).gys with
      dwHeld := s.gys.dwHeld ++ [⟨pid, x, s.pidClass pid⟩] } }

/-- The oldest held direct write is accepted once the period has room (R248). -/
def State.directWriteHeldAccept (s : State) : State :=
  match s.gys.dwHeld with
  | [] => s
  | d :: rest => if 8192 ≤ s.gys.dwCount then s
      else { s with gys := { s.gys with dwHeld := rest } }.dwAccept d.pid d.val

/-- A direct write takes effect at the boundary of the present period and writes the base word (R214, R215, R247). -/
def State.dwApply (s : State) (d : DirectWrite) : State :=
  ((if isXp d.pid then
      s.gysEffect d.pid d.val (s.get Reg.CALCFG_DW_LAW) (s.get Reg.CALCFG_DW_LEN) (16 * s.period) d.cls 0
    else s.gysEffect d.pid d.val 0 0 (16 * s.period) d.cls 0).setRam (baseKey d.pid) d.val)

/-- At a boundary the accepted direct writes take effect, in order, and the new period begins (R247, R248). -/
def State.dwApplyAll (s : State) : State :=
  let s1 := s.gys.dw.foldl State.dwApply s
  { s1 with gys := { s1.gys with
      dw := [], dwCount := 0, dwAt := s.gys.dw.map DirectWrite.pid
      shadow := s1.gys.shadow.filter (fun p => !(s.gys.dw.any (fun d => d.pid == p))) } }

/-! ### Entry to QUIESCE -/

/-- Every ramp ends at its target, PREPARING and READY commits are aborted with RESULT 7, every slot and lock is
released, and folds in progress are completed (R255). -/
def State.gysQuiesce (s : State) : State :=
  let ended := s.gys.chg.map (fun e => (e.1, match e.2 with
    | c :: rest => if c.ended then e.2 else { c with first := s.frame, v0 := c.v1, law := 0, len := 0, slot := false,
                                                     ended := true } :: c :: rest
    | [] => []))
  let xs := s.cal.xp.map (fun e => (e.1, match e.2 with
    | x :: rest => if x.ended then e.2 else { x with first := s.frame, c0 := x.c1, law := 0, len := 0, ended := true } ::
                     x :: rest
    | [] => []))
  let s1 := (List.range 4).foldl (fun t n =>
    if t.cmtState n = cmtPreparing ∨ t.cmtState n = cmtReady then t.cmtEnd n cmtAborted 7
    else if t.cmtState n = cmtApplied then
      let u := t.foldEnd n
      (((u.commitOf n).ovls.foldl State.unlockOvl u)).setCommit n { u.commitOf n with ovls := [] }
    else t) s
  { s1.put Reg.GYSSTAT_FREE_RAMPS 65536 with
    gys := { s1.gys with chg := ended.map (fun e => (e.1, e.2.map (fun c => { c with slot := false }))) }
    cal := { s1.cal with xp := xs } }

/-! ### The commands -/

def execOvlLoad (n : Fin 256) (s : State) : Host.Outcome State Fault Refusal := done (s.ovlLoad n)

def execOvlLoadDone (n : Fin 256) (bad : List (BitVec 20)) (s : State) : Host.Outcome State Fault Refusal :=
  done (s.ovlLoadDone n (bad.map BitVec.toNat))

def execOvlDrop (n : Fin 256) (s : State) : Host.Outcome State Fault Refusal := done (s.ovlDrop n)

def execCommitGo (n : Fin 4) (s : State) : Host.Outcome State Fault Refusal := done (s.commitGo n)

def execCommitCancel (n : Fin 4) (s : State) : Host.Outcome State Fault Refusal := done (s.commitCancel n)

def execCommitPrepareDone (n : Fin 4) (s : State) : Host.Outcome State Fault Refusal := done (s.commitPrepareDone n)

def execCommitApply (n : Fin 4) (s : State) : Host.Outcome State Fault Refusal := done (s.commitApply n)

def execParamRampEnd (pid : BitVec 21) (s : State) : Host.Outcome State Fault Refusal := done (s.paramRampEnd pid.toNat)

def execFoldStart (n : Fin 4) (s : State) : Host.Outcome State Fault Refusal := done (s.foldStart n)

def execFoldEnd (n : Fin 4) (s : State) : Host.Outcome State Fault Refusal := done (s.foldEnd n)

def execCommitDone (n : Fin 4) (s : State) : Host.Outcome State Fault Refusal := done (s.commitDone n)

def execDirectWrite (pid : BitVec 21) (x : Sinter) (s : State) : Host.Outcome State Fault Refusal :=
  done (s.directWrite pid.toNat x)

/-- PREPARE arrives (R256): a busy slot reports REFUSED with code 0x8. -/
def execCascPrepare (n : Fin 4) (t : BitVec 64) (novl : Fin 16) (ovla ovlb : BitVec 32) (s : State) :
    Host.Outcome State Fault Refusal :=
  let free := s.gys.busy.filter (fun m => m != n.val)
  done (if s.cmtBusy n then { s with gys := { s.gys with busy := n.val :: free } }.sendCtl (.report s.cascadeId n 8)
    else { s with gys := { s.gys with busy := free } }.cmtStart n t.toNat novl ovla.toNat ovlb.toNat true)

/-- A chip's report arrives (R256). -/
def execCascReport (chip : Fin 8) (n : Fin 4) (code : Fin 16) (s : State) : Host.Outcome State Fault Refusal :=
  done (if !s.isMaster || s.get Reg.GYSCASC_SLOT != n.val then s else s.cascTake chip code)

/-- At D the master decides, whatever has become of its own slot (R257); a CONFIRM can only be given before the boundary of T
(R258). -/
def execCascDecision (n : Fin 4) (s : State) : Host.Outcome State Fault Refusal :=
  let c := s.commitOf n
  done (if !s.isMaster || !c.casc || c.decided || decide (s.frame < cascD c.t) then s
    else if s.get Reg.GYSCASC_READY &&& s.cascadeMask = s.cascadeMask ∧ s.cmtState n = cmtReady ∧ s.frame < 16 * (c.t / 16) then
      (s.setCommit n { c with confirmed := true, decided := true }).sendCtl (.confirm n)
    else s.cascAbortAll n)

/-- CONFIRM arrives (R258): it counts only before the boundary of T. -/
def execCascConfirm (n : Fin 4) (s : State) : Host.Outcome State Fault Refusal :=
  let c := s.commitOf n
  done (if s.cmtState n = cmtReady ∧ c.casc ∧ s.frame < 16 * (c.t / 16) then s.setCommit n { c with confirmed := true }
    else s)

/-- ABORT arrives (R257): the slot that holds the commit, PREPARING, READY or ended before, becomes ABORTED with RESULT 0x5; a chip
whose slot was busy raises E138 alone. -/
def execCascAbort (n : Fin 4) (s : State) : Host.Outcome State Fault Refusal :=
  done (if s.gys.busy.contains n.val then
      { s with gys := { s.gys with busy := s.gys.busy.filter (fun m => m != n.val) } }.raise 138
    else if (s.commitOf n).casc && (s.cmtState n == cmtPreparing || s.cmtState n == cmtReady || s.cmtState n == cmtRefused ||
        (s.cmtState n == cmtAborted && s.get (Reg.GYSCMT_RESULT n) != 5)) then s.cascAbort n
    else s)

/-- At the boundary of T a chip that holds the commit without CONFIRM aborts it (R258). -/
def execCascLocalAbort (n : Fin 4) (s : State) : Host.Outcome State Fault Refusal :=
  let c := s.commitOf n
  done (if c.casc && !c.confirmed && (s.cmtState n == cmtPreparing || s.cmtState n == cmtReady) &&
      decide (16 * (c.t / 16) ≤ s.frame) then s.cascAbort n else s)

/-! ### Parameter reads by cells -/

/-- The PID and frame of a parameter read; a base register that is poison or faulty has none (R173). -/
def State.pgetPid (s : State) (e : Nat) (c : Core) (sreg pn : Nat) : Option (Nat × Nat) :=
  let b := c.rdG (24 + sreg)
  if !b.good then none
  else some ((b.data.toNat % 2 ^ 21 + (c.p pn).toNat / 16) % 2 ^ 21,
    (s.workFrame ((s.cell e).isS3 s.window) ((c.p pn).toNat % 16)) - 64)

/-- The value Geyser delivers to a cell; `bad` says that its check fails (R253). -/
def State.pgetWord (s : State) (pid f : Nat) (bad : Bool) : Sinter := if bad then s.poison 3 else s.valueAt pid f

/-- What `pget.twin` writes: old value, new value and weight under law 5, else the value twice (R123, R242). -/
def State.twinWords (s : State) (pid f : Nat) : Sinter × Sinter × BitVec 32 :=
  match (s.gys.chg.look [] pid).find? (fun c => decide (c.first ≤ f)) with
  | some c => if c.law = 5 ∧ f < c.first + c.len then
      (deliver c.cls c.v0, deliver c.cls c.v1, twinWeight (f - c.first) c.len)
    else (s.valueAt pid f, s.valueAt pid f, 0x7FFFFFFF)
  | none => (s.valueAt pid f, s.valueAt pid f, 0x7FFFFFFF)

/-- The pointer after a parameter read: unchanged with U = 1 (R173). -/
def Core.pgetPost (c : Core) (pn : Nat) (hold : Bool) : Core := if hold then c else c.post pn ⟨(c.m pn).toInt, false⟩

/-- `pget` (R122, R139, R173). -/
def execPget (u : Exe) (gd : Fin 32) (sreg pn : Fin 8) (hold gysBad : Bool) (s : State) :
    Host.Outcome State Fault Refusal :=
  done (s.zslot u (fun s c e =>
    match s.pgetPid e c sreg pn with
    | none => s.trap u 6
    | some (pid, f) =>
      (fun t : State => if gysBad then t.gysStateFault pid else t)
        (s.setCore u ((c.pgetPost pn hold).sendG 3 gd (s.pgetWord pid f gysBad)))))

/-- `pget.twin` (R123, R173, R242): Gd is G1 to G29. -/
def execPgetTwin (u : Exe) (gd : Fin 32) (sreg pn : Fin 8) (hold gysBad : Bool) (s : State) :
    Host.Outcome State Fault Refusal :=
  done (s.zslot u (fun s c e =>
    if gd.val = 0 ∨ 29 < gd.val then s.trap u 2 else
    match s.pgetPid e c sreg pn with
    | none => s.trap u 6
    | some (pid, f) =>
      let w := s.twinWords pid f
      let x := fun y : Sinter => if gysBad then s.poison 3 else y
      (fun t : State => if gysBad then t.gysStateFault pid else t)
        (s.setCore u (((((c.pgetPost pn hold).sendG 3 gd (x w.1)).sendG 3 (gd + 1) (x w.2.1)).sendG 3 (gd + 2)
          (x (Sinter.ofData w.2.2)))))))

end Sys2Proof.Machine
end

