-- ==== Sys2Proof/Machine/Caldera.lean ====
section
/-! DEFINITION. Caldera (05_caldera): the matrix frame (R187 to R202), deep buses (R203 to R205), returns (R206), state
checks and reload (R217, R218), and the views of a crosspoint (CALXPCUR, CALXPST). -/

namespace Sys2Proof.Machine

/-! ### Sources -/

/-- The cell that writes a slot was stopped, trapped or spoiled in window `v` (R27, R128). -/
def State.spoiledIn (s : State) (w v : Nat) : Bool := (s.cell (physOf w)).spoiled.contains v

/-- The sample of frame j of source slot `src` for the period that Caldera works on in window `w` (R35 to R39, R206). -/
def State.srcSample (s : State) (w src j : Nat) : Sinter :=
  let kind := s.getAt (w - 2) (Reg.SRCW_KIND src)
  let stored := match s.eng.src.look none (slotKey (16 * (w + 2) + j) src) with
    | some x => x
    | none => s.poison 1
  if kind = 0 then Sinter.zero
  else if kind = 1 then stored
  else if kind = 2 then
    (if s.spoiledIn (s.getAt (w - 2) (Reg.SRCW_CELL src)) (w - 1) then s.poison 1 else stored)
  else if s.nBus ≤ s.getAt (w - 2) (Reg.SRCW_BUS src) then s.poison 1
  else s.busRead w (s.getAt (w - 2) (Reg.SRCW_BUS src)) j

/-! ### Reports -/

/-- The slice of a bus (R187). -/
def State.sliceOf (s : State) (b : Nat) : Nat := b * 4 / s.nBus

/-- A record of a bus and frame in CALFAULT. -/
def State.calReport (s : State) (b j kind : Nat) : State :=
  (((s.put Reg.CALFAULT_SLICE (s.sliceOf b)).put Reg.CALFAULT_BUS b).put Reg.CALFAULT_FRAME j).put Reg.CALFAULT_KIND kind

/-- A bus output that fails its check, or a coefficient unit that disagrees (R198); twice in consecutive windows the
slice is degraded (R199). -/
def State.calResidue (s : State) (b j kind : Nat) : State :=
  let r := s.sliceOf b
  let s1 := (((s.putBit Reg.CALSTAT_RESIDUE true).calReport b j kind).raiseOnce 145)
  let s2 := { s1 with cal := { s1.cal with lastRes := s1.cal.lastRes.upd 0 r (s.window + 1) } }
  if s.cal.lastRes.look 0 r = s.window ∧ 0 < s.window ∧ !(s.get Reg.CALSTAT_DEGRADED).testBit r then
    (s2.put Reg.CALSTAT_DEGRADED (s2.get Reg.CALSTAT_DEGRADED ||| 2 ^ r)).raiseOnce 146
  else s2

/-! ### One frame of the matrix -/

/-- What a matrix frame is told beside the state: the window, the frame j, the crosspoints whose state word failed in
this window (R217), and the crosspoint for which Geyser delivers poison in this frame (R253). -/
structure MatrixFrame where
  w   : Nat
  j   : Nat
  bad : List Nat
  gys : Option Nat
  deriving DecidableEq, Repr

/-- The frame the matrix frame works on. -/
def MatrixFrame.frame (m : MatrixFrame) : Nat := 16 * (m.w - 2) + m.j

/-- The work frame (64 added) its buses are kept under. -/
def MatrixFrame.key (m : MatrixFrame) : Nat := 16 * (m.w + 2) + m.j

/-- A crosspoint's contribution added to its bus (R193 to R197). -/
def State.xpAdd (s : State) (m : MatrixFrame) (acc : Acc × Bool) (e : Nat × List XpChange) : Acc × Bool :=
  let x := s.srcSample m.w (e.1 % 1024) m.j
  let c := xpCoef e.2 m.frame
  if xpPoison e.2 m.frame then ({ acc.1 with psn := true }, acc.2)
  else if c = 0 then acc
  else if x.isPoison || m.bad.contains e.1 then ({ acc.1 with psn := true }, acc.2)
  else
    let a := accFit (acc.1.val.toInt + 16 * (c * x.data.toInt)) (acc.1.res.toNat + 16 * ((residueInt c).toNat * x.r))
    ({ a.1 with psn := acc.1.psn }, acc.2 || a.2)

/-- The sum of bus `b` (R193), and whether its accumulator saturated. -/
def State.busSum (s : State) (m : MatrixFrame) (b : Nat) : Acc × Bool :=
  (s.cal.xp.filter (fun e => decide (e.1 / 1024 = b) && decide (e.1 % 1024 < s.nSrc))).foldl (s.xpAdd m)
    ({ Acc.zero with psn := (match m.gys with | some x => decide (x / 1024 = b) | none => false) }, false)

/-- The two words of the wide output (R201); `none` where the split fails its check: the residues of the words against the
carried residue of the rounded accumulator. -/
def wideWords (a : Acc) : Option (Sinter × Sinter) :=
  let k := roundHalfEven a.val.toInt 24
  let hi := Sinter.ofData (BitVec.ofInt 32 (k / 2 ^ 16))
  let lo := Sinter.ofData (BitVec.ofInt 32 (k % 2 ^ 16))
  if residueInt (a.res.toNat + (k * 2 ^ 24 - a.val.toInt)) ≠ residueInt (32 * hi.r + 8 * lo.r) then none else some (hi, lo)

/-- A stored bus output. -/
def State.putBus (s : State) (key b : Nat) (x : Sinter) : State :=
  { s with eng := { s.eng with bus := s.eng.bus.upd none (slotKey key b) (if x = Sinter.zero then none else some x) } }

/-- A wide output handed to the cascade transmit path (R202). -/
def State.putWide (s : State) (key b : Nat) (hi lo : Sinter) : State :=
  { s with eng := { s.eng with
      wideOut := (s.eng.wideOut.upd none (slotKey key (2 * b)) (some hi)).upd none (slotKey key (2 * b + 1)) (some lo) } }

/-- The outputs of bus `b` from its accumulator for frame `j` of period `n` (R198, R200, R201); `key` is the work frame. -/
def State.busOut (s : State) (key n b j : Nat) (a : Acc) : State :=
  let p := s.getAt n (Reg.CALBUS_PRESCALE b)
  let wide := s.getAt n (Reg.CALBUS_WIDE_OUT b) == 1
  let pz := s.poison 2
  let o := staRound a.val.toInt a.res.toNat (31 + p) pz
  if a.psn || decide (5 ≤ p) then
    (fun t : State => if wide then t.putWide key b pz pz else t) (s.putBus key b pz)
  else
    let s0 := if o.sat then
        (((s.putBit Reg.CALSTAT_BUS_SAT true).put Reg.CALSATBUS_BUS b).bump Reg.CALSATBUS_COUNT).raiseOnce 144
      else s
    let s1 := (if o.mismatch then s0.calResidue b j 0 else s0).putBus key b o.word
    if !wide then s1
    else match wideWords a with
      | some w => s1.putWide key b w.1 w.2
      | none => (s1.calResidue b j 0).putWide key b pz pz

/-- Bus `b` of a matrix frame: summed, then held where the bus is deep, else stored (R193, R198, R203). -/
def State.busWorked (m : MatrixFrame) (hit dup : Option Nat) (s : State) (b : Nat) : State :=
  let r := s.busSum m b
  let a := if hit = some b then { r.1 with res := r.1.res + 1 } else r.1
  let s1 := if r.2 then ((s.putBit Reg.CALSTAT_ACC_OVF true).calReport b m.j 1).raiseOnce 148 else s
  let bad := match dup with
    | some xp => decide (xp / 1024 = b) && decide (xpCoef (s.cal.xp.look [] xp) m.frame ≠ 0)
    | none => false
  let s2 := if bad then s1.calResidue b m.j 3 else s1
  let a2 := if bad then { a with psn := true } else a
  if s.deepAt (m.w - 2) b then
    { s2 with cal := { s2.cal with held := s2.cal.held.upd Acc.zero (slotKey m.key b) a2 } }
  else s2.busOut m.key (m.w - 2) b m.j a2

/-- Bus `b` of a matrix frame; every output of a slice that takes no part is poison (R47, R218). -/
def State.busFrame (m : MatrixFrame) (hit dup : Option Nat) (s : State) (b : Nat) : State :=
  if s.takesPart (islSlice (s.sliceOf b)) m.w then s.busWorked m hit dup b
  else if s.deepAt (m.w - 2) b then
    { s with cal := { s.cal with held := s.cal.held.upd Acc.zero (slotKey m.key b) { Acc.zero with psn := true } } }
  else s.busOut m.key (m.w - 2) b m.j { Acc.zero with psn := true }

/-- A return source or a direct egress slot that names an absent bus (R206, R207). -/
def State.absentBus (s : State) : Bool :=
  (List.range s.nSrc).any (fun k => s.getAt (s.window - 2) (Reg.SRCW_KIND k) == 3 &&
      decide (s.nBus ≤ s.getAt (s.window - 2) (Reg.SRCW_BUS k))) ||
  (List.range s.nEgr).any (fun k => s.getAt (s.window - 3) (Reg.EGW_KIND k) == 2 &&
      decide (s.nBus ≤ s.getAt (s.window - 3) (Reg.EGW_BUS k)))

/-- The number that stands in the list of active crosspoints for all of them, while SKIP_EN is 0. -/
def allActive : Nat := 2 ^ 19

/-- The crosspoints not skipped in frame `f` (R195). -/
def State.notSkipped (s : State) (f : Nat) : List Nat :=
  if !s.bit Reg.CALCFG_SKIP_EN then [allActive]
  else (s.cal.xp.filter (fun e => decide (e.1 % 1024 < s.nSrc) && decide (e.1 / 1024 < s.nBus) &&
    (match xpFind e.2 f with
     | some x => decide (x.c1 ≠ 0) || x.psn || decide (f < x.first + x.len)
     | none => false))).map Prod.fst

/-- The matrix work of frame `j` in the present window, on period w - 2 (R188). -/
def State.matrixFrame (s : State) (j : Nat) (dup gysBad hit : Option Nat) : State :=
  let failed := (s.cal.badXp.filter (fun e => decide (e.2 = s.window + 1))).map Prod.fst
  let m : MatrixFrame := ⟨s.window, j, failed, gysBad⟩
  let s1 := match gysBad with
    | some x => s.gysStateFault (0x100000 + x)
    | none => s
  let s2 := (List.range s.nBus).foldl (State.busFrame m hit dup) s1
  let s3 := if s.absentBus then (s2.putBit Reg.CALSTAT_BUS_ABSENT true).raiseOnce 152 else s2
  { s3 with cal := { s3.cal with
      formed := m.key :: s3.cal.formed.filter (fun k => decide (k + 128 > m.key) && decide (k ≠ m.key))
      active := (s3.cal.active ++ s.notSkipped m.frame).eraseDups } }

/-- The ring presents frame `j` (R188). -/
def execCalMatrixFrame (j : Fin 16) (dup gysBad : Option (BitVec 19)) (hit : Option (Fin 512)) (s : State) :
    Host.Outcome State Fault Refusal :=
  done (if s.window < 2 then s
    else s.matrixFrame j (dup.map BitVec.toNat) (gysBad.map BitVec.toNat) (hit.map Fin.val))

/-- At the stage edge CALACTIVE takes the counts of the window that ends (R195). -/
def State.calActive (s : State) : State :=
  let count (r : Nat) : Nat :=
    if s.cal.active.contains allActive then s.nBus / 4 * s.nSrc
    else (s.cal.active.filter (fun x => decide (s.sliceOf (x / 1024) = r))).length
  let s1 := (List.range 4).foldl (fun t r => t.put (Reg.CALACTIVE_COUNT r) (count r)) s
  { s1 with cal := { s1.cal with active := [] } }

/-! ### Deep buses -/

/-- The wide partial sum of a frame on a receive channel, shifted left by 24 (R203), if it has arrived and is whole. -/
def State.wideSum (s : State) (key chan : Nat) : Option (Int × Nat) :=
  match s.eng.wideIn.look none (slotKey key (2 * chan)), s.eng.wideIn.look none (slotKey key (2 * chan + 1)) with
  | some hi, some lo =>
    if hi.isPoison || lo.isPoison then none
    else some ((hi.data.toInt * 2 ^ 16 + lo.data.toInt) * 2 ^ 24, 32 * hi.r + 8 * lo.r)
  | _, _ => none

/-- The addition of the received wide partial sum of period w - 3 into a deep bus, and its outputs (R203, R204); poison while the
slice takes no part (R218). -/
def execDeepBusAdd (b : Fin 512) (j : Fin 16) (s : State) : Host.Outcome State Fault Refusal :=
  let n := s.window - 3
  let key := 16 * (s.window + 1) + j.val
  let a := s.cal.held.look Acc.zero (slotKey key b)
  done (if s.window < 3 ∨ !s.deepAt n b ∨ s.nBus ≤ b.val then s else
    let free (t : State) : State := { t with cal := { t.cal with held := t.cal.held.upd Acc.zero (slotKey key b) Acc.zero } }
    if !s.takesPart (islSlice (s.sliceOf b)) s.window then free (s.busOut key n b j { a with psn := true })
    else match s.wideSum key (s.getAt n (Reg.CALBUS_WIDE_CHAN b)) with
    | none => free ((((s.putBit Reg.CALSTAT_WIDE_MISSING true).calReport b j 2).raiseOnce 151).busOut key n b j
        { a with psn := true })
    | some (x, r) =>
      let f := accFit (a.val.toInt + x) (a.res.toNat + r)
      let s1 := if f.2 then ((s.putBit Reg.CALSTAT_ACC_OVF true).calReport b j 1).raiseOnce 148 else s
      free (s1.busOut key n b j { f.1 with psn := a.psn }))

/-! ### State checks, rebuilds and ramps -/

/-- Frame `j` of the present window, when it is worked already, with its outputs of bus `b` made poison. -/
def State.frameSpoil (b : Nat) (s : State) (j : Nat) : State :=
  let m : MatrixFrame := ⟨s.window, j, [], none⟩
  if !s.cal.formed.contains m.key then s
  else if s.deepAt (m.w - 2) b then
    { s with cal := { s.cal with held := s.cal.held.upd Acc.zero (slotKey m.key b) { Acc.zero with psn := true } } }
  else s.busOut m.key (m.w - 2) b j { Acc.zero with psn := true }

/-- A crosspoint's state word is read and checked (R217): a failure makes its products poison in every frame of the
window in which it contributes, those worked before the check included. -/
def execXpStateCheck (xp : BitVec 19) (ok : Bool) (s : State) : Host.Outcome State Fault Refusal :=
  done (if ok ∨ !s.xpExists xp.toNat then s else
    let s1 := ((s.putBit Reg.CALSTAT_XP_FAULT true).xpReport xp.toNat 0).raiseOnce 147
    let s2 := { s1 with cal := { s1.cal with badXp := s1.cal.badXp.upd 0 xp.toNat (s.window + 1) } }
    ((List.range 16).filter (fun j => decide (xpCoef (s.cal.xp.look [] xp.toNat) (16 * (s.window - 2) + j) ≠ 0))).foldl
        (State.frameSpoil (xp.toNat / 1024)) s2)

/-- The changes of a crosspoint with its rebuild, from the value Geyser holds, put in its place among them (R217). -/
def State.xpRebuilt (s : State) (xp f : Nat) : List XpChange :=
  xpInsert s.minRamp (s.xpRebuild (s.valueAt (0x100000 + xp) f) f) (s.cal.xp.look [] xp)

/-- The crosspoint's state with that change in it. -/
def State.xpRebuildIn (s : State) (xp f : Nat) : State :=
  { s with cal := { s.cal with xp := s.cal.xp.upd [] xp (s.xpRebuilt xp f) } }

/-- In the window after the failure the crosspoint is rebuilt from the first frame of the period of that window
(R217). -/
def execXpRebuild (xp : BitVec 19) (s : State) : Host.Outcome State Fault Refusal :=
  done (if s.cal.badXp.look 0 xp.toNat ≠ s.window ∨ s.window < 2 then s else
    let s1 := s.xpRebuildIn xp.toNat (16 * (s.window - 2))
    { s1 with cal := { s1.cal with badXp := s1.cal.badXp.upd 0 xp.toNat 0 } })

/-- A crosspoint ramp reaches its last frame (R208, R213). -/
def execXpRampEnd (xp : BitVec 19) (s : State) : Host.Outcome State Fault Refusal :=
  done (match s.cal.xp.look [] xp.toNat with
    | x :: rest => if x.first + x.len - 1 ≤ s.frame then
        { s with cal := { s.cal with xp := s.cal.xp.upd [] xp.toNat ({ x with ended := true } :: rest) } } else s
    | [] => s)

/-- A slice is reloaded (R192, R218): every crosspoint of it is rebuilt from the value Geyser holds, from the first frame of
the period of the present window, and DEGRADED clears. -/
def State.sliceReload (s : State) (r : Nat) : State :=
  let f := 16 * (s.window - 2)
  let lo := r * (s.nBus / 4) * 1024
  let hi := (r + 1) * (s.nBus / 4) * 1024
  let built := ((List.range (hi - lo)).filter (fun i => decide (i % 1024 < s.nSrc))).map (fun i =>
    (lo + i, s.xpRebuilt (lo + i) f))
  let xp := s.cal.xp.filter (fun e => decide (e.1 < lo)) ++ built ++ s.cal.xp.filter (fun e => decide (hi ≤ e.1))
  { s.put Reg.CALSTAT_DEGRADED (s.get Reg.CALSTAT_DEGRADED &&& (15 ^^^ 2 ^ r)) with cal := { s.cal with xp := xp } }

/-- Any write to CALSATBUS (R200). -/
def execCalsatbusClear (s : State) : Host.Outcome State Fault Refusal := done (s.put Reg.CALSATBUS_COUNT 0)

/-! ### Views -/

/-- The last frame of the last period that Caldera completed. -/
def State.calFrame (s : State) : Nat := 16 * (s.window - 3) + 15

/-- CALXPCUR: the coefficient of the selected crosspoint; 0 for an absent one. -/
def State.calXpCur (s : State) : Nat :=
  let xp := s.get Reg.CALXPSEL_XP
  if s.nSrc ≤ xp % 1024 ∨ s.nBus ≤ xp / 1024 ∨ s.window < 3 then 0
  else (BitVec.ofInt 32 (xpCoef (s.cal.xp.look [] xp) s.calFrame)).toNat

/-- CALXPST: frames still to run, law, RAMPING, SKIPPED. -/
def State.calXpSt (s : State) : Nat :=
  let f := s.calFrame
  match xpFind (s.cal.xp.look [] (s.get Reg.CALXPSEL_XP)) f with
  | none => if s.bit Reg.CALCFG_SKIP_EN then 2 ^ 20 else 0
  | some x =>
    let rem := x.first + x.len - 1 - f
    (if x.len = 0 then 0 else Nat.min rem 65535) + 65536 * (if x.rampingAt f then x.law else 0) +
      (if x.rampingAt f then 2 ^ 19 else 0) +
      (if s.bit Reg.CALCFG_SKIP_EN && decide (x.c1 = 0) && !x.psn && decide (x.first + x.len ≤ f) then 2 ^ 20 else 0)

/-- The last frame of the period that S1 processes. -/
def State.gysFrame (s : State) : Nat := 16 * (s.window - 1) + 15

/-- GYSPIDCUR. -/
def State.gysPidCur (s : State) : Nat := (s.valueAt (s.get Reg.GYSPIDSEL_PID) s.gysFrame).data.toNat

/-- GYSPIDST: frames still to run, law, RAMPING, PENDING, SHADOWED. -/
def State.gysPidSt (s : State) : Nat :=
  let pid := s.get Reg.GYSPIDSEL_PID
  let f := s.gysFrame
  let ramp := match (s.gys.chg.look [] pid).find? (fun c => decide (c.first ≤ f)) with
    | some c => if f + 1 < c.first + c.len then Nat.min (c.first + c.len - 1 - f) 65535 + 65536 * c.law + 2 ^ 19 else 0
    | none => 0
  let ready := (List.range 4).any (fun n => s.cmtState n == cmtReady && (s.commitOf n).entries.any (fun e => e.pid == pid))
  ramp + (if ready || s.gys.dw.any (fun d => d.pid == pid) then 2 ^ 20 else 0) +
    (if s.gys.shadow.contains pid then 2 ^ 21 else 0)

end Sys2Proof.Machine
end

