-- ==== Sys2Proof/Machine/Convert.lean ====
section
/-! DEFINITION. The conversion units (R259 to R275): the tracker, responses and their crossfades, the converted samples,
and the detectors.  The response ROM's coefficients are not in the manual: filter values are free (log 7). -/

namespace Sys2Proof.Machine

/-! ### Levels -/

/-- Twice 81,920: a code is compared half a unit off. -/
def levelExp : Nat := 163840

/-- round(81,920 / e * log10(num / den)) of a positive ratio, limited below at -589,824; muted for 0 (R275). -/
def levelCode (num den e : Nat) : Int :=
  if num = 0 then codeMuted
  else max codeMin ((searchUp (fun k =>
    let a : Int := e * (2 * ((k : Int) - 2 ^ 21) - 1)
    if 0 ≤ a then decide (10 ^ a.toNat * den ^ levelExp ≤ num ^ levelExp)
    else decide (den ^ levelExp ≤ num ^ levelExp * 10 ^ (-a).toNat)) 22 0 : Nat) - 2 ^ 21)

/-- |x| of a sample in units of 2^-31. -/
def absQ (x : BitVec 32) : Nat := x.toInt.natAbs

/-- One step of an envelope held in units of 2^-62 (R275, R282). -/
def envStep (e : Int) (x att rel : Nat) : Int :=
  let a : Int := x * 2 ^ 31
  if e < a then e + (a - e) / 2 ^ att else e + (a - e) / 2 ^ rel

/-- n / d of a sample, rounded half to even; poison stays poison. -/
def scaleSample (x : Sinter) (n : Int) (d : Nat) : Sinter :=
  if x.isPoison then x else Sinter.ofData (BitVec.ofInt 32 (divHalfEven (x.data.toInt * n) d))

/-! ### Units -/

def State.unit (s : State) (u : Nat) : CnvUnit := s.cnv.units.look CnvUnit.reset u
def State.setUnit (s : State) (u : Nat) (c : CnvUnit) : State :=
  { s with cnv := { s.cnv with units := s.cnv.units.upd CnvUnit.reset u c } }
def State.chan (s : State) (v : Nat) : CnvChan := s.cnv.chans.look CnvChan.reset v
def State.setChan (s : State) (v : Nat) (c : CnvChan) : State :=
  { s with cnv := { s.cnv with chans := s.cnv.chans.upd CnvChan.reset v c } }

/-- CNVSTATu.STATE codes. -/
def cnvOff : Nat := 0
def cnvAcquire : Nat := 1
def cnvCoarse : Nat := 2
def cnvRun : Nat := 3
def cnvFade : Nat := 4

def State.cnvState (s : State) (u : Nat) : Nat := s.get (Reg.CNVSTAT_STATE u)
def State.cnvMode (s : State) (u : Nat) : Nat := s.get (Reg.CNVCTL_MODE u)

/-- A mode that converts before the S0 deposit, and one that converts after the hand-off (R260). -/
def cnvIngress (mode : Nat) : Bool := mode == 1 || mode == 2 || mode == 3 || mode == 6
def cnvEgress (mode : Nat) : Bool := mode == 4 || mode == 5 || mode == 7

/-- The responses a mode's word may name, its default first (R264). -/
def respSet (mode : Nat) : List Nat :=
  if mode = 1 then [0, 2] else if mode = 2 then [4, 5] else if mode = 3 then [8, 9] else if mode = 4 then [6, 7]
  else if mode = 5 then [10, 11] else [22, 12, 13, 14, 15, 16, 17, 18, 19, 23]

/-- The K-weighting response of the current rate (R263, R264). -/
def State.kResp (s : State) : Nat := 14 + (if s.fam441 then 3 else 0) + s.get Reg.PWRRATE_MULT_NOW

/-- The response a word gives a unit, and whether the word's own was replaced (R264). -/
def State.respOf (s : State) (u w : Nat) : Nat × Bool :=
  let mode := s.cnvMode u
  let set := respSet mode
  let core := if mode = 1 ∧ (s.unit u).down then 1 else 0
  if !set.contains (w % 32) then (set.headD 22 + core, true)
  else if mode = 1 then (w % 32 + core, false)
  else if 14 ≤ w % 32 ∧ w % 32 ≤ 19 then (s.kResp, false)
  else (w % 32, false)

/-- The group delay of a response, with the stage of PRE for an ASRC unit (R263, R265, R270). -/
def groupDelay (mode resp pre : Nat) : Nat :=
  if mode = 1 then
    (if resp < 2 then 12 else 6) + (if pre = 1 ∨ pre = 3 then 8 else if pre = 2 ∨ pre = 4 then 11 else 0)
  else if resp = 4 ∨ resp = 6 then 24 else if resp = 5 ∨ resp = 7 then 8 else if resp = 8 ∨ resp = 10 then 27
  else if resp = 9 ∨ resp = 11 then 11 else 0

/-- The input samples the filter span of an output covers (R263, R265, R273). -/
def respSpan (resp pre : Nat) : Nat :=
  if resp < 4 then
    let core := if resp < 2 then 16 else 8
    if pre = 1 then 31 + 2 * (core - 1) else if pre = 2 then 83 + 4 * (core - 1)
    else if pre = 3 then (core + 1) / 2 + 16 else if pre = 4 then (core + 3) / 4 + 22 else core
  else if resp = 4 then 95 else if resp = 5 then 31 else if resp = 6 then 48 else if resp = 7 then 16
  else if resp = 8 then 211 else if resp = 9 then 83 else if resp = 10 then 54 else if resp = 11 then 22 else 1

/-- The range of R of a PRE setting in thousandths times ten (R265); none for a reserved value. -/
def preRange (pre : Nat) : Option (Nat × Nat) :=
  if pre = 0 then some (7000, 14500) else if pre = 1 then some (14000, 29000) else if pre = 2 then some (28000, 58000)
  else if pre = 3 then some (3500, 7250) else if pre = 4 then some (1750, 3625) else none

/-- The response word of unit `u` for period `q` (R271); a poison word leaves the one before (R643). -/
def State.cnvWord (s : State) (u q before : Nat) : Nat :=
  let x := s.valueAt (0x1B0000 + u) (16 * q)
  if x.isPoison then before else x.data.toNat

/-- The response word of period `q` is shown: the response, its delay, and one that was replaced (R264, R270, R271).  `fresh` says
that the unit starts. -/
def State.cnvShow (s : State) (fresh : Bool) (u q : Nat) : State :=
  let c := s.unit u
  let w := s.cnvWord u q c.word
  let r := s.respOf u w
  let s1 := ((s.setUnit u { c with word := w }).put (Reg.CNVSTAT_RESP_NOW u) r.1).put (Reg.CNVGDELAY_GDELAY u)
    (groupDelay (s.cnvMode u) r.1 (s.get (Reg.CNVCTL_PRE u)))
  if r.2 && (fresh || w != c.word) then
    ((s1.putBit (Reg.CNVSTAT_RESP_BAD u) true).put (Reg.CNVFAULT_KIND u) 2).raiseOnce 92
  else s1

/-- The response of period `q` takes charge of the unit's filters: a FIR keeps its history, an IIR starts from zero (R271). -/
def State.cnvSwitch (s : State) (fresh : Bool) (u q : Nat) : State :=
  let c := s.unit u
  let w := s.cnvWord u q c.used
  let r := (s.respOf u w).1
  let s1 := s.setUnit u { c with used := w, resp := r, old := (if fresh then r else c.resp) }
  if c.resp = r && !fresh then s1
  else (List.range 8).foldl (fun t i =>
    let k := t.chan (8 * u + i)
    t.setChan (8 * u + i) { k with iirOld := k.iir, iir := 0 }) s1

/-- The period of the frame that unit `u` is to convert next: the present one, or for an egress unit that of the frame last handed
(R260, R415). -/
def State.cnvPeriodOf (s : State) (u : Nat) : Nat := if cnvEgress (s.cnvMode u) then (s.frame - 73) / 16 else s.period

/-- A unit starts with the response in force (R262). -/
def State.cnvStart (s : State) (u : Nat) : State := (s.cnvShow true u s.period).cnvSwitch true u (s.cnvPeriodOf u)

/-- A write to CNVCTLu (R262): MODE and PRE are taken while EN is 0; EN starts and stops the unit. -/
def State.cnvCtlWrite (s : State) (u : Nat) (en : Bool) (mode pre : Nat) : State :=
  let was := s.bit (Reg.CNVCTL_EN u)
  let s1 := if was then s else (s.put (Reg.CNVCTL_MODE u) mode).put (Reg.CNVCTL_PRE u) pre
  let s2 := s1.putBit (Reg.CNVCTL_EN u) en
  if en && !was then
    let s3 := (List.range 8).foldl (fun t i => t.setChan (8 * u + i)
      { t.chan (8 * u + i) with hist := [], iir := 0, iirOld := 0 }) s2
    let m := s3.cnvMode u
    let s4 := (s3.setUnit u CnvUnit.reset).put (Reg.CNVSTAT_STATE u) (if m = 0 then cnvOff else if m = 1 then cnvAcquire
      else cnvRun)
    if m = 0 then s4 else s4.cnvStart u
  else if !en && was then
    ((s2.put (Reg.CNVSTAT_STATE u) cnvOff).putBit (Reg.CNVSTAT_LOCKED u) false).put (Reg.CNVRATIO_RATIO u) 0
  else s2

/-! ### The tracker -/

/-- An interval within 25 % of the one before (R266, R268). -/
def regular (last i : Nat) : Bool := decide (3 * last ≤ 4 * i) && decide (4 * i ≤ 5 * last)

/-- R in Q4.28 of `n` input intervals that sum to `sum` (R266); the engine's frame is 2^20 / m in the same unit. -/
def State.ratioOf (s : State) (n sum : Nat) : Nat := if sum = 0 then 0 else n * 2 ^ 48 / (s.mult * sum)

/-- A ratio lies in the range of PRE (R265). -/
def inRange (pre ratio : Nat) : Bool :=
  match preRange pre with
  | some (lo, hi) => decide (lo * 2 ^ 28 ≤ 10000 * ratio) && decide (10000 * ratio ≤ hi * 2 ^ 28)
  | none => false

/-- A unit in RUN loses its input (R268). -/
def State.cnvLose (s : State) (u cause : Nat) : State :=
  if s.cnvState u = cnvRun ∧ s.cnvMode u = 1 then
    ((((s.put (Reg.CNVSTAT_STATE u) cnvFade).put (Reg.CNVSTAT_CAUSE u) cause).put (Reg.CNVRATIO_RATIO u) 0).setUnit u
      { s.unit u with fade := s.frame + 1 }).raiseOnce 90
  else s

/-- A glitch or a stop: RUN is lost, ACQUIRE and COARSE begin again (R268). -/
def State.cnvBreak (s : State) (u cause : Nat) : State :=
  if s.cnvState u = cnvAcquire ∨ s.cnvState u = cnvCoarse then
    (s.put (Reg.CNVSTAT_STATE u) cnvAcquire).setUnit u { s.unit u with good := 0, coarse := 0, sum := 0, last := 0 }
  else s.cnvLose u cause

/-- An input frame edge of a unit in COARSE or ACQUIRE (R266, R267). -/
def State.cnvSearch (s : State) (u i : Nat) : State :=
  let c := s.unit u
  let pre := s.get (Reg.CNVCTL_PRE u)
  if s.cnvState u = cnvAcquire then
    let good := if regular c.last i then c.good + 1 else 0
    if preRange pre = none then (s.put (Reg.CNVSTAT_CAUSE u) 2).setUnit u { c with last := i, good := 0 }
    else if 8 ≤ good then (s.put (Reg.CNVSTAT_STATE u) cnvCoarse).setUnit u { c with last := i, good := 0, coarse := 0, sum := 0 }
    else s.setUnit u { c with last := i, good := good }
  else if !regular c.last i then s.cnvBreak u 1
  else if c.coarse < 63 then s.setUnit u { c with last := i, coarse := c.coarse + 1, sum := c.sum + i }
  else
    let r := s.ratioOf 64 (c.sum + i)
    let e := cutErr (Config.ratioErr s.free) (r / 100000)
    if inRange pre r then
      let s1 := (((s.put (Reg.CNVSTAT_STATE u) cnvRun).put (Reg.CNVRATIO_RATIO u) (r + e).toNat).setUnit u
        { c with last := i, sum := c.sum + i, coarse := 0, out := 0, startAt := 16 * (s.period + 1), steady := s.frame,
                 down := decide (2 ^ 28 < r), slip := none, slipAt := 0 }).raise 88
      s1.cnvStart u
    else (((s.put (Reg.CNVSTAT_STATE u) cnvAcquire).put (Reg.CNVSTAT_CAUSE u) 2).setUnit u
      { c with last := i, good := 0, coarse := 0, sum := 0 })

/-- A read point within 4 samples of either end of the buffer of 64 (R269). -/
def readLimit (rp : Nat) : Bool := decide (rp ≤ 4) || decide (59 ≤ rp)

/-- An input frame edge of a unit in RUN (R267 to R269); `rp` is the read point where it has left the set point. -/
def State.cnvTrack (s : State) (u i : Nat) (settled : Bool) (rp : Option Nat) : State :=
  let c := s.unit u
  let sum := c.sum - c.sum / 64 + i
  let r := s.ratioOf 64 sum
  let e := cutErr (Config.ratioErr s.free) (r / (if s.bit (Reg.CNVSTAT_LOCKED u) then 100000000 else 100000))
  let out := if inRange (s.get (Reg.CNVCTL_PRE u)) (s.ratioOf 1 i) then 0 else c.out + 1
  if !regular c.last i then s.cnvLose u 1
  else if 64 ≤ out then s.cnvLose u 2
  else (s.put (Reg.CNVRATIO_RATIO u) (r + e).toNat).setUnit u
    { c with last := i, sum := sum, out := out, steady := (if settled then c.steady else s.frame), slip := (rp.filter readLimit).or c.slip }

/-- A channel of unit `u` binds an input of a slave port whose balls are exchanged and not put right: no edge reaches the unit (R318). -/
def State.cnvDeaf (s : State) (u : Nat) : Bool :=
  (List.range 8).any (fun i =>
    let q := s.get (Reg.CNVCH_BIND (8 * u + i))
    decide (q < 256) && s.bit (Reg.PORTSTAT_SWAPPED (q / 16)) && !s.bit (Reg.PORTCFG_SWAP_FIX (q / 16)))

/-- An input frame edge as the port or stream delivers it (R266). -/
def execCnvInputEdge (u : Fin 32) (interval : BitVec 32) (settled : Bool) (rp : Option (Fin 64)) (s : State) :
    Host.Outcome State Fault Refusal :=
  done (if s.islandStopped islConv ∨ s.cnvMode u ≠ 1 ∨ s.cnvDeaf u then s
    else if s.cnvState u = cnvAcquire ∨ s.cnvState u = cnvCoarse then s.cnvSearch u interval.toNat
    else if s.cnvState u = cnvRun then s.cnvTrack u interval.toNat settled (rp.map Fin.val)
    else s)

/-- The end of FADE, 16 engine frames after it began (R266, R268). -/
def execCnvFadeEnd (u : Fin 32) (s : State) : Host.Outcome State Fault Refusal :=
  done (if s.cnvState u = cnvFade ∧ (s.unit u).fade + 15 ≤ s.frame then
    ((s.put (Reg.CNVSTAT_STATE u) cnvAcquire).putBit (Reg.CNVSTAT_LOCKED u) false).setUnit u
      { s.unit u with fade := 0, good := 0, coarse := 0, sum := 0, last := 0 }
    else s)

def execCnvEnable (u : Fin 32) (mode pre : BitVec 3) (s : State) : Host.Outcome State Fault Refusal :=
  done (s.cnvCtlWrite u true mode.toNat pre.toNat)

def execCnvDisable (u : Fin 32) (mode pre : BitVec 3) (s : State) : Host.Outcome State Fault Refusal :=
  done (s.cnvCtlWrite u false mode.toNat pre.toNat)

/-- At a boundary a unit that has settled for 2 s is LOCKED (R267). -/
def State.cnvLock (s : State) (u : Nat) : State :=
  let c := s.unit u
  if s.cnvState u = cnvRun ∧ s.cnvMode u = 1 ∧ !s.bit (Reg.CNVSTAT_LOCKED u) ∧
      c.startAt + 2 * s.baseRate * s.mult ≤ s.frame ∧ c.steady + 16 ≤ s.frame then
    (s.putBit (Reg.CNVSTAT_LOCKED u) true).raise 89
  else s

/-! ### Detectors -/

/-- An input sample of a conversion channel enters its history and, unless poison, its detectors (R273, R275). -/
def CnvChan.take (c : CnvChan) (x : Sinter) : CnvChan :=
  let h := (x :: c.hist).take 512
  if !x.good then { c with hist := h }
  else { c with
    hist := h
    peak := Nat.max c.peak (absQ x.data)
    sq := (absQ x.data ^ 2 :: c.sq).take 1024
    env := envStep c.env (absQ x.data) 3 13 }

/-- CNVCHv at a boundary (R275). -/
def State.cnvDetect (s : State) (v : Nat) : State :=
  let c := s.chan v
  ((s.put (Reg.CNVCH_DPEAK v) ((levelCode c.peak (2 ^ 31) 1) % 2 ^ 24).toNat).put (Reg.CNVCH_DRMS v)
    ((levelCode (c.sq.foldl (· + ·) 0) (c.sq.length * 2 ^ 62) 2) % 2 ^ 24).toNat).put (Reg.CNVCH_DENV v)
    ((levelCode c.env.toNat (2 ^ 62) 1) % 2 ^ 24).toNat

/-- CNVCHv.CLR (R275). -/
def State.cnvClr (s : State) (v : Nat) : State :=
  (s.put (Reg.CNVCH_DPEAK v) 0x800000).setChan v { s.chan v with peak := 0 }

def execCnvchClr (v : Fin 256) (s : State) : Host.Outcome State Fault Refusal := done (s.cnvClr v)

/-! ### Converted samples -/

/-- The value of a FIR response or ASRC core over the span (R273): of silence it is silence. -/
def State.firValue (s : State) (resp pre tag : Nat) (hist : List Sinter) : Sinter :=
  let span := hist.take (respSpan resp pre)
  if span.any (fun x => !x.good) then s.poison 4
  else if span.all (fun x => x.data == 0) then Sinter.zero
  else Sinter.ofData (Config.convSample resp tag (span.map Sinter.data))

/-- Core samples for so many input samples of an ASRC unit (R265). -/
def coreRate (pre : Nat) : Nat × Nat :=
  if pre = 1 then (1, 2) else if pre = 2 then (1, 4) else if pre = 3 then (2, 1) else if pre = 4 then (4, 1) else (1, 1)

/-- The set point of a response, in core samples behind the newest: the delay of R270 at the tracked ratio (R269). -/
def State.readPoint (s : State) (u resp : Nat) : Nat :=
  let pre := s.get (Reg.CNVCTL_PRE u)
  Nat.min 63 (groupDelay 1 resp pre * s.ratioOf 64 (s.unit u).sum * (coreRate pre).1 / ((coreRate pre).2 * 2 ^ 28))

/-- The history as a unit's core reads it from a read point, the span of its filter lying around that point (R269). -/
def State.readFrom (s : State) (u resp rp : Nat) (hist : List Sinter) : List Sinter :=
  let pre := s.get (Reg.CNVCTL_PRE u)
  if s.cnvMode u = 1 then hist.drop (rp * (coreRate pre).2 / (coreRate pre).1 - respSpan resp pre / 2) else hist

/-- The value of one response on a channel's history with an IIR state (R263, R273). -/
def State.respValue (s : State) (resp pre tag iir : Nat) (hist : List Sinter) : Sinter :=
  match hist with
  | [] => Sinter.zero
  | x :: _ =>
    if resp = 23 then (if x.good then Sinter.zero else s.poison 4)
    else if resp = 22 then (if x.good then x else s.poison 4)
    else if 12 ≤ resp ∧ resp ≤ 19 then (if x.good then Sinter.ofData (Config.iirOut resp iir x.data) else s.poison 4)
    else s.firValue resp pre tag hist

/-- The filter state after the newest sample; a poison input leaves it (R273). -/
def iirAfter (resp iir : Nat) (hist : List Sinter) : Nat :=
  match hist with
  | x :: _ => if x.good then Config.iirNext resp iir x.data else iir
  | [] => iir

/-- Frame k of a linear crossfade over 16 frames from `old` to `new`, which is alone from frame 15 on (R269, R271). -/
def State.crossfade (s : State) (k : Nat) (old new : Sinter) : Sinter :=
  if 15 ≤ k then new
  else if new.isPoison || old.isPoison then s.poison 4
  else Sinter.ofData (BitVec.ofInt 32 (divHalfEven (old.data.toInt * (15 - k : Int) + new.data.toInt * (k + 1)) 16))

/-- What one response gives on channel `v` for frame `f`, from the set point, or from the read point of a recentring to it while its
crossfade lasts (R269). -/
def State.respOut (s : State) (u v f resp tag iir : Nat) : Sinter :=
  let c := s.unit u
  let pre := s.get (Reg.CNVCTL_PRE u)
  let read (rp t : Nat) : Sinter := s.respValue resp pre t iir (s.readFrom u resp rp (s.chan v).hist)
  let new := read (s.readPoint u resp) (2 * tag)
  if c.slipAt = 0 then new else s.crossfade (f + 1 - c.slipAt) (read c.rpOld (2 * tag + 1)) new

/-- The output of channel `v` of unit `u` for frame `f`: old and new response side by side while they differ (R271). -/
def State.convMix (s : State) (u v f tag : Nat) : Sinter :=
  let c := s.unit u
  let h := s.chan v
  let new := s.respOut u v f c.resp tag h.iir
  if c.old = c.resp then new else s.crossfade (f % 16) (s.respOut u v f c.old tag h.iirOld) new

/-- The number that stands for the read point of channel `v` where the ratio is tracked; a response of fixed coefficients has none
(R263). -/
def State.convTag (s : State) (v : Nat) : Nat := if s.cnvMode (v / 8) = 1 then 256 * s.free + v else 0

/-- The converted sample an ingress channel deposits for frame `f` (R262, R266 to R268); `dup` says that the two
computations disagree (R272). -/
def State.ingressConv (s : State) (v f : Nat) (dup : Bool) : Sinter :=
  let u := v / 8
  let st := s.cnvState u
  let c := s.unit u
  let x := s.convMix u v f (s.convTag v)
  if !s.bit (Reg.CNVCTL_EN u) then Sinter.zero
  else if dup then s.poison 5
  else if s.cnvMode u ≠ 1 then x
  else if st = cnvRun then
    (if f < c.startAt then Sinter.zero else if f < c.startAt + 16 then scaleSample x (f - c.startAt + 1) 16 else x)
  else if st = cnvFade then
    (if f + 1 < c.fade ∨ c.fade + 14 ≤ f then Sinter.zero else scaleSample x (15 - (f + 1 - c.fade) : Int) 16)
  else Sinter.zero

/-- What an egress channel gives for frame `f`: one, two or four samples (R260, R262). -/
def State.egressConv (s : State) (v f : Nat) (dup : Bool) : List Sinter :=
  let u := v / 8
  let n := if s.cnvMode u = 4 then 2 else if s.cnvMode u = 5 then 4 else 1
  (List.range n).map (fun i =>
    if !s.bit (Reg.CNVCTL_EN u) then Sinter.zero
    else if dup then s.poison 5 else s.convMix u v f i)

/-- The filter states after a frame. -/
def State.convAdvance (s : State) (v : Nat) : State :=
  let c := s.unit (v / 8)
  let h := s.chan v
  s.setChan v { h with iir := iirAfter c.resp h.iir h.hist, iirOld := iirAfter c.old h.iirOld h.hist }

/-- A disagreement of the two computations is recorded (R272). -/
def State.cnvDup (s : State) (v : Nat) : State :=
  ((s.put (Reg.CNVFAULT_CHAN (v / 8)) (v % 8)).put (Reg.CNVFAULT_KIND (v / 8)) 0).raiseOnce 92

/-- A poison or faulty input is recorded without an event (R273). -/
def State.cnvPoisonIn (s : State) (v : Nat) : State :=
  (s.put (Reg.CNVFAULT_CHAN (v / 8)) (v % 8)).put (Reg.CNVFAULT_KIND (v / 8)) 1

/-- The conversion channels that bind ingress channel `q` in an ingress mode (R261). -/
def State.boundTo (s : State) (q : Nat) : List Nat :=
  (List.range 256).filter (fun v => cnvIngress (s.cnvMode (v / 8)) && s.get (Reg.CNVCH_BIND v) == q)

/-- A received sample of ingress channel `q` goes to the units that bind it (R261, R273). -/
def State.cnvFeed (s : State) (q : Nat) (x : Sinter) : State :=
  (s.boundTo q).foldl (fun t v =>
    if t.bit (Reg.CNVCTL_EN (v / 8)) then
      (fun t : State => if x.good then t else t.cnvPoisonIn v) (t.setChan v ((t.chan v).take x))
    else t) s

/-- A recentring that waits begins at frame `f`, unless a crossfade of responses or of read points is in progress (R269). -/
def State.cnvSlip (f : Nat) (s : State) (u : Nat) : State :=
  let c := s.unit u
  match c.slip with
  | none => s
  | some rp =>
    if s.cnvState u = cnvRun ∧ c.old = c.resp ∧ c.slipAt + 15 ≤ f then
      ((s.setUnit u { c with slip := none, rpOld := rp, slipAt := f + 1 }).putBit (Reg.CNVSTAT_SLIP u) true).raiseOnce 91
    else s

/-- The units of an enabled mode. -/
def State.cnvUnits (s : State) (modes : Nat → Bool) : List Nat :=
  (List.range 32).filter (fun u => s.bit (Reg.CNVCTL_EN u) && modes (s.cnvMode u))

/-- The units at a period boundary (R267, R271, R275). -/
def State.cnvBoundary (s : State) : State :=
  let s1 := (s.cnvUnits (fun m => m != 0)).foldl (fun t u => (t.cnvShow false u t.period).cnvLock u) s
  let s2 := (s1.cnvUnits cnvIngress).foldl (fun t u => t.cnvSwitch false u t.period) s1
  (s2.cnv.chans.map Prod.fst).foldl State.cnvDetect s2

/-- The egress units take the response of period `q` with its first frame (R271). -/
def State.cnvEgressPeriod (s : State) (q : Nat) : State :=
  (s.cnvUnits cnvEgress).foldl (fun t u => t.cnvSwitch false u q) s

end Sys2Proof.Machine
end

