-- ==== Sys2Proof/Machine/Ingress.lean ====
section
/-! DEFINITION. Stage S0: what the ingress channels deposit (R39, R118, R346, R374, R375), the distributor's deposits into
X memory and their deadline (R24, R28, R69, R73), and direct source slots (R38, R39). -/

namespace Sys2Proof.Machine

/-- Network receive channels at the current m (R346). -/
def State.nNet (s : State) : Nat := if s.mult = 4 then 512 else 1024

/-- An ingress channel that exists (R39). -/
def State.chanExists (s : State) (c : Nat) : Bool :=
  decide (c < 0x100) || (decide (0x400 ≤ c) && decide (c < 0x400 + s.nNet)) || (decide (0x800 ≤ c) && decide (c < 0xC00))

/-- The work frame (64 added) of a frame. -/
def workOfFrame (f : Nat) : Nat := f + 64

/-- What ingress channel `c` deposits for frame `f`: what its unit delivered; with nothing delivered a link channel gives
poison (R374) unless a unit that is disabled binds it (R262), every other silence (R300, R356). -/
def State.ingressAt (s : State) (c f : Nat) : Sinter :=
  match s.eng.ingress.look none (slotKey (workOfFrame f) c) with
  | some x => x
  | none => if 0x800 ≤ c ∧ (s.boundTo c).all (fun v => s.bit (Reg.CNVCTL_EN (v / 8))) then s.poison 6 else Sinter.zero

/-- A sample delivered for an ingress channel. -/
def State.ingressPut (s : State) (c f : Nat) (x : Sinter) : State :=
  { s with eng := { s.eng with ingress := s.eng.ingress.upd none (slotKey (workOfFrame f) c) (some x) } }

/-! ### Staged inputs -/

/-- The sample a staged input that names channel `c` takes: poison and E100 for a channel that does not exist (R34, R118),
silence and E127 for a received source channel (R380). -/
def State.stagedSample (s : State) (c f : Nat) : Sinter :=
  if !s.chanExists c then s.poison 0
  else if s.lnk.srcChan.contains c then Sinter.zero
  else s.ingressAt c f

def State.stagedEvents (s : State) (c : Nat) : State :=
  if !s.chanExists c then s.raiseOnce 100 1
  else if s.lnk.srcChan.contains c then s.raiseOnce 127
  else s

/-- A deposit of window `p` waits: its frame has come in, its input is enabled, and it has not been made. -/
def State.s0Waits (s : State) (p w : Nat) (srcs : Assoc Nat) (i j : Nat) : Bool :=
  srcs.look 0 i != 0 && decide (16 * p + j < s.frame) && !s.eng.deposited.look false (stagedKey p w i j)

/-- A deposit's turn has come (R69): none of an older frame, or of the same frame and a lower input, waits for the same
sub-bank of the X memory (R48: word address mod 8, which is j mod 8). -/
def State.s0Turn (s : State) (p w : Nat) (srcs : Assoc Nat) (i j : Nat) : Bool :=
  s.s0Waits p w srcs i j &&
    !(List.range (j + 1)).any (fun j' => j' % 8 == j % 8 &&
      (List.range 64).any (fun i' => (decide (j' < j) || decide (i' < i)) && s.s0Waits p w srcs i' j'))

/-- The distributor deposits frame `j` of staged input `i` of the present period into working cell `w`'s X memory, with
`left` CCLK cycles to the next stage edge (R24, R69, R73, R118). -/
def execS0Deposit (w : Fin 256) (i : Fin 64) (j : Fin 16) (left : BitVec 18) (s : State) :
    Host.Outcome State Fault Refusal :=
  let p := s.window
  let e := physOf w
  done (match (s.cell e).stagedSet p with
    | none => s
    | some a =>
      if s.islandStopped (islBank (cellCl e)) ∨ !s.s0Turn p w a.srcs i j then s
      else
        let c := a.srcs.look 0 i - 1
        let s1 := (s.stagedEvents c).setRam (xmemKey (cellCl e) (cellK e) (stagedWord a.baseSel p i j % 8192))
          (s.stagedSample c (16 * p + j))
        { s1 with eng := { s1.eng with
            deposited := s1.eng.deposited.upd false (stagedKey p w i j) true
            lastDep := s1.eng.lastDep.upd 0 (cellCl e) (left.toNat + 1) } })

/-- The enabled staged inputs of a cell for period `p`. -/
def State.stagedOf (s : State) (w p : Nat) : List Nat :=
  match (s.cell (physOf w)).stagedSet p with
  | none => []
  | some a => (a.srcs.filter (fun e => decide (e.2 ≠ 0))).map Prod.fst

/-- The deposits of period `p` that working cell `w` still lacks. -/
def State.missingS0 (s : State) (p w : Nat) : List Nat :=
  (s.stagedOf w p).flatMap (fun i => (List.range 16).filterMap (fun j =>
    if s.eng.deposited.look false (stagedKey p w i j) then none else some (stagedKey p w i j)))

/-- A deposit missing at the close: its X word holds poison for the task that reads it (R28). -/
def State.s0Poison (s : State) (key : Nat) : State :=
  let e := physOf (key / 1024 % 256)
  match (s.cell e).stagedSet (key / 262144) with
  | none => s
  | some a => s.setRam (xmemKey (cellCl e) (cellK e) (stagedWord a.baseSel (key / 262144) (key / 16 % 64) (key % 16) % 8192))
      (s.poison key)

/-- The close of S0 for period `p` in cluster `cl`, and the distributor's margin (R28, R73). -/
def State.s0CloseCl (p : Nat) (s : State) (cl : Nat) : State :=
  let ws := (List.range 8).map (fun k => 8 * cl + k)
  let missing := ws.flatMap (fun w => s.missingS0 p w)
  let due := ws.any (fun w => !(s.stagedOf w p).isEmpty)
  let margin := if !missing.isEmpty then 0 else if !due then 0xFFFF
    else Nat.min (s.eng.lastDep.look 0 cl - 1) 0xFFFF
  let s1 := { s with eng := { s.eng with
    lateS0 := missing.foldl (fun m k => m.upd false k true) s.eng.lateS0, lastDep := s.eng.lastDep.upd 0 cl 0 } }
  let s2 := if missing.isEmpty then s1 else ((missing.foldl State.s0Poison s1).putBit (Reg.DISTSTAT_S0_LATE cl) true).raise 164
  let s3 := s2.put (Reg.DISTSTAT_MARGIN cl) margin
  if due && decide (margin < s.get (Reg.DISTCFG_MARGIN_MIN cl)) then s3.raise 165 else s3

/-- At E(p + 1) the deposits of period p close (R28). -/
def State.s0Close (s : State) (p : Nat) : State :=
  let s1 := (List.range 32).foldl (State.s0CloseCl p) s
  { s1 with eng := { s1.eng with
      deposited := s1.eng.deposited.filter (fun e => decide (stagedKey p 0 0 0 ≤ e.1))
      lateS0 := s1.eng.lateS0.filter (fun e => decide (stagedKey p 0 0 0 ≤ e.1)) } }

/-! ### Direct source slots -/

/-- Two edges after its frame a direct source slot takes the sample of its channel; poison and E100, once per period,
where it names no channel that exists (R38, R39, R24). -/
def State.directSlots (s : State) (f : Nat) : State :=
  (List.range s.nSrc).foldl (fun t k =>
    if t.getAt (f / 16) (Reg.SRCW_KIND k) ≠ 1 then t
    else
      let c := t.getAt (f / 16) (Reg.SRCCH_CHAN k)
      let x := if t.chanExists c then t.ingressAt c f else t.poison (7 + k)
      let t1 := if t.chanExists c then t else t.raiseOnce 100 2
      { t1 with eng := { t1.eng with src := t1.eng.src.upd none (slotKey (workOfFrame f) k) (some x) } }) s

end Sys2Proof.Machine
end

