-- ==== Sys2Proof/Machine/Meter.lean ====
section
/-! DEFINITION. Tephra (R276 to R291): the taps of cells, the measurements of a period at its latch, records, loudness
groups, and snapshots. -/

namespace Sys2Proof.Machine

def State.point (s : State) (m : Nat) : Point := s.mtr.points.look Point.reset m
def State.setPoint (s : State) (m : Nat) (p : Point) : State :=
  { s with mtr := { s.mtr with points := s.mtr.points.upd Point.reset m p } }
def State.group (s : State) (g : Nat) : Group := s.mtr.groups.look Group.reset g
def State.setGroup (s : State) (g : Nat) (p : Group) : State :=
  { s with mtr := { s.mtr with groups := s.mtr.groups.upd Group.reset g p } }

/-- Fields of a source word (R292). -/
def srcKind (w : Nat) : Nat := if w.testBit 31 then w % 8 else 0
def srcIndex (w : Nat) : Nat := w / 2 ^ 3 % 2 ^ 14
def srcCell (w : Nat) : Nat := w / 2 ^ 17 % 256
def srcProf (w : Nat) : Nat := w / 2 ^ 25 % 16

/-- The source word that governs point `m` for period `q` (R276); a poison word leaves that of the period before (R643). -/
def State.srcWord (s : State) (m q : Nat) : Nat :=
  match ((List.range 8).map (fun i => s.valueAt (0x1B1000 + m) (16 * (q - i)))).find? (fun x => !x.isPoison) with
  | some x => x.data.toNat
  | none => (s.point m).src

/-- `mtap` (R124, R171, R277): refused unless the point's word names this working cell. -/
def execMtap (u : Exe) (pn : Fin 8) (am : BitVec 2) (gs : Fin 32) (s : State) : Host.Outcome State Fault Refusal :=
  done (s.slot u (fun s c =>
    match u with
    | .steward => s.trap u 2
    | .cell p => match s.eff p with
      | none => s
      | some e =>
        let a := (c.p pn).toNat
        let wf := s.workFrame ((s.cell e).isS3 s.window) (a % 16)
        let w := s.srcWord (a / 16) ((wf - 64) / 16)
        let s1 := s.setCore u (c.post pn (c.am2 pn am))
        if srcKind w = 1 ∧ srcCell w = workOf e then
          { s1 with mtr := { s1.mtr with taps := s1.mtr.taps.upd none (slotKey wf (a / 16)) (some (c.rdG gs)) } }
        else (s1.putBit Reg.MTRSTAT_REFUSED true).raiseOnce 94))

/-- A point whose source exists (R276, R279). -/
def State.srcThere (s : State) (w : Nat) : Bool :=
  srcKind w == 1 || (srcKind w == 2 && s.chanExists (srcIndex w)) || (srcKind w == 3 && decide (srcIndex w < s.nBus)) ||
    (srcKind w == 4 && decide (srcIndex w < s.nEgr))

/-- The sample of frame `f` at a point, if it enters the measurement (R276, R278). -/
def State.pointSample (s : State) (m w f : Nat) : Option (BitVec 32) :=
  let k := slotKey (workOfFrame f)
  let x : Option Sinter :=
    if srcKind w = 1 then s.mtr.taps.look none (k m)
    else if srcKind w = 2 then some (s.ingressAt (srcIndex w) f)
    else if srcKind w = 3 then
      (match s.eng.bus.look none (k (srcIndex w)) with
       | some y => some y
       | none => if s.cal.formed.contains (workOfFrame f) then some Sinter.zero else none)
    else match s.fum.handed.look none (slotKey f (srcIndex w)) with
      | some y => some y
      | none => some Sinter.zero
  match x with
  | some y => if y.good then some y.data else none
  | none => none

/-- What a frame adds to a point: true magnitude, square, envelope, clip run. `thr` is the clip threshold in units of
2^-51 and `run` the frames of a clip (R280 to R284). -/
def Point.frame (p : Point) (prof : Nat × Nat) (thr run : Nat) : Option (BitVec 32) → Point
  | none => { p with miss := Nat.min (p.miss + 1) 65535, run := 0 }
  | some x =>
    let above := decide (thr ≤ absQ x * 2 ^ 20)
    let r := if above then p.run + 1 else 0
    { p with
      peak := Nat.max p.peak (absQ x)
      env := envStep p.env (absQ x) prof.1 prof.2
      run := r
      clips := if r = run then p.clips + 1 else p.clips }

/-- The sum of the squares of a list of samples. -/
def sumSq (xs : List (BitVec 32)) : Nat := xs.foldl (fun a x => a + absQ x ^ 2) 0

/-- A level code as a record field. -/
def codeField (c : Int) : Nat := (c % 2 ^ 24).toNat

/-- A profile differs from that of the period before (R286). -/
def State.profChanged (s : State) (k q : Nat) : Bool :=
  let ds := [Reg.MTRPROF_RMS_WIN k, Reg.MTRPROF_ATT_K k, Reg.MTRPROF_REL_K k, Reg.MTRPROF_HOLD_P k, Reg.MTRPROF_DECAY k,
    Reg.MTRPROF_CLIP_THR k, Reg.MTRPROF_CLIP_RUN k, Reg.MTRPROF_TP_EN k]
  ds.any (fun f => s.getAt q f != s.getAt (q - 1) f)

/-- The magnitudes of a point's samples in the present period. -/
def maxAbs (xs : List (BitVec 32)) : Nat := xs.foldl (fun a x => Nat.max a (absQ x)) 0

/-- HOLD after a period of sample peak `cur`, which is a new PEAK or not (R283): it takes a new PEAK that exceeds it, and after a
restart the first; else it stands for HOLD_P periods and then falls by DECAY, never below the period's sample peak nor below
the lowest code (R275). -/
def holdAfter (hold : Int) (age holdP decay : Nat) (new : Bool) (cur : Int) : Int × Nat :=
  if hold < cur ∧ (new ∨ hold = codeMuted) then (cur, 0)
  else if age + 1 ≤ holdP then (hold, age + 1)
  else (if hold = codeMuted then cur else max cur (max codeMin (hold - decay)), age + 1)

/-- +24 dB in units of 2^-31, above which TPEAK does not read (R280). -/
def tpeakMax : Nat := 34035322146

/-- The measurement of point `m` over period `q` (R278 to R284, R286, R287), and its record (R289). -/
def State.measure (s : State) (q m : Nat) : State :=
  let w := s.srcWord m q
  let word1 := s.getAt q (Reg.MTRPT_GROUP m) + 64 * s.getAt q (Reg.MTRPT_GEN m) + 128 * s.getAt q (Reg.MTRPT_WEIGHT m)
  let p0 := s.point m
  if w = 0 ∧ p0.record = [] ∧ word1 = p0.word1 then s else
  let retarget := decide (w ≠ p0.src) || decide (word1 ≠ p0.word1)
  let k := srcProf w
  let there := s.srcThere w
  let xs := (List.range 16).map (fun j => s.pointSample m w (16 * q + j))
  let data := xs.filterMap id
  let p1 : Point := if retarget then
      { p0 with src := w, word1 := word1, sums := [], elapsed := 0, env := 0, hold := codeMuted, holdAge := 0, clips := 0,
                run := 0, tail := [], kst := 0 }
    else if s.profChanged k q then { p0 with sums := [], elapsed := 0 } else p0
  let clipRun := Nat.max 1 (s.getAt q (Reg.MTRPROF_CLIP_RUN k))
  let thr := gainScaled (limitCode (BitVec.ofNat 24 (s.getAt q (Reg.MTRPROF_CLIP_THR k))).toInt)
  let p2 := if there then
      xs.foldl (fun p x => p.frame (s.getAt q (Reg.MTRPROF_ATT_K k), s.getAt q (Reg.MTRPROF_REL_K k)) thr clipRun x) p1
    else p1
  let win := Nat.max 1 (s.getAt q (Reg.MTRPROF_RMS_WIN k))
  let sums := if there then ((sumSq data, data.length) :: p1.sums).take win else p1.sums
  let tot := sums.foldl (fun a e => a + e.1) 0
  let cnt := sums.foldl (fun a e => a + e.2) 0
  let rms := if cnt = 0 then codeMuted else levelCode tot (cnt * 2 ^ 62) 2
  let env := if retarget && there && decide (data.length ≠ 0) then
      (Nat.sqrt (sumSq data * 2 ^ 62 / data.length) : Int) else p2.env
  let tpIn := data.reverse ++ p1.tail
  let tp := if s.getAt q (Reg.MTRPROF_TP_EN k) = 0 then 0
    else if s.mult = 4 then maxAbs data
    else if maxAbs tpIn = 0 then 0
    else Nat.min tpeakMax (Config.truePeak (if s.mult = 1 then 20 else 21) tpIn)
  let tpeak := if data.isEmpty then p2.tpeak else Nat.max p2.tpeak tp
  let peakCode := levelCode p2.peak (2 ^ 31) 1
  let h := holdAfter p1.hold p1.holdAge (s.getAt q (Reg.MTRPROF_HOLD_P k)) (s.getAt q (Reg.MTRPROF_DECAY k))
    (decide (p1.peak < maxAbs data)) (levelCode (maxAbs data) (2 ^ 31) 1)
  let kin := data.foldl (fun (a : Nat × Nat) x =>
    (Config.iirNext s.kResp a.1 x, a.2 + (Config.kOut s.kResp a.1 x).natAbs ^ 2)) (p1.kst, 0)
  let elapsed := if there then p1.elapsed + 1 else p1.elapsed
  let flags := (if there && decide (elapsed < win) then 1 else 0) + (if p2.miss ≠ 0 then 2 else 0) + (if there then 0 else 4)
  let record := if there then
      [codeField peakCode, codeField (if s.getAt q (Reg.MTRPROF_TP_EN k) = 0 then codeMuted else levelCode tpeak (2 ^ 31) 1),
       codeField rms, codeField (levelCode env.toNat (2 ^ 62) 1), codeField h.1, Nat.min p2.clips 65535 + 65536 * p2.miss, flags,
       (16 * q + 15) % 2 ^ 32]
    else [0x800000, 0x800000, 0x800000, 0x800000, 0x800000, Nat.min p2.clips 65535 + 65536 * p2.miss, flags,
     (16 * q + 15) % 2 ^ 32]
  let p3 : Point := { p2 with
    src := w
    word1 := word1
    sums := sums
    elapsed := elapsed
    env := env
    tpeak := tpeak
    hold := h.1
    holdAge := h.2
    tail := (data.reverse ++ p1.tail).take 12
    kst := kin.1
    z := (kin.2, data.length)
    record := record }
  let s1 := s.setPoint m p3
  if p1.clips < p2.clips then (s1.putBit Reg.MTRSTAT_CLIP true).raiseOnce 93 else s1

/-- The points of a group that count in its sum in period `q`, and all its members (R285). -/
def State.members (s : State) (q g : Nat) : List Nat :=
  (List.range 4096).filter (fun m => s.getAt q (Reg.MTRPT_GEN m) == 1 && s.getAt q (Reg.MTRPT_GROUP m) == g)

/-- The momentary and short-term windows in periods (R285). -/
def State.loudWindows (s : State) : Nat × Nat :=
  if s.fam441 then
    (if s.mult = 1 then (1102, 8269) else if s.mult = 2 then (2205, 16538) else (4410, 33075))
  else (1200 * s.mult, 9000 * s.mult)

/-- The exponent of the comparison below. -/
def loudExp : Nat := 10240000

/-- Loudness in 1/4,096 LU of a mean square `num / den` of full scale (R285): -0.691 + 10 log10, rounded; 125 times
4,096 * 0.691 is 353,792. -/
def loudCode (num den : Nat) : Int :=
  if num = 0 then codeMuted
  else (searchUp (fun k =>
    let a : Int := 250 * ((k : Int) - 2 ^ 22) - 125 + 707584
    if 0 ≤ a then decide (10 ^ a.toNat * den ^ loudExp ≤ num ^ loudExp)
    else decide (den ^ loudExp ≤ num ^ loudExp * 10 ^ (-a).toNat)) 23 0 : Nat) - 2 ^ 22

/-- The sum of G z over the members of a group, in hundredths, as a fraction (R285): z is the mean square over the frames of the
window that entered (R278); a member of a reserved weight is left out. -/
def loudSum (sums : List (List (Nat × Nat))) (weights : List Nat) : Nat × Nat :=
  ((List.range weights.length).zip weights).foldl (fun (a : Nat × Nat) (e : Nat × Nat) =>
    let sq := sums.foldl (fun n z => n + (z.getD e.1 (0, 0)).1) 0
    let k := sums.foldl (fun n z => n + (z.getD e.1 (0, 0)).2) 0
    if k = 0 ∨ 2 ≤ e.2 then a else (a.1 * k + (if e.2 = 1 then 141 else 100) * sq * a.2, a.2 * k)) (0, 1)

/-- The latch of group `g` for period `q` (R285 to R289).  `before` are the points as they stood before the latch. -/
def State.loudness (before : State) (q : Nat) (s : State) (g : Nat) : State :=
  let ms := s.members q g
  let gr := s.group g
  if ms.isEmpty ∧ gr = Group.reset then s else
  let changed := ms != before.members (q - 1) g ||
    ms.any (fun m => decide ((before.point m).src ≠ (s.point m).src) || decide ((before.point m).word1 ≠ (s.point m).word1))
  let win := s.loudWindows
  let old := if changed then [] else gr.sums
  let sums := (ms.map (fun m => (s.point m).z) :: old).take win.2
  let elapsed := (if changed then 0 else gr.elapsed) + 1
  let mean (n : Nat) : Int :=
    let r := loudSum (sums.take n) (ms.map (fun m => s.getAt q (Reg.MTRPT_WEIGHT m)))
    loudCode r.1 (100 * r.2 * 2 ^ 62)
  let flags := (if elapsed < win.1 then 1 else 0) + (if elapsed < win.2 then 2 else 0) + (if ms.isEmpty then 4 else 0)
  s.setGroup g { sums := sums, elapsed := elapsed,
                 record := [codeField (mean win.1), codeField (mean win.2), flags, (16 * q + 15) % 2 ^ 32] }

/-- The latched record of a point (R288, R289); one that nothing has named since reset has no source. -/
def State.pointRecord (s : State) (m : Nat) : List Nat :=
  if (s.point m).record ≠ [] ∨ s.mtr.latched = 0 then (s.point m).record
  else [0x800000, 0x800000, 0x800000, 0x800000, 0x800000, 0, 4, (16 * s.mtr.latched - 1) % 2 ^ 32]

/-- The latched record of a group (R288, R289); one that has had no member since reset is EMPTY. -/
def State.groupRecord (s : State) (g : Nat) : List Nat :=
  if (s.group g).record ≠ [] ∨ s.mtr.latched = 0 then (s.group g).record
  else [0x800000, 0x800000, (if s.mtr.latched < s.loudWindows.1 then 1 else 0) +
    (if s.mtr.latched < s.loudWindows.2 then 2 else 0) + 4, (16 * s.mtr.latched - 1) % 2 ^ 32]

/-- The words of a snapshot: every point record, then every group record (R290). -/
def State.snapWords (s : State) : List Nat :=
  (List.range 4096).flatMap s.pointRecord ++ (List.range 64).flatMap s.groupRecord

/-- What the snapshot of period `q` writes, and where: to the host or to DRAM (R290). -/
def State.snapWrite (s : State) (a : Nat) (dram : Bool) : State :=
  let ws := s.snapWords
  let s1 := if dram then
      State.dramStore ws.length a (ws.map (fun x => Sinter.ofData (BitVec.ofNat 32 x))) s
    else { s with mtr := { s.mtr with snap := some (a, ws) } }
  let s2 : State := { s1.put Reg.MTRSTAT_SEQ (s.get Reg.MTRSTAT_SEQ + 1) with mtr := { s1.mtr with
    snapTo := s.frame + Config.snapFrames s.free } }
  if s.bit Reg.MTRSNAP_EVT then s2.raiseOnce 95 else s2

/-- A snapshot is skipped: its predecessor is still being written, or it receives an error response (R291). -/
def State.snapSkip (s : State) : State := (s.putBit Reg.MTRSTAT_SNAP_SKIP true).raiseOnce 95

/-- The slot address of the next snapshot (R290). -/
def State.snapSlot (s : State) : Nat :=
  let nbuf := if s.get Reg.MTRSNAP_NBUF = 0 then 256 else s.get Reg.MTRSNAP_NBUF
  s.get Reg.MTRDST_LO_ADDR / 256 * 256 +
    2 ^ 32 * (s.get Reg.MTRDST_HI_ADDR_HI % (if s.bit Reg.MTRSNAP_TARGET then 256 else 2 ^ 32)) +
    s.get Reg.MTRSTAT_SEQ % nbuf * 0x20400

/-- The snapshot of period `q`, if one is due (R290, R291); peaks and misses are those since the boundary (R280, R289). -/
def State.snapshot (s : State) (q : Nat) : State :=
  let n := s.get Reg.MTRSNAP_PERIODS
  if n = 0 ∨ (q + 1) % n ≠ 0 then s else
  let a := s.snapSlot
  let s1 := if s.frame < s.mtr.snapTo then s.snapSkip
    else if s.bit Reg.MTRSNAP_TARGET then
      (if a < 0x100000000 then s.snapSkip
       else match s.dramRefuses (a + 0x203FC) with
         | some t => t.snapSkip
         | none => s.snapWrite a true)
    else if s.bit Reg.HSTSTAT_LINK_UP && s.bit Reg.HSTSTAT_BME then s.snapWrite a false
    else s.snapSkip
  { s1 with mtr := { s1.mtr with points := s1.mtr.points.map (fun e =>
      (e.1, { e.2 with peak := 0, tpeak := 0, miss := 0 })) } }

/-- At E(q + 6) every record of period `q` is latched (R288). -/
def State.meterLatch (s : State) (q : Nat) : State :=
  let s1 := (List.range 4096).foldl (State.measure · q) s
  let s2 := (List.range 64).foldl (State.loudness s q) s1
  { s2 with mtr := { s2.mtr with latched := q + 1 } }.snapshot q

/-- MTRCLR (R283, R284). -/
def State.mtrHold (s : State) (m : Nat) : State :=
  let p := s.point m
  s.setPoint m { p with hold := levelCode p.peak (2 ^ 31) 1, holdAge := 0 }

def State.mtrClips (s : State) (m : Nat) : State := s.setPoint m { s.point m with clips := 0 }

def execMtrclrHold (m : BitVec 12) (all : Bool) (s : State) : Host.Outcome State Fault Refusal :=
  done (if all then (s.mtr.points.map Prod.fst).foldl State.mtrHold s else s.mtrHold m.toNat)

def execMtrclrClips (m : BitVec 12) (all : Bool) (s : State) : Host.Outcome State Fault Refusal :=
  done (if all then (s.mtr.points.map Prod.fst).foldl State.mtrClips s else s.mtrClips m.toNat)

end Sys2Proof.Machine
end

