-- ==== Sys2Proof/Machine/Ports.lean ====
section
/-! DEFINITION. The audio ports' inputs and control (R293 to R308, R313 to R318), and the commands of the Vent's takeover
(R323 to R328).  What the ports drive is in Outputs.lean. -/

namespace Sys2Proof.Machine

/-! ### Enabling, arming and starting -/

/-- PORTSTATn.STATE codes. -/
def portOff : Nat := 0
def portReady : Nat := 1
def portRun : Nat := 2
def portCfgBad : Nat := 3

def State.portState (s : State) (n : Nat) : Nat := s.get (Reg.PORTSTAT_STATE n)
def State.portMode (s : State) (n : Nat) : Nat := s.get (Reg.PORTCFG_MODE n)
def State.portRatek (s : State) (n : Nat) : Nat := s.get (Reg.PORTCFG_RATEK n)

/-- A master-grid port whose rate the engine cannot form (R298). -/
def State.portBadRate (s : State) (n : Nat) : Bool :=
  s.portMode n == 1 && (s.portRatek n == 3 || decide (8 < s.mult * 2 ^ s.portRatek n))

/-- STATE of an enabled port that does not run (R298, R303). -/
def State.portIdle (s : State) (n : Nat) : Nat :=
  if s.portMode n = 0 then portOff else if s.portBadRate n then portCfgBad
  else if s.bit (Reg.PORTCTL_ARM n) then portReady else portOff

/-- The clocks of port `n` run: a master-free port starts them at once, a grid port at a frame edge (R302). -/
def State.portClock (s : State) (n : Nat) : State :=
  if s.bit (Reg.PORTCTL_EN n) && (s.portMode n == 2 || (s.portMode n == 1 && !s.portBadRate n)) && !s.ports.clocks.contains n then
    { s with ports := { s.ports with clocks := n :: s.ports.clocks } }
  else s

/-- A write to PORTCTLn (R302, R303): EN starts the clocks, ARM makes an enabled port READY; EN = 0 stops the port at its next port
frame edge, from which it may start again. -/
def State.portCtlWrite (s : State) (n : Nat) (en arm : Bool) : State :=
  let s1 := (s.putBit (Reg.PORTCTL_EN n) en).putBit (Reg.PORTCTL_ARM n) arm
  let s2 :=
    if s.ports.stopping.contains n then s1
    else if en then
      (fun t : State => if t.portMode n = 2 then t.portClock n else t)
        (if !arm && s.portState n == portRun then s1 else s1.put (Reg.PORTSTAT_STATE n) (s1.portIdle n))
    else if s.bit (Reg.PORTCTL_EN n) then { s1 with ports := { s1.ports with stopping := n :: s1.ports.stopping } }
    else s1
  s2.vntInertAll

/-- Port `n` stops at its port frame edge, and starts again where EN is 1 by then (R302). -/
def State.portStopAt (s : State) (n : Nat) : State :=
  let s1 := { s with ports := { s.ports with
    stopping := s.ports.stopping.filter (fun k => k != n)
    clocks := s.ports.clocks.filter (fun k => k != n)
    framed := s.ports.framed.filter (fun k => k != n) } }
  let s2 := s1.put (Reg.PORTSTAT_STATE n) (if s1.bit (Reg.PORTCTL_EN n) then s1.portIdle n else portOff)
  if s2.portMode n = 2 then s2.portClock n else s2

/-- The frame edge is the port frame edge of a grid port; a foreign port whose clock stands still has no other (R302). -/
def State.portStop (s : State) : State :=
  (s.ports.stopping.filter (fun n => decide (s.portMode n < 2) || s.bit (Reg.PORTSTAT_CLK_STOPPED n))).foldl State.portStopAt s

/-- The value in APSTART_T. -/
def State.apT (s : State) : Nat := s.get Reg.APSTART_T_LO_T + 2 ^ 32 * s.get Reg.APSTART_T_HI_T_HI

/-- The start frame as it was set (R304). -/
def State.apTs (s : State) : Nat := s.ports.ts

/-- Ts is set (R304, R305): one too near moves to the first boundary at least 2 frames ahead. -/
def State.setTs (s : State) (ts : Nat) : State :=
  let late := decide (ts < s.frame + 2)
  let t := if late then 16 * ((s.frame + 2 + 15) / 16) else ts
  let s1 := (({ s with ports := { s.ports with ts := t } }.put Reg.APSTART_T_LO_T t).put Reg.APSTART_T_HI_T_HI
    (t / 2 ^ 32)).putBit Reg.APSTARTSTAT_PENDING true
  if late then (s1.putBit Reg.APSTARTSTAT_LATE true).raise 65 else s1

/-- The chip takes part in a shared start without being the one that sets it (R306). -/
def State.apFollower (s : State) : Bool := s.bit Reg.APSTARTCTL_CASC && !s.isMaster

/-- Ts set here, and sent over the links when the start is shared (R306). -/
def State.setTsHere (s : State) (ts : Nat) : State :=
  let s1 := s.setTs ts
  if s.bit Reg.APSTARTCTL_CASC then s1.sendCtl (.start s1.apTs) else s1

def execPortEnable (n : Fin 16) (arm : Bool) (s : State) : Host.Outcome State Fault Refusal :=
  done (s.portCtlWrite n true arm)

def execPortDisable (n : Fin 16) (arm : Bool) (s : State) : Host.Outcome State Fault Refusal :=
  done (s.portCtlWrite n false arm)

def execPortArm (n : Fin 16) (s : State) : Host.Outcome State Fault Refusal :=
  done (s.portCtlWrite n (s.bit (Reg.PORTCTL_EN n)) true)

def State.apGo (s : State) : State :=
  if s.bit Reg.APSTARTCTL_SRC || s.apFollower then s else s.setTsHere s.apT

def execApStartGo (s : State) : Host.Outcome State Fault Refusal := done s.apGo

def execSyncArm (s : State) : Host.Outcome State Fault Refusal := done (s.putBit Reg.APSTARTCTL_SYNC_ARM true)

/-- A rising edge of START_SYNC recognised in the present frame (R304, R306). -/
def execStartSyncEdge (s : State) : Host.Outcome State Fault Refusal :=
  done (if s.bit Reg.APSTARTCTL_SRC && s.bit Reg.APSTARTCTL_SYNC_ARM && !s.apFollower then
    (s.putBit Reg.APSTARTCTL_SYNC_ARM false).setTsHere (16 * (s.frame / 16) + 48)
    else s)

/-- Ts arrives from the master (R306). -/
def execApStartMessage (ts : BitVec 64) (s : State) : Host.Outcome State Fault Refusal :=
  done (if s.apFollower then s.setTs ts.toNat else s)

/-- The safety lock closes (R437). -/
def State.lockClose (s : State) : State := s.putBit Reg.FUMLOCK_CLOSED true

/-- The first port start, from which a pair counts (R382, R406); the preferred chip of a pair asserts ACT_OUT at its port
start while ACT_IN is low (R406). -/
def State.pairStart (s0 : State) : State :=
  let s := if s0.lnk.started = 0 then { s0 with lnk := { s0.lnk with started := s0.frame + 1 } } else s0
  if s.pairMode && decide (s.cascadeId = s.get Reg.PAIRCFG_PREFER) && !s.bit Reg.PAIRSTAT_PEER_ACT &&
      !s.bit Reg.FUMSTAT_MUTE_ALL then
    { s.putBit Reg.PAIRSTAT_ACTIVE true with lnk := { s.lnk with acted := true } }
  else s

/-- At Ts every READY port starts (R303). -/
def execApStart (s : State) : Host.Outcome State Fault Refusal :=
  done (if !s.bit Reg.APSTARTSTAT_PENDING || decide (s.frame < s.apTs) then s
    else
      let ready := (List.range 16).filter (fun n => s.portState n == portReady)
      let s1 := s.putBit Reg.APSTARTSTAT_PENDING false
      if ready.isEmpty then s1
      else ((ready.foldl (fun t n => (t.putBit (Reg.PORTCTL_ARM n) false).put (Reg.PORTSTAT_STATE n) portRun)
        s1).lockClose.pairStart).raise 64)

/-! ### Input frames -/

/-- The mask in force of a port (R307). -/
def State.maskOf (s : State) (n : Nat) : Nat := (s.ports.mask.look 0 n) ^^^ 0xFFFFFFFF

/-- A mask that waits takes effect at the port's frame edge (R307). -/
def State.maskEdge (s : State) (n : Nat) : State :=
  match s.ports.maskNext.look none n with
  | none => s
  | some v => { s with ports := { s.ports with
      mask := s.ports.mask.upd 0 n (v ^^^ 0xFFFFFFFF), maskNext := s.ports.maskNext.upd none n none } }

/-- A port frame edge of a port whose frames are not the engine's: a mask that waits takes effect (R307); on a grid port it governs
the words that the frame still has to drive. -/
def State.maskEdgeOwn (s : State) (n : Nat) : State :=
  let s1 := s.maskEdge n
  if s.portMode n ≠ 1 ∨ s.ports.maskNext.look none n = none then s1
  else (List.range 16).foldl (fun t i =>
    let q := 16 * n + i
    match t.ports.out.look none q with
    | none => t
    | some ws =>
      let k := t.ports.sub.look 0 n
      let rest := (t.ports.full.look [] q).drop k
      let drive := ws.take k ++ (if (t.maskOf n).testBit (16 + i) then rest else rest.map (fun _ => 0))
      { t with ports := { t.ports with out := t.ports.out.upd none q (some drive) } }) s1

/-- LANEMASKn is written (R307). -/
def State.lanemaskWrite (s : State) (n v : Nat) : State :=
  let s1 := (s.put (Reg.LANEMASK_IN n) v).put (Reg.LANEMASK_OUT n) (v / 65536)
  { s1 with ports := { s1.ports with maskNext := s1.ports.maskNext.upd none n (some (v % 2 ^ 32)) } }

def execLanemaskWrite (n : Fin 16) (v : BitVec 32) (s : State) : Host.Outcome State Fault Refusal :=
  done (s.lanemaskWrite n v.toNat)

/-- Bits 31:16 of a word are the preamble word Pa or Pb (R313). -/
def isPa (x : BitVec 32) : Bool := x.extractLsb' 16 16 == 0xF872
def isPb (x : BitVec 32) : Bool := x.extractLsb' 16 16 == 0x4E1F

/-- A lane is muted, or how far its fade-in has come, in port frame `pf` (R314, R315): 0 muted, 16 whole. -/
def State.laneWeight (s : State) (n l pf : Nat) : Nat :=
  let d := s.ports.lastDet.look 0 (8 * n + l)
  if d = 0 then 16
  else if pf < d + 4096 then 0
  else Nat.min 16 (pf - (d + 4096) + 1)

/-- A lane whose last frame was not examined: no detection spans it (R313). -/
def State.laneForget (s : State) (n l : Nat) : State :=
  { s with ports := { s.ports with prev1 := s.ports.prev1.upd 0 (8 * n + l) 0 } }

/-- The newest sample that the units binding ingress channel `q` took becomes silence (R314). -/
def State.cnvUnfeed (s : State) (q : Nat) : State :=
  (s.boundTo q).foldl (fun t v => t.setChan v { t.chan v with hist := (match (t.chan v).hist with
    | [] => []
    | _ :: h => Sinter.zero :: h) }) s

/-- The detection on one lane (R313, R314): in the second alignment the frame before is muted too, what it has brought included. -/
def State.codedLane (s : State) (n l pf : Nat) (w0 w1 : BitVec 32) : State :=
  if !(s.get (Reg.CODEDCFG_DET_EN n)).testBit l then s.laneForget n l else
  let back := isPa (BitVec.ofNat 32 (s.ports.prev1.look 0 (8 * n + l))) && isPb w0
  let det := (isPa w0 && isPb w1) || back
  let m := s.get (Reg.CODED_MUTED n)
  let s1 := { s with ports := { s.ports with prev1 := s.ports.prev1.upd 0 (8 * n + l) w1.toNat } }
  if !det then s1
  else
    let s2 := { s1 with ports := { s1.ports with lastDet := s1.ports.lastDet.upd 0 (8 * n + l) (pf + 1) } }
    let s3 := if m.testBit l then s2 else (s2.put (Reg.CODED_MUTED n) (m ||| 2 ^ l)).raise 69
    if !back then s3
    else [16 * n + 2 * l, 16 * n + 2 * l + 1].foldl (fun t q =>
      let u := t.cnvUnfeed q
      if s.portMode n == 1 && decide (pf % 2 ^ s.portRatek n = 0) then
        (fun v : State => { v with ports := { v.ports with ventIn := v.ports.ventIn.upd none (slotKey (s.frame - 1) q) none } })
          (u.ingressPut q (s.frame - 1) Sinter.zero)
      else u) s3

/-- The unit mode that suits an input of a port (R300). -/
def State.portCnvMode (s : State) (n : Nat) : Nat :=
  if s.portMode n = 1 then (if s.portRatek n = 0 then 6 else if s.portRatek n = 1 then 2 else 3) else 1

/-- The conversion channel `v` binds a port's input that gives it nothing: the port does not run, the unit's mode does not suit it,
or the channel is masked or its lane muted (R300, R303, R308, R314). -/
def State.portSilent (s : State) (v : Nat) : Bool :=
  let q := s.get (Reg.CNVCH_BIND v)
  let n := q / 16
  decide (q < 256) && (s.portState n != portRun || s.cnvMode (v / 8) != s.portCnvMode n || !(s.maskOf n).testBit (q % 16) ||
    decide (s.laneWeight n (q % 16 / 2) (s.ports.count.look 0 n - 1) = 0))

/-- A port's MAP_BAD and E71 (R300, R310). -/
def State.mapBad (s : State) (n : Nat) : State := (s.putBit (Reg.PORTSTAT_MAP_BAD n) true).raiseOnce 71

/-- A word of input channel `q` after mute and mask goes to S0, to conversion or to silence, and to the Vent (R300, R303,
R321). -/
def State.portDeliver (s : State) (n q : Nat) (x : Sinter) : State :=
  let bound := s.boundTo q
  let grid := s.portMode n == 1 && s.portRatek n == 0
  let run := s.portState n == portRun
  let y := if run then x else Sinter.zero
  let s1 := if grid && run then
      { s with ports := { s.ports with ventIn := s.ports.ventIn.upd none (slotKey s.frame q) (some x) } } else s
  let s2 := if bound.any (fun v => s.cnvMode (v / 8) != s.portCnvMode n) then s1.mapBad n else s1
  if bound.isEmpty then (if grid then s2.ingressPut q s.frame y else s2) else s2.cnvFeed q y

/-- The level of WS from the port frame edge on, during channel 0 (R295). -/
def State.wsFirst (s : State) (n : Nat) : Bool := s.get (Reg.PORTCFG_FMT n) == 1

/-- The 32 bits of the slot of channel `c` (R295): MSB first, from the first or the second BCLK of the slot. -/
def State.slotWord (s : State) (n c : Nat) (lane : BitVec 65) : BitVec 32 :=
  lane.extractLsb' (32 * (1 - c) + s.get (Reg.PORTCFG_FMT n)) 32

/-- A received word as a Sinter word (R296, R297). -/
def State.portWord (s : State) (n : Nat) (w : BitVec 32) : Sinter :=
  Sinter.ofData (if s.get (Reg.PORTCFG_WL n) = 0 then w &&& 0xFFFFFF00 else w)

/-- The ASRC units that bind an input of port `n`. -/
def State.portUnits (s : State) (n : Nat) : List Nat :=
  ((List.range 256).filter (fun v => s.get (Reg.CNVCH_BIND v) / 16 == n && s.cnvMode (v / 8) == 1)).map (· / 8)
    |>.eraseDups

/-- A glitch of a foreign clock (R317). -/
def State.portGlitch (s : State) (n bits : Nat) : State :=
  (s.portUnits n).foldl (fun t u => t.cnvBreak u 1)
    (((s.putBit (Reg.PORTSTAT_GLITCH n) true).put (Reg.PORTSTAT_BCLK_CNT n) (Nat.min bits 127)).raiseOnce 67)

/-- What input channel `i` of port `n` brings in port frame `pf` (R296, R297, R308, R314, R315, R317): silence where it is masked or its
lane is muted, poison in a glitch frame. -/
def State.portSample (s : State) (n i pf : Nat) (bad : Bool) (w : BitVec 32) : Sinter :=
  let wt := s.laneWeight n (i / 2) pf
  if !(s.maskOf n).testBit i ∨ wt = 0 then Sinter.zero
  else if bad then s.poison i
  else if wt < 16 then scaleSample (s.portWord n w) wt 16 else s.portWord n w

/-- A port frame received by port `n` during the present frame (R295 to R300, R308, R313 to R317): lane `l` gives `lanes` at `l`.  It ends
at a port frame edge, where a mask that waits takes effect (R307) and the port may stop (R302). -/
def State.portFrame (s : State) (n : Nat) (lanes : List (BitVec 65)) (bits : Nat) (mistimed : Bool) : State :=
  let pf := s.ports.count.look 0 n
  let foreign := s.portMode n != 1
  let own := foreign || s.portRatek n != 0
  let bad := foreign && (mistimed || bits != 64)
  let s0 := if own && !s.ports.framed.contains n then s.maskEdge n else s
  let s1 := { s0 with ports := { s0.ports with
    count := s0.ports.count.upd 0 n (pf + 1), sub := s0.ports.sub.upd 0 n (s0.ports.sub.look 0 n + 1) } }.putBit (Reg.PORTSTAT_CLK_STOPPED n) false
  let word (i : Nat) : BitVec 32 := s.slotWord n (i % 2) (lanes.getD (i / 2) 0)
  let s2 := (List.range 8).foldl (fun t l => t.codedLane n l pf (word (2 * l)) (word (2 * l + 1)))
    (if bad then s1.portGlitch n bits else s1)
  let s3 := (List.range 16).foldl (fun t i => t.portDeliver n (16 * n + i) (t.portSample n i pf bad (word i))) s2
  if !own then s3
  else
    let s4 := ({ s3 with ports := { s3.ports with framed := n :: s3.ports.framed.filter (fun k => k != n) } }).maskEdgeOwn n
    if s4.ports.stopping.contains n then s4.portStopAt n else s4

/-- A slave port's balls are exchanged and not put right, so that its inputs are unusable (R318). -/
def State.portUnusable (s : State) (n : Nat) : Bool := s.bit (Reg.PORTSTAT_SWAPPED n) && !s.bit (Reg.PORTCFG_SWAP_FIX n)

def execPortInputFrame (n : Fin 16) (wave : PortWave) (bits : BitVec 8) (mistimed : Bool) (s : State) :
    Host.Outcome State Fault Refusal :=
  done (if s.islandStopped islPorts || !(s.bit (Reg.PORTCTL_EN n) || s.ports.stopping.contains n.val) || s.portMode n == 0 ||
      s.portState n == portCfgBad || s.portUnusable n || wave.ws != s.wsFirst n then s
    else s.portFrame n wave.lanes bits.toNat mistimed)

/-- A muted lane is released once 4,096 port frames have passed without a detection (R315). -/
def execApCodedReleased (n : Fin 16) (l : Fin 8) (s : State) : Host.Outcome State Fault Refusal :=
  done (if (s.get (Reg.CODED_MUTED n)).testBit l &&
      decide (s.ports.lastDet.look 0 (8 * n + l) + 4096 ≤ s.ports.count.look 0 n) then
    (s.put (Reg.CODED_MUTED n) (s.get (Reg.CODED_MUTED n) ^^^ 2 ^ l.val)).raise 70
    else s)

/-- A foreign clock is declared stopped (R268, R316). -/
def execApClkStopped (n : Fin 16) (s : State) : Host.Outcome State Fault Refusal :=
  done (if s.bit (Reg.PORTCTL_EN n) && decide (2 ≤ s.portMode n) then
    (s.portUnits n).foldl (fun t u => t.cnvBreak u 0) ((s.putBit (Reg.PORTSTAT_CLK_STOPPED n) true).raise 66)
    else s)

/-- The edge counts of a slave port's BCLK and WS balls over 65,536 PCLK cycles (R318): SWAPPED says what they show. -/
def execApClkSwapCheck (n : Fin 16) (bclk ws : BitVec 32) (s : State) : Host.Outcome State Fault Refusal :=
  let swapped := decide (bclk.toNat < ws.toNat)
  let s1 := s.putBit (Reg.PORTSTAT_SWAPPED n) swapped
  done (if s.portMode n = 3 ∧ s.bit (Reg.PORTCTL_EN n) then
    (if swapped && !s.bit (Reg.PORTSTAT_SWAPPED n) then s1.raise 68 else s1)
    else s)

/-! ### The Vent's commands -/

/-- The ramps of a route have run their frames (R323). -/
def execVntRampEnd (v : Fin 64) (s : State) : Host.Outcome State Fault Refusal :=
  done (if (s.routeAt v s.frame).conns.all (fun c => decide (c.first + 127 ≤ s.frame) || decide (c.c0 = c.c1)) then
    s.putBit (Reg.VNTRT_RAMPING v) false else s)

/-- EMERG_N is recognised low (R324). -/
def execEmergNLow (s : State) : Host.Outcome State Fault Refusal :=
  let s1 := s.putBit Reg.VNTSTAT_EMERG_PIN true
  done (if s.bit Reg.VNTCFG_EMERG_EN then s1.vntCause Reg.VNTSTAT_CAUSE_EMERG else s1)

/-- EMERG_N is recognised high, for `periods` whole periods; at a boundary its cause clears after HOLD of them (R327). -/
def execEmergCauseClear (periods : BitVec 17) (s : State) : Host.Outcome State Fault Refusal :=
  let s1 := s.putBit Reg.VNTSTAT_EMERG_PIN false
  done (if s.frame % 16 = 0 ∧ Nat.max 1 (s.get Reg.VNTCFG_HOLD) ≤ periods.toNat ∧ s.bit Reg.VNTSTAT_CAUSE_EMERG then
    s1.vntClear Reg.VNTSTAT_CAUSE_EMERG else s1)

/-- A write to VNTCTL.FORCE (R324, R327, R438). -/
def State.vntForceWrite (s : State) (on : Bool) : State :=
  if s.locked then s.fumLockWrite 0x80090004
  else
    let s1 := s.putBit Reg.VNTCTL_FORCE on
    if on then s1.vntCause Reg.VNTSTAT_CAUSE_FORCE
    else if s.bit Reg.VNTSTAT_CAUSE_FORCE then s1.vntClear Reg.VNTSTAT_CAUSE_FORCE else s1

def execVntForce (on : Bool) (s : State) : Host.Outcome State Fault Refusal := done (s.vntForceWrite on)

/-- The 128-frame return has run (R327). -/
def execVntReturnEnd (s : State) : Host.Outcome State Fault Refusal :=
  done (if s.vent.ang = 0 then s.putBit Reg.VNTSTAT_RETURNING false else s)

end Sys2Proof.Machine
end

