-- ==== Sys2Proof/Machine/Fumarole.lean ====
section
/-! DEFINITION. Fumarole's judgement of the egress samples (R414 to R423), the whole-chip weight (R424, R425), and its
commands: slot mutes, SAFE_MUTE_N, the port watch, the lock, the record and the counters (R424 to R441).  Gains are held
in units of 2^-51 and weights as angles of their curves (assumption log 40). -/

namespace Sys2Proof.Machine

/-! ### Amplitudes and curves -/

/-- 1 in units of 2^-51. -/
def oneQ : Nat := 2251799813685248

/-- ⌊2^51 * 10^(a / k)⌋ for a result below 2^13. -/
def pow10Q (a : Int) (k : Nat) : Nat :=
  let n := a.natAbs / Nat.gcd a.natAbs k
  let e := k / Nat.gcd a.natAbs k
  if 0 ≤ a then searchUp (fun x => decide (x ^ e ≤ 2 ^ (51 * e) * 10 ^ n)) 64 0
  else searchUp (fun x => decide (x ^ e * 10 ^ n ≤ 2 ^ (51 * e))) 64 0

/-- sin(π k / (2 n)) in units of 2^-62, exactly 0 and 1 at the ends. -/
def quarterSin (k n : Nat) : Int := if k = 0 then 0 else if n ≤ k then 2 ^ 62 else sinQ (piQ * k / (2 * n))

/-- The weight of an angle held in units of π/288: cos (R423, R425). -/
def angleWeight (a : Nat) : Int := quarterSin (144 - a) 144

/-! ### One slot -/

def State.fumSlot (s : State) (o : Nat) : FumSlot := s.fum.slots.look FumSlot.reset o
def State.setFumSlot (s : State) (o : Nat) (x : FumSlot) : State :=
  { s with fum := { s.fum with slots := s.fum.slots.upd FumSlot.reset o x } }

/-- The egress sample of slot `o`, frame `h`, as it was sealed: an unlisted slot of a sealed period holds silence. -/
def State.sealedWord (s : State) (o h : Nat) : Sinter :=
  match s.eng.sealed.look none (slotKey h o) with
  | some x => x
  | none => Sinter.zero

/-- The sample Fumarole may use (R414): sealed, not poison, and whole. -/
def State.fumSample (s : State) (o h : Nat) : Option (BitVec 32) :=
  if s.fum.seals.contains (h / 16) && (s.sealedWord o h).good then some (s.sealedWord o h).data else none

/-- MUTE_HOLD and FILL_MAX as applied. -/
def State.muteHold (s : State) : Nat := Nat.max 1 (s.get Reg.FUMCFG2_MUTE_HOLD)
def State.fillMax (s : State) : Nat := Nat.max 1 (s.get Reg.FUMCFG_FILL_MAX)

/-- The causes of slot mute, by their code in FUMSLOTST. -/
def muteCeil : Nat := 1
def muteDc : Nat := 2
def muteCoded : Nat := 3
def muteFill : Nat := 4
def muteDip : Nat := 5

def FumSlot.muted (c : FumSlot) (cause : Nat) : Bool := c.mutes.any (fun m => m.cause == cause)

/-- A cause of slot mute whose condition is met at frame `h` of the look-ahead (R423). -/
def FumSlot.mute (c : FumSlot) (cause h : Nat) : FumSlot :=
  if c.muted cause then { c with mutes := c.mutes.map (fun m => if m.cause = cause then { m with since := h } else m) }
  else { c with mutes := c.mutes ++ [⟨cause, h, h⟩] }

/-- A conversion channel in an egress mode binds slot `o` (R261, R416). -/
def State.egressBound (s : State) (o : Nat) : Bool :=
  (List.range 256).any (fun v => cnvEgress (s.cnvMode (v / 8)) && s.get (Reg.CNVCH_BIND v) == o)

/-- The ceiling of a guard word with `down` dB taken off, in units of 2^-51; none for the muted code (R416, R431). -/
def State.ceilingOf (s : State) (w : BitVec 32) (down : Nat) : Option Nat :=
  if codeOf w = codeMuted then none
  else some (pow10Q (min 0 (limitCode (codeOf w)) -
    4096 * (down + (if s.bit Reg.FUMSTAT_PRECAUT then s.get Reg.FUMCFG2_PRECAUT else 0))) 81920)

/-- The fields of a DC and slew guard word (R441). -/
def guardDc (w : BitVec 32) : Nat := w.toNat % 256
def guardStep (w : BitVec 32) : Nat := w.toNat / 256 % 256
def guardFloor (w : BitVec 32) : Nat := Nat.min 144 (w.toNat / 65536 % 256)

/-- The slew envelope before a frame: it starts at F (R417). -/
def envBefore (env : Int) (w : BitVec 32) : Int := if env = 0 then pow10Q (-(guardFloor w : Int)) 20 else env

/-- The slew envelope after a sample of amplitude `a` (R417); none is kept while SLEW_STEP is 0. -/
def envAfter (env : Int) (w : BitVec 32) (a : Nat) : Int :=
  if guardStep w = 0 then 0
  else
    let e := envBefore env w
    max (pow10Q (-(guardFloor w : Int)) 20) (max (min (a : Int) (e * pow10Q (guardStep w) 80 / oneQ))
      (e * pow10Q (-(guardStep w : Int)) 1280 / oneQ))

/-- The level the slew term allows (R417); none while SLEW_STEP is 0. -/
def slewLevel (env : Int) (w : BitVec 32) : Option Int :=
  if guardStep w = 0 then none else some (envBefore env w * pow10Q (guardStep w) 80 / oneQ)

/-- The DC filter after a sample, in units of 2^-62: time constant 2,048 m frames (R419, log 41). -/
def State.dcAfter (s : State) (dc : Int) (x : BitVec 32) : Int := dc + (x.toInt * 2 ^ 31 - dc) / (2048 * s.mult)

/-- The DC filter stands above the DC ceiling less `down` dB (R419); a DC field of 0 is no ceiling. -/
def dcAbove (dc : Int) (w : BitVec 32) (down : Nat) : Bool :=
  decide (guardDc w ≠ 0) && decide ((pow10Q (-(guardDc w + down : Int)) 20 * 2 ^ 11 : Nat) < dc.natAbs)

/-- The required gain of a frame, and whether the slew term set it (R418). -/
def reqGain (a : Nat) (ceff : Option Nat) (slew : Option Int) : Int × Bool :=
  match ceff with
  | none => (oneQ, false)
  | some c =>
    let lim : Int := match slew with | some l => min c l | none => c
    let bySlew := match slew with | some l => decide (l < c) | none => false
    if a = 0 ∨ (a : Int) ≤ lim then (oneQ, false) else (lim * oneQ / a, bySlew)

/-- The look-ahead check of slot `o` at frame `h` (R414, R416 to R419, R422, R435).  An unusable frame leaves the DC filter as it
is, and a filter held above the release level holds the DC mute (R419). -/
def State.fumLook (o : Nat) (s : State) (h : Nat) : State :=
  let c := s.fumSlot o
  let wc := s.guardAt o h
  let wd := s.guardAt (0x200 + o) h
  let ceff := s.ceilingOf wc (if s.egressBound o then wc.toNat / 2 ^ 24 % 8 else 0)
  let c1 := if ceff.isNone then c.mute muteCeil h else c
  match s.fumSample o h with
  | none =>
    let run := c.run + 1
    let c2 := { c1 with run := run, lastBad := h + 1 }
    let fills := decide (s.fillMax < run)
    let c3 := if fills || c2.muted muteFill then c2.mute muteFill h else c2
    let faulty := s.fum.seals.contains (h / 16) && (s.sealedWord o h).faulty
    let c4 := if faulty && s.bit Reg.FUMSTAT_PRECAUT || faulty && c3.muted muteDip then c3.mute muteDip h else c3
    let c5 := if c4.muted muteDc && dcAbove c4.dc wd 6 then c4.mute muteDc h else c4
    let s1 := s.setFumSlot o c5
    let s2 := if faulty then { s1 with fum := { s1.fum with residues := s1.fum.residues + 1 } }.fumEventOnce 195 o else s1
    if fills && !c.muted muteFill then s2.fumEventOnce 198 o else s2
  | some x =>
    let a := absQ x * 2 ^ 20
    let g := reqGain a ceff (slewLevel c.env wd)
    let dc := s.dcAfter c.dc x
    let c2 := { c1 with run := 0, env := envAfter c.env wd a, dc := dc }
    let hit := dcAbove dc wd 0
    let c3 := if hit || (c.muted muteDc && dcAbove dc wd 6) then c2.mute muteDc h else c2
    let s1 := s.setFumSlot o c3
    let s2 := if hit && !c.muted muteDc then s1.fumEventOnce 196 o else s1
    if g.1 = oneQ then s2 else { s2 with fum := { s2.fum with req := s2.fum.req.upd none (slotKey h o) (some g) } }

/-- Slot `o` is muted for a coded preamble from frame `h`, `d` being the last frame of the detection (R420). -/
def State.fumCodedMute (s : State) (o h d : Nat) : State :=
  let c := (s.fumSlot o).mute muteCoded h
  (s.setFumSlot o { c with mutes := c.mutes.map (fun m => if m.cause = muteCoded then { m with since := d } else m)
                    }).fumEventOnce 197 o

/-- The search for coded preambles that frame `h` completes on slot `o` (R420). -/
def State.fumCoded (o : Nat) (s : State) (h : Nat) : State :=
  if !(s.guardAt (0x200 + o) h).getLsbD 24 then s
  else
    let s1 := match s.fumSample o h, (if h = 0 then none else s.fumSample o (h - 1)) with
      | some x, some before => if isPb x && isPa before then s.fumCodedMute o (h - 1) h else s
      | _, _ => s
    if o % 2 = 1 then s1
    else match s.fumSample o h, s.fumSample (o + 1) h with
      | some x, some y => if isPa x && isPb y then (s1.fumCodedMute o h h).fumCodedMute (o + 1) h h else s1
      | _, _ => s1

/-- The look-ahead check of period `q` at E(q + 4) (R414). -/
def State.fumCheck (s : State) (q : Nat) : State :=
  let hs := (List.range 16).map (fun j => 16 * q + j)
  let s1 := if s.fum.seals.contains q then s else s.fumEventOnce 199 0
  let s2 := (List.range s.nEgr).foldl (fun t o => hs.foldl (State.fumLook o) t) s1
  (List.range s.nEgr).foldl (fun t o => hs.foldl (State.fumCoded o) t) s2

/-! ### The hand-off -/

/-- The distance, at most 9, from frame `f` to the nearest unusable frame of slot `o` within 8 frames; 0 when `f` itself
is unusable (R421). -/
def State.fillDist (s : State) (o f : Nat) : Nat :=
  match (List.range 9).find? (fun k => (s.fumSample o (f + k)).isNone ||
      (decide (k ≤ f) && (s.fumSample o (f - k)).isNone)) with
  | some k => k
  | none => 9

/-- An angle one handed frame on: down by 16 of 144, and at least `catch`, or back by 9 (R423, R425). -/
def nextAngle (ang : Nat) (down : Option Nat) : Nat :=
  match down with
  | some c => Nat.min 144 (Nat.max (ang + 16) c)
  | none => ang - 9

/-- How far the fill curve has come at handed frame `f` for what was seen at frame `h` (R421). -/
def fillCatch (h f : Nat) : Option Nat := if h ≤ f + 8 then some (16 * (f + 9 - h)) else none

/-- The furthest of the fill curves of a slot's causes (R423). -/
def FumSlot.down (c : FumSlot) (f : Nat) : Option Nat :=
  c.mutes.foldl (fun a m => match a, fillCatch m.seen f with
    | some x, some y => some (Nat.max x y)
    | none, y => y
    | x, none => x) none

/-- The limiter gain of handed frame `f`, and whether the slew term set it (R418). -/
def State.limiter (s : State) (o f : Nat) (c : FumSlot) : Int × Bool :=
  let terms := (List.range 9).map (fun k =>
    match s.fum.req.look none (slotKey (f + k) o) with
    | some g => (g.1 + (oneQ - g.1) * k / 9, g.2)
    | none => ((oneQ : Int), false))
  let rel : Int := if c.gain = oneQ then oneQ
    else c.gain * pow10Q (Nat.max 1 (s.get Reg.FUMCFG2_LIM_REL) : Nat) 81920 / oneQ
  let g := terms.foldl (fun a x => min a x.1) (min (oneQ : Int) rel)
  (g, decide (g < oneQ) && terms.any (fun x => x.2 && decide (x.1 = g)))

/-- The product of the sample with G, W, M and C, rounded toward zero (R415). -/
def handProduct (x g w m c : Int) : Int := Int.tdiv (x * g * w * m * c) (2 ^ 237)

/-- Slot `o` at the hand-off of frame `f` (R415, R418, R421, R423). -/
def State.fumHandSlot (f : Nat) (s : State) (o : Nat) : State :=
  let c0 := s.fumSlot o
  let c := { c0 with mutes := c0.mutes.filter (fun m => m.cause != muteCeil || decide (f ≤ m.since)) }
  let ang := nextAngle c.ang (c.down f)
  let g := s.limiter o f c
  let k := s.fillDist o f
  let x : Int := match s.fumSample o f with | some x => x.toInt | none => 0
  let y := handProduct x g.1 (quarterSin k 9) (angleWeight ang) (angleWeight s.fum.ang)
  let s1 := s.setFumSlot o
    { c with gain := g.1, ang := ang, limiting := decide (g.1 < oneQ), filling := decide (k < 9) }
  let s2 := if y = 0 then s1 else { s1 with fum := { s1.fum with
    handed := s1.fum.handed.upd none (slotKey f o) (some (Sinter.ofData (BitVec.ofInt 32 y))) } }
  let s3 := if g.1 < oneQ then
      (fun t : State => if g.2 then t.fumEventOnce 193 o else t) ((s2.bump Reg.FUMCNT_LIMITED).fumEventOnce 192 o)
    else s2
  if k < 9 then
    (fun t : State => if t.fum.badHealth.contains (f / 16) then t
      else { t with fum := { t.fum with badHealth := f / 16 :: t.fum.badHealth.take 15 } })
      ((s3.bump Reg.FUMCNT_FILLED).fumEventOnce 194 o)
  else s3

/-- The whole-chip weight at handed frame `f` (R424, R425): only STALL has a look-ahead entry. -/
def State.fumWeight (s : State) (f : Nat) : State :=
  let down := if !s.bit Reg.FUMSTAT_MUTE_ALL then none
    else if s.get Reg.FUMSTAT_CAUSE = 2 ^ fumStall then fillCatch s.fum.lookFrom f else some 0
  { s with fum := { s.fum with ang := nextAngle s.fum.ang down } }

/-- C is 0. -/
def State.mutedAll (s : State) : Bool := s.bit Reg.FUMSTAT_MUTE_ALL && decide (s.fum.ang = 144)

/-- At edge f + 73 Fumarole hands over frame `f` of every slot (R415). -/
def State.fumHand (s : State) (f : Nat) : State :=
  (List.range s.nEgr).foldl (State.fumHandSlot f) (s.fumWeight f)

/-- The sample of slot `o` that the egress map was handed for frame `f`. -/
def State.handedAt (s : State) (o f : Nat) : Sinter :=
  match s.fum.handed.look none (slotKey f o) with
  | some x => x
  | none => Sinter.zero

/-- The interval counter over one frame (R412): the fewest ticks a frame can hold, and a free number more. -/
def State.fumTick (s : State) : State :=
  let ns := 1000000000 / (s.baseRate * s.mult)
  s.put Reg.FUMTICK_TICKS (s.get Reg.FUMTICK_TICKS + ns / 1400 + Config.fumTicks s.free % (ns / 600 - ns / 1400 + 2))

/-! ### The commands -/

/-- The frame up to which the look-ahead has been checked. -/
def State.lookedTo (s : State) : Nat := 16 * (s.window - 4) + 15

/-- A cause of slot mute clears: CODED once 4,096 frames have passed without a detection (R420), CEIL with its word
(R416), the others after MUTE_HOLD periods (R419, R422, R435). -/
def State.slotMuteClear (s : State) (o cause : Nat) : State :=
  let c := s.fumSlot o
  s.setFumSlot o { c with mutes := c.mutes.filter (fun m => m.cause != cause ||
    !(if cause = muteCoded then decide (m.since + 4096 + 73 ≤ s.frame)
      else if cause = muteCeil then decide (m.since + 73 ≤ s.frame)
      else decide (m.since + 16 * s.muteHold ≤ s.lookedTo))) }

def execSlotMuteClear (o : Fin 512) (cause : Fin 8) (s : State) : Host.Outcome State Fault Refusal :=
  done (s.slotMuteClear o cause)

/-- Port clocks run: the frame divider does, and the port island takes part. -/
def State.portClocks (s : State) : Bool := s.dividerRuns && s.takesPart islPorts s.window

/-- SAFE_MUTE_N is recognised low (R424, R430): the port gate closes; while no port clock runs, the outputs are driven low. -/
def execSafeMuteNLow (s : State) : Host.Outcome State Fault Refusal :=
  let s1 := s.fumCause fumSafePin
  let s2 : State := { s1 with fum := { s1.fum with gate := Nat.max 1 s1.fum.gate } }
  done (if s2.portClocks then s2 else s2.portsLow)

/-- SAFE_MUTE_N has been high for `frames` frames; after 16 its cause clears and the gate opens (R424, R430). -/
def execSafePinClear (frames : BitVec 16) (s : State) : Host.Outcome State Fault Refusal :=
  done (if 16 ≤ frames.toNat ∧ s.fumHas fumSafePin then
    (fun t : State => { t with fum := { t.fum with gate := 0 } }) (s.fumClear fumSafePin)
  else s)

/-- A write to FUMCTL.MUTE_REQ (R424, R429): only the management port's takes effect. -/
def State.fumMuteReq (s : State) (on mgmt : Bool) : State :=
  if !mgmt then s
  else
    let s1 := s.putBit Reg.FUMCTL_MUTE_REQ on
    if on then s1.fumCause fumMgmt else s1.fumClear fumMgmt

def execFumMuteReq (on mgmt : Bool) (s : State) : Host.Outcome State Fault Refusal := done (s.fumMuteReq on mgmt)

/-- No egress slot of the period last due was sealed (R414, R424). -/
def execFumStall (s : State) : Host.Outcome State Fault Refusal :=
  done (if 4 ≤ s.window ∧ !s.fum.seals.contains (s.window - 4) then
    (fun t : State => if s.fumHas fumStall then t
      else { t with fum := { t.fum with lookFrom := 16 * (s.window - 4) } })
      ({ s with fum := { s.fum with since := s.fum.since.upd 0 fumStall 0 } }.fumAct Reg.FUMCFG_STALL_ACT fumStall 199)
  else s)

/-- The halves disagree (R411, R415, R424); `slot` is the slot whose last handed sample they formed differently. -/
def execFumSelfFault (slot : Option (Fin 512)) (s : State) : Host.Outcome State Fault Refusal :=
  let s1 := (s.fumEvent 207 0).fumCause fumSelf
  done (match slot with
    | some o => { s1 with fum := { s1.fum with handed := s1.fum.handed.upd none (slotKey (s.frame - 73) o) none } }
    | none => s1)

/-- A running master-grid port has shown no output port frame edge for 64 ticks: its outputs are driven low until the next
edge (R432). -/
def execPortWatch (n : Fin 16) (s : State) : Host.Outcome State Fault Refusal :=
  done (if s.portMode n = 1 ∧ s.portState n = portRun then
    (List.range 16).foldl (fun t c => t.lowChan (16 * n + c)) (s.putBit Reg.FUMSTAT_PORT_WATCH true)
  else s)

def execFumlockClose (s : State) : Host.Outcome State Fault Refusal := done s.lockClose

/-- UNACK is cleared (R440). -/
def State.fumrecAck (s : State) : State := (s.putBit Reg.FUMRECSTAT_UNACK false).faultN

def execFumrecAck (s : State) : Host.Outcome State Fault Refusal := done s.fumrecAck

/-- The record is cleared from the management side (R440). -/
def State.fumrecClr (s : State) (mgmt : Bool) : State :=
  if !mgmt then s
  else
    let s1 := (List.range 64).foldl (fun t i => (((t.put (Reg.FUMREC_WORD0 i) 0).put (Reg.FUMREC_WORD1 i) 0).put
      (Reg.FUMREC_WORD2 i) 0).put (Reg.FUMREC_WORD3 i) 0) s
    let s2 := ((s1.put Reg.FUMRECSTAT_COUNT 0).put Reg.FUMRECSTAT_NEXT 1).putBit Reg.FUMRECSTAT_WRAPPED false
    ({ s2 with fum := { s2.fum with seq := 0 } }).fumrecAck

def execFumrecClr (mgmt : Bool) (s : State) : Host.Outcome State Fault Refusal := done (s.fumrecClr mgmt)

def State.fumcntClear (s : State) : State := (s.put Reg.FUMCNT_FILLED 0).put Reg.FUMCNT_LIMITED 0

def execFumcntClear (s : State) : Host.Outcome State Fault Refusal := done s.fumcntClear

end Sys2Proof.Machine
end

