-- ==== Sys2Proof/Machine/Outputs.lean ====
section
/-! DEFINITION. What the audio ports drive at an output port frame edge: the egress map (R309, R310), the Vent's sum and
takeover weights (R311, R321 to R329), the final check and the guards of output channels (R312, R430, R431). -/

namespace Sys2Proof.Machine

/-! ### The Vent's weights (R325 to R328) -/

/-- The return after takeover begins at this output edge (R327). -/
def State.vntReturn (s : State) : State :=
  if s.vent.due then ({ s with vent := { s.vent with due := false } }.putBit Reg.VNTSTAT_RETURNING true).raise 82 else s

/-- The takeover weight moves on at an output edge. -/
def State.vntAdvance (s0 : State) : State :=
  let s := s0.vntReturn
  if s.bit Reg.VNTSTAT_TAKEOVER then { s with vent := { s.vent with fade := Nat.min 16 (s.vent.fade + 1) } }
  else if s.bit Reg.VNTSTAT_RETURNING then { s with vent := { s.vent with ang := s.vent.ang - 1 } }
  else s

/-- The weight of the egress map and of non-priority routes at an affected destination. -/
def State.fadedWeight (s : State) : Int :=
  let base := quarterSin (128 - s.vent.ang) 128
  if s.bit Reg.VNTSTAT_TAKEOVER then mulQ base (quarterSin (16 - s.vent.fade) 16)
  else if s.bit Reg.VNTSTAT_RETURNING then base else 2 ^ 62

/-- The weight of a PRI_ONLY route. -/
def State.priOnlyWeight (s : State) : Int :=
  if s.bit Reg.VNTSTAT_TAKEOVER then 2 ^ 62
  else if s.bit Reg.VNTSTAT_RETURNING then quarterSin s.vent.ang 128 else 0

/-- A route word's fields (R319). -/
def rtSrc (w : Word) : Nat := w.toNat % 256
def rtDst (w : Word) : Nat := w.toNat / 256 % 256
def rtEn (w : Word) : Bool := w.getLsbD 16
def rtPri (w : Word) : Bool := w.getLsbD 17
def rtOnly (w : Word) : Bool := w.getLsbD 18

/-- Output channel `q` is affected by takeover (R325). -/
def State.affected (s : State) (q f : Nat) : Bool :=
  (s.bit Reg.VNTCFG_TAKEOVER_ALL && s.portState (q / 16) == portRun) ||
    (s.vent.routes.map Prod.fst).any (fun v =>
      let w := (s.routeAt v f).route
      rtEn w && rtPri w && rtDst w == q)

/-! ### The Vent's contributions -/

/-- What one route adds to output channel `q`: the value in units of 2^-62, whether it is poison, whether it is a
priority contribution, and whether it contributed. -/
structure VentPart where
  val : Int
  psn : Bool
  pri : Bool
  on  : Bool
  deriving DecidableEq, Repr

/-- The part of route `v` at channel `q` for frame `f`; `dup` says that its two coefficient computations disagree (R321,
R322, R643). -/
def State.ventPart (s : State) (v q f : Nat) (dup : Bool) : VentPart :=
  let r := s.routeAt v f
  let pri := rtPri r.route
  let live := !s.bit (Reg.VNTRT_INERT v) && !(pri && rtOnly r.route && decide (s.priOnlyWeight = 0))
  let parts := if live then r.conns.filter (fun c => c.dst == q) else []
  let failed (pid : Nat) : Bool := s.gys.bad == some pid
  let bad := live && rtDst r.route == q && (r.psnR || failed (0x190000 + v) || ((r.psnG || failed (0x190040 + v)) && rtEn r.route))
  let x (c : RouteConn) : Sinter := (s.ports.ventIn.look none (slotKey f c.src)).getD Sinter.zero
  { val := parts.foldl (fun a c => a + 16 * (c.at f * (x c).data.toInt)) 0
    psn := bad || parts.any (fun c => decide (c.at f ≠ 0) && ((x c).isPoison || (dup && decide (c.c0 ≠ c.c1))))
    pri := pri
    on := parts.any (fun c => decide (c.at f ≠ 0)) }

/-- A value weighted in the accumulator. -/
def weigh (x w : Int) : Int := if w = 2 ^ 62 then x else divHalfEven (x * w) (2 ^ 62)

/-- A 72-bit accumulator's saturation (R108). -/
def sat72 (x : Int) : Int := max min72 (min max72 x)

/-! ### The egress map -/

/-- What the map word of output channel `q` places in frame `g`: its samples, and whether word and port do not match
(R309, R310). -/
def State.mapped (s : State) (q g : Nat) : List Sinter × Bool :=
  let n := q / 16
  let k := s.portRatek n
  let none : List Sinter := (List.range (2 ^ k)).map (fun _ => Sinter.zero)
  let w := s.valueAt (0x180000 + q) g
  let kind := w.data.toNat % 4
  let idx := w.data.toNat / 4 % 4096
  if s.portMode n ≠ 1 then (none, decide (kind = 1 ∨ kind = 2))
  else if w.isPoison then ((List.range (2 ^ k)).map (fun i => s.poison (8 + i)), false)
  else if kind = 1 then
    (if k = 0 ∧ idx < s.nEgr then ([s.handedAt idx g], false) else (none, true))
  else if kind = 2 then
    (if idx < 256 ∧ s.cnvMode (idx / 8) = (if k = 0 then 7 else if k = 1 then 4 else if k = 2 then 5 else 8) then
      (match s.cnv.out.look [] (slotKey g idx) with
       | [] => (none, false)
       | xs => (xs, false))
     else (none, true))
  else (none, false)

/-! ### The final check and the guards -/

def State.setGuard (s : State) (q : Nat) (g : ChanGuard) : State :=
  { s with fum := { s.fum with chans := s.fum.chans.upd ChanGuard.reset q g } }

/-- The final check of a sample of output channel `q` (R312, R431): a bad sample is 0, a loud one is clamped by the ceiling
and the slew envelope, and a DC level above its ceiling silences the channel; with the SELF cause the ceiling alone guards it (R429). -/
def State.finalCheck (q f : Nat) (s : State) (x : Sinter) : State × Int :=
  let n := q / 16
  let c := s.fum.chans.look ChanGuard.reset q
  let wd := s.guardAt (0x500 + q) f
  if !x.good then ((s.putBit (Reg.PORTSTAT_OUT_CHECK n) true).raiseOnce 72, 0)
  else
    let ceil : Int := match s.ceilingOf (s.guardAt (0x400 + q) f) 0 with | some a => a | none => 0
    let self := s.fumHas fumSelf
    let lim := (match slewLevel c.env wd with | some l => if self then ceil else min ceil l | none => ceil) / 2 ^ 20
    let v := x.data.toInt
    let y := if lim < v then lim else if v < -lim then -lim else v
    let dc := c.dc + (v * 2 ^ 31 - c.dc) / (2048 * s.mult * 2 ^ s.portRatek n)
    let high := dcAbove dc wd 0 || (c.muted && dcAbove dc wd 6)
    let since := if high then f + 1 else c.since
    let muted := high || (c.muted && decide (f < since + 16 * s.muteHold))
    let s1 := s.setGuard q ⟨envAfter c.env wd (absQ x.data * 2 ^ 20), dc, if muted then since else 0, muted⟩
    ((if y = v then s1 else (s1.putBit (Reg.PORTSTAT_OUT_LIMITED n) true).raiseOnce 73), if muted && !self then 0 else y)

/-- The word a slot carries (R296). -/
def portDrive (wl : Nat) (y : Int) : BitVec 32 :=
  if wl = 1 then BitVec.ofInt 32 y
  else BitVec.ofInt 32 (max (-0x80000000) (min 0x7FFFFF00 (256 * divHalfEven y 256)))

/-- The gate's weight at this edge in halves (R430): open, the halved edge, or shut. -/
def State.gateWeight (s : State) : Int := if s.fum.gate = 0 then 2 else if s.fum.gate = 1 then 1 else 0

/-- The sum of channel `q` at edge `e` for a grid port at RATEK = 0 (R311, R325, R424, R430), with whether it saturated and
the routes that contributed. -/
def State.outputSum (s : State) (q e : Nat) (x : Sinter) (dup : Option Nat) : Sinter × Bool × List Nat :=
  let f := e - 2
  let vs := s.vent.routes.map Prod.fst
  let parts := if e < 2 then [] else vs.map (fun v => (v, s.ventPart v q f (dup == some v)))
  let aff := s.affected q e
  let wf := if aff then s.fadedWeight else 2 ^ 62
  let gate : Int := if s.bit Reg.FUMCFG_PRI_PASS then s.gateWeight else 2
  let add (a : Int) (p : Nat × VentPart) : Int :=
    if p.2.pri then sat72 (a + weigh p.2.val (if rtOnly (s.routeAt p.1 f).route then s.priOnlyWeight else 2 ^ 62))
    else if s.mutedAll then a
    else sat72 (a + divHalfEven (weigh p.2.val wf * gate) 2)
  let a := parts.foldl add (divHalfEven (weigh (x.data.toInt * 2 ^ 31) wf * gate) 2)
  let heard (p : Nat × VentPart) : Bool := p.2.pri || (!s.mutedAll && decide (gate ≠ 0) && decide (wf ≠ 0))
  let psn := (x.isPoison && decide (wf ≠ 0) && decide (gate ≠ 0)) || parts.any (fun p => p.2.psn && heard p)
  let o := staRound a (residueInt a).toNat 31 (s.poison 12)
  (if psn then s.poison 12 else o.word, o.sat, (parts.filter (fun p => p.2.on && heard p)).map Prod.fst)

/-- A sample of the map for a port with RATEK ≠ 0: takeover fades it where its channel is affected (R311, R325). -/
def State.fadedSample (s : State) (q e : Nat) (x : Sinter) : Sinter :=
  if !s.affected q e ∨ s.fadedWeight = 2 ^ 62 then x
  else if s.fadedWeight = 0 then Sinter.zero
  else if x.isPoison then x
  else Sinter.ofData (BitVec.ofInt 32 (weigh x.data.toInt s.fadedWeight))

/-- Output channel `q` is driven at edge `e` with the given samples of the map (R308, R311, R312, R326, R430). -/
def State.driveChan (s : State) (q e : Nat) (dup : Option Nat) : State :=
  let n := q / 16
  let m := if e < 75 then ((List.range (2 ^ s.portRatek n)).map (fun _ => Sinter.zero), false) else s.mapped q (e - 75)
  let s1 := if m.2 then s.mapBad n else s
  let step (t : State × List (BitVec 32)) (x : Sinter) : State × List (BitVec 32) :=
    let sum := if t.1.portRatek n = 0 then t.1.outputSum q e x dup else (t.1.fadedSample q e x, false, [])
    let t1 := if sum.2.1 then (t.1.putBit Reg.VNTSTAT_SAT true).raiseOnce 83 else t.1
    let t2 := sum.2.2.foldl (fun u v => u.putBit (Reg.VNTRT_CONTRIB v) true) t1
    let c := t2.finalCheck q e sum.1
    let y := if s.bit Reg.FUMCFG_PRI_PASS && decide (s.portRatek n = 0) then c.2
      else divHalfEven (c.2 * s.gateWeight) 2
    (c.1, t.2 ++ [portDrive (s.get (Reg.PORTCFG_WL n)) y])
  let r := m.1.foldl step (s1, [])
  let shown := (s.maskOf n).testBit (16 + q % 16) || (s.bit Reg.VNTSTAT_TAKEOVER && s.affected q e)
  ({ r.1 with ports := { r.1.ports with full := r.1.ports.full.upd [] q r.2 } } : State).setOut q
    (if shown then r.2 else r.2.map (fun _ => 0))

/-- A port drives data at edge `e`: it runs, or starts at Ts = e (R303). -/
def State.portDrives (s : State) (n e : Nat) : Bool :=
  s.portMode n == 1 && (s.portState n == portRun ||
    (s.portState n == portReady && s.bit Reg.APSTARTSTAT_PENDING && s.apTs == e))

/-- A word of the egress map for a channel of an enabled port that drives no data (R310). -/
def State.idleChan (s : State) (q e : Nat) : State :=
  (if s.bit (Reg.PORTCTL_EN (q / 16)) && decide (75 ≤ e) && (s.mapped q (e - 75)).2 then s.mapBad (q / 16) else s).lowChan q

/-- A priority route is lost during takeover (R329). -/
def State.priLost (s : State) (v f : Nat) : Bool :=
  let w := (s.routeAt v f).route
  let n := rtSrc w / 16
  let l := rtSrc w % 16 / 2
  rtEn w && rtPri w && (s.bit (Reg.VNTRT_INERT v) || (s.get (Reg.CODED_MUTED n)).testBit l ||
    !(s.maskOf n).testBit (rtSrc w % 16) || s.portState n != portRun || s.portState (rtDst w / 16) != portRun)

/-- The output port frame edge `e` (R311): masks, then every channel; those of a port that carries no data are driven low
(R298, R302, R303).  Grid ports start their clocks, and the routes are judged (R302, R320). -/
def State.portOutputs (s : State) (e : Nat) (dup : Option Nat) : State :=
  let s0 := (List.range 16).foldl (fun t n => if t.portMode n = 1 then (t.maskEdge n).portClock n else t) s.portStop
  let s1 := (s0.vent.routes.map Prod.fst).foldl State.vntInert s0
  let s2 := (s1.putBit Reg.FUMSTAT_PORT_WATCH false).vntAdvance
  let s3 : State := (List.range 64).foldl (fun t v => t.putBit (Reg.VNTRT_CONTRIB v) false)
    { s2 with ports := { s2.ports with out := [], was := s2.ports.out, full := [], sub := [] } }
  let s4 := (List.range 256).foldl (fun t q => if t.portDrives (q / 16) e then t.driveChan q e dup else t.idleChan q e) s3
  let s5 := if s4.bit Reg.VNTSTAT_TAKEOVER && (s4.vent.routes.map Prod.fst).any (fun v => s4.priLost v e) then
    (s4.putBit Reg.VNTSTAT_PRI_LOST true).raiseOnce 84 else s4
  if s5.fum.gate = 1 then { s5 with fum := { s5.fum with gate := 2 } } else s5

/-! ### The levels of the balls (R295, R298) -/

/-- WS over the 64 BCLK periods of a port frame, the first in bit 63. -/
def State.wsLevels (s : State) (n : Nat) : BitVec 64 := if s.wsFirst n then 0xFFFFFFFF00000000 else 0x00000000FFFFFFFF

/-- A lane over the 64 BCLK periods of a port frame with words `w0` and `w1`, the word of channel 1 before being `w`: MSB first, from the
first or the second BCLK of each slot. -/
def State.laneLevels (s : State) (n : Nat) (w w0 w1 : BitVec 32) : BitVec 64 :=
  if s.wsFirst n then w0 ++ w1 else (w ++ w0 ++ w1).extractLsb' 1 64

/-- Levels that last one BCLK period each, over half-periods; BCLK is low in the first half of each, so that they change at its falling
edge and are sampled at its rising edge. -/
def halfPeriods (x : BitVec 64) : List Bool := (List.range 128).map (fun h => x.getMsbD (h / 2))
def bclkLevels : List Bool := (List.range 128).map (fun h => h % 2 == 1)

/-- What ball DO of lane `l` of port `n` shows in the present frame, one entry a port frame; none is high impedance. -/
def State.laneOut (s : State) (n l : Nat) : Option (List (BitVec 64)) :=
  let q := 16 * n + 2 * l
  match s.portBall q, s.portBall (q + 1) with
  | some a, some b =>
    let w := ((s.ports.was.look none (q + 1)).getD []).getLastD 0
    some ((List.range a.length).map (fun i => s.laneLevels n (if i = 0 then w else b.getD (i - 1) 0) (a.getD i 0) (b.getD i 0)))
  | _, _ => none

/-- The clock balls of port `n` in one port frame: BCLK and WS over its half-periods, low while its clocks stand; a slave port drives
neither (R302). -/
def State.portWaves (s : State) (n : Nat) : Option (List Bool × List Bool) :=
  if s.portMode n = 3 then none
  else if s.ports.clocks.contains n then some (bclkLevels, halfPeriods (s.wsLevels n))
  else some (bclkLevels.map (fun _ => false), bclkLevels.map (fun _ => false))

end Sys2Proof.Machine
end

