-- ==== Sys2Proof/Machine/References.lean ====
section
/-! DEFINITION. The six timing references (R470 to R491, R498): presence, qualification, drift by consensus, selection,
switches, holdover and the fallback of the loop input; and the two time domains (R492 to R497).  Phases, offsets and the
loop filter's terms are measured quantities and arrive as operands. -/

namespace Sys2Proof.Machine

/-! ### States of a reference (R472) -/

def refOff : Nat := 0
def refAbsent : Nat := 1
def refWtr : Nat := 2
def refQualified : Nat := 3
def refHoldoff : Nat := 4

def State.refState (s : State) (r : Nat) : Nat := s.get (Reg.REF_STATE r)

/-- Frames of a second, by which the reference logic counts time. -/
def State.fs (s : State) : Nat := s.baseRate * s.mult

/-- A reference enters a state now. -/
def State.setRef (s : State) (r st : Nat) : State :=
  let s1 := s.put (Reg.REF_STATE r) st
  { s1 with refs := { s1.refs with since := s1.refs.since.upd 0 r s.frame } }

/-- REFr.TIMER as it reads: what is left of WTR in seconds, or of HOLDOFF in 0.1 s. -/
def State.refTimer (s : State) (r : Nat) : Nat :=
  let el := s.frame - s.refs.since.look 0 r
  if s.refState r = refWtr then s.get Reg.REFTIME_WTR - el / s.fs
  else if s.refState r = refHoldoff then s.get Reg.REFTIME_HOLDOFF - 10 * el / s.fs
  else 0

/-- A signed register value. -/
def signed32 (v : Nat) : Int := (BitVec.ofNat 32 v).toInt
def word32 (v : Int) : Nat := (BitVec.ofInt 32 v).toNat

/-- The steering limit, ±1,000 ppm in units of 2^-32 (R487). -/
def clampSteer (x : Int) : Int := max (-4294967) (min 4294967 x)

/-- WINDOW as applied, in ppb. -/
def State.windowPpb (s : State) : Nat := 1000 * Nat.min 1000 (Nat.max 1 (s.get Reg.REFCFG_WINDOW))

/-- |OFFSET| of a reference exceeds the window. -/
def State.outside (s : State) (r : Nat) : Bool := decide (s.windowPpb < (signed32 (s.get (Reg.REF_OFFSET r))).natAbs)

/-- Why a reference fails at the end of an interval (R472): 0 it does not. -/
def State.refFault (s : State) (r : Nat) : Nat :=
  if !s.bit (Reg.REF_PRESENT r) then 1 else if s.outside r then 2 else if s.get (Reg.REF_QL r) = 15 then 3 else 0

/-! ### Holdover, switches and selection -/

/-- REFCTL in force, of which FORCE is selection's part (R475). -/
def State.forced (s : State) : Option Nat :=
  if s.bit Reg.REFCTL_FORCE_EN then some (s.get Reg.REFCTL_FORCE_REF) else none

/-- The loop holds (R482, R498) with the steering term `steer`; a software-closed loop never does (R488). -/
def State.holdAt (s : State) (steer : Nat) : State :=
  if s.bit Reg.REFSTAT_HOLDOVER || s.bit Reg.REFCFG_MODE then s
  else ((((s.putBit Reg.REFSTAT_HOLDOVER true).raise 21).put Reg.REFSTEER_STEER steer).putBit Reg.REFSTAT_REALIGNING false)

/-- The loop holds: the steering term stays at its mean over the last full interval (R482). -/
def State.holdEnter (s : State) : State := s.holdAt (word32 (clampSteer s.refs.mean))

/-- BO takes a measured value. -/
def State.setBo (s : State) (bo : Nat) : State :=
  (s.put Reg.REFBO_BO bo).putBit Reg.REFSTAT_BUILTOUT (bo % 2 ^ 32 != 0)

/-- A switch to reference `b` begins (R476), from a reference or from holdover; a realign in progress is abandoned. -/
def State.switchStart (s : State) (b bo : Nat) : State :=
  let s1 := (((s.putBit Reg.REFSTAT_SWITCHING true).putBit Reg.REFSTAT_REALIGNING false).putBit Reg.REFSTAT_HOLDOVER
    false).raise 19
  let s2 := if b = 0 then s1 else s1.setBo bo
  { s2 with refs := { s2.refs with target := b } }

/-- The best QUALIFIED reference (R474); 7 for none. -/
def State.bestRef (s : State) : Nat :=
  (List.range 6).foldl (fun a r =>
    if s.refState r ≠ refQualified then a
    else if a = 7 then r
    else if s.get (Reg.REF_QL r) < s.get (Reg.REF_QL a) ∨ (s.get (Reg.REF_QL r) = s.get (Reg.REF_QL a) ∧
        s.get (Reg.REF_PRIO r) < s.get (Reg.REF_PRIO a)) then r
    else a) 7

/-- What selection asks for (R474, R475): none keeps the present reference, which holds. -/
def State.wanted (s : State) : Option Nat :=
  let cur := s.get Reg.REFSTAT_SEL
  match s.forced with
  | some r => if r < 6 ∧ s.refState r = refQualified then some r else some 7
  | none =>
    if cur < 6 ∧ s.refState cur = refHoldoff then none
    else if cur < 6 ∧ s.refState cur = refQualified ∧ !s.bit Reg.REFCFG_REVERT then some cur
    else some s.bestRef

/-- The selection is evaluated (R474, R475, R482), except while a switch is in progress or a fallback input is in use. -/
def State.refSelect (s : State) (bo : Nat) : State :=
  if s.bit Reg.REFSTAT_SWITCHING || s.bit Reg.REFSTAT_FALLBACK then s
  else match s.wanted with
    | none => s.holdEnter
    | some b =>
      if b = 7 then s.holdEnter.put Reg.REFSTAT_SEL (if s.forced.isSome then s.get Reg.REFSTAT_SEL else 7)
      else if b = s.get Reg.REFSTAT_SEL ∧ !s.bit Reg.REFSTAT_HOLDOVER then s
      else s.switchStart b bo

/-- A REFCTL word that waited for the end of a switch takes effect (R477). -/
def State.refctlApply (s : State) : State :=
  match s.refs.ctl with
  | none => s
  | some v => { (s.putBit Reg.REFCTL_FORCE_EN (v.testBit 0)).put Reg.REFCTL_FORCE_REF (v / 2) with
      refs := { s.refs with ctl := none } }

/-- A switch ends in holdover because its target no longer qualifies, or because the loop input went: the steering term stops
where it is (R478, R498), and a REFCTL word that waited takes effect (R477). -/
def State.switchFail (s : State) : State :=
  let s1 := (((s.putBit Reg.REFSTAT_SWITCHING false).put Reg.REFSTAT_SEL 7).raise 20)
  let s2 : State := { s1 with refs := { s1.refs with target := 7 } }
  (s2.refctlApply.putBit Reg.REFSTAT_HOLDOVER false).holdAt (s.get Reg.REFSTEER_STEER)

/-! ### The loop input's fallback -/

/-- The reference of a loop input (R444, R484). -/
def inputRef (i : Nat) : Nat := if i = 3 then 5 else i

/-- The first fallback input that may be used (R483). -/
def State.fallbackInput (s : State) : Option Nat :=
  if s.bit Reg.REFFB_WCK0_EN && s.refState 1 == refQualified && s.get Reg.CORECFG_INSEL != 1 then some 1
  else if s.bit Reg.REFFB_WCK1_EN && s.refState 2 == refQualified && s.get Reg.CORECFG_INSEL != 2 then some 2
  else if s.bit Reg.REFFB_LINK_EN && s.refState 5 == refQualified && s.get Reg.CORECFG_INSEL != 3 then some 3
  else none

/-- FALLBACK and SEL follow the loop input (R484): the frequency term of the hardware loop is 0 while it is not HREF, and the
loop resumes in holdover from the steering held before (R486). -/
def State.inputFollow (s : State) : State :=
  let i := s.get Reg.CORECFG_INSEL
  if i = 0 then
    (if s.bit Reg.REFSTAT_FALLBACK then
      let s1 := (s.putBit Reg.REFSTAT_FALLBACK false).put Reg.REFSTAT_SEL 7
      ({ s1 with refs := { s1.refs with mean := s1.refs.saved } }.putBit Reg.REFSTAT_HOLDOVER false).holdEnter
     else s)
  else
    let s1 := if s.bit Reg.REFSTAT_SWITCHING then s.switchFail else s
    let s2 : State := if s.bit Reg.REFSTAT_FALLBACK then s1
      else { s1 with refs := { s1.refs with saved := signed32 (s1.get Reg.REFSTEER_STEER) } }
    let s3 := ((s2.putBit Reg.REFSTAT_FALLBACK true).put Reg.REFSTAT_SEL (inputRef i)).putBit Reg.REFSTAT_REALIGNING false
    if s.bit Reg.REFCFG_MODE then s3 else s3.put Reg.REFSTEER_STEER 0

/-- A write to CORECFG (R445, R459, R484). -/
def State.corecfgWrite (s : State) (insel refscale dev : Nat) : State :=
  let s1 := (s.refscaleWrite refscale).inselTo insel dev
  if s.get Reg.CORECFG_INSEL = insel then s1 else s1.inputFollow

def execInselWrite (insel refscale : BitVec 2) (dev : BitVec 32) (s : State) : Host.Outcome State Fault Refusal :=
  done (s.corecfgWrite insel.toNat refscale.toNat dev.toNat)

/-- The tuning word reaches the floor code (R460, R485): INSEL goes to HREF if present, else to the first enabled fallback
input that is. -/
def State.coastInput (s : State) : Nat :=
  if s.bit (Reg.REF_PRESENT 0) then 0
  else if s.bit Reg.REFFB_WCK0_EN && s.bit (Reg.REF_PRESENT 1) then 1
  else if s.bit Reg.REFFB_WCK1_EN && s.bit (Reg.REF_PRESENT 2) then 2
  else if s.bit Reg.REFFB_LINK_EN && s.bit (Reg.REF_PRESENT 5) then 3
  else s.get Reg.CORECFG_INSEL

/-- The floor is reached: COAST, and the relock at once where the input has returned meanwhile (R460, R461, R485). -/
def execCoreCoast (s : State) : Host.Outcome State Fault Refusal :=
  done (if s.loop = loopFloor ∧ !s.bit Reg.CORESTAT_COAST then
    let s1 := ((s.putBit Reg.CORESTAT_COAST true).raise 6).fumCause fumClock
    let s2 := s1.put Reg.CORECFG_INSEL s1.coastInput
    let s3 := if s2.get Reg.CORECFG_INSEL = s.get Reg.CORECFG_INSEL then s2 else s2.inputFollow
    let s4 : State := { s3 with clk := { s3.clk with floor := false, ramp := true } }
    if s.clk.back && s4.inputUsable (s4.get Reg.CORECFG_INSEL) && !s.floorHolds then s4.loopToCal else s4
    else s)

/-- In HOLD for a lost input, the first fallback input that qualifies is taken (R483). -/
def State.loopFallback (s : State) (dev : Nat) : State :=
  if s.loop = loopHold ∧ s.bit Reg.CORESTAT_INPUT_LOST ∧ !s.clk.floor then
    match s.fallbackInput with
    | some i => ((s.inselTo i dev).raise 22).inputFollow
    | none => s
  else s

/-- The loop runs on its input (R448). -/
def State.loopRuns (s : State) : Bool := s.loop != loopOff && s.loop != loopHold && s.loop != loopFloor

/-- The loop's input is lost (R458, R461). -/
def State.loopToHold (s : State) : State :=
  let s1 := (s.setLoop loopHold).putBit Reg.CORESTAT_INPUT_LOST true
  { s1 with clk := { s1.clk with ramp := s.clk.ramp || decide (s.loop = loopRamp), redo := decide (s.loop ≠ loopLocked) } }

/-- A fallback input whose reference no longer qualifies is treated as a lost input (R483). -/
def State.fallbackCheck (s : State) (dev : Nat) : State :=
  let i := s.get Reg.CORECFG_INSEL
  if i ≠ 0 ∧ s.bit Reg.REFSTAT_FALLBACK ∧ s.refState (inputRef i) ≠ refQualified ∧ s.loopRuns then s.loopToHold.loopFallback dev
  else s

/-- REF0 has become QUALIFIED while a fallback input is in use (R486). -/
def State.hrefReturn (s : State) (dev : Nat) : State :=
  if s.get Reg.CORECFG_INSEL ≠ 0 ∧ s.bit Reg.REFFB_HREF_RET ∧ s.refState 0 = refQualified then
    ((s.inselTo 0 dev).raise 23).inputFollow
  else s

/-- Every consequence of a change of a reference's state (R474, R478, R482, R483, R498). -/
def State.refChanged (s : State) (dev bo : Nat) : State :=
  let s1 := if s.bit Reg.REFSTAT_SWITCHING && s.refState s.refs.target != refQualified then s.switchFail else s
  (((s1.fallbackCheck dev).loopFallback dev).refSelect bo)

/-- A reference fails for cause `c` (R472, R473). -/
def State.refFail (s : State) (r c : Nat) : State :=
  let st := s.refState r
  if st = refWtr then (s.setRef r refAbsent).put (Reg.REF_CAUSE r) c
  else if st = refQualified then
    (if s.get Reg.REFTIME_HOLDOFF = 0 then ((s.setRef r refAbsent).put (Reg.REF_CAUSE r) c).raise 17
     else (s.setRef r refHoldoff).put (Reg.REF_CAUSE r) c)
  else s

/-- A reference is no longer present (R470, R473). -/
def State.refGone (s : State) (r : Nat) : State :=
  ((s.putBit (Reg.REF_PRESENT r) false).put (Reg.REF_OFFSET r) 0).refFail r 1

/-- A reference whose failure ends: from HOLDOFF it is QUALIFIED again at once, and during a switch its wait-to-restore
starts at once (R472, R477). -/
def State.refBack (s : State) (r : Nat) : State :=
  if s.refFault r ≠ 0 then s
  else if s.refState r = refHoldoff then s.setRef r refQualified
  else if s.refState r = refAbsent ∧ s.bit Reg.REFSTAT_SWITCHING then s.setRef r refWtr
  else s

/-- A write to REFr's word 0 (R472, R473): EN, QL and VALID act at once, and a change of state is acted on. -/
def State.refWrite (s : State) (r : Nat) (en : Bool) (ql prio : Nat) (valid : Bool) : State :=
  let s1 := (((s.putBit (Reg.REF_EN r) en).put (Reg.REF_QL r) ql).put (Reg.REF_PRIO r) prio).putBit (Reg.REF_VALID r) valid
  let s2 := if !en then (s1.setRef r refOff) else if s.refState r = refOff then s1.setRef r refAbsent else s1
  let s3 := if (r = 3 ∨ r = 4) then (if valid then s2.putBit (Reg.REF_PRESENT r) true else s2.refGone r) else s2
  let s4 := if ql % 16 = 15 then s3.refFail r 3 else s3
  let s5 := s4.refBack r
  if s5.refState r = s.refState r then s5 else s5.refChanged (Config.measured s.free 0) (Config.measured s.free 1)

/-! ### Losses -/

/-- The loop input is lost (R458, R461, R483, R498); a loop that is on its way to the floor, or there, goes on. -/
def State.inputLost (s : State) (dev : Nat) : State :=
  if !s.loopRuns then
    (if s.loop = loopOff ∨ s.bit Reg.CORESTAT_INPUT_LOST then s
     else
      let s1 := (s.putBit Reg.CORESTAT_INPUT_LOST true).raise 1
      let s2 : State := { s1 with clk := { s1.clk with back := false } }
      if s.get Reg.CORECFG_INSEL = 0 then s2.refGone 0 else s2)
  else
    let s2 := s.loopToHold.raise 1
    let s4 := if s.get Reg.CORECFG_INSEL = 0 then s2.refGone 0 else s2
    let s5 := if s4.bit Reg.REFSTAT_SWITCHING then s4.switchFail else s4
    (s5.loopFallback dev).refSelect (Config.measured s.free 0)

def execCoreInputLost (dev : BitVec 32) (s : State) : Host.Outcome State Fault Refusal := done (s.inputLost dev.toNat)

def execRefEdgeMissing (r : Fin 6) (dev bo : BitVec 32) (s : State) : Host.Outcome State Fault Refusal :=
  done (if s.bit (Reg.REF_PRESENT r) then (s.refGone r).refChanged dev.toNat bo.toNat else s)

/-- The lost input returns with INSEL unchanged (R458): from HOLD it is captured or the loop relocks; once hold has ended the
ramp to the floor follows first (R461). -/
def State.inputReturn (s : State) (dev : Nat) : State :=
  if !s.bit Reg.CORESTAT_INPUT_LOST then s
  else
    let s1 := if s.get Reg.CORECFG_INSEL = 0 then (s.putBit (Reg.REF_PRESENT 0) true).refBack 0 else s
    if s.loop = loopFloor ∨ (s.loop = loopHold ∧ s.clk.floor) then
      { s1.putBit Reg.CORESTAT_INPUT_LOST false with clk := { s1.clk with back := true } }
    else if s.loop = loopHold then
      (if s1.refState 0 = s.refState 0 then s1.loopCapture dev
       else (s1.loopCapture dev).refChanged dev (Config.measured s.free 0))
    else s1

def execCoreInputReturn (dev : BitVec 32) (s : State) : Host.Outcome State Fault Refusal := done (s.inputReturn dev.toNat)

/-! ### The end of an interval (R471 to R481, R487) -/

/-- REF5's source is there (R470). -/
def State.cascadePresent (s : State) : Bool :=
  let m := s.get Reg.LNKCASC_MODE
  let l := if s.bit Reg.LNKCASCSTAT_UP_ALT then s.get Reg.LNKCASC_ALT_UP else s.get Reg.LNKCASC_UP
  (m == 1 || m == 2) && !s.isMaster && s.get (Reg.LNKSTAT_STATE l) == 2 && s.bit Reg.LNKCASCSTAT_FC_SYNC

/-- The presence of reference `r` (R470): HREF as the loop input unless it is lost; the others of REF0 to REF2 as measured. -/
def State.presentNow (s : State) (r : Nat) (m : Nat) : Bool :=
  if r = 0 ∧ s.get Reg.CORECFG_INSEL = 0 then !s.bit Reg.CORESTAT_INPUT_LOST
  else if r < 3 then m.testBit r
  else if r < 5 then s.bit (Reg.REF_VALID r) else s.cascadePresent

/-- Offset and presence of a reference (R471). -/
def State.refRecord (offs : List (BitVec 32)) (m : Nat) (s : State) (r : Nat) : State :=
  let p := s.presentNow r m
  (s.putBit (Reg.REF_PRESENT r) p).put (Reg.REF_OFFSET r) (if p then (offs.getD r 0).toNat else 0)

/-- A reference that is fit, or qualified but failing, other than the selected one (R479). -/
def State.judges (s : State) (r : Nat) : Bool :=
  r != s.get Reg.REFSTAT_SEL && (s.refState r == refQualified || s.refState r == refHoldoff)

/-- The dwell counts (R479). -/
def State.refDwell (s : State) (r : Nat) : State :=
  if s.judges r && s.outside r && s.bit (Reg.REF_PRESENT r) then s.bump (Reg.REF_DWELL_CNT r) else s.put (Reg.REF_DWELL_CNT r) 0

/-- A reference is disqualified for drift (R473, R480). -/
def State.refDrift (s : State) (r : Nat) : State :=
  ((s.setRef r refAbsent).put (Reg.REF_CAUSE r) 4).raise 18

/-- The reference that drift by consensus disqualifies, outside a switch (R480, R481). -/
def State.driftVerdict (s : State) : Option Nat :=
  if s.bit Reg.REFSTAT_SWITCHING then none
  else
    let at_ := (List.range 6).filter (fun r => s.judges r && decide (Nat.max 1 (s.get Reg.REFTIME_DWELL) ≤
      s.get (Reg.REF_DWELL_CNT r)))
    let sel := s.get Reg.REFSTAT_SEL
    match at_ with
    | [] => none
    | [x] => some x
    | _ => if sel < 6 ∧ (s.refState sel = refQualified ∨ s.refState sel = refHoldoff) then some sel else none

/-- The qualification of a reference at the end of an interval (R472, R473), `drift` being the one that drifted. -/
def State.refQualify (drift : Option Nat) (s : State) (r : Nat) : State :=
  let c := s.refFault r
  let st := s.refState r
  if drift = some r then s.refDrift r
  else if st = refOff then (if s.bit (Reg.REF_EN r) then s.setRef r refAbsent else s)
  else if c ≠ 0 then s.refFail r c
  else if st = refAbsent then s.setRef r refWtr
  else if st = refHoldoff then s.setRef r refQualified
  else s

/-- SLEW as applied: what the steering may move in one interval of a switch, in units of 2^-32 (R476). -/
def State.slewLimit (s : State) : Int := Nat.max 1 (s.get Reg.REFCFG_SLEW) * 4294967296 / 10000000

/-- The steering term that the reference in view requires: 0 for REF0, for another what the loop filter gives (R476, R487). -/
def State.steerNeed (s : State) (x : Int) : Int :=
  if (if s.bit Reg.REFSTAT_SWITCHING then s.refs.target else s.get Reg.REFSTAT_SEL) = 0 then 0 else x

/-- The steering term at the end of an interval (R487): the required one, and during a switch no further from the present one
than SLEW allows (R476). -/
def State.steerTo (s : State) (x : Int) : Int :=
  let old := signed32 (s.get Reg.REFSTEER_STEER)
  clampSteer (if s.bit Reg.REFSTAT_SWITCHING then max (old - s.slewLimit) (min (old + s.slewLimit) (s.steerNeed x)) else s.steerNeed x)

/-- N in force with the steering term, rounded to the fraction step (R487), as CORENNOW shows it in Q16.16. -/
def State.nNow (s : State) : Nat :=
  let n : Int := s.clk.n
  ((n + (n * signed32 (s.get Reg.REFSTEER_STEER) + 2147483648) / 4294967296) / 256 % 2 ^ 32).toNat

def execRefIntervalEnd (offs : List (BitVec 32)) (present : BitVec 3) (pherr steer mean : BitVec 32) (far : Bool)
    (dev bo : BitVec 32) (s : State) : Host.Outcome State Fault Refusal :=
  let rs := List.range 6
  let s1 := rs.foldl (State.refRecord offs present.toNat) (s.put Reg.REFPHERR_PHERR pherr.toNat)
  let s2 := rs.foldl State.refDwell s1
  let was0 := s2.refState 0
  let s3 := rs.foldl (State.refQualify s2.driftVerdict) s2
  let s4 : State := if s.bit Reg.REFSTAT_HOLDOVER || s.bit Reg.REFSTAT_FALLBACK then s3
    else { s3 with refs := { s3.refs with mean := clampSteer mean.toInt } }
  let s5 := if s.bit Reg.REFCFG_MODE || s.bit Reg.REFSTAT_HOLDOVER || s.bit Reg.REFSTAT_FALLBACK then s4
    else s4.put Reg.REFSTEER_STEER (word32 (s4.steerTo steer.toInt))
  let s6 := if far then s5.raiseOnce 30 else s5
  let s7 := if was0 ≠ refQualified ∧ s6.refState 0 = refQualified then s6.hrefReturn dev.toNat else s6
  done (s7.refChanged dev.toNat bo.toNat)

/-- The steering term can have settled within 0.01 ppm of the frequency that the target requires (R476): for REF0 that is a term of
0; for another, and with the loop filter open, the sender's command says it. -/
def State.switchSettled (s : State) : Bool :=
  s.bit Reg.REFSTAT_SWITCHING &&
    (s.refs.target != 0 || s.bit Reg.REFCFG_MODE || decide ((signed32 (s.get Reg.REFSTEER_STEER)).natAbs ≤ 42))

/-- The steering has settled for one interval: the loop closes on the new reference (R476, R477, R478). -/
def execRefSwitchDone (bo : BitVec 32) (s : State) : Host.Outcome State Fault Refusal :=
  done (if !s.switchSettled then s
    else
      let b := s.refs.target
      let s1 := ((s.putBit Reg.REFSTAT_SWITCHING false).put Reg.REFSTAT_SEL b).putBit Reg.REFSTAT_HOLDOVER false
      let s2 := (if b = 0 then s1 else s1.setBo bo.toNat).raise 20
      ({ s2 with refs := { s2.refs with target := 7 } }.refctlApply).refSelect bo.toNat)

/-- WTR seconds have passed without failure (R472, R486). -/
def execRefWtrExpired (r : Fin 6) (dev bo : BitVec 32) (s : State) : Host.Outcome State Fault Refusal :=
  done (if s.refState r = refWtr ∧ s.refTimer r = 0 then
    let s1 := (s.setRef r refQualified).raise 16
    ((if r.val = 0 then s1.hrefReturn dev.toNat else s1).refChanged dev.toNat bo.toNat)
    else s)

/-- HOLDOFF has passed (R472). -/
def execRefHoldoffExpired (r : Fin 6) (dev bo : BitVec 32) (s : State) : Host.Outcome State Fault Refusal :=
  done (if s.refState r = refHoldoff ∧ s.refTimer r = 0 then
    ((s.setRef r refAbsent).raise 17).refChanged dev.toNat bo.toNat
    else s)

/-! ### Commands -/

/-- A command to the reference logic is refused (R490, R495). -/
def State.refRefuse (s : State) : State := (s.putBit Reg.REFSTAT_CMD_REFUSED true).raise 29

/-- REALIGN_PPM as applied. -/
def State.realignPpm (s : State) : Nat := Nat.min 500 (Nat.max 1 (s.get Reg.REFCFG_REALIGN_PPM))

/-- The slew of a realign starts from |REFPHERR + BO| (R490). -/
def State.slewStart (s : State) : State :=
  { s with refs := { s.refs with
    slewAt := s.frame
    slewBy := (signed32 (s.get Reg.REFPHERR_PHERR) + signed32 (s.get Reg.REFBO_BO)).natAbs } }

/-- The grid can have come within 2 CCLK cycles of the reference since the slew started (R490). -/
def State.slewReached (s : State) : Bool :=
  decide (s.refs.slewBy * 1000000 ≤ 32 * 1000000 + 16 * (s.frame + 1 - s.refs.slewAt) * s.cclkPerFrame * s.realignPpm)

/-- REFCTL.REALIGN (R490). -/
def State.realign (s : State) : State :=
  if s.bit Reg.REFSTAT_SWITCHING || s.bit Reg.REFSTAT_HOLDOVER || s.get Reg.REFSTAT_SEL == 7 || s.bit Reg.REFSTAT_FALLBACK ||
      s.bit Reg.REFCFG_MODE || s.get Reg.REFSTAT_SEL == 0 || s.loop != loopLocked then s.refRefuse
  else (s.putBit Reg.REFSTAT_REALIGNING true).slewStart

def execRealign (s : State) : Host.Outcome State Fault Refusal := done s.realign

/-- The frame grid has reached the reference (R450, R490, R491). -/
def execRealignDone (s : State) : Host.Outcome State Fault Refusal :=
  done (if s.bit Reg.REFSTAT_REALIGNING ∧ s.slewReached then
    ((((s.putBit Reg.REFSTAT_REALIGNING false).setBo 0).putBit Reg.OUTCFG_DOM (s.bit Reg.OUTCFG_DOM_PEND)).put
      Reg.CORESTAT_PHASE 1).raise 25
    else s)

/-- A write to REFCTL (R475, R477); selection follows. -/
def State.refctlWrite (s : State) (v : Nat) : State :=
  let s1 : State := if s.bit Reg.REFSTAT_SWITCHING then { s with refs := { s.refs with ctl := some v } }
    else ({ s with refs := { s.refs with ctl := some v } }.refctlApply).refSelect (Config.measured s.free 0)
  if v.testBit 8 then s1.realign else s1

/-- A write to REFSTEER (R488). -/
def State.refsteerWrite (s : State) (v : BitVec 32) : State :=
  if s.bit Reg.REFCFG_MODE then
    { s.put Reg.REFSTEER_STEER (word32 (clampSteer v.toInt)) with refs := { s.refs with swAt := s.frame } }
  else s

def execRefsteerWrite (v : BitVec 32) (s : State) : Host.Outcome State Fault Refusal := done (s.refsteerWrite v)

/-- BO captured afresh, by the phase error that REFPHERR shows (R487): the loop then sees none. -/
def State.boAfresh (s : State) : State :=
  if s.get Reg.REFSTAT_SEL = 0 ∨ s.get Reg.REFSTAT_SEL = 7 then s
  else (s.setBo (word32 (signed32 (s.get Reg.REFBO_BO) + signed32 (s.get Reg.REFPHERR_PHERR)))).put Reg.REFPHERR_PHERR 0

/-- REFCFG.MODE changes (R488, R489): the hardware loop closes from the present term; the wait for software begins. -/
def State.modeWrite (s : State) (mode : Bool) : State :=
  let was := s.bit Reg.REFCFG_MODE
  let s1 := s.putBit Reg.REFCFG_MODE mode
  if mode && !was then { s1.putBit Reg.REFSTAT_HOLDOVER false with refs := { s1.refs with swAt := s.frame } }
  else if !mode && was then s1.boAfresh.refSelect (Config.measured s.free 0) else s1

/-- SW_TO periods have passed without a write (R488). -/
def execSwSteerStale (s : State) : Host.Outcome State Fault Refusal :=
  done (if s.bit Reg.REFCFG_MODE ∧ s.refs.swAt + 16 * Nat.max 1 (s.get Reg.REFFB_SW_TO) ≤ s.frame ∧
      !s.bit Reg.REFSTAT_SW_STALE then
    (s.putBit Reg.REFSTAT_SW_STALE true).raise 28
    else s)

/-! ### Time domains (R492 to R497) -/

def State.domain (s : State) (d : Nat) : Domain := if d = 0 then s.refs.a else s.refs.b
def State.setDomain (s : State) (d : Nat) (x : Domain) : State :=
  if d = 0 then { s with refs := { s.refs with a := x } } else { s with refs := { s.refs with b := x } }

/-- One PCLK rising edge (R492). -/
def Domain.tick (x : Domain) : Domain :=
  let t := x.ns * 2 ^ 32 + x.frac + x.incNs * 2 ^ 32 + x.incFrac
  let full := 1000000000 * 2 ^ 32
  if full ≤ t then { x with sec := (x.sec + 1) % 2 ^ 48, ns := (t - full) / 2 ^ 32, frac := (t - full) % 2 ^ 32 }
  else { x with ns := t / 2 ^ 32, frac := t % 2 ^ 32 }

/-- A time stamp of the domain (R336): nanoseconds mod 2^32. -/
def Domain.stamp (x : Domain) : Nat := (x.sec * 1000000000 + x.ns) % 2 ^ 32

/-- A write to TCd_INC_NS commits both parts (R493). -/
def State.tcIncWrite (s : State) (d ns : Nat) : State :=
  let s1 := s.put (Reg.TC_INC_NS_NS d) ns
  s1.setDomain d { s1.domain d with incNs := Nat.max 1 (ns % 256), incFrac := s1.get (Reg.TC_INC_FRAC_FRAC d) % 2 ^ 32 }

def execTcIncWrite (d : Fin 2) (ns : BitVec 8) (s : State) : Host.Outcome State Fault Refusal :=
  done (s.tcIncWrite d ns.toNat)

/-- A read of TCd_NS captures the other fields (R494). -/
def State.tcNsRead (s : State) (d : Nat) : State :=
  let x := s.domain d
  (((s.put (Reg.TC_NS_NS d) x.ns).put (Reg.TC_SEC_LO_SEC d) x.sec).put (Reg.TC_SEC_HI_SEC_HI d) (x.sec / 2 ^ 32)).put
    (Reg.TC_FRAC_FRAC d) x.frac

def execTcNsRead (d : Fin 2) (s : State) : Host.Outcome State Fault Refusal := done (s.tcNsRead d)

/-- A domain has been set or stepped (R495): BO is captured afresh when it belongs to the selected reference. -/
def State.tcStepped (s : State) (d bo : Nat) : State :=
  let s1 := s.raise 26
  if s.get Reg.REFSTAT_SEL = 3 + d ∧ !s.bit Reg.REFSTAT_FALLBACK then
    (if s.bit Reg.REFSTAT_REALIGNING then (s1.setBo bo).slewStart else s1.setBo bo)
  else s1

/-- TCd_CMD.SET (R495). -/
def State.tcSet (s : State) (d bo : Nat) : State :=
  let ns := s.get (Reg.TC_SET_NS_NS d)
  if 1000000000 ≤ ns then s.refRefuse
  else (s.setDomain d { s.domain d with
      sec := (s.get (Reg.TC_SET_SEC_LO_SEC d) + 2 ^ 32 * s.get (Reg.TC_SET_SEC_HI_SEC_HI d)) % 2 ^ 48, ns := ns,
      frac := 0 }).tcStepped d bo

/-- TCd_CMD.ADJ (R495), with carry or borrow into the seconds. -/
def State.tcAdj (s : State) (d bo : Nat) : State :=
  let x := s.domain d
  let t : Int := x.sec * 1000000000 + x.ns + signed32 (s.get (Reg.TC_ADJ_ADJ d))
  (s.setDomain d { x with sec := (t / 1000000000 % 2 ^ 48).toNat, ns := (t % 1000000000).toNat }).tcStepped d bo

def execTcSet (d : Fin 2) (bo : BitVec 32) (s : State) : Host.Outcome State Fault Refusal := done (s.tcSet d bo.toNat)
def execTcAdj (d : Fin 2) (bo : BitVec 32) (s : State) : Host.Outcome State Fault Refusal := done (s.tcAdj d bo.toNat)

def execTcLatchGo (s : State) : Host.Outcome State Fault Refusal := done (s.putBit Reg.TCLATCHCTL_PENDING true)

/-- The media-clock index of a domain at a frame edge less PHOFF (R496). -/
def State.mediaIndex (s : State) (x : Domain) (r : Nat) : Nat :=
  let t : Int := (x.sec * 1000000000 + x.ns) * 2 ^ 32 + x.frac
  let n : Int := t * s.fs * s.cclkPerFrame - signed32 (s.get (Reg.PHOFF_OFFSET r)) * (1000000000 * 2 ^ 32)
  let d : Int := 1000000000 * 2 ^ 32 * s.cclkPerFrame
  ((2 * n + d) / (2 * d) % 2 ^ 32).toNat

/-- At a frame edge an awaited latch is captured (R496). -/
def State.tcLatch (s : State) : State :=
  if !s.bit Reg.TCLATCHCTL_PENDING then s
  else
    let a := s.refs.a
    let b := s.refs.b
    let s1 := (s.put Reg.TCL_FC_LO_FC s.frame).put Reg.TCL_FC_HI_FC (s.frame / 2 ^ 32)
    let s2 := ((s1.put Reg.TCL_A_SEC_LO_TIME a.sec).put Reg.TCL_A_SEC_HI_TIME (a.sec / 2 ^ 32)).put Reg.TCL_A_NS_TIME a.ns
    let s3 := ((s2.put Reg.TCL_B_SEC_LO_TIME b.sec).put Reg.TCL_B_SEC_HI_TIME (b.sec / 2 ^ 32)).put Reg.TCL_B_NS_TIME b.ns
    let s4 := (s3.put Reg.TCL_MCLK_A_MCLK (s.mediaIndex a 3)).put Reg.TCL_MCLK_B_MCLK (s.mediaIndex b 4)
    (s4.putBit Reg.TCLATCHCTL_PENDING false).raise 27

end Sys2Proof.Machine
end

