-- ==== Sys2Proof/Machine/Network.lean ====
section
/-! DEFINITION. Network ports, time-stamps, frame queues and streams (09_network).  Bytes are numbers below 256.  What lies
below the MAC (PCS, FEC, lanes) is seen through the commands that report it. -/

namespace Sys2Proof.Machine

/-! ### Ports (R330 to R335) -/

def State.netPort (s : State) (n : Nat) : NetPort := s.net.ports.look NetPort.reset n
def State.setNetPort (s : State) (n : Nat) (x : NetPort) : State :=
  { s with net := { s.net with ports := s.net.ports.upd NetPort.reset n x } }

/-- MAXLEN as applied. -/
def State.netMaxLen (s : State) (n : Nat) : Nat := Nat.min 9216 (Nat.max 64 (s.get (Reg.NETCFG_MAXLEN n)))

/-- A transmit stream drops a packet (R365). -/
def State.stmDrop (s : State) (t : Nat) : State :=
  ((((s.bump (Reg.STTX_DROPS t)).put Reg.STMFAULT_STREAM t).put Reg.STMFAULT_DIR 1).put Reg.STMFAULT_KIND 7).raiseOnce 56

/-- While LINK is 0 every stream packet is dropped (R365). -/
def State.netDropAll (s : State) (n : Nat) : State :=
  ((s.netPort n).queue.foldl (fun t e => t.stmDrop e.1) s).setNetPort n { s.netPort n with queue := [] }

/-- The link goes down (R332). -/
def State.netDown (s : State) (n : Nat) : State :=
  if s.bit (Reg.NETSTAT_LINK n) then ((s.putBit (Reg.NETSTAT_LINK n) false).netDropAll n).raise 33 else s

/-- A write to NETCFGn (R331): while EN is 1 only PAUSE_IGN and EN take effect.  A port that is disabled loses its link and
the polarity it has found (R611). -/
def State.netcfgWrite (s : State) (n v : Nat) : State :=
  let was := s.bit (Reg.NETCFG_EN n)
  let s1 := (s.put (Reg.NETCFG_PAUSE_IGN n) (v / 8)).put (Reg.NETCFG_EN n) v
  let s2 := if was then s1 else
    (((((s1.put (Reg.NETCFG_SPEED n) (v / 2)).put (Reg.NETCFG_FEC n) (v / 4)).put (Reg.NETCFG_BC_EN n) (v / 16)).put
      (Reg.NETCFG_MC_ALL n) (v / 32)).put (Reg.NETCFG_UC_ALL n) (v / 64)).put (Reg.NETCFG_MAXLEN n) (v / 65536)
  if was && !v.testBit 0 then
    let s3 := ((s2.netDown n).putBit (Reg.NETSTAT_BLOCK_LOCK n) false).putBit (Reg.NETSTAT_FEC_LOCK n) false
    let inv := s3.get Reg.PINDIFF_NET_INV
    if inv.testBit n then s3.put Reg.PINDIFF_NET_INV (inv ^^^ 2 ^ n) else s3
  else s2

def execNetEnable (n : Fin 4) (v : BitVec 32) (s : State) : Host.Outcome State Fault Refusal :=
  done (s.netcfgWrite n v.toNat)

/-- The port runs RS-FEC (R330). -/
def State.netFec (s : State) (n : Nat) : Bool := s.bit (Reg.NETCFG_SPEED n) && s.bit (Reg.NETCFG_FEC n)

/-- What a running port signals in place of frames: remote fault while it sees a local fault (R332). -/
def State.netSignalsFault (s : State) (n : Nat) : Bool := s.bit (Reg.NETCFG_EN n) && s.bit (Reg.NETSTAT_LOCAL_FAULT n)

/-- The lock has held for 1 ms with no local fault (R332). -/
def execNetLinkUp (n : Fin 4) (remote : Bool) (s : State) : Host.Outcome State Fault Refusal :=
  done (if !s.islandStopped (islNet n) ∧ s.bit (Reg.NETCFG_EN n) ∧ !s.bit (Reg.NETSTAT_LINK n) then
    (((((s.putBit (Reg.NETSTAT_LINK n) true).putBit (Reg.NETSTAT_BLOCK_LOCK n) true).putBit (Reg.NETSTAT_FEC_LOCK n)
      (s.netFec n)).putBit (Reg.NETSTAT_LOCAL_FAULT n) false).putBit (Reg.NETSTAT_REMOTE_FAULT n) remote).raise 32
    else s)

/-- The first loss of lock or the first local fault (R332). -/
def execNetLinkDown (n : Fin 4) (lock fec fault remote : Bool) (s : State) : Host.Outcome State Fault Refusal :=
  done (if s.bit (Reg.NETCFG_EN n) ∧ (!lock ∨ (s.netFec n ∧ !fec) ∨ fault) then
    ((((s.netDown n).putBit (Reg.NETSTAT_BLOCK_LOCK n) lock).putBit (Reg.NETSTAT_FEC_LOCK n) (fec && s.netFec n)).putBit
      (Reg.NETSTAT_LOCAL_FAULT n) fault).putBit (Reg.NETSTAT_REMOTE_FAULT n) remote
    else s)

def execNetPauseEnd (n : Fin 4) (s : State) : Host.Outcome State Fault Refusal :=
  done (if s.bit (Reg.NETSTAT_PAUSED n) then
    (s.putBit (Reg.NETSTAT_PAUSED n) false).setNetPort n { s.netPort n with quanta := 0 }
    else s)

def State.netcntClear (s : State) (n i : Nat) : State :=
  if i = 0 then (s.put (Reg.NETCNT0_FCS n) 0).put (Reg.NETCNT0_LEN n) 0
  else if i = 1 then (s.put (Reg.NETCNT1_PAUSE n) 0).put (Reg.NETCNT1_MACCTL n) 0
  else (s.put (Reg.NETCNT2_FEC_UNC n) 0).put (Reg.NETCNT2_RXQ_DROP n) 0

def execNetcntClear (n : Fin 4) (i : Fin 3) (s : State) : Host.Outcome State Fault Refusal := done (s.netcntClear n i)

/-! ### Bytes -/

/-- The number that bytes give, most significant first. -/
def beNat (bs : List Nat) : Nat := bs.foldl (fun a b => 256 * a + b) 0

/-- A number as bytes, most significant first. -/
def beBytes : Nat → Nat → List Nat
  | 0, _ => []
  | n + 1, v => v / 256 ^ n % 256 :: beBytes n v

/-- Bytes `lo` to `lo + n - 1` of a frame, as a number. -/
def field (bs : List Nat) (lo n : Nat) : Nat := beNat ((bs.drop lo).take n)

/-- A frame with bytes from `lo` on replaced. -/
def splice (bs : List Nat) (lo : Nat) (xs : List Nat) : List Nat := bs.take lo ++ xs ++ bs.drop (lo + xs.length)

/-- The sum of big-endian 16-bit words, an odd last byte padded with 0. -/
def sum16 : List Nat → Nat
  | a :: b :: r => 256 * a + b + sum16 r
  | [a] => 256 * a
  | [] => 0

/-- The Internet checksum of a sum: the complement of its one's complement fold, 0xFFFF for a sum that is 0. -/
def csum (n : Nat) : Nat := if n = 0 then 0xFFFF else 0xFFFF - ((n - 1) % 65535 + 1)

/-- One's complement folding of a sum. -/
def fold16 (n : Nat) : Nat := if n = 0 then 0 else (n - 1) % 65535 + 1

/-- Where the EtherType stands: one tag with TPID 0x8100 is recognised (R330). -/
def etOff (bs : List Nat) : Nat := if field bs 12 2 = 0x8100 then 16 else 12

/-! ### Time-stamps (R336 to R338) -/

/-- The correction of the speed and FEC mode, in tenths of a nanosecond (R336). -/
def State.netCorr (s : State) (n : Nat) (tx : Bool) : Int :=
  if !s.bit (Reg.NETCFG_SPEED n) then (if tx then 288 else 416)
  else if s.bit (Reg.NETCFG_FEC n) then (if tx then 572 else 2685)
  else (if tx then 156 else 233)

/-- The instant, in ns of a domain, that a stamp describes: `ns` from now at the MAC/PCS boundary, with the correction, the
board delay and R338's deviation. -/
def State.netInstant (s : State) (n d : Nat) (tx : Bool) (ns : Int) : Int :=
  let x := s.domain d
  let t : Int := (x.sec * 1000000000 + x.ns) * 2 ^ 32 + x.frac
  let adj := if tx then (BitVec.ofNat 16 (s.get (Reg.NETTSADJ_TX_ADJ n))).toInt
    else -(BitVec.ofNat 16 (s.get (Reg.NETTSADJ_RX_ADJ n))).toInt
  let c := if tx then s.netCorr n tx else -s.netCorr n tx
  (t + (10 * ns + c) * 2 ^ 32 / 10) / 2 ^ 32 + adj +
    cutErr (Config.stampErr s.free) (if s.bit (Reg.NETCFG_SPEED n) then 2 else 4)

/-- The 32-bit stamp of an instant. -/
def stampOf (t : Int) : Nat := (t % 2 ^ 32).toNat

/-! ### Frame queues (R339 to R345) -/

def rxRing (n : Nat) : Nat := 0x30300000 + 0x40000 * n
def txRing (n : Nat) : Nat := 0x30320000 + 0x40000 * n
def ringSize : Nat := 0x20000

/-- Word `i` of a ring. -/
def State.ringWord (s : State) (base off : Nat) : Nat := (s.ram (base + off % ringSize / 4 * 4)).data.toNat

/-- Byte `off` of a ring (R339). -/
def State.ringByte (s : State) (base off : Nat) : Nat := s.ringWord base off / 256 ^ (off % 4) % 256

/-- Words written into a ring from `off` on. -/
def State.ringWrite (s : State) (base off : Nat) (ws : List Nat) : State :=
  (ws.foldl (fun (p : State × Nat) w =>
    (p.1.setRam (base + p.2 % ringSize / 4 * 4) (Sinter.ofData (BitVec.ofNat 32 w)), p.2 + 4)) (s, off)).1

/-- Bytes as words, byte k in bits 8b + 7:8b (R339), padded with 0 to a multiple of 16 bytes. -/
def wordsOf : List Nat → List Nat
  | a :: b :: c :: d :: r => (a + 256 * b + 65536 * c + 16777216 * d) :: wordsOf r
  | [] => []
  | [a] => [a]
  | [a, b] => [a + 256 * b]
  | [a, b, c] => [a + 256 * b + 65536 * c]

/-- The size of a record of `len` frame bytes. -/
def recordSize (len : Nat) : Nat := 16 + (len + 15) / 16 * 16

/-- Bytes that a writer may use: it does not make HEAD reach TAIL (R339). -/
def ringRoom (head tail : Nat) : Nat := (tail + ringSize - head - 1) % ringSize

/-- The address filter (R340). -/
def State.netAccepts (s : State) (n : Nat) (bs : List Nat) : Bool :=
  let da := field bs 0 6
  decide (da = s.get (Reg.NETMAC_HI_ADDR_HI n) * 2 ^ 32 + s.get (Reg.NETMAC_LO_ADDR n)) ||
  (decide (da = 0xFFFFFFFFFFFF) && s.bit (Reg.NETCFG_BC_EN n)) ||
  (decide (field bs 0 1 % 2 = 1) && (s.bit (Reg.NETCFG_MC_ALL n) || (List.range 16).any (fun i =>
    s.bit (Reg.NETMCF_EN n i) && decide (da = s.get (Reg.NETMCF_ADDR_HI n i) * 2 ^ 32 + s.get (Reg.NETMCF_ADDR n i))))) ||
  s.bit (Reg.NETCFG_UC_ALL n)

/-- A frame goes into the receive queue (R340, R341). -/
def State.netQueue (s : State) (n : Nat) (bs : List Nat) (age : Nat) : State :=
  let head := s.get (Reg.NETRXQ_HEAD_PTR n)
  let size := recordSize bs.length
  if ringRoom head (s.get (Reg.NETRXQ_TAIL_PTR n)) < size then
    ((s.bump (Reg.NETCNT2_RXQ_DROP n)).putBit (Reg.NETSTAT_RXQ_FULL n) true).raiseOnce 37
  else
    let pad := bs ++ List.replicate (size - 16 - bs.length) 0
    let w0 := bs.length + (if etOff bs = 16 then 2 ^ 14 else 0)
    let ws := [w0, stampOf (s.netInstant n 0 false (-(age : Int))), stampOf (s.netInstant n 1 false (-(age : Int))), 0]
    ((s.ringWrite (rxRing n) head (ws ++ wordsOf pad)).put (Reg.NETRXQ_HEAD_PTR n) ((head + size) % ringSize)).raiseOnce 40

/-- A write to NETRXQ_TAIL or NETTXQ_HEAD: bits 3:0 are ignored. -/
def State.rxqTailWrite (s : State) (n v : Nat) : State := s.put (Reg.NETRXQ_TAIL_PTR n) (v / 16 * 16)
def State.txqHeadWrite (s : State) (n v : Nat) : State := s.put (Reg.NETTXQ_HEAD_PTR n) (v / 16 * 16)

def execNetrxqTailWrite (n : Fin 4) (v : BitVec 17) (s : State) : Host.Outcome State Fault Refusal :=
  done (s.rxqTailWrite n v.toNat)

def execNettxqHeadWrite (n : Fin 4) (v : BitVec 17) (s : State) : Host.Outcome State Fault Refusal :=
  done (s.txqHeadWrite n v.toNat)

/-- A transmit stamp goes into the FIFO (R344). -/
def State.txStamp (s : State) (n stamp tag d : Nat) : State :=
  if 16 ≤ (s.netPort n).stamps.length then (s.putBit (Reg.NETSTAT_TS_OVF n) true).raise 39
  else (s.setNetPort n { s.netPort n with stamps := (s.netPort n).stamps ++ [(stamp, tag, d)] }).raise 38

/-- A read of NETTXTS_TAG removes the oldest entry. -/
def State.txtsPop (s : State) (n : Nat) : State :=
  s.setNetPort n { s.netPort n with stamps := (s.netPort n).stamps.drop 1 }

def execNettxtsPop (n : Fin 4) (s : State) : Host.Outcome State Fault Refusal := done (s.txtsPop n)

/-- The frame is IPv4 with a 20-byte header and UDP. -/
def isUdp4 (bs : List Nat) : Bool :=
  let e := etOff bs
  decide (field bs e 2 = 0x800) && decide (field bs (e + 2) 1 = 0x45) && decide (field bs (e + 11) 1 = 17)

/-- One-step insertion (R345) at instant `t`. -/
def insertTime (w0 w1 w2 : Nat) (t : Int) (bs : List Nat) : List Nat :=
  let b1 := if w0.testBit 15 then
      splice bs (w1 % 65536) (beBytes 6 (t / 1000000000 % 2 ^ 48).toNat ++ beBytes 4 (t % 1000000000).toNat) else bs
  let b2 := if w0.testBit 16 then
      splice b1 (w1 / 65536) (beBytes 8 (((field b1 (w1 / 65536) 8 : Int) +
        (BitVec.ofInt 32 (stampOf t - (w2 : Int))).toInt * 65536) % 2 ^ 64).toNat) else b1
  let u := etOff bs + 22
  let old := field b2 (u + 6) 2
  if w0.testBit 18 && isUdp4 bs && decide (old ≠ 0) then
    splice b2 (u + 6) (beBytes 2 (0xFFFF - (0xFFFF - old + sum16 (b2.drop u) + 65535 * (sum16 (bs.drop u) / 65535 + 1) -
      sum16 (bs.drop u)) % 65535))
  else b2

/-- A frame as it is on the wire: padded to 60 bytes, then its FCS (R330, R345), least significant byte first. -/
def wireFrame (bs : List Nat) : List Nat :=
  let body := bs ++ List.replicate (60 - bs.length) 0
  let f := (Digest.fcs (body.map (BitVec.ofNat 8))).toNat
  body ++ (List.range 4).map (fun k => f / 256 ^ k % 256)

/-- A frame is sent (R330). -/
def State.netSend (s : State) (n : Nat) (bs : List Nat) : State :=
  s.setNetPort n { s.netPort n with sent := wireFrame bs }

/-- The port may start a frame at this boundary: it runs, its link is up and no pause holds it (R334, R342). -/
def State.netFree (s : State) (n : Nat) : Bool :=
  s.bit (Reg.NETCFG_EN n) && s.bit (Reg.NETSTAT_LINK n) && !s.bit (Reg.NETSTAT_PAUSED n) && !s.netSignalsFault n

/-- A transmit record breaks R343. -/
def State.txBad (s : State) (n w0 w1 w3 : Nat) : Bool :=
  let len := w0 % 2 ^ 14
  decide (len < 14) || decide (s.netMaxLen n - 4 < len) || decide (w0 / 2 ^ 19 ≠ 0) || decide (w3 / 2 ^ 16 ≠ 0) ||
  (w0.testBit 15 && decide (len < w1 % 65536 + 10)) || (w0.testBit 16 && decide (len < w1 / 65536 + 8))

/-- The next transmit record is sent, or skipped if it is bad; stream packets go first (R342 to R345, R364). -/
def execNetTxRecord (n : Fin 4) (later : BitVec 32) (s : State) : Host.Outcome State Fault Refusal :=
  let tail := s.get (Reg.NETTXQ_TAIL_PTR n)
  let w (i : Nat) : Nat := s.ringWord (txRing n) (tail + 4 * i)
  let len := w 0 % 2 ^ 14
  let d := if (w 0).testBit 17 then 1 else 0
  let t := s.netInstant n d true later.toNat
  let s1 := s.put (Reg.NETTXQ_TAIL_PTR n) ((tail + recordSize len) % ringSize)
  done (if s.islandStopped (islNet n) ∨ !s.netFree n ∨ s.get (Reg.NETTXQ_HEAD_PTR n) = tail ∨ !(s.netPort n).queue.isEmpty then s
    else if s.txBad n (w 0) (w 1) (w 3) then (s1.putBit (Reg.NETSTAT_TXQ_BAD n) true).raise 39
    else
      let bs := (List.range len).map (fun i => s.ringByte (txRing n) (tail + 16 + i))
      let s2 := s1.netSend n (insertTime (w 0) (w 1) (w 2) t bs)
      if (w 0).testBit 14 then s2.txStamp n (stampOf t) (w 3 % 65536) d else s2)

/-! ### Streams: configuration (R346, R349, R357) -/

def State.streamRx (s : State) (r : Nat) : StreamRx := s.net.rx.look StreamRx.reset r
def State.setStreamRx (s : State) (r : Nat) (x : StreamRx) : State :=
  { s with net := { s.net with rx := s.net.rx.upd StreamRx.reset r x } }

/-- B, the depth of a receive buffer (R351). -/
def State.bufDepth (s : State) : Nat := if s.mult = 4 then 1024 else 512

/-- The address of word `i` of buffer `k` (R351). -/
def State.bufKey (s : State) (k i : Nat) : Nat := 0x30000000 + 4 * s.bufDepth * k + 4 * i

/-- P of a stream of rate r times the base rate (R347). -/
def packetFrames (ptime : Bool) (r : Nat) : Nat := (if ptime then 6 else 48) * r

/-- The rate of a receive stream: times its base rate, and whether that base is 44.1 kHz. -/
def rateMult (code : Nat) : Nat := 2 ^ (code % 3)
def State.stmP (s : State) (r : Nat) : Nat := packetFrames (s.bit (Reg.STRX_PTIME r)) (rateMult (s.get (Reg.STRX_RATE r)))

/-- RATE names the engine rate. -/
def State.engineRate (s : State) (code : Nat) : Bool :=
  decide (code = s.get Reg.PWRRATE_MULT_NOW + (if s.fam441 then 3 else 0))

/-- Bytes of one sample. -/
def sampleBytes (l24 : Bool) : Nat := if l24 then 3 else 2

/-- The buffers of the enabled receive streams. -/
def State.rxUsed (s : State) : Nat :=
  ((List.range 128).map (fun r => if s.bit (Reg.STRX_EN r) then s.get (Reg.STRX_NCH r) else 0)).foldl (· + ·) 0

/-- The channels of the enabled transmit streams, each counted 2^RATEK times (R346). -/
def State.txUsed (s : State) : Nat :=
  ((List.range 128).map (fun t =>
    if s.bit (Reg.STTX_EN t) then s.get (Reg.STTX_NCH t) * 2 ^ s.get (Reg.STTX_RATEK t) else 0)).foldl (· + ·) 0

/-- STMSTAT (R346): each count as far as its field goes. -/
def State.stmTotals (s : State) : State :=
  (s.put Reg.STMSTAT_RX_BUF_USED (Nat.min 2047 s.rxUsed)).put Reg.STMSTAT_TX_CH_USED (Nat.min 2047 s.txUsed)

/-- The check of a receive stream (R349). -/
def State.rxCheck (s : State) (r : Nat) : Bool :=
  let rate := s.get (Reg.STRX_RATE r)
  let nch := s.get (Reg.STRX_NCH r)
  let buf := s.get (Reg.STRX_BUF r)
  let p := s.stmP r
  decide (rate < 6) && decide (1 ≤ nch) && decide (nch ≤ 64) && decide (buf + nch ≤ s.nNet) &&
  decide (62 + p * nch * sampleBytes (s.bit (Reg.STRX_FMT r)) ≤ s.netMaxLen (s.get (Reg.STRX_PORT r))) &&
  decide (s.get (Reg.STRX_LAT r) + p ≤ s.bufDepth) && (!s.bit (Reg.STRX_SYNC r) || s.engineRate rate) &&
  (List.range 128).all (fun q => decide (q = r) || !s.bit (Reg.STRX_EN q) || decide (s.get (Reg.STRX_NCH q) = 0) ||
    decide (s.get (Reg.STRX_BUF q) + s.get (Reg.STRX_NCH q) ≤ buf) || decide (buf + nch ≤ s.get (Reg.STRX_BUF q)))

/-- P / 2^RATEK of a transmit stream: the engine frames of a packet (R361). -/
def State.txFrames (s : State) (t : Nat) : Nat := packetFrames (s.bit (Reg.STTX_PTIME t)) s.mult

/-- The check of a transmit stream (R349). -/
def State.txCheck (s : State) (t : Nat) : Bool :=
  let k := s.get (Reg.STTX_RATEK t)
  let nch := s.get (Reg.STTX_NCH t)
  decide (k < 3) && decide (1 ≤ nch) && decide (nch ≤ 64) && decide (s.mult * 2 ^ k ≤ 4) &&
  decide ((if s.bit (Reg.STTX_VLAN t) then 62 else 58) + s.txFrames t * 2 ^ k * nch * sampleBytes (s.bit (Reg.STTX_FMT t)) ≤
    s.netMaxLen (s.get (Reg.STTX_PORT t))) &&
  decide (s.txUsed ≤ (if s.mult = 4 then 512 else 1024))

/-- A stream fault is recorded. -/
def State.stmFault (s : State) (tx : Bool) (n kind : Nat) : State :=
  ((s.put Reg.STMFAULT_STREAM n).putBit Reg.STMFAULT_DIR tx).put Reg.STMFAULT_KIND kind

/-- The samples a stream holds are gone. -/
def State.samplesForget (s : State) (r : Nat) : State :=
  let mine (k : Nat) : Bool := decide (s.bufKey (s.get (Reg.STRX_BUF r)) 0 ≤ k) &&
    decide (k < s.bufKey (s.get (Reg.STRX_BUF r) + s.get (Reg.STRX_NCH r)) 0)
  { s with net := { s.net with present := s.net.present.filter (fun e => !mine e.1) } }

/-- EN of a stream is written to 1: it is checked (R349, R357). -/
def State.stmStart (s : State) (tx : Bool) (n : Nat) : State :=
  let s0 := s.stmTotals
  if tx then
    (if s0.txCheck n then s0.put (Reg.STTX_STATE n) 1 else ((s0.put (Reg.STTX_STATE n) 2).stmFault true n 0).raiseOnce 55)
  else
    (if s0.rxCheck n then ((if s.bit (Reg.STRX_SYNC n) then s0 else s0.samplesForget n).put (Reg.STRX_STATE n) 1).setStreamRx n StreamRx.reset
     else ((s0.put (Reg.STRX_STATE n) 4).stmFault false n 0).raiseOnce 55)

/-- EN of a stream is written to 0: it is OFF (R357). -/
def State.stmStop (s : State) (tx : Bool) (n : Nat) : State :=
  if tx then
    let s1 := ((s.put (Reg.STTX_EN n) 0).put (Reg.STTX_STATE n) 0).stmTotals
    { s1 with net := { s1.net with tx := s1.net.tx.upd none n none } }
  else (((s.put (Reg.STRX_EN n) 0).put (Reg.STRX_STATE n) 0).setStreamRx n StreamRx.reset).stmTotals

/-- A write to a stream's CTL word: while EN is 1 only EN = 0 takes effect (R349). -/
def State.stmCtlWrite (s : State) (tx : Bool) (n v : Nat) : State :=
  if tx then
    if s.bit (Reg.STTX_EN n) then (if v.testBit 0 then s else s.stmStop true n)
    else
      let s1 := ((((((s.put (Reg.STTX_EN n) v).put (Reg.STTX_RATEK n) (v / 2)).put (Reg.STTX_FMT n) (v / 8)).put
        (Reg.STTX_PTIME n) (v / 16)).put (Reg.STTX_VLAN n) (v / 32)).put (Reg.STTX_UDPCS n) (v / 64)).put
        (Reg.STTX_PORT n) (v / 128) |>.put (Reg.STTX_NCH n) (v / 512)
      if v.testBit 0 then s1.stmStart true n else s1
  else
    if s.bit (Reg.STRX_EN n) then (if v.testBit 0 then s else s.stmStop false n)
    else
      let s1 := (((((((s.put (Reg.STRX_EN n) v).put (Reg.STRX_SYNC n) (v / 2)).put (Reg.STRX_RATE n) (v / 4)).put
        (Reg.STRX_FMT n) (v / 32)).put (Reg.STRX_PTIME n) (v / 64)).put (Reg.STRX_MISS n) (v / 128)).put
        (Reg.STRX_PORT n) (v / 256)).put (Reg.STRX_NCH n) (v / 1024) |>.put (Reg.STRX_BUF n) (v / 131072)
      if v.testBit 0 then s1.stmStart false n else s1

def execStreamEnable (tx : Bool) (n : Fin 128) (v : BitVec 32) (s : State) : Host.Outcome State Fault Refusal :=
  done (s.stmCtlWrite tx n (v.toNat ||| 1))

def execStreamDisable (tx : Bool) (n : Fin 128) (s : State) : Host.Outcome State Fault Refusal := done (s.stmStop tx n)

def execSttxDropsClear (t : Fin 128) (s : State) : Host.Outcome State Fault Refusal := done (s.put (Reg.STTX_DROPS t) 0)

def State.strxcntClear (s : State) (r i : Nat) : State :=
  if i = 0 then (s.put (Reg.STRXCNT_PKTS r) 0).put (Reg.STRXCNT_LOST r) 0
  else if i = 1 then (s.put (Reg.STRXCNT_LATE r) 0).put (Reg.STRXCNT_EARLY r) 0
  else (s.put (Reg.STRXCNT_MALFORMED r) 0).put (Reg.STRXCNT_MISSING r) 0

def execStrxcntClear (r : Fin 128) (i : Fin 3) (s : State) : Host.Outcome State Fault Refusal := done (s.strxcntClear r i)

/-! ### Streams: receiving (R350 to R357) -/

/-- The IPv4 and UDP conditions of R350. -/
def streamShaped (bs : List Nat) : Bool :=
  let e := etOff bs
  isUdp4 bs && decide (field bs (e + 8) 2 % 2 ^ 14 = 0) && decide (e + 22 ≤ bs.length) &&
  decide (fold16 (sum16 ((bs.drop (e + 2)).take 20)) = 0xFFFF)

/-- The frame matches receive stream `r` of port `n` (R350). -/
def State.streamMatches (s : State) (n r : Nat) (bs : List Nat) : Bool :=
  let e := etOff bs
  let m := s.get (Reg.STRX_MATCH r)
  s.bit (Reg.STRX_EN r) && decide (s.get (Reg.STRX_STATE r) ≠ 4) && decide (s.get (Reg.STRX_PORT r) = n) &&
  (!m.testBit 0 || decide (field bs 0 6 = s.get (Reg.STRX_DMAC_HI r) * 2 ^ 32 + s.get (Reg.STRX_DMAC r))) &&
  (!m.testBit 1 || decide (field bs (e + 18) 4 = s.get (Reg.STRX_DIP r))) &&
  (!m.testBit 2 || decide (field bs (e + 24) 2 = s.get (Reg.STRX_DPORT r))) &&
  (!m.testBit 3 || (decide (e + 42 ≤ bs.length) && decide (field bs (e + 38) 4 = s.get (Reg.STRX_SSRC r)))) &&
  (!m.testBit 4 || (decide (e = 16) && decide (field bs 14 2 % 4096 = s.get (Reg.STRX_VID r)))) &&
  (!m.testBit 5 || (decide (e + 32 ≤ bs.length) && decide (field bs (e + 31) 1 % 128 = s.get (Reg.STRX_PT r))))

/-- The packet passes R352: the UDP checksum, the RTP header of R347 and the payload length. -/
def State.packetGood (s : State) (r : Nat) (bs : List Nat) : Bool :=
  let e := etOff bs
  let u := e + 22
  let ulen := field bs (u + 4) 2
  let need := 20 + s.stmP r * s.get (Reg.STRX_NCH r) * sampleBytes (s.bit (Reg.STRX_FMT r))
  let pseudo := sum16 ((bs.drop (e + 14)).take 8) + 17 + ulen
  decide (ulen = need) && decide (u + ulen ≤ bs.length) && decide (field bs (u + 8) 1 = 0x80) &&
  (decide (field bs (u + 6) 2 = 0) || decide (fold16 (pseudo + sum16 ((bs.drop u).take ulen)) = 0xFFFF))

/-- The sample of channel `i` at place `k` of a packet, as a Q1.31 word (R347, R355). -/
def State.packetSample (s : State) (r : Nat) (bs : List Nat) (k i : Nat) : Sinter :=
  let b := sampleBytes (s.bit (Reg.STRX_FMT r))
  Sinter.ofData (BitVec.ofNat 32 (field bs (etOff bs + 42 + (k * s.get (Reg.STRX_NCH r) + i) * b) b * 2 ^ (32 - 8 * b)))

/-- Sample frame `k` of a packet goes to word `f` mod B of the stream's buffers, with its presence bit (R353, R355). -/
def State.bufWrite (s : State) (r : Nat) (bs : List Nat) (k f : Nat) : State :=
  (List.range (s.get (Reg.STRX_NCH r))).foldl (fun t i =>
    let key := t.bufKey (t.get (Reg.STRX_BUF r) + i) (f % t.bufDepth)
    let t1 := t.setRam key (t.packetSample r bs k i)
    { t1 with net := { t1.net with present := t1.net.present.upd false key true } }) s

/-- A packet in error is counted (R352 to R354). -/
def State.rxEarly (s : State) (r : Nat) : State := ((s.bump (Reg.STRXCNT_EARLY r)).stmFault false r 3).raiseOnce 51
def State.rxLate (s : State) (r : Nat) : State := ((s.bump (Reg.STRXCNT_LATE r)).stmFault false r 2).raiseOnce 50

/-- The frame that the sample with timestamp `ts` belongs to (R353). -/
def State.frameOf (s : State) (r ts : Nat) : Int :=
  s.frame + (BitVec.ofInt 32 ((ts : Int) - s.get Reg.STMTSOFF_OFFSET + s.get (Reg.STRX_LAT r) - s.frame)).toInt

/-- An accepted packet of a stream with SYNC = 1 (R353). -/
def State.rxSync (s : State) (r : Nat) (bs : List Nat) (ts : Nat) : State :=
  let p := s.stmP r
  let fs := (List.range p).map (fun k => s.frameOf r (ts + k))
  if fs.any (fun f => decide ((s.frame : Int) + s.bufDepth ≤ f)) then s.rxEarly r
  else
    let s1 := (List.range p).foldl (fun t k =>
      if (t.frame : Int) < s.frameOf r (ts + k) then t.bufWrite r bs k (s.frameOf r (ts + k)).toNat else t) s
    if fs.any (fun f => decide (f ≤ (s.frame : Int))) then s1.rxLate r else s1

/-- Timestamp `a` less timestamp `b`, signed. -/
def tsDiff (a b : Nat) : Int := (BitVec.ofInt 32 ((a : Int) - b)).toInt

/-- The samples that stream `r` holds (R354). -/
def State.samplesHeld (s : State) (r : Nat) : Nat :=
  ((List.range s.bufDepth).filter (fun i => s.net.present.look false (s.bufKey (s.get (Reg.STRX_BUF r)) i))).length

/-- One sample of a stream, in the units in which samples fall due. -/
def State.sampleDue (s : State) : Nat := s.baseRate * s.mult * 10 ^ 15

/-- A frame passes for a stream with SYNC = 0 that is being presented (R354): the steering moves, with a time constant of 1 s, towards a
rate within 1,000 ppm of RATE, above it where more than LAT samples are held and below it where fewer are; samples fall due at
the steered rate. -/
def State.streamSteer (s : State) (r : Nat) : State :=
  let x := s.streamRx r
  if s.bit (Reg.STRX_SYNC r) ∨ !x.begun ∨ s.get (Reg.STRX_STATE r) ≠ 2 then s
  else
    let pull := cutErr (Config.steerTarget s.free r) (10 ^ 12)
    let held := s.samplesHeld r
    let lat := s.get (Reg.STRX_LAT r)
    let target : Int := if lat < held then pull.natAbs else if held < lat then -pull.natAbs else 0
    let code := s.get (Reg.STRX_RATE r)
    let steer := x.steer + (target - x.steer) / (s.baseRate * s.mult : Nat)
    s.setStreamRx r { x with
      steer := steer
      due := x.due + ((if 3 ≤ code then 44100 else 48000) * rateMult code * (10 ^ 15 + steer)).toNat }

/-- An accepted packet of a stream with SYNC = 0 (R354). -/
def State.rxAsync (s : State) (r : Nat) (bs : List Nat) (ts : Nat) : State :=
  let p := s.stmP r
  let x := s.streamRx r
  let next := x.next.getD ts
  let s0 := s.setStreamRx r { x with next := some next }
  if (s.bufDepth : Int) ≤ tsDiff (ts + p - 1) next then s0.rxEarly r
  else if tsDiff (ts + p - 1) next < 0 then s0.rxLate r
  else
    let s1 := (List.range p).foldl (fun t k =>
      if 0 ≤ tsDiff (ts + k) next then t.bufWrite r bs k ((ts + k) % 2 ^ 32) else t) s0
    let held := s1.samplesHeld r
    if x.begun || decide (held < s.get (Reg.STRX_LAT r)) then s1
    else s1.setStreamRx r { s1.streamRx r with begun := true, due := s.sampleDue }

/-- A packet that stream `r` takes (R352, R357, R359). -/
def State.streamTake (s : State) (r : Nat) (bs : List Nat) : State :=
  if !s.packetGood r bs then ((s.bump (Reg.STRXCNT_MALFORMED r)).stmFault false r 1).raiseOnce 53
  else
    let u := etOff bs + 22
    let seq := field bs (u + 10) 2
    let ts := field bs (u + 12) 4
    let x := s.streamRx r
    let lost := if x.seq = 0 then 0 else (seq + 2 * 65536 - (x.seq - 1) - 1) % 65536
    let s1 := if s.get (Reg.STRX_STATE r) = 2 then s else (s.put (Reg.STRX_STATE r) 2).raise 48
    let s2 := (s1.bump (Reg.STRXCNT_PKTS r)).bumpBy (Reg.STRXCNT_LOST r) lost
    let phase := if s.bit (Reg.STRX_SYNC r) then ((s.frameOf r ts) % s.stmP r).toNat else ts % s.stmP r
    let s3 := s2.setStreamRx r { x with seq := seq + 1, lastAt := s.frame, phase := phase + 1 }
    if s.bit (Reg.STRX_SYNC r) then s3.rxSync r bs ts else s3.rxAsync r bs ts

/-- The ASRC units that bind a channel of receive stream `r` (R358). -/
def State.streamUnits (s : State) (r : Nat) : List Nat :=
  (((List.range s.nNet).filter (fun c => (s.net.maps.look 0 c).testBit 13 && s.net.maps.look 0 c / 64 % 128 == r)).flatMap
    (fun c => ((s.boundTo (0x400 + c)).filter (fun v => s.cnvMode (v / 8) == 1)).map (· / 8))).eraseDups

/-- 8 packet times have passed without an accepted packet (R357); with SYNC = 0 the units that the stream feeds lose their
input (R268). -/
def execStmRxStale (r : Fin 128) (s : State) : Host.Outcome State Fault Refusal :=
  let base := if 3 ≤ s.get (Reg.STRX_RATE r) then 44100 else 48000
  let pt := if s.bit (Reg.STRX_PTIME r) then 6 else 48
  done (if s.get (Reg.STRX_STATE r) = 2 ∧
      8 * pt * s.baseRate * s.mult ≤ (s.frame - (s.streamRx r).lastAt) * base then
    (if s.bit (Reg.STRX_SYNC r) then [] else s.streamUnits r).foldl (fun t u => t.cnvBreak u 0)
      ((((if s.bit (Reg.STRX_SYNC r) then s else s.samplesForget r).put (Reg.STRX_STATE r) 3).setStreamRx r
        { s.streamRx r with next := none, begun := false }).raise 49)
    else s)

/-- A frame that passes R333 is offered to the streams, then to the address filter (R350, R340). -/
def State.netDeliver (s : State) (n : Nat) (bs : List Nat) (age : Nat) : State :=
  let takers := if streamShaped bs then (List.range 128).filter (fun r => s.streamMatches n r bs) else []
  match takers with
  | [] => if s.netAccepts n bs then s.netQueue n bs age else s
  | r :: rest => (if rest.isEmpty then s else (s.stmFault false r 8).raiseOnce 54).streamTake r bs

/-- A MAC Control frame (R334, R335). -/
def State.macControl (s : State) (n : Nat) (bs : List Nat) : State :=
  if field bs 14 2 ≠ 1 then s.bump (Reg.NETCNT1_MACCTL n)
  else
    let s1 := s.bump (Reg.NETCNT1_PAUSE n)
    let q := field bs 16 2
    if s.bit (Reg.NETCFG_PAUSE_IGN n) then s1
    else ((s1.putBit (Reg.NETSTAT_PAUSED n) (decide (q ≠ 0))).setNetPort n { s.netPort n with quanta := q }).raise 35

/-- A received frame (R333). -/
def execNetFrameRx (n : Fin 4) (bytes : List (BitVec 8)) (fcs : Bool) (unc : BitVec 8) (age : BitVec 32) (s : State) :
    Host.Outcome State Fault Refusal :=
  let bs := bytes.map BitVec.toNat
  let bad := decide (unc ≠ 0) && s.netFec n
  let s0 := if bad then (s.bumpBy (Reg.NETCNT2_FEC_UNC n) unc.toNat).raiseOnce 34 else s
  let size := bs.length + 4
  let short := decide (size < 64) || decide (s.netMaxLen n < size)
  done (if s.islandStopped (islNet n) || !(s.bit (Reg.NETCFG_EN n) && s.bit (Reg.NETSTAT_LINK n)) then s
    else if !fcs || bad || short then
      let s1 := if !fcs || bad then s0.bump (Reg.NETCNT0_FCS n) else s0
      let s2 := if short then s1.bump (Reg.NETCNT0_LEN n) else s1
      (s2.putBit (Reg.NETSTAT_RX_DROP n) true).raiseOnce 36
    else if field bs 12 2 = 0x8808 then s0.macControl n bs
    else s0.netDeliver n bs age.toNat)

/-! ### Streams: what the receive channels deposit (R356, R358, R359) -/

/-- The receive map word of channel `c` for frame `f`: the word in force takes effect at a packet start of the stream it
names, and where `starts` does not hold the word before it stays (R359). -/
def State.netMap (s : State) (c f : Nat) (starts : Nat → Bool) : Nat :=
  let w := (s.valueAt (0x1A2000 + c) f).data.toNat % 2 ^ 14
  let r := w / 64 % 128
  if !w.testBit 13 || decide ((s.streamRx r).phase = 0) || starts r then w else s.net.maps.look 0 c

/-- Network receive channel `c` may use a stream of this kind (R358). -/
def State.netRoute (s : State) (c : Nat) (sync : Bool) : Bool :=
  let units := s.boundTo (0x400 + c)
  if sync then units.all (fun v => s.cnvMode (v / 8) == 6)
  else !units.isEmpty && units.all (fun v => s.cnvMode (v / 8) == 1)

/-- A channel that breaks R358 is reported. -/
def State.netMismatch (s : State) (tx : Bool) (n : Nat) : State := (s.stmFault tx n 5).raiseOnce 57

/-- The buffer word that channel `i` of stream `r` reads; none for a channel the stream has not. -/
def State.netReads (s : State) (r i k : Nat) : List Nat :=
  if i < s.get (Reg.STRX_NCH r) then [s.bufKey (s.get (Reg.STRX_BUF r) + i) k] else []

/-- What stream `r` gives for its channel `i` at buffer word `k`; an absent sample is silence or poison (R356). -/
def State.netSample (s : State) (r i k tag : Nat) : Sinter × Bool :=
  if (s.netReads r i k).any (s.net.present.look false) then (s.ram (s.bufKey (s.get (Reg.STRX_BUF r) + i) k), true)
  else (if s.bit (Reg.STRX_MISS r) then Sinter.zero else s.poison (2000 + tag), false)

/-- An absent sample is counted (R356). -/
def State.netMissing (s : State) (r : Nat) : State :=
  ((s.bump (Reg.STRXCNT_MISSING r)).stmFault false r 4).raiseOnce 52 (r + 1)

/-- A deposit of receive channel `c`: to S0, or to the unit that binds it (R261). -/
def State.netGive (s : State) (c f : Nat) (x : Sinter) : State :=
  if (s.boundTo (0x400 + c)).isEmpty then s.ingressPut (0x400 + c) f x else s.cnvFeed (0x400 + c) x

/-- The presence bits of the words read are cleared (R355). -/
def State.clearPresent (s : State) (keys : List Nat) : State :=
  { s with net := { s.net with present := keys.foldl (fun m k => m.upd false k false) s.net.present } }

/-- Channel `c` deposits its sample of frame `f` (R356, R358); the buffer word read is added to the list. -/
def State.netChannel (f : Nat) (p : State × List Nat) (c : Nat) : State × List Nat :=
  let s := p.1
  let word := s.valueAt (0x1A2000 + c) f
  let w := s.netMap c f (fun r => s.bit (Reg.STRX_SYNC r) && decide (f % s.stmP r = (s.streamRx r).phase - 1))
  let s1 := { s with net := { s.net with maps := s.net.maps.upd 0 c w } }
  let r := w / 64 % 128
  let sync := s.bit (Reg.STRX_SYNC r)
  if word.isPoison then (s.netGive c f (s.poison (1000 + c)), p.2)
  else if !w.testBit 13 || decide (s.get (Reg.STRX_STATE r) ≠ 2) then
    (if sync || (s.boundTo (0x400 + c)).isEmpty || !w.testBit 13 then s1.netGive c f Sinter.zero else s1, p.2)
  else if !s.netRoute c sync then ((s1.netMismatch false r).netGive c f Sinter.zero, p.2)
  else if sync then
    let x := s.netSample r (w % 64) (f % s.bufDepth) c
    let s2 := if x.2 then s1 else s1.netMissing r
    (s2.netGive c f x.1, s.netReads r (w % 64) (f % s.bufDepth) ++ p.2)
  else (s1, p.2)

/-- At edge f + 1 the network receive channels deposit their samples of frame `f`. -/
def State.netDeposit (s : State) (f : Nat) : State :=
  let s1 := (s.net.rx.map Prod.fst).foldl State.streamSteer s
  let p := (List.range s.nNet).foldl (State.netChannel f) (s1, [])
  p.1.clearPresent p.2

/-- A channel takes its sample of the presented frame of a stream with SYNC = 0; its map word takes effect whatever binds it (R359). -/
def State.presentChannel (r ts : Nat) (p : State × List Nat) (c : Nat) : State × List Nat :=
  let s := p.1
  let word := s.valueAt (0x1A2000 + c) s.frame
  let w := s.netMap c s.frame (fun q => decide (q = r) && decide (ts % s.stmP r = (s.streamRx r).phase - 1))
  let s1 := { s with net := { s.net with maps := s.net.maps.upd 0 c w } }
  if word.isPoison then p
  else if !w.testBit 13 || decide (w / 64 % 128 ≠ r) || !s.netRoute c false then (s1, p.2)
  else
    let x := s.netSample r (w % 64) (ts % s.bufDepth) c
    let s2 := if x.2 then s1 else s1.netMissing r
    (s2.cnvFeed (0x400 + c) x.1, s.netReads r (w % 64) (ts % s.bufDepth) ++ p.2)

/-- The stream presents one sample frame that is due to its ASRC unit (R354). -/
def execStreamPresentEdge (r : Fin 128) (s : State) : Host.Outcome State Fault Refusal :=
  let x := s.streamRx r
  done (if s.islandStopped islStream ∨ s.bit (Reg.STRX_SYNC r) ∨ s.get (Reg.STRX_STATE r) ≠ 2 ∨ !x.begun ∨ x.due < s.sampleDue then s
    else match x.next with
      | none => s
      | some ts =>
        let p := (List.range s.nNet).foldl (State.presentChannel r ts) (s, [])
        let t := p.1.clearPresent p.2
        t.setStreamRx r { t.streamRx r with next := some ((ts + 1) % 2 ^ 32), due := x.due - s.sampleDue })

/-! ### Streams: transmitting (R360 to R365) -/

/-- The samples of transmit channel `i` for frame `f` under map word `w`, and whether word and stream do not match (R360). -/
def State.txSource (s : State) (t i f : Nat) (w : Sinter) : List Sinter × Bool :=
  let k := s.get (Reg.STTX_RATEK t)
  let none : List Sinter := List.replicate (2 ^ k) Sinter.zero
  let idx := w.data.toNat / 4 % 4096
  let kind := w.data.toNat % 4
  if w.isPoison then (List.replicate (2 ^ k) (s.poison (3000 + 64 * t + i)), false)
  else if kind = 1 then (if k = 0 ∧ idx < s.nEgr then ([s.handedAt idx f], false) else (none, true))
  else if kind = 2 then
    (if idx < 256 ∧ s.cnvMode (idx / 8) = (if k = 0 then 7 else if k = 1 then 4 else if k = 2 then 5 else 8) then
      (match s.cnv.out.look [] (slotKey f idx) with
       | [] => (none, false)
       | xs => (xs, false))
     else (none, true))
  else (none, false)

/-- A sample packed to the stream's width (R296, R362): bits 31:8 or 31:16, rounded half to even and saturated. -/
def packSample (l24 : Bool) (x : Sinter) : BitVec 32 :=
  let b := if l24 then 8 else 16
  let q := divHalfEven x.data.toInt (2 ^ b)
  BitVec.ofInt 32 (if 2 ^ (31 - b) ≤ q then 2 ^ (31 - b) - 1 else q)

/-- The samples of frame `f` of transmit stream `t`, checked and packed (R362). -/
def State.txCollect (s : State) (t f : Nat) (x : StreamTx) : State :=
  let srcs := (List.range x.words.length).map (fun i => s.txSource t i f (x.words.getD i Sinter.zero))
  let s1 := if srcs.any Prod.snd then s.netMismatch true t else s
  let s2 := if srcs.any (fun e => e.1.any (fun y => !y.good)) then (s1.stmFault true t 6).raiseOnce 58 else s1
  let packed := srcs.map (fun e => e.1.map (fun y => if y.good then packSample (s.bit (Reg.STTX_FMT t)) y else 0))
  { s2 with net := { s2.net with tx := s2.net.tx.upd none t (some { x with frames := x.frames ++ [packed] }) } }

/-- Frame `f` is handed to the egress map: packets start and collect (R361). -/
def State.streamCollect (s : State) (f : Nat) : State :=
  (List.range 128).foldl (fun u t =>
    if u.get (Reg.STTX_STATE t) ≠ 1 then u
    else match u.net.tx.look none t with
      | some x => u.txCollect t f x
      | none =>
        let off := u.get Reg.STMTSOFF_OFFSET
        if (f + 75 + off) % u.txFrames t ≠ 0 then u
        else u.txCollect t f
          { g := f, ts := 2 ^ u.get (Reg.STTX_RATEK t) * (f + 75 + off) % 2 ^ 32,
            words := (List.range (u.get (Reg.STTX_NCH t))).map (fun i => u.valueAt (0x1A0000 + 64 * t + i) f),
            frames := [] }) s

/-- The payload: sample frame by sample frame, channel 0 first (R347). -/
def payloadOf (k : Nat) (b : Nat) (frames : List (List (List (BitVec 32)))) : List Nat :=
  frames.flatMap (fun fr => (List.range (2 ^ k)).flatMap (fun j => fr.flatMap (fun ch => beBytes b (ch.getD j 0).toNat)))

/-- The packet of a collected stream, from its template (R363). -/
def State.packetOf (s : State) (t : Nat) (x : StreamTx) : List Nat :=
  let hdr := if s.bit (Reg.STTX_VLAN t) then 58 else 54
  let tpl := (List.range hdr).map (fun i => s.ringWord (0x30200000 + 64 * t) i / 256 ^ (i % 4) % 256)
  let load := payloadOf (s.get (Reg.STTX_RATEK t)) (sampleBytes (s.bit (Reg.STTX_FMT t))) x.frames
  let ip := hdr - 40
  let u := hdr - 20
  let b1 := splice (splice (splice tpl (ip + 2) (beBytes 2 (40 + load.length)))
    (ip + 4) (beBytes 2 (s.get (Reg.STTX_IPID t)))) (ip + 10) [0, 0]
  let b2 := splice b1 (ip + 10) (beBytes 2 (csum (sum16 ((b1.drop ip).take 20))))
  let b3 := splice (splice (splice (splice b2 (u + 4) (beBytes 2 (20 + load.length))) (u + 6) [0, 0])
    (u + 10) (beBytes 2 (s.get (Reg.STTX_SEQ t)))) (u + 12) (beBytes 4 x.ts)
  let all := b3 ++ load
  let sum := sum16 ((all.drop (ip + 12)).take 8) + 17 + (20 + load.length) + sum16 (all.drop u)
  if s.bit (Reg.STTX_UDPCS t) then
    splice all (u + 6) (beBytes 2 (if csum sum = 0 then 0xFFFF else csum sum))
  else all

/-- A packet is queued on its port; a third one drops the stream's oldest, and with LINK 0 it is dropped (R365). -/
def State.packetQueue (s : State) (t : Nat) (bs : List Nat) : State :=
  let n := s.get (Reg.STTX_PORT t)
  let q := (s.netPort n).queue
  if !s.bit (Reg.NETSTAT_LINK n) then s.stmDrop t
  else if 2 ≤ (q.filter (fun e => decide (e.1 = t))).length then
    (s.setNetPort n { s.netPort n with queue := q.eraseP (fun e => decide (e.1 = t)) ++ [(t, bs)] }).stmDrop t
  else s.setNetPort n { s.netPort n with queue := q ++ [(t, bs)] }

/-- At the edge after the hand-off of their last frame the complete packets are queued (R361, R363). -/
def State.streamQueue (s : State) : State :=
  (List.range 128).foldl (fun u t =>
    match u.net.tx.look none t with
    | none => u
    | some x =>
      if x.frames.length < u.txFrames t then u
      else
        let bs := u.packetOf t x
        let u1 := { u with net := { u.net with tx := u.net.tx.upd none t none } }
        let u2 := (u1.put (Reg.STTX_SEQ t) (u1.get (Reg.STTX_SEQ t) + 1)).put (Reg.STTX_IPID t)
          (u1.get (Reg.STTX_IPID t) + 1)
        if u.pairMode && !u.bit Reg.PAIRSTAT_ACTIVE then u2 else u2.packetQueue t bs) s

/-- At a frame boundary on the wire the oldest stream packet is sent (R364); a standby sends none and drops it (R400). -/
def execStreamPacketSend (n : Fin 4) (s : State) : Host.Outcome State Fault Refusal :=
  done (match (s.netPort n).queue with
    | [] => s
    | e :: rest =>
      let s1 := s.setNetPort n { s.netPort n with queue := rest }
      if !s.netFree n || s.islandStopped (islNet n) then s
      else if s.pairMode && !s.bit Reg.PAIRSTAT_ACTIVE then s1 else s1.netSend n e.2)

end Sys2Proof.Machine
end

