-- ==== Sys2Proof/Machine/Pins.lean ====
section
/-! DEFINITION. Balls and pin monitors (17_pins_package, R601 to R612, R620) and PPS_OUT (R491, R633). -/

namespace Sys2Proof.Machine

/-! ### GPIO (R398, R620) -/

/-- GPIOg drives its ball (R398, R601, R620): ACT_OUT of a pair, else by DIR; not while a reset of chip scope is asserted, nor
after a short. -/
def State.gpioDrives (s : State) (g : Nat) : Bool :=
  s.pwr.chip == 0 && !s.pinHiz (166 + g) &&
    (if s.pairMode && decide (6 ≤ g) then decide (g = 6) else (s.get Reg.GPIOCFG_DIR).testBit g)

/-- The level seen on GPIOg: what the ball drives, else what outside drives (R398, R620). -/
def State.gpioLevel (s : State) (g : Nat) : Bool :=
  let ext := s.pins.gpio.testBit g
  let out := (s.get Reg.GPIOOUT_OUT).testBit g
  if !s.gpioDrives g then ext
  else if s.pairMode && decide (g = 6) then s.bit Reg.PAIRSTAT_ACTIVE
  else if (s.get Reg.GPIOCFG_OD).testBit g && out then ext
  else out

/-- GPIOIN shows the balls (R620). -/
def State.gpioIn (s : State) : Nat := ((List.range 8).map (fun g => if s.gpioLevel g then 2 ^ g else 0)).foldl (· + ·) 0

/-- The levels that outside drives on the GPIO balls. -/
def State.gpioDrive (s : State) (v : Nat) : State := { s with pins := { s.pins with gpio := v % 256 } }

/-- A write to GPIOCFG or GPIOOUT (R620). -/
def State.gpiocfgWrite (s : State) (v : Nat) : State :=
  (s.put Reg.GPIOCFG_DIR v).put Reg.GPIOCFG_OD (v / 256)
def State.gpiooutWrite (s : State) (v : Nat) : State := s.put Reg.GPIOOUT_OUT v

def execGpioWrite (out : Bool) (v : BitVec 16) (s : State) : Host.Outcome State Fault Refusal :=
  done (if out then s.gpiooutWrite v.toNat else s.gpiocfgWrite v.toNat)

/-! ### Shorts (R606 to R608) -/

/-- The ball of output pin `pin` is driven (R398, R601 to R606): BCLK and WS but at a slave port, a GPIO that is an output, every
other always; while a reset of chip scope is asserted, EVT_OUT alone. -/
def State.pinDrives (s : State) (pin : Nat) : Bool :=
  if s.pinHiz pin then false
  else if 162 ≤ pin ∧ pin < 166 then true
  else if s.pwr.chip ≠ 0 then false
  else if pin < 160 then
    (decide (2 ≤ pin % 10) || decide (s.portMode (pin / 10) ≠ 3)) && !(s.pairMode && !s.bit Reg.PAIRSTAT_ACTIVE) &&
      !s.bit Reg.PINSTAT_HELD_HIZ
  else if 166 ≤ pin ∧ pin < 174 then s.gpioDrives (pin - 166)
  else true

/-- SHORT_NOW follows the PINSHORT bits, OPEN_NOW the PINOPEN bits. -/
def State.pinSummary (s : State) : State :=
  (s.putBit Reg.PINSTAT_SHORT_NOW ((List.range 6).any (fun w => s.get (Reg.PINSHORT_SHORT w) != 0))).putBit
    Reg.PINSTAT_OPEN_NOW ((List.range 6).any (fun w => s.get (Reg.PINOPEN_OPEN w) != 0))

/-- A bit of a pin bitmap is set or cleared. -/
def State.pinMark (s : State) (f : Fld) (b : Nat) (on : Bool) : State :=
  let v := s.get f
  (if v.testBit b = on then s else s.put f (v ^^^ 2 ^ b)).pinSummary

def execPinShortDetect (pin : Fin 177) (s : State) : Host.Outcome State Fault Refusal :=
  done (if s.bit Reg.PINCFG_SHORT_EN ∧ s.pinDrives pin then
    (s.pinMark (Reg.PINSHORT_SHORT (pin / 32)) (pin % 32) true).putBit Reg.PINSTAT_SHORT_SEEN true
    else s)

/-- The wait before a retry, in intervals (R606). -/
def State.retryWait (s : State) : Nat := 1024 * Nat.max 1 (s.get Reg.PINCFG_RETRY)

/-- The retry after so many intervals: once the wait is over, the output goes back to high impedance, or stays driven (R606). -/
def execPinShortRetry (pin : Fin 177) (retry : ShortRetry) (s : State) : Host.Outcome State Fault Refusal :=
  done (if s.pinHiz pin ∧ !retry.still ∧ s.retryWait ≤ retry.ints.toNat then s.pinMark (Reg.PINSHORT_SHORT (pin / 32)) (pin % 32) false else s)

/-- FAULT_N is driven low and reads high for 2 intervals (R608). -/
def execFaultnStuck (s : State) : Host.Outcome State Fault Refusal :=
  done (if s.bit Reg.FUMSTAT_FAULTN then s.putBit Reg.PINSTAT_FAULTN_STUCK true else s)

/-! ### Opens, polarity and reference legs (R609 to R612) -/

/-- Input pin `pin` is probed: BCLK and WS at a slave port, a GPIO that is an input, every other of its class (R609). -/
def State.pinProbed (s : State) (pin : Nat) : Bool :=
  if pin < 160 then s.bit Reg.PINCFG_PROBE_DATA && (decide (2 ≤ pin % 10) || decide (s.portMode (pin / 10) = 3))
  else s.bit Reg.PINCFG_PROBE_CTRL && (decide (pin < 164) || !s.gpioDrives (pin - 164))

def execPinProbe (pin : Fin 172) (follows : Bool) (s : State) : Host.Outcome State Fault Refusal :=
  let n := if follows then Nat.min 8 (s.pins.probe.look 0 pin + 1) else 0
  let s1 := { s with pins := { s.pins with probe := s.pins.probe.upd 0 pin n } }
  done (if !s.pinProbed pin then s
    else if !follows then s1.pinMark (Reg.PINOPEN_OPEN (pin / 32)) (pin % 32) false
    else if n = 8 then s1.pinMark (Reg.PINOPEN_OPEN (pin / 32)) (pin % 32) true
    else s1)

/-- 1 ms of high bit error rate (R611). -/
def execNetRxPolarityInvert (n : Fin 4) (s : State) : Host.Outcome State Fault Refusal :=
  done (if s.bit (Reg.NETCFG_EN n) then s.put Reg.PINDIFF_NET_INV (s.get Reg.PINDIFF_NET_INV ^^^ 2 ^ n.val) else s)

/-- One leg of HREF, SDREF or PCIE_REFCLK is missing (R612). -/
def execRefLegMissing (r : Fin 3) (s : State) : Host.Outcome State Fault Refusal :=
  done (if r = 0 then s.putBit Reg.PINDIFF_HREF_LEG true else if r = 1 then s.putBit Reg.PINDIFF_SDREF_LEG true
    else s.putBit Reg.PINDIFF_PCIE_REFCLK_LEG true)

/-- The level of PERIOD_OUT (R490, R601): high for the first 8 frames of a period. -/
def State.periodOut (s : State) : Bool := s.pwr.chip == 0 && s.dividerRuns && s.bit Reg.OUTCFG_PERIOD_EN && decide (s.frame % 16 < 8)

/-- The width of PPS_OUT in ms, as applied (OUTCFG). -/
def State.ppsWidth (s : State) : Nat := Nat.min 500 (Nat.max 1 (s.get Reg.OUTCFG_WIDTH))

/-- The carry into a new second of the pulse domain, or the milliseconds since it, at whose WIDTH the pulse ends (R491, R633). -/
def execPpsOutPulse (edge : PpsEdge) (s : State) : Host.Outcome State Fault Refusal :=
  done (if edge.rise then { s with pins := { s.pins with pps := s.bit Reg.OUTCFG_PPS_EN } }
    else if s.ppsWidth ≤ edge.ms.toNat then { s with pins := { s.pins with pps := false } }
    else s)

end Sys2Proof.Machine
end

