-- ==== Sys2Proof/Machine/Links.lean ====
section
/-! DEFINITION. Cascade links, control messages, the shared frame count and pair mode (10_cascade_redundancy, R368 to
R386 and R398 to R408).  The block layer is seen through the commands that report it. -/

namespace Sys2Proof.Machine

/-! ### Link states (R369 to R371) -/

def linkIsDown : Nat := 0
def linkTraining : Nat := 1
def linkIsUp : Nat := 2

def State.linkState (s : State) (n : Nat) : Nat := s.get (Reg.LNKSTAT_STATE n)

/-- The mode as applied: 0b11 as 0b00. -/
def State.cascMode (s : State) : Nat := s.get Reg.LNKCASC_MODE % 3

/-- The pair link is up, SYNC holds and the last compared period was healthy (R403). -/
def State.pairElig (s : State) : State :=
  s.putBit Reg.PAIRSTAT_ELIGIBLE (s.bit Reg.PAIRSTAT_SYNC && s.bit Reg.PAIRSTAT_HEALTHY &&
    decide (s.linkState (s.get Reg.PAIRCFG_LINK) = linkIsUp))

/-- A link leaves its state for DOWN (R369): what it has brought for frames still to come is gone (R374), and REF5 moves to
ALT_UP where that is allowed (R384). -/
def State.linkDrop (s : State) (n : Nat) : State :=
  let was := s.linkState n
  let s1 := s.put (Reg.LNKSTAT_STATE n) linkIsDown
  let mine (k : Nat) : Bool := decide (k % 16384 / 256 = 8 + n) && decide (workOfFrame s.frame ≤ k / 16384)
  let s2 := { s1 with
    lnk := { s1.lnk with
      crc := s1.lnk.crc.upd 0 n 0
      out := s1.lnk.out.upd [] n []
      srcChan := s1.lnk.srcChan.filter (fun c => decide (c / 256 ≠ 8 + n))
      raw := s1.lnk.raw.filter (fun e => !mine e.1) }
    eng := { s1.eng with ingress := s1.eng.ingress.filter (fun e => !mine e.1) } }
  if was ≠ linkIsUp then s2
  else
    let s3 := if s.cascMode = 1 ∧ !s.isMaster ∧ s.get Reg.LNKCASC_UP = n ∧ s.bit Reg.LNKCASC_ALT_EN then
      s2.putBit Reg.LNKCASCSTAT_UP_ALT true else s2
    s3.pairElig.raise 121

/-- A write to LNKCFGn. -/
def State.lnkcfgWrite (s : State) (n v : Nat) : State :=
  let s1 := (s.put (Reg.LNKCFG_EN n) v).put (Reg.LNKCFG_AUTOFIX n) (v / 2)
  if v.testBit 0 then s1 else s1.linkDrop n

def execLinkEnable (n : Fin 4) (v : BitVec 2) (s : State) : Host.Outcome State Fault Refusal :=
  done (s.lnkcfgWrite n v.toNat)

/-- Both lanes hold block lock for 1,024 blocks (R369). -/
def execLinkTrain (n : Fin 4) (s : State) : Host.Outcome State Fault Refusal :=
  done (if !s.islandStopped (islLink n) ∧ s.bit (Reg.LNKCFG_EN n) ∧ s.linkState n = linkIsDown then
    s.put (Reg.LNKSTAT_STATE n) linkTraining else s)

/-- A round trip above 4 µs (R371). -/
def State.rttLong (s : State) (rtt : Nat) : Bool := decide (4 * 4096 * s.baseRate < rtt * 1000000)

/-- Training settles (R369 to R371); the master floods its count at each link-up (R382). -/
def execLinkUp (n : Fin 4) (peer : BitVec 3) (rtt : BitVec 16) (swap pol0 pol1 : Bool) (s : State) :
    Host.Outcome State Fault Refusal :=
  let fixed := swap || pol0 || pol1
  let s1 := (s.put (Reg.LNKSTAT_PEER_ID n) peer.toNat).put (Reg.LNKSTAT_RTT n) rtt.toNat
  let fix := s.bit (Reg.LNKCFG_AUTOFIX n)
  let s2 := ((s1.putBit (Reg.LNKSTAT_LANE_SWAP n) (fix && swap)).putBit (Reg.LNKSTAT_POL0 n) (fix && pol0)).putBit
    (Reg.LNKSTAT_POL1 n) (fix && pol1)
  let s2 := if fixed && fix then s2.raise 123 else s2
  done (if s.islandStopped (islLink n) ∨ s.linkState n ≠ linkTraining then s
    else if (fixed && !s.bit (Reg.LNKCFG_AUTOFIX n)) || s.rttLong rtt.toNat || decide (peer.toNat = s.cascadeId) then s2
    else
      let s3 := ((s2.put (Reg.LNKSTAT_STATE n) linkIsUp).pairElig).raise 120
      if s.cascMode ≠ 0 ∧ s.isMaster then s3.sendCtl (.count s3.frame) else s3)

/-- A lane has lost block lock, or 4 consecutive frames have failed (R369). -/
def execLinkDown (n : Fin 4) (lost : Bool) (s : State) : Host.Outcome State Fault Refusal :=
  done (if s.linkState n = linkIsUp ∧ (lost ∨ 4 ≤ s.lnk.crc.look 0 n) then s.linkDrop n else s)

def State.lnkcntClear (s : State) (n : Nat) : State := (s.put (Reg.LNKCNT_CRC n) 0).put (Reg.LNKCNT_RESIDUE n) 0
def execLnkcntClear (n : Fin 4) (s : State) : Host.Outcome State Fault Refusal := done (s.lnkcntClear n)

/-- LNKCASC is not written while a link runs (R381); its write ends the hold of the port outputs (R603). -/
def State.lnkcascWrite (s0 : State) (v : Nat) : State :=
  let s := s0.putBit Reg.PINSTAT_HELD_HIZ false
  if (List.range 4).any (fun n => s.bit (Reg.LNKCFG_EN n)) then s
  else ((((s.put Reg.LNKCASC_MODE v).put Reg.LNKCASC_NCHIPS (v / 4)).put Reg.LNKCASC_UP (v / 32)).put Reg.LNKCASC_ALT_UP
    (v / 128)).put Reg.LNKCASC_ALT_EN (v / 512)

/-! ### Receiving (R373 to R383) -/

/-- PCLK cycles of a frame (R449). -/
def State.pclkPerFrame (s : State) : Nat := 4096 / s.mult

/-- The frame edges that lie between the sender's edge and the arrival, `phase` PCLK cycles after this chip's last one, of what
was sent half the measured round trip before (R371, R382). -/
def State.linkAge (s : State) (n phase : Nat) : Nat :=
  (s.get (Reg.LNKSTAT_RTT n) / 2 + s.pclkPerFrame / 2 - phase) / s.pclkPerFrame

/-- A received word: poison with a failed frame, a disagreeing count or a failed check (R373, R383). -/
def State.linkWord (s : State) (crc : Bool) (x : Sinter) : Sinter :=
  if !crc || s.lnk.fcBad || x.faulty then s.poison 0 else x

/-- A sample of ingress channel `c` for frame `f` from a link: to S0, or kept for the unit that binds it. -/
def State.linkGive (s : State) (c f : Nat) (x : Sinter) : State :=
  if (s.boundTo c).isEmpty then s.ingressPut c f x
  else { s with lnk := { s.lnk with raw := s.lnk.raw.upd none (slotKey (workOfFrame f) c) (some x) } }

/-- The 16 samples of a source channel: frames of the period after the sender's, for the direct source slots that name the
channel (R378, R380). -/
def State.linkSource (s : State) (c per : Nat) (xs : List Sinter) : State :=
  let slots := (List.range s.nSrc).filter (fun k =>
    decide (s.getAt per (Reg.SRCW_KIND k) = 1) && decide (s.getAt per (Reg.SRCCH_CHAN k) = c))
  (List.range 16).foldl (fun t j =>
    let x := xs.getD j (t.poison 1)
    { t.ingressPut c (16 * per + j) x with eng := { (t.ingressPut c (16 * per + j) x).eng with
      src := slots.foldl (fun m k => m.upd none (slotKey (workOfFrame (16 * per + j)) k) (some x)) t.eng.src } }) s

/-- The words of the audio channels (R378); `e` is the sender's edge on the shared grid. -/
def State.linkAudio (s : State) (n e : Nat) (crc : Bool) (w : LinkWords) : State :=
  w.audio.foldl (fun t p =>
    let c := 0x800 + 256 * n + p.1.val
    if w.source.contains p.1 then
      (if e % 16 = 1 ∧ 33 ≤ e then t.linkSource c ((e - 1) / 16 - 1) (p.2.map (t.linkWord crc)) else t)
    else match p.2 with
      | x :: _ => t.linkGive c (e + 14) (t.linkWord crc x)
      | [] => t) s

/-- The words of the wide channels, sent at E(w) + 12: the partial sums of period w - 2 (R378); one that comes after E(w + 1)
is missing (R204). -/
def State.linkWide (s : State) (n e : Nat) (crc : Bool) (w : LinkWords) : State :=
  if e % 16 ≠ 13 ∨ e ≤ 16 * s.window + 12 then s
  else w.wide.foldl (fun t p =>
    (List.range 16).foldl (fun u j =>
      match p.2[j]? with
      | none => u
      | some (hi, lo) =>
        let key := 16 * ((e - 13) / 16 + 2) + j
        let q := 32 * n + p.1.val
        { u with eng := { u.eng with
          wideIn := (u.eng.wideIn.upd none (slotKey key (2 * q)) (some (u.linkWord crc hi))).upd none
            (slotKey key (2 * q + 1)) (some (u.linkWord crc lo)) } }) t) s

/-- The words of a frame in the order in which they travel (R375): audio in channel order, then wide, the high word first. -/
def wordsInOrder (w : LinkWords) : List Sinter :=
  w.audio.flatMap Prod.snd ++ w.wide.flatMap (fun p => p.2.flatMap (fun x => [x.1, x.2]))

/-- The words of a frame that fail their check. -/
def badWords (w : LinkWords) : Nat :=
  ((wordsInOrder w).filter Sinter.faulty).length

/-- The count in a control block on the UP link is compared with the chip's own (R382, R383). -/
def State.linkCount (s : State) (n e : Nat) (fc : Nat) : State :=
  if s.cascMode ≠ 0 ∧ !s.isMaster ∧ s.get Reg.LNKCASC_UP = n ∧ s.bit Reg.LNKCASCSTAT_FC_SYNC ∧ e % 2 ^ 32 ≠ fc then
    { s.putBit Reg.LNKCASCSTAT_FC_SYNC false with lnk := { s.lnk with fcBad := true } }.raise 124
  else s

/-- The peer's pair record (R401, R404). -/
def State.pairRecord (s : State) (r : PairRecord) : State :=
  { s with lnk := { s.lnk with
      peer := some r, records := r :: s.lnk.records.take 7, peerRun := if r.elig then s.lnk.peerRun + 1 else 0 } }

/-- A received link frame (R373, R378, R401). -/
def execLinkFrameRx (n : Fin 4) (head : LinkHead) (phase : BitVec 13) (crc : Bool) (words : LinkWords)
    (pair : Option PairRecord) (s : State) : Host.Outcome State Fault Refusal :=
  let e := s.frame - s.linkAge n phase.toNat
  let bad := badWords words
  let chans := words.source.map (fun c => 0x800 + 256 * n.val + c.val)
  let others := s.lnk.srcChan.filter (fun c => decide (c / 256 ≠ 8 + n.val))
  let s1 := s.linkCount n e head.count.toNat
  let run := if crc then 0 else s.lnk.crc.look 0 n + 1
  let s2 := { s1 with lnk := { s1.lnk with crc := s1.lnk.crc.upd 0 n run, srcChan := chans ++ others } }
  let s3 := if !crc then s2.bump (Reg.LNKCNT_CRC n) else s2.bumpBy (Reg.LNKCNT_RESIDUE n) bad
  let s4 := if !crc || bad != 0 then (s3.putBit (Reg.LNKSTAT_RX_FAULT n) true).raiseOnce 122 (n.val + 1) else s3
  let s5 := (s4.linkAudio n e crc words).linkWide n e crc words
  let s6 := match pair with
    | some r => if s.pairMode && crc && decide (s.get Reg.PAIRCFG_LINK = n.val) then s5.pairRecord r else s5
    | none => s5
  done (if s.islandStopped (islLink n) ∨ s.linkState n ≠ linkIsUp then s else if 4 ≤ run then s6.linkDrop n else s6)

/-- At edge f + 1 the units that bind a received channel take its sample of frame `f` (R261, R374, R380). -/
def State.linkFeed (s : State) (f : Nat) : State :=
  let chans := (((List.range 256).filter (fun v => cnvIngress (s.cnvMode (v / 8)))).map (fun v =>
    s.get (Reg.CNVCH_BIND v))).eraseDups.filter (fun c => decide (0x800 ≤ c) && decide (c < 0xC00))
  chans.foldl (fun t c =>
    if t.lnk.srcChan.contains c then (t.raiseOnce 127).cnvFeed c Sinter.zero
    else t.cnvFeed c ((t.lnk.raw.look none (slotKey (workOfFrame f) c)).getD (t.poison 2))) s

/-! ### Sending (R371, R375 to R379) -/

/-- The words of audio channel `c` of link `n` at edge `e` (R376, R378); a source slot reads as it does for Caldera in the window
that begins. -/
def State.linkTxAudio (s : State) (n c e : Nat) : List Sinter × Bool :=
  let kind := s.get (Reg.LNKTX_KIND n c)
  let k := s.get (Reg.LNKTX_INDEX n c)
  if kind = 1 then ([if s.chanExists k then s.ingressAt k (e - 2) else s.poison 3], false)
  else if kind = 2 then
    (if e % 16 ≠ 1 ∨ e < 33 then []
     else (List.range 16).map (fun j => if s.nSrc ≤ k then s.poison 3 else s.srcSample ((e - 1) / 16) k j), true)
  else ([Sinter.zero], false)

/-- The pairs of wide channel `w` of link `n` at E(v) + 12, formed in window v, of period v - 3 for a deep bus (R203, R379)
and of period v - 2 for any other; and whether its bus is misused (R377). -/
def State.linkTxWide (s : State) (n w e : Nat) : List (Sinter × Sinter) × Bool :=
  let b := s.get (Reg.LNKWTX_BUS n w)
  let bad : List (Sinter × Sinter) := (List.range 16).map (fun _ => (s.poison 4, s.poison 5))
  let v := (e - 13) / 16
  if !s.bit (Reg.LNKWTX_EN n w) then (bad, false)
  else if s.nBus ≤ b ∨ s.getAt (if s.deepAt (v - 3) b then v - 3 else v - 2) (Reg.CALBUS_WIDE_OUT b) = 0 then (bad, true)
  else if s.deepAt (v - 2) b != s.deepAt (v - 3) b then (bad, false)
  else ((List.range 16).map (fun j =>
    let key := 16 * (if s.deepAt (v - 3) b then v + 1 else v + 2) + j
    ((s.eng.wideOut.look none (slotKey key (2 * b))).getD (s.poison 4),
     (s.eng.wideOut.look none (slotKey key (2 * b + 1))).getD (s.poison 5))), false)

/-- The residue bits of every egress sample handed for period `q` (R401). -/
def State.pairResidues (s : State) (q : Nat) : List (BitVec 7) :=
  (List.range s.nEgr).flatMap (fun o => (List.range 16).map (fun j => (s.handedAt o (16 * q + j)).res))

/-- HEALTH of period `q` (R401). -/
def State.healthOf (s : State) (q : Nat) : Bool := !s.fum.badHealth.contains q

/-- The pair record that this edge can send: the period whose last frame has just been handed (R401). -/
def State.pairTx (s : State) (n e : Nat) : Option PairRecord :=
  if s.pairMode && decide (s.get Reg.PAIRCFG_LINK = n) && decide (e % 16 = 8) && decide (88 ≤ e) then
    some ⟨(e - 88) / 16, s.healthOf ((e - 88) / 16), s.bit Reg.PAIRSTAT_ELIGIBLE, s.pairResidues ((e - 88) / 16)⟩
  else none

/-- At each frame edge every link that is up sends a link frame (R371); a standby sends no channel (R400). -/
def State.linkTx (s : State) (e : Nat) : State :=
  (List.range 4).foldl (fun t n =>
    if t.linkState n ≠ linkIsUp || t.islandStopped (islLink n) then { t with lnk := { t.lnk with tx := t.lnk.tx.upd none n none } }
    else
      let standby := t.pairMode && !t.bit Reg.PAIRSTAT_ACTIVE
      let audio := if standby then [] else (List.finRange 256).map (fun (c : Fin 256) => (c, t.linkTxAudio n c.val e))
      let wide := if standby || decide (e % 16 ≠ 13) || decide (e < 45) then []
        else (List.finRange 32).map (fun (w : Fin 32) => (w, t.linkTxWide n w.val e))
      let words : LinkWords := ⟨audio.map (fun p => (p.1, p.2.1)), wide.map (fun p => (p.1, p.2.1)),
        (audio.filter (fun p => p.2.2)).map Prod.fst⟩
      let q := t.lnk.out.look [] n
      let t1 := if wide.any (fun p => p.2.2) then t.raiseOnce 127 else t
      { t1 with lnk := { t1.lnk with
          out := t1.lnk.out.upd [] n (q.drop 1)
          tx := t1.lnk.tx.upd none n (some ⟨⟨BitVec.ofNat 3 t.cascadeId, BitVec.ofNat 32 e⟩, q.head?, words, t.pairTx n e⟩) } }) s

/-! ### The blocks of a link frame (R368, R371, R375) -/

/-- Each group of 8 words, word i at bits 40i + 39 to 40i, occupies 5 blocks; places of the last group without a word hold 0. -/
def dataBlocks (ws : List Sinter) : List (BitVec 64) :=
  (List.range ((ws.length + 7) / 8)).flatMap (fun g =>
    (List.range 5).map (fun i => BitVec.ofNat 64 (lineField ((ws.drop (8 * g)).take 8) / 2 ^ (64 * i))))

/-- The CRC-32C (R83) of blocks, each with its low byte first. -/
def blocksCrc (bs : List (BitVec 64)) : BitVec 32 :=
  Digest.crc32c (bs.flatMap (fun b => (List.range 8).map (fun k => b.extractLsb' (8 * k) 8)))

/-- The blocks of a link frame: control, message, data, CRC. -/
def LinkFrame.blocks (f : LinkFrame) : List (BitVec 64) :=
  let body := Config.messageBlock f.msg :: dataBlocks (wordsInOrder f.words)
  (Config.controlBlock f.head :: body) ++ [(blocksCrc body).setWidth 64]

/-- The received blocks pass their CRC. -/
def linkCrcOk (bs : List (BitVec 64)) : Bool :=
  match bs with
  | [] => false
  | _ :: rest => rest.getLastD 0 == (blocksCrc rest.dropLast).setWidth 64

/-- The lane on which block `i` of a link frame travels (R368). -/
def linkLane (i : Nat) : Nat := i % 2

/-! ### Control messages (R382, R385, R386) -/

/-- A received message that is no duplicate waits for every other link that is up (R385). -/
def State.forward (s : State) (n origin seq : Nat) (m : CtrlMsg) : State :=
  { s with lnk := { s.lnk with
      seen := (origin, seq) :: s.lnk.seen
      out := (List.range 4).foldl (fun o l =>
        if l ≠ n ∧ s.linkState l = linkIsUp then o.upd [] l (o.look [] l ++ [(origin, seq, m)]) else o) s.lnk.out } }

/-- The master's count arrives (R382): adopted in QUIESCE or before the first port start. -/
def State.adoptCount (s : State) (f : Nat) : State :=
  if !s.isMaster ∧ !s.bit Reg.LNKCASCSTAT_FC_SYNC ∧ (s.get Reg.PWRSTAT_STATE = 1 ∨ s.lnk.started = 0) then
    { s.putBit Reg.LNKCASCSTAT_FC_SYNC true with frame := f % 2 ^ 64, lnk := { s.lnk with fcBad := false } }
  else s

/-- A control message arrives on a link (R385).  Heartbeats and counts act here; a commit's or a start's message acts by its
own command. -/
def execControlMessageRx (n : Fin 4) (origin : Fin 8) (seq : Nat) (msg : CtrlMsg) (phase : BitVec 13) (s : State) :
    Host.Outcome State Fault Refusal :=
  let s1 := s.forward n origin seq msg
  done (if s.islandStopped (islLink n) ∨ s.linkState n ≠ linkIsUp ∨ origin.val = s.cascadeId ∨ s.lnk.seen.contains (origin.val, seq) then s
    else match msg with
      | .heartbeat c =>
        { s1.put Reg.LNKCASCSTAT_REACH (s1.get Reg.LNKCASCSTAT_REACH ||| 2 ^ c) with
          lnk := { s1.lnk with heard := s1.lnk.heard.upd 0 c s.frame } }
      | .count f => s1.adoptCount (f + s.linkAge n phase.toNat)
      | _ => s1)

/-- Every chip floods a heartbeat once per period (R385). -/
def State.heartbeat (s : State) : State :=
  let s1 := { s with lnk := { s.lnk with seen := s.lnk.seen.take 256 } }
  if s.cascMode = 0 then s1 else s1.sendCtl (.heartbeat s.cascadeId)

/-- No heartbeat of a chip for 4 periods (R386). -/
def execCascChipLost (chip : Fin 8) (s : State) : Host.Outcome State Fault Refusal :=
  done (if (s.get Reg.LNKCASCSTAT_REACH).testBit chip ∧ s.lnk.heard.look 0 chip + 64 ≤ s.frame then
    (fun t : State => if chip.val ≤ s.get Reg.LNKCASC_NCHIPS then t.raise 125 else t)
      (s.put Reg.LNKCASCSTAT_REACH (s.get Reg.LNKCASCSTAT_REACH ^^^ 2 ^ chip.val))
    else s)

/-! ### Pair mode (R398 to R408) -/

/-- The peer reported ELIGIBLE in its last record. -/
def State.peerElig (s : State) : Bool := match s.lnk.peer with | some r => r.elig | none => false

/-- The active yields at its next output port frame edge, if the peer is ELIGIBLE (R404). -/
def State.pairYield (s : State) : State :=
  if s.pairMode && s.bit Reg.PAIRSTAT_ACTIVE && s.peerElig then { s with lnk := { s.lnk with yield := true } } else s

def execPairYield (s : State) : Host.Outcome State Fault Refusal := done s.pairYield

/-- At the edge the active that yields drives ACT_OUT low (R404). -/
def State.pairRelease (s : State) : State :=
  if s.lnk.yield then
    { s with lnk := { s.lnk with yield := false } }.putBit Reg.PAIRSTAT_ACTIVE false
  else s

/-- ACT_OUT is driven high (R405 to R407). -/
def State.pairTake (s : State) : State :=
  ({ s with lnk := { s.lnk with acted := true } }.putBit Reg.PAIRSTAT_ACTIVE true).raise 119

/-- The peer has taken over from this chip (R405). -/
def State.pairGone (s : State) : State :=
  if s.lnk.acted && !s.bit Reg.PAIRSTAT_ACTIVE then { s with lnk := { s.lnk with acted := false } }.raise 119 else s

/-- ACT_IN falls (R405); a chip that Fumarole holds muted never drives the bussed lines (R404, R407). -/
def State.actFall (s : State) : State :=
  let s1 := { s.putBit Reg.PAIRSTAT_PEER_ACT false with lnk := { s.lnk with actLow := 0 } }
  if s.pairMode && s.bit Reg.PAIRSTAT_PEER_ACT && s.bit Reg.PAIRSTAT_ELIGIBLE && !s.bit Reg.PAIRSTAT_ACTIVE &&
      !s.bit Reg.FUMSTAT_MUTE_ALL && !s.fum.resetDue then s1.pairTake
  else s1

def execActInFall (s : State) : Host.Outcome State Fault Refusal := done s.actFall

/-- The level of ACT_IN at a frame edge (R405, R407); a chip that gave up ACT_OUT sees the switch-over in its rise. -/
def State.actLevel (s : State) (high : Bool) : State :=
  if !s.pairMode then s
  else if high then { s.putBit Reg.PAIRSTAT_PEER_ACT true with lnk := { s.lnk with actLow := 0 } }.pairGone
  else
    let s1 := if s.bit Reg.PAIRSTAT_PEER_ACT then s.actFall else s
    { s1 with lnk := { s1.lnk with actLow := s1.lnk.actLow + 1 } }

/-- HEALTH of the last period whose egress was sealed (R407). -/
def State.lastHealth (s : State) : Bool := match s.fum.seals with | q :: _ => s.healthOf q | [] => true

/-- ACT_IN has stayed low for 16 frames on the preferred chip, for 64 on the other (R406, R407). -/
def execPairAssertAct (s : State) : Host.Outcome State Fault Refusal :=
  let n := if s.cascadeId = s.get Reg.PAIRCFG_PREFER then 16 else 64
  done (if s.pairMode ∧ s.lnk.started ≠ 0 ∧ !s.bit Reg.PAIRSTAT_ACTIVE ∧ !s.bit Reg.PAIRSTAT_PEER_ACT ∧
      n ≤ s.lnk.actLow ∧ (n = 16 ∨ s.lnk.started + 63 ≤ s.frame) ∧ !s.bit Reg.FUMSTAT_MUTE_ALL ∧ !s.fum.resetDue ∧
      s.lastHealth then s.pairTake
    else s)

/-- The preferred chip becomes active again (R408): on the active, the non-preferred chip, the peer has been ELIGIBLE for
HOLDOFF records and it yields; on the standby the event is raised. -/
def execPairReverted (s : State) : Host.Outcome State Fault Refusal :=
  let hold := Nat.max 1 (s.get Reg.PAIRHOLD_HOLDOFF)
  let preferred := decide (s.cascadeId = s.get Reg.PAIRCFG_PREFER)
  done (if !s.pairMode ∨ !s.bit Reg.PAIRCFG_REVERT_EN then s
    else if s.bit Reg.PAIRSTAT_ACTIVE && !preferred && decide (hold ≤ s.lnk.peerRun) then s.pairYield.raise 126
    else if !s.bit Reg.PAIRSTAT_ACTIVE && preferred && decide (hold ≤ s.lnk.eligRun) then s.raise 126
    else s)

/-- The comparison of period `q` at E(q + 6) (R401 to R403). -/
def State.pairCompare (s : State) (q : Nat) : State :=
  match s.lnk.records.find? (fun r => decide (r.period = q)) with
  | none => s
  | some r =>
    if !s.pairMode then s
    else
      let own := s.healthOf q
      let active := s.bit Reg.PAIRSTAT_ACTIVE
      let s1 := s.putBit Reg.PAIRSTAT_HEALTHY own
      let s2 :=
        if r.res ≠ s.pairResidues q then
          let t := (((s1.bump Reg.PAIRSTAT_MISCNT).putBit Reg.PAIRSTAT_MISMATCH true).raise 118)
          let t1 := { t with lnk := { t.lnk with clean := 0 } }
          if (if active then own else r.health) = false ∧ (if active then r.health else own) = true then t1.pairYield
          else if active then t1 else t1.putBit Reg.PAIRSTAT_SYNC false
        else
          let t := { s1 with lnk := { s1.lnk with clean := s1.lnk.clean + 1 } }
          if !active ∧ Nat.max 1 (s.get Reg.PAIRCFG_SYNC_P) ≤ t.lnk.clean then t.putBit Reg.PAIRSTAT_SYNC true else t
      let s3 := s2.pairElig
      { s3 with lnk := { s3.lnk with eligRun := if s3.bit Reg.PAIRSTAT_ELIGIBLE then s3.lnk.eligRun + 1 else 0 } }

end Sys2Proof.Machine
end

