-- ==== Sys2Proof/Machine/RegTable.lean ====
section
/-! DEFINITION. Looking up the register table: the row and the field of an address, and the register blocks (R14, R504,
R506, R583). -/

namespace Sys2Proof.Machine

/-- An offset lies on the grid of the row's dimensions, whose strides fall. -/
def onGrid : List (Nat × Nat) → Nat → Bool
  | [], o => o == 0
  | d :: ds, o => decide (o / d.1 < d.2) && onGrid ds (o % d.1)

/-- A row of the register table covers an address. -/
def rowCovers (r : WordRow) (a : Nat) : Bool := decide (r.base ≤ a) && onGrid r.dims (a - r.base)

/-- The row of an address; none where its chapter places no register (R506). -/
def rowAt (a : Nat) : Option WordRow := Reg.table.find? (fun r => rowCovers r a)

/-- The type of the field a key of the register store stands for. -/
def typeOfKey (k : Nat) : FTy :=
  match rowAt (k / 64) with
  | some r => match r.flds.find? (fun f => f.lo == k % 64) with
    | some f => f.ty
    | none => .ro
  | none => .ro

/-- A field of the table at an address. -/
def fldAt (a : Nat) (f : FldRow) : Fld := ⟨a, f.lo, f.w, f.ty, f.rst⟩

/-- The register block of an address (R504): 0 CLK, 1 REF, 2 PWR, 3 FAB, 4 EVT, 5 GYS, 6 CAL, 7 CNV and MTR, 8 AP, 9 VNT,
10 NET, 11 STM, 12 LNK, 13 FUM, 14 HST, 15 DRC, 16 ID; 17 a cluster page, 18 the management page. -/
def blockOf (a : Nat) : Nat :=
  if 0x10000000000 ≤ a then 18
  else if 0x80000000 ≤ a then (a - 0x80000000) / 0x10000
  else 17

/-- The cluster of an address in a cluster page (R504). -/
def pageCluster (a : Nat) : Nat := 8 * ((a - 0x40000000) / 0x10000000) + a % 0x10000000 / 0x1000000

/-- The place of an address in its cluster page. -/
def pageOffset (a : Nat) : Nat := a % 0x100000

end Sys2Proof.Machine
end

