-- ==== Sys2Proof/Machine/Resets.lean ====
section
/-! DEFINITION. The resets of 15_reset_power_boot (R529 to R540): what each takes and what it keeps, from the retention
table of R539, the requests of R531, and their releases. -/

namespace Sys2Proof.Machine

/-! ### The register store (R537, R539) -/

/-- The entries of the register store that a reset keeps. -/
def State.keepRegs (s : State) (keep : Nat → Bool) : State :=
  { s with regs := s.regs.filter (fun e => keep e.1) }

/-- The fields of the PWR block and the management page that the management island holds (R539): RSTCAUSE, BOOTSTAT and
PWRRATE have rows of their own. -/
def isMgmtItem (a : Nat) : Bool :=
  (blockOf a == 2 || blockOf a == 18) && a != 0x8002000C && a != 0x80020018 && a != 0x80020060

/-- The fault record (R440). -/
def isFaultRecord (a : Nat) : Bool := a == 0x800D0040 || (decide (0x800D1000 ≤ a) && decide (a < 0x800D1400))

/-- The fields that a chip reset keeps, and beyond them those of a warm chip reset (R539). -/
def keptByChip (warm : Bool) (k : Nat) : Bool :=
  let a := k / 64
  typeOfKey k == .rwl || k == Reg.FUMLOCK_CLOSED.key || isFaultRecord a || blockOf a == 2 && a != 0x8002000C ||
    blockOf a == 18 || blockOf a == 16 || k == Reg.FUMTICK_TICKS.key ||
  (warm && (blockOf a == 0 || blockOf a == 1 || blockOf a == 14 || blockOf a == 15 || a == 0x8002000C || a == 0x800D000C ||
    k == Reg.FUMSTAT_MUTE_ALL.key || k == Reg.FUMSTAT_FALLBACK.key || k == Reg.FUMSTAT_CAUSE.key ||
    k == Reg.FUMSTAT_FAULTN.key || k == Reg.LNKCASCSTAT_FC_SYNC.key))

/-- The fields that follow a ball, a clock or the loop, which a management-island reset leaves as they are. -/
def followsChip (k : Nat) : Bool :=
  k == Reg.MGSTAT_FCLK_OK.key || k == Reg.MGSTAT_CORE_LOCKED.key || k == Reg.MGSTAT_RESET_N.key ||
    k == Reg.MGSTAT_CHIP_IN_RESET.key || k == Reg.MGSTAT_LOOP_WAIT.key

/-- A register address belongs to a unit in the scope of a data-plane reset: a cell's block, or the spare's which follows the
eight of them; CAL, CNV and MTR, AP, VNT, NET, STM, LNK, or a
cluster page (R529). -/
def pageInScope (scope target a : Nat) : Bool :=
  match scope with
  | 0 => blockOf a == 17 && pageCluster a == target / 9 &&
      decide (0x1000 + 0x400 * (target % 9) ≤ pageOffset a) && decide (pageOffset a < 0x1400 + 0x400 * (target % 9))
  | 1 => blockOf a == 17 && pageCluster a == target
  | 2 => blockOf a == 17 && pageCluster a / 8 == target
  | _ => blockOf a == 17 || (decide (6 ≤ blockOf a) && decide (blockOf a ≤ 12))

/-- Status that its condition holds through a data-plane reset: the cascade identity and FC_SYNC (R539), and the takeover with
its causes. -/
def heldByCondition (k : Nat) : Bool :=
  k == Reg.LNKCASCSTAT_ID.key || k == Reg.LNKCASCSTAT_MASTER.key || k == Reg.LNKCASCSTAT_FC_SYNC.key ||
    k == Reg.VNTSTAT_TAKEOVER.key || k == Reg.VNTSTAT_RETURNING.key || k == Reg.VNTSTAT_CAUSE_EMERG.key ||
    k == Reg.VNTSTAT_CAUSE_FUM.key || k == Reg.VNTSTAT_CAUSE_FORCE.key || k == Reg.VNTSTAT_EMERG_PIN.key

/-- A cell reset keeps retirement, of cells and of the spare (R539). -/
def State.keepsRetirement (s : State) (scope target k : Nat) : Bool :=
  scope == 0 && (k == (Reg.SPARESTAT_RETIRED (target / 9)).key ||
    k == (Reg.SPARESTAT_STATE (target / 9)).key && s.spareState (target / 9) == spareOut)

/-- Fields that a data-plane reset returns to their reset values: status, save what its condition holds. -/
def droppedByScope (scope target k : Nat) : Bool :=
  pageInScope scope target (k / 64) && (typeOfKey k == .ro || typeOfKey k == .w1c) &&
    !heldByCondition k

/-! ### Data-plane resets (R532, R539) -/

/-- A cell starts anew from the first whole window; its adopted table stays, its checkpoint exchange is reset, and what it
wrote in this window is poison (R47). -/
def State.cellReset (s : State) (e : Nat) : State :=
  s.setCell e { Cell.reset with tables := (s.cell e).tables, spoiled := s.window :: (s.cell e).spoiled }

/-- The cells in scope. -/
def cellsInScope (scope target : Nat) : List Nat := (List.range 288).filter (inScope scope target)

/-- The clusters that lie in scope whole. -/
def clustersInScope (scope target : Nat) : List Nat := (List.range 32).filter (fun cl => inScope scope target (islBank cl))

/-- The running state of a cluster's banks and distributor, its spare's retirement and its degradation (R539). -/
def State.clusterReset (s : State) (cl : Nat) : State :=
  { s with
    eng := { s.eng with degraded := s.eng.degraded.filter (fun c => c != cl), lastDep := s.eng.lastDep.upd 0 cl 0 }
    mem := { s.mem with
      handover := (List.range 8).foldl (fun m b => m.upd none (8 * cl + b) none) s.mem.handover
      dq := s.mem.dq.filter (fun e => e.1 / 32 != cl) }
    lnk := { s.lnk with hold := s.lnk.hold.upd 0 cl 0, reverted := s.lnk.reverted.filter (fun e => e / 9 != cl) } }

/-- Slices in scope are reloaded from the first whole window (R218). -/
def slicesInScope (scope target : Nat) : List Nat := (List.range 4).filter (fun r => inScope scope target (islSlice r))

/-- An enabled conversion unit starts again (R264). -/
def State.cnvRestart (s : State) (u : Nat) : State :=
  if s.bit (Reg.CNVCTL_EN u) then
    (s.putBit (Reg.CNVCTL_EN u) false).cnvCtlWrite u true (s.get (Reg.CNVCTL_MODE u)) (s.get (Reg.CNVCTL_PRE u))
  else s

/-- A port after an engine reset (R532): enabled without ARM it returns to RUN at the next frame edge, armed it is READY; its
masks are those written. -/
def State.portRestart (s : State) (n : Nat) : State :=
  let s1 := { s with ports := { s.ports with
    mask := s.ports.mask.upd 0 n ((s.get (Reg.LANEMASK_IN n) + 65536 * s.get (Reg.LANEMASK_OUT n)) ^^^ 0xFFFFFFFF) } }
  let s1 := if s.portMode n = 2 then s1.portClock n else s1
  if !s.bit (Reg.PORTCTL_EN n) || s.portMode n == 0 then s1
  else if s.portBadRate n then s1.put (Reg.PORTSTAT_STATE n) portCfgBad
  else
    let s2 := s1.put (Reg.PORTSTAT_STATE n) portReady
    if s.bit (Reg.PORTCTL_ARM n) then s2 else { s2 with pins := { s2.pins with restart := s2.pins.restart ++ [n] } }

/-- An enabled stream starts again, a receive stream in WAIT (R532). -/
def State.streamRestart (tx : Bool) (s : State) (n : Nat) : State :=
  if s.bit (if tx then Reg.STTX_EN n else Reg.STRX_EN n) then s.stmStart tx n else s

/-- The units of the data plane beside cells, clusters and slices (R532, R539). -/
def State.engineUnits (s : State) : State :=
  let s1 := { s with
    eng := { Eng.reset with past := s.eng.past, sealed := s.eng.sealed }
    cal := { s.cal with formed := [], held := [], active := [], lastRes := [], badXp := [] }
    cnv := Cnv.reset
    mtr := Mtr.reset
    ports := Ports.reset
    net := Net.reset
    lnk := { Lnk.reset with seq := s.lnk.seq, seen := s.lnk.seen, started := s.lnk.started, fcBad := s.lnk.fcBad } }
  let s2 := (List.range 32).foldl State.cnvRestart s1
  let s3 := (List.range 16).foldl State.portRestart s2
  let s4 := (List.range 128).foldl (State.streamRestart false) s3
  (List.range 128).foldl (State.streamRestart true) s4

/-- The islands in scope take part again from the first whole window (R47). -/
def State.joinAgain (s : State) (scope target : Nat) : State :=
  { s with clk := { s.clk with
      join := ((List.range 0x157).filter (inScope scope target)).foldl (fun m i => m.upd 0 i s.joinWindow) s.clk.join } }

/-- What a reset of scope 0 to 3 does to the data plane by the time it is released (R532, R539). -/
def State.planeReset (s : State) (scope target : Nat) : State :=
  let s1 := (s.keepRegs (fun k => !droppedByScope scope target k || s.keepsRetirement scope target k))
  let s2 := (cellsInScope scope target).foldl State.cellReset s1
  let s3 := (clustersInScope scope target).foldl State.clusterReset s2
  let s4 := if 3 ≤ scope then s3.engineUnits.fumClear fumStall else s3
  let s5 := if 3 ≤ scope && !s4.bit Reg.SCRUBCTL_EN then s4.putBit Reg.FUMSTAT_PRECAUT false else s4
  let s6 := { s5 with cal := { s5.cal with reload := (s5.cal.reload ++ slicesInScope scope target).eraseDups } }
  s6.joinAgain scope target

/-- The islands of the data plane answer what is outstanding at them with ISLAND, and writes end under R522. -/
def State.answerIsland (why : Nat) (s : State) (r : FabReq) : State :=
  let s1 := s.fabEnd r why
  let words := if r.op.isWrite then [] else s.padWords r.beats r.words
  ((s1.fabAnswer r fabIsland r.got words).fabRemove r).fabSettle r.master

/-! ### Requests (R531) -/

def State.pwrRefuse (s : State) (f : Fld) : State := (s.putBit f true).raiseOnce 218

/-- TARGET names a unit of the scope. -/
def targetThere (scope target : Nat) : Bool :=
  match scope with
  | 0 => decide (target < 288)
  | 1 => decide (target < 32)
  | 2 => decide (target < 4)
  | _ => true

/-- The request is refused (R531). -/
def State.rstRefused (s : State) (m scope target : Nat) : Bool :=
  !((decide (scope ≤ 3) && (m == 0 || m == 1 || m == 4 || m == 5)) || (decide (4 ≤ scope) && decide (scope ≤ 6) && m == 5)) ||
  !targetThere scope target ||
  (decide (scope ≤ 3) && s.get Reg.PWRSTAT_STATE == 2) ||
  (scope == 0 && (s.get (Reg.SPARESTAT_PATROL_K (target / 9)) == target % 9 ||
    s.spareCarries (target / 9) && (target % 9 == 8 || s.carryK (target / 9) == target % 9)))

/-- The copy that the reset controller takes at the assertion of a chip, warm chip or safe reset, and TAKE (R586). -/
def State.evtSnap (s : State) (kind : Nat) : State :=
  let s1 := (List.range 8).foldl (fun t w => t.put (Reg.EVTSNAP_STAT w) (s.get (Reg.EVTSTAT_STAT w))) s
  (((s1.put Reg.EVTSNAP_FC_LO_FC s.frame).put Reg.EVTSNAP_FC_HI_FC (s.frame / 2 ^ 32)).putBit Reg.EVTSNAPCTL_VALID true).put
    Reg.EVTSNAPCTL_KIND kind

def State.autoSnap (s : State) : State := if s.bit Reg.EVTSNAPCTL_AUTO && !s.evt.inReset then s.evtSnap 1 else s

/-! ### Resets of warm scope and wider (R529, R535, R538, R539) -/

/-- POR (R529): everything returns to its power-on state; the balls' levels outside, the fuses and the queue are not the
chip's to reset. -/
def State.por (s : State) : State :=
  { State.reset with
    pending := s.pending
    free := s.free
    mem := { Mem.reset with dramGen := s.mem.dramGen + 1 }
    pins := { Pins.reset with gpio := s.pins.gpio }
    fuses := { s.fuses with prog := none } }

/-- Fumarole after a chip-scope reset: its guard copies and record stay, its weights and mutes do not (R539); a warm reset
keeps the causes of whole-chip mute with C and the port gate. -/
def Fum.chipReset (f : Fum) (warm : Bool) : Fum :=
  { Fum.reset with
    guard := f.guard
    seq := f.seq
    ang := if warm then f.ang else Fum.reset.ang
    lookFrom := if warm then f.lookFrom else 0
    gate := if warm then f.gate else 0
    since := if warm then f.since else [] }

/-- What a chip reset (kind 2) or a warm chip reset (kind 1) leaves, `regs` being the registers it finds (R529, R539). -/
def State.chipCleared (s : State) (regs : Assoc Nat) (warm : Bool) (kind cause rail : Nat) : State :=
  { State.reset with
    pending := s.pending
    free := s.free
    frame := if warm then s.frame else 0
    regs := regs.filter (fun e => keptByChip warm e.1)
    mem := if warm then { Mem.reset with dram := s.mem.dram, dramGen := s.mem.dramGen, postponed := s.mem.postponed }
           else { Mem.reset with dramGen := s.mem.dramGen + 1 }
    evt := { Evt.reset with
      inReset := true
      latched := s.evt.latched
      table := if warm then s.evt.table else []
      vmask := if warm then s.evt.vmask else Evt.reset.vmask
      pba := if warm then s.evt.pba else 0
      sent := s.evt.sent }
    fum := s.fum.chipReset warm
    clk := if warm then { s.clk with
        gated := []
        gating := none
        join := []
        rampGo := false
        floor := s.clk.floor && decide (s.pwr.step ≠ 1) }
      else Clk.reset
    lnk := { Lnk.reset with fcBad := warm && s.lnk.fcBad }
    refs := if warm then s.refs else Refs.reset
    pwr := { Pwr.reset with
      chip := kind
      cause := cause
      rail := rail
      safeAt := if warm then s.pwr.safeAt else 0
      warned := s.pwr.warned }
    pcie := if warm then s.pcie else Pcie.reset
    mgmt := s.mgmt
    tap := s.tap
    fuses := s.fuses
    pins := { Pins.reset with gpio := s.pins.gpio } }

/-- A chip reset (kind 2) or a warm chip reset (kind 1) is asserted, for `cause` of RSTCAUSE and `rail` (R529, R539).  A
self-fault of Fumarole outlives every reset but POR and RESET_N (R424). -/
def State.chipAssert (s : State) (kind cause rail : Nat) : State :=
  let warm := kind == 1
  let self := s.fumHas fumSelf && cause != 1
  let t1 := s.chipCleared s.autoSnap.regs warm kind cause rail
  let t2 := (((t1.putBit Reg.MGSTAT_CHIP_IN_RESET true).putBit Reg.RSTSTAT_BUSY false).putBit Reg.ISLSTAT_BUSY
    false).putBit Reg.PWRSTAT_BUSY false
  let t3 := if warm then (if s.bit Reg.DRCCFG_EN then (t2.putBit Reg.DRCSTAT_SELF_REFRESH true).putBit Reg.DRCSTAT_TRAINED
      false else t2)
    else (t2.putBit Reg.MGSTAT_FCLK_OK false).putBit Reg.MGSTAT_CORE_LOCKED false
  (if self then t3.put Reg.FUMSTAT_CAUSE (t3.get Reg.FUMSTAT_CAUSE ||| 2 ^ fumSelf) else t3).faultN

/-- A wider reset proceeds over a narrower one: a chip or warm chip reset while POR holds changes nothing (R536). -/
def State.chipReset (s : State) (kind cause rail : Nat) : State :=
  if s.pwr.chip < kind then s.chipAssert kind cause rail else s

/-- A reset of data-plane scope is asserted: from this window on what the cells in scope have written is poison (R47). -/
def State.cellsHeld (s : State) (scope target : Nat) : State :=
  (cellsInScope scope target).foldl (fun (t : State) e => t.spoil e s.window) s

/-- A safe reset: the handshakes of the steward, the stream engine and Geyser, then its scope is held (R533); one too soon
after the last is a warm chip reset (R534). -/
def State.safeReset (s : State) : State :=
  if s.pwr.safe || s.pwr.chip != 0 then s
  else if s.pwr.safeAt ≠ 0 ∧ s.period < s.pwr.safeAt - 1 + 65536 then s.chipReset 1 6 0
  else
    let s1 := (((s.autoSnap.masterReset 0).masterReset 2).masterReset 3).cellsHeld 3 0
    { s1.putBit Reg.RSTSTAT_BUSY true with pwr := { s1.pwr with safe := true, rst := none, idleAt := s.now } }

/-- The fields of commit slots, ramps and overlays that a reset of Geyser drops (R539). -/
def isGysState (k : Nat) : Bool :=
  blockOf (k / 64) == 5 && (k == Reg.GYSSTAT_FREE_RAMPS.key ||
    (decide (0x80050020 ≤ k / 64) && decide (k / 64 < 0x800500C0)) || (decide (0x80051000 ≤ k / 64) && typeOfKey k == .ro))

/-- Geyser is reset (R539, R540): the value of every PID is its base word again, for the Vent's routes too. -/
def State.gysReset (s : State) : State :=
  let s1 := { s.keepRegs (fun k => !isGysState k) with gys := Gys.reset, vent := { s.vent with routes := [] } }
  (List.range 128).foldl (fun t i => t.vntTake i s.frame (s1.valueAt (0x190000 + i) s.frame)) s1

/-- The steward starts at PC 0 under the mapping in force (R180, R533). -/
def State.stewardStart (s : State) : State := { s with stw := { Steward.reset with running := true } }

/-- Fabric transactions and locks (R539); DEADLOCK clears (R525); REMAP stays, and a change that waits takes effect later. -/
def State.fabReset (s : State) : State :=
  let s1 := ((s.lockFree 0).lockFree 4).putBit Reg.FABSTAT_DEADLOCK false
  let s2 := (List.range 6).foldl (fun t m => t.putBit (Reg.FABMST_RESET m) false) s1
  { s2 with fab := { Fab.reset with remap := s.fab.remap } }

/-- The causes that end with a safe or warm chip reset (R424, R539). -/
def State.fumResetCauses (s : State) : State :=
  ((((s.fumClear fumGeyser).fumClear fumLockstep).fumClear fumFabric)).putBit Reg.FUMSTAT_SAFE_RESET false

/-- The release of a safe reset (R533); where PC 0 is in the boot ROM, the ROM starts anew (R557). -/
def State.safeRelease (s : State) : State :=
  let s1 := ((s.planeReset 3 0).gysReset).fabReset
  let s2 : State := { s1 with pwr := { s1.pwr with safe := false, rst := none, safeAt := s.period + 1 } }
  let s3 := ((s2.stewardStart.putBit Reg.RSTSTAT_BUSY false).bump Reg.RSTCAUSE_SAFE_CNT).fumResetCauses
  (if s3.bit Reg.FABCFG_REMAP_NOW then s3
   else { s3.put Reg.BOOTSTAT_STAGE (if s3.loop = loopLocked then 1 else 0) with boot := Boot.reset }).raise 222

/-- The release of a reset of scope 0 to 3 (R532). -/
def State.scopeRelease (s : State) (scope target : Nat) : State :=
  let s0 : State := { s with pwr := { s.pwr with rst := none } }
  let s1 := s0.planeReset scope target
  ((s1.putBit Reg.RSTSTAT_BUSY false).put Reg.RSTSTAT_LAST_SCOPE scope).raise 217

/-- A management-island reset (R529, R539): RWL fields, RSTCAUSE, BOOTSTAT and PWRRATE stay. -/
def State.mgmtReset (s : State) : State :=
  let s1 := s.keepRegs (fun k => !(isMgmtItem (k / 64) || isFaultRecord (k / 64)) || typeOfKey k == .rwl || followsChip k)
  let s2 := { s1 with
    mgmt := Mgmt.reset
    fum := { s1.fum with seq := 0 }
    fuses := { s1.fuses with prog := none } }
  ((if (s.fuses.words.look 0 0x20).testBit 9 then s2.putBit Reg.LOOPINIT_AUTO false else s2).put Reg.RSTSTAT_LAST_SCOPE
    6).faultN

/-- RSTREQ with GO = 1 from master `m` (R531). -/
def State.rstReq (s : State) (m scope target : Nat) : State :=
  let s1 := (s.put Reg.RSTREQ_SCOPE scope).put Reg.RSTREQ_TARGET target
  if s.rstRefused m scope target then s1.pwrRefuse Reg.RSTSTAT_REFUSED
  else if scope ≤ 3 then
    (if s.bit Reg.RSTSTAT_BUSY then s1.putBit Reg.RSTSTAT_IGNORED true
     else if s.pwr.chip ≠ 0 then s1
     else { (s1.cellsHeld scope target).putBit Reg.RSTSTAT_BUSY true with pwr :=
        { s1.pwr with rst := some (scope, target), idleAt := s.now } })
  else if scope = 4 then s1.chipReset 1 5 0
  else if scope = 5 then s1.chipReset 2 2 0
  else s1.mgmtReset

def execCellResetReq (m : Fin 8) (target : BitVec 9) (s : State) : Host.Outcome State Fault Refusal :=
  done (s.rstReq m 0 target.toNat)
def execClusterResetReq (m : Fin 8) (target : BitVec 9) (s : State) : Host.Outcome State Fault Refusal :=
  done (s.rstReq m 1 target.toNat)
def execRegionResetReq (m : Fin 8) (target : BitVec 9) (s : State) : Host.Outcome State Fault Refusal :=
  done (s.rstReq m 2 target.toNat)
def execEngineResetReq (m : Fin 8) (s : State) : Host.Outcome State Fault Refusal := done (s.rstReq m 3 0)
def execWarmChipResetReq (m : Fin 8) (s : State) : Host.Outcome State Fault Refusal := done (s.rstReq m 4 0)
def execChipResetReq (m : Fin 8) (s : State) : Host.Outcome State Fault Refusal := done (s.rstReq m 5 0)
def execMgmtResetReq (m : Fin 8) (s : State) : Host.Outcome State Fault Refusal := done (s.rstReq m 6 0)

def execPor (s : State) : Host.Outcome State Fault Refusal := done s.por

/-- RESET_N is low (R529): a chip reset with CAUSE 0x1. -/
def execResetNLow (s : State) : Host.Outcome State Fault Refusal :=
  done ((if s.pwr.chip = 3 then s else s.chipAssert 2 1 0).putBit Reg.MGSTAT_RESET_N false)

/-- What remains at the islands that a reset holds is answered with ISLAND (R532 step 2). -/
def State.answerHeld (s : State) : State :=
  (s.fab.reqs.filter (fun r => (targetIslands r.addr).any s.resetHolds)).foldl (State.answerIsland 2) s

/-- After ISLCFG.IDLE_TO FCLK cycles of a reset what remains at the islands in scope is answered with ISLAND (R532
step 2). -/
def execResetIdleTimeout (s : State) : Host.Outcome State Fault Refusal :=
  done (if (s.pwr.rst.isNone && !s.pwr.safe) || decide (s.fclkSince s.pwr.idleAt < s.idleTimeout) then s else s.answerHeld)

/-- The islands may be released (R532, R533): nothing is outstanding at them, for a safe reset the handshakes of the steward, the
stream engine and Geyser have ended, and the 16 FCLK cycles can have passed. -/
def State.releasable (s : State) : Bool :=
  !s.fab.reqs.any (fun r => (targetIslands r.addr).any s.resetHolds) && decide (16 ≤ s.fclkSince s.pwr.idleAt) &&
    !(s.pwr.safe && [0, 2, 3].any (fun m => s.bit (Reg.FABMST_RESET m)))

/-- The islands have been held in reset for 16 FCLK cycles and are released (R532, R533). -/
def execResetRelease (s : State) : Host.Outcome State Fault Refusal :=
  done (if s.pwr.chip ≠ 0 ∨ s.releasable = false then s
    else if s.pwr.safe then s.safeRelease
    else match s.pwr.rst with
      | some r => s.scopeRelease r.1 r.2
      | none => s)

/-! ### The release of POR, chip and warm chip reset (R530, R535) -/

/-- The fuses are sensed (R593, R446). -/
def State.fuseSense (s : State) : State :=
  let c := s.fuses.words.look 0 0x20
  let s1 := (((s.put Reg.FUSECFG_KEYPROG c).put Reg.FUSECFG_KEYREV (c / 2 ^ 4)).put Reg.FUSECFG_DBG_DIS (c / 2 ^ 8)).put
    Reg.FUSECFG_LOOP_MAN (c / 2 ^ 9)
  ((List.range 32).foldl (fun t i => t.put (Reg.KEYHASH_WORD i) (s.fuses.words.look 0 i)) s1).put Reg.DBGSTAT_DBG_DIS (c / 2 ^ 8)

/-- The release (R535): `mode` and `cascade` are the levels of BOOT_MODE[2:0] and CASCADE_ID[2:0].  A high
GPIO7 holds the port outputs (R603). -/
def State.chipRelease (s : State) (mode cascade : Nat) : State :=
  let kind := s.pwr.chip
  let warm := kind == 1
  let s1 := if warm then s else s.fuseSense
  let s2 := if kind == 3 && (s.fuses.words.look 0 0x20).testBit 9 then s1.putBit Reg.LOOPINIT_AUTO false else s1
  let s3 := if !warm && !s2.bit Reg.LOOPINIT_AUTO then s2.putBit Reg.MGSTAT_LOOP_WAIT true else s2
  let s4 := (((s3.putBit Reg.MGSTAT_CHIP_IN_RESET false).putBit Reg.MGSTAT_RESET_N true).put Reg.PWRSTAT_STATE 0).putBit
    Reg.PWRSTAT_THERM_HOLD false
  let s5 := ((((((s4.put Reg.BOOTSTAT_MODE mode).put Reg.BOOTSTAT_FALLBACK 0).put Reg.BOOTSTAT_STAGE
    (if s4.loop = loopLocked then 1 else 0)).put
    Reg.BOOTSTAT_ERR 0).put Reg.BOOTSTAT_KEYSLOT 0).put Reg.BOOTSTAT_DONE 0).put Reg.BOOTSTAT_SECT 0
  let s6 := ((s5.put Reg.LNKCASCSTAT_ID cascade).putBit Reg.LNKCASCSTAT_MASTER (decide (cascade % 8 = 0))).putBit
    Reg.PINSTAT_HELD_HIZ (s.pins.gpio.testBit 7)
  let s7 := ((s6.put Reg.RSTCAUSE_CAUSE s.pwr.cause).put Reg.RSTCAUSE_RAIL s.pwr.rail).put Reg.SUPSTAT_BELOW_WARN 0
  let s8 := if s.pwr.cause = 5 then s7.put Reg.RSTSTAT_LAST_SCOPE 4 else if s.pwr.cause = 2 then s7.put Reg.RSTSTAT_LAST_SCOPE 5
    else s7
  let s9 : State := { s8.portsLow with
    pwr := { s8.pwr with chip := 0, cause := 0, rail := 0, supply := 0, hot := false }
    evt := { s8.evt with inReset := false, latched := [] }
    mem := { s8.mem with training := warm && s8.bit Reg.DRCCFG_EN } }
  let late := s.evt.latched.foldl State.raise s9
  let s10 := if s.get Reg.PWRSTAT_STATE = 0 then late else late.raise 216
  let s11 := if s.pwr.cause = 3 then s10.raise 210 else if s.pwr.cause = 4 then s10.raise 214 else s10
  let s12 := if warm then (s11.putBit Reg.DRCSTAT_SELF_REFRESH false).fumResetCauses.fumClear fumStall else s11
  if warm && decide (s12.loop = loopFloor) then s12.loopToCal else s12

/-- A reading in 1/16 °C. -/
def tempOf (v : Nat) : Int := (BitVec.ofNat 13 v).toInt

/-- A valid reading holds the reset (R554): one of 150 °C, or in a reset for temperature one of 115 °C. -/
def State.tooHot (s : State) : Bool :=
  (List.range 8).any (fun i => s.bit (Reg.TEMP_VALID i) &&
    decide ((if s.pwr.cause = 4 then 115 else 150) * 16 ≤ tempOf (s.get (Reg.TEMP_TEMP i))))

/-- The release after the last cause has ended (R530): RESET_N, the rails and the counter are the sender's part. -/
def execChipResetRelease (mode cascade : BitVec 3) (gpio : BitVec 8) (s : State) : Host.Outcome State Fault Refusal :=
  done (if s.pwr.chip = 0 ∨ s.tooHot = true then s
    else ({ s with pins := { s.pins with gpio := gpio.toNat } } : State).chipRelease mode.toNat cascade.toNat)

end Sys2Proof.Machine
end

