-- ==== Sys2Proof/Machine/Power.lean ====
section
/-! DEFINITION. Power states (R541 to R548), the change of rate (R543, R544), supply monitors and temperature sensors (R549
to R555), and what the end of a whole-chip mute, a safe reset and an island's forced close bring about (R424, R427, R464 to
R466). -/

namespace Sys2Proof.Machine

/-! ### Power states -/

def pwrRun : Nat := 0
def pwrQuiesce : Nat := 1
def pwrHold : Nat := 2

def State.pwrState (s : State) : Nat := s.get Reg.PWRSTAT_STATE

/-- The loop can be commanded to the floor: it is LOCKED, holds its last tuning, or is there (R545, R548). -/
def State.loopAtRest (s : State) : Bool := s.loop == loopLocked || s.loop == loopHold || s.loop == loopFloor

/-- Entry to HOLD begins (R545 steps 1 and 2). -/
def State.holdBegin (s : State) : State :=
  let s1 := (s.putBit Reg.PWRSTAT_BUSY true).fumCause fumClock
  { s1 with pwr := { s1.pwr with goal := 3, step := 1 }, clk := { s1.clk with floor := decide (s1.loop ≠ loopFloor) } }

/-- Exit from HOLD begins (R547 step 1). -/
def State.holdExit (s : State) (dest : Nat) : State :=
  let s1 := (s.putBit Reg.PWRSTAT_BUSY true).loopToCal
  { s1 with pwr := { s1.pwr with goal := dest + 1, step := 3 } }

/-- A request for a power state is carried out, while no transition is in progress (R541). -/
def State.pwrGo (s : State) (req : Nat) : State :=
  if req = s.pwrState then s
  else if req = pwrHold then
    (if s.loopAtRest then s.holdBegin else { s with pwr := { s.pwr with want := req + 1 } })
  else if s.pwrState = pwrHold then s.holdExit req
  else { s.putBit Reg.PWRSTAT_BUSY true with pwr := { s.pwr with goal := req + 1, step := 0 } }

/-- A transition ends: the state is entered with E216, and the last request that came meanwhile is carried out (R541). -/
def State.pwrEnter (s : State) (st : Nat) : State :=
  let s1 := ((s.put Reg.PWRSTAT_STATE st).putBit Reg.PWRSTAT_BUSY false).raise 216
  let s2 := if st = pwrHold then s1 else s1.putBit Reg.PWRSTAT_THERM_HOLD false
  let s3 : State := { s2 with pwr := { s2.pwr with goal := 0, step := 0, want := 0 } }
  if s.pwr.want = 0 then s3 else s3.pwrGo (s.pwr.want - 1)

/-- PWRCTL with GO = 1 (R541, R548). -/
def State.pwrctlGo (s : State) (req : Nat) : State :=
  let s1 := s.put Reg.PWRCTL_REQ req
  if req = 3 then s1.pwrRefuse Reg.PWRSTAT_REFUSED
  else if req ≠ pwrHold ∧ s.pwr.hot then s1.pwrRefuse Reg.PWRSTAT_REFUSED
  else if s.bit Reg.PWRSTAT_BUSY then { s1 with pwr := { s1.pwr with want := req + 1 } }
  else ({ s1 with pwr := { s1.pwr with want := 0 } } : State).pwrGo req

def execPwrReqRun (s : State) : Host.Outcome State Fault Refusal := done (s.pwrctlGo pwrRun)
def execPwrReqQuiesce (s : State) : Host.Outcome State Fault Refusal := done (s.pwrctlGo pwrQuiesce)
def execPwrReqHold (s : State) : Host.Outcome State Fault Refusal := done (s.pwrctlGo pwrHold)

/-- The islands of the data plane that HOLD gates, in their order (R545 step 3). -/
def holdIslands : List Nat :=
  [islPorts, islStream] ++ (List.range 4).map islNet ++ (List.range 4).map islLink ++ List.range 288 ++
    (List.range 32).map islBank ++ (List.range 4).map islSlice ++ [islTephra, islConv]

/-- C is 0 on the way to HOLD: the ports stop, the data plane is gated, the DRAM enters self-refresh and the loop falls
(R545 steps 3 and 4). -/
def State.holdGate (s : State) : State :=
  let s1 := (List.range 16).foldl (fun t n =>
    if t.portState n = portRun ∨ t.portState n = portReady then t.put (Reg.PORTSTAT_STATE n) portOff else t) s
  let s2 : State := { s1 with
    clk := { s1.clk with gated := holdIslands ++ s1.clk.gated.filter (fun i => !holdIslands.contains i) }
    pwr := { s1.pwr with step := 2 } }
  let s3 := if s2.bit Reg.DRCCFG_EN then s2.putBit Reg.DRCSTAT_SELF_REFRESH true else s2
  if s3.loop = loopFloor then s3 else s3.setLoop loopFloor

/-- The floor is reached with the data plane gated (R545 step 5). -/
def execHoldEntered (s : State) : Host.Outcome State Fault Refusal :=
  done (if s.pwr.step = 2 ∧ s.loop = loopFloor then
    let s1 := if s.bit Reg.CORESTAT_COAST then s else ((s.putBit Reg.CORESTAT_COAST true).raise 6).fumCause fumClock
    ({ s1 with clk := { s1.clk with floor := false, ramp := true } } : State).pwrEnter pwrHold
    else s)

/-- The loop is LOCKED on the way out of HOLD: the DRAM trains and leaves self-refresh (R547 step 2). -/
def State.holdTrain (s : State) : State :=
  let s1 := s.putBit Reg.DRCSTAT_SELF_REFRESH false
  let s2 := if s.bit Reg.DRCCFG_EN then s1.putBit Reg.DRCSTAT_TRAINED false else s1
  { s2 with mem := { s2.mem with training := s.bit Reg.DRCCFG_EN }, pwr := { s2.pwr with step := 4 } }

/-- The data plane has been held in reset and is released and ungated (R547 step 3); the state is entered at the next period
boundary. -/
def execHoldExitDone (s : State) : Host.Outcome State Fault Refusal :=
  done (if s.pwr.step = 4 ∧ !s.mem.training then
    let s0 : State := { s with
      clk := { s.clk with gated := s.clk.gated.filter (fun i => !holdIslands.contains i) }
      pwr := { s.pwr with step := 5 } }
    (s0.planeReset 3 0).raise 217
    else s)

/-- A sensor at 135 °C during an exit from HOLD: the exit ends at its next step and the loop returns to the floor (R548). -/
def State.holdReturn (s : State) : State :=
  let s1 := s.fumCause fumClock
  { s1 with pwr := { s1.pwr with goal := 3, step := 1 }, clk := { s1.clk with floor := decide (s1.loop ≠ loopFloor) } }

/-- The power controller at a frame edge: a fall to the floor or a ramp that has waited for C = 0 begins (R455). -/
def State.pwrEdge (s : State) : State :=
  let s1 := if s.pwr.step = 1 ∧ s.cZero then s.holdGate
    else if s.clk.floor && s.cZero && decide (s.loop ≠ loopFloor) then s.setLoop loopFloor
    else s
  let s2 := if s1.pwr.step = 3 ∧ s1.loop = loopLocked then s1.holdTrain else s1
  if s2.pwr.want ≠ 0 ∧ !s2.bit Reg.PWRSTAT_BUSY ∧ s2.loopAtRest then
    ({ s2 with pwr := { s2.pwr with want := 0 } } : State).pwrGo (s2.pwr.want - 1)
  else s2

/-- The power controller at a period boundary (R541, R542, R547 step 4). -/
def State.pwrBoundary (s : State) : State :=
  if s.pwr.goal = 0 then s
  else if s.pwr.step = 5 then s.pwrEnter (s.pwr.goal - 1)
  else if s.pwr.step ≠ 0 then s
  else if s.pwr.goal = pwrQuiesce + 1 then s.gysQuiesce.pwrEnter pwrQuiesce
  else if s.loop = loopLocked then s.pwrEnter pwrRun
  else s

/-! ### The change of rate -/

/-- A write to PWRRATE (R543). -/
def State.pwrrateWrite (s : State) (fam mult : Nat) : State :=
  let same := fam = s.get Reg.PWRRATE_FAMILY ∧ mult = s.get Reg.PWRRATE_MULT
  if mult = 3 ∨ (s.pwrState ≠ pwrQuiesce ∧ ¬ same) then s.pwrRefuse Reg.PWRSTAT_REFUSED
  else (s.put Reg.PWRRATE_FAMILY fam).put Reg.PWRRATE_MULT mult

def execPwrrateWrite (family : Bool) (mult : BitVec 2) (s : State) : Host.Outcome State Fault Refusal :=
  done (s.pwrrateWrite family.toNat mult.toNat)

/-- PWRRATE is applied as the loop enters RAMP (R544). -/
def State.rateApply (s : State) : State :=
  let s1 := (s.put Reg.PWRRATE_FAMILY_NOW (s.get Reg.PWRRATE_FAMILY)).put Reg.PWRRATE_MULT_NOW (s.get Reg.PWRRATE_MULT)
  let s2 := (s1.planeReset 3 0).raise 217
  let s3 := (List.range 256).foldl State.tableRecheck s2
  let s4 := if s3.isMaster then s3 else s3.putBit Reg.LNKCASCSTAT_FC_SYNC false
  s4.raise 223

/-- A ramp target above the guard frequency: the service N, or a waypoint (R452, R453). -/
def State.rampHigh (s : State) : Bool :=
  (s.serviceN :: (List.range s.rampSegs).map (fun i =>
    s.get (Reg.RAMPSEG_NINT i) * 2 ^ 24 + s.get (Reg.RAMPSEG_FRAC i))).any (fun n =>
      aboveGuard (s.rootHz (s.get Reg.CORESTAT_INPUT_NOW) (s.get Reg.CORECFG_REFSCALE) n))

/-- CORECTL.RAMP_GO (R452, R454, R455). -/
def State.rampGoWrite (s : State) : State :=
  if s.loop = loopRamp then s
  else if s.pwrState ≠ pwrQuiesce ∨ s.loop ≠ loopLocked then s.clkRefuse 3
  else if s.rampHigh then s.clkRefuse 2
  else
    let s1 := s.fumCause fumClock
    { s1 with clk := { s1.clk with rampGo := true }, pwr := { s1.pwr with rampApply := true } }

def execRampGo (s : State) : Host.Outcome State Fault Refusal := done s.rampGoWrite

/-- A ramp that has waited for C = 0 begins at a frame edge (R453 to R455). -/
def State.rampEdge (s : State) : State :=
  if s.clk.rampGo && s.cZero && decide (s.loop = loopLocked) then
    let s1 := s.rampEnter
    let s2 : State := { s1 with clk := { s1.clk with rampGo := false }, pwr := { s1.pwr with rampApply := false } }
    (if s.pwr.rampApply then s2.rateApply else s2).rampSettle
  else s

/-! ### Supply monitors (R549 to R551) -/

def State.supplyFault (s : State) (rail kind : Nat) : State := (s.put Reg.SUPFAULT_RAIL rail).put Reg.SUPFAULT_KIND kind

def execSupplyWarn (rail : Fin 10) (s : State) : Host.Outcome State Fault Refusal :=
  done (((s.put Reg.SUPSTAT_BELOW_WARN (s.get Reg.SUPSTAT_BELOW_WARN ||| 2 ^ rail.val)).supplyFault rail 0).raiseOnce 208)

/-- A rail that was below its warning threshold rises again (R435, R550). -/
def execSupplyDip (rail : Fin 10) (s : State) : Host.Outcome State Fault Refusal :=
  let b := s.get Reg.SUPSTAT_BELOW_WARN
  done (if b.testBit rail && decide (s.pwr.supply ≠ rail.val + 1) then
    ((((s.put Reg.SUPSTAT_BELOW_WARN (b ^^^ 2 ^ rail.val)).put Reg.SUPSTAT_DIP
      (s.get Reg.SUPSTAT_DIP ||| 2 ^ rail.val)).supplyFault rail 1).raise 209).fumPrecaution
    else s)

/-- A rail passes its reset threshold, or its overvoltage threshold (R551). -/
def execSupplyResetThreshold (rail : Fin 10) (above : Bool) (s : State) : Host.Outcome State Fault Refusal :=
  done (if rail = 2 ∨ rail = 9 then s.por
    else
      let s1 := (s.supplyFault rail (if above then 3 else 2)).fumCause fumSupply
      { s1 with pwr := { s1.pwr with supply := rail.val + 1, supplyAt := if s1.pwr.supply = 0 then s.now else s1.pwr.supplyAt } })

/-- A supply fault still waits (R551): C is not 0, FCLK runs, and 250 µs of it have not passed since the crossing. -/
def State.supplyWaits (s : State) : Bool :=
  !s.cZero && s.bit Reg.MGSTAT_FCLK_OK && decide (4000 * s.fclkSince s.pwr.supplyAt < 8192 * s.baseRate)

/-- C is 0, or 250 µs have passed since the crossing (R551). -/
def execSupplyChipReset (s : State) : Host.Outcome State Fault Refusal :=
  done (if s.pwr.supply = 0 ∨ s.supplyWaits = true then s else s.chipReset 2 3 (s.pwr.supply - 1))

/-! ### Temperature (R552 to R555) -/

/-- The valid readings; fewer than six sensors that are valid or still to convert count as a reading of 135 °C (R555). -/
def State.readings (s : State) : List Int :=
  let valid := (List.range 8).filter (fun i => s.bit (Reg.TEMP_VALID i))
  let counted := (List.range 8).filter (fun i => s.bit (Reg.TEMP_VALID i) || !s.bit (Reg.TEMP_BAD i))
  valid.map (fun i => tempOf (s.get (Reg.TEMP_TEMP i))) ++ (if counted.length < 6 then [135 * 16] else [])

/-- The warning at 115 °C, once until every reading is below 110 °C (R552). -/
def State.tempWarn (s : State) (ts : List Int) : State :=
  if ts.any (fun t => decide (115 * 16 ≤ t)) then
    (if s.pwr.warned then s else { s.raise 211 with pwr := { s.pwr with warned := true } })
  else if ts.all (fun t => decide (t < 110 * 16)) then { s with pwr := { s.pwr with warned := false } }
  else s

/-- A reading of 135 °C: whole-chip mute and HOLD (R553). -/
def State.tempHot (s : State) : State :=
  let t1 := ((s.fumCause fumThermal).raise 212).putBit Reg.PWRSTAT_THERM_HOLD true
  let b := if t1.pwr.goal = 0 then t1.pwrState else t1.pwr.before
  let t2 : State := { t1 with pwr := { t1.pwr with hot := true, before := b } }
  if t2.pwr.step = 3 ∨ t2.pwr.step = 4 then t2.holdReturn
  else if t2.pwrState = pwrHold ∨ t2.pwr.goal = 3 then t2
  else if t2.bit Reg.PWRSTAT_BUSY then { t2 with pwr := { t2.pwr with want := pwrHold + 1 } }
  else t2.pwrGo pwrHold

/-- Every reading is below 115 °C again (R554). -/
def State.tempCool (s : State) : State :=
  let t1 : State := { s.raise 213 with pwr := { s.pwr with hot := false } }
  if s.bit Reg.PWRCFG_THERM_RESUME ∧ t1.pwr.before ≠ pwrHold then
    (if t1.bit Reg.PWRSTAT_BUSY then { t1 with pwr := { t1.pwr with want := t1.pwr.before + 1 } }
     else t1.pwrGo t1.pwr.before)
  else t1

/-- The thresholds after a conversion or a sensor found bad (R552 to R554). -/
def State.tempJudge (s : State) : State :=
  let ts := s.readings
  let s1 := s.tempWarn ts
  let s2 :=
    if ts.any (fun t => decide (135 * 16 ≤ t)) then (if s1.pwr.hot then s1 else s1.tempHot)
    else if s1.pwr.hot && ts.all (fun t => decide (t < 115 * 16)) then s1.tempCool
    else s1
  if ts.any (fun t => decide (150 * 16 ≤ t)) then s2.chipReset 2 4 0 else s2

/-- TEMPMAX takes a valid reading that exceeds it. -/
def State.tempMax (s : State) (v : Nat) : State :=
  if tempOf (s.get Reg.TEMPMAX_MAX) < tempOf v then s.put Reg.TEMPMAX_MAX v else s

/-- A sensor completes a conversion (R552, R555). -/
def execTempConversion (i : Fin 8) (t : BitVec 13) (s : State) : Host.Outcome State Fault Refusal :=
  let bad := decide (t.toInt < -60 * 16) || decide (160 * 16 < t.toInt)
  let s1 := ((s.put (Reg.TEMP_TEMP i) t.toNat).putBit (Reg.TEMP_VALID i) (!bad)).putBit (Reg.TEMP_BAD i) bad
  done (if bad then (if s.bit (Reg.TEMP_BAD i) then s1 else s1.raiseOnce 215).tempJudge else (s1.tempMax t.toNat).tempJudge)

/-- A sensor completes no conversion within 256 intervals (R555). -/
def execTempSensorTimeout (i : Fin 8) (s : State) : Host.Outcome State Fault Refusal :=
  done (((if s.bit (Reg.TEMP_BAD i) then s else s.raiseOnce 215).putBit (Reg.TEMP_VALID i) false).putBit (Reg.TEMP_BAD i)
    true).tempJudge

/-- Any write to TEMPMAX sets it to the highest present reading. -/
def State.tempmaxWrite (s : State) : State :=
  (List.range 8).foldl (fun t i => if s.bit (Reg.TEMP_VALID i) then t.tempMax (s.get (Reg.TEMP_TEMP i)) else t)
    (s.put Reg.TEMPMAX_MAX 0x1000)

def execTempmaxWrite (s : State) : Host.Outcome State Fault Refusal := done s.tempmaxWrite

/-! ### Fumarole's hold on the chip -/

/-- The clear conditions of CLOCK, THERMAL, SUPPLY and STALL (R424). -/
def State.clearMet (s : State) (c : Nat) : Bool :=
  if c = fumClock then decide (s.clk.lockedAt ≠ 0) && decide (s.clk.lockedAt + 15 ≤ s.frame)
  else if c = fumThermal then s.readings.all (fun t => decide (t < 115 * 16)) && decide (s.pwrState ≠ pwrHold) &&
    decide (s.pwr.goal ≠ 3)
  else if c = fumSupply then decide (s.pwr.supply = 0)
  else if c = fumStall then decide (s.fum.since.look 0 fumStall ≠ 0) &&
    decide (s.fum.since.look 0 fumStall + 16 * s.muteHold ≤ s.frame + 17)
  else false

/-- The causes whose condition for clearing is met clear; with the last of them MUTE_ALL ends (R424, R425). -/
def execFumResumed (s : State) : Host.Outcome State Fault Refusal :=
  done ([fumClock, fumThermal, fumSupply, fumStall].foldl (fun t c => if t.fumHas c && s.clearMet c then t.fumClear c else t) s)

/-- C has reached 0 under an action of 2: Fumarole requests a safe reset (R427, R428). -/
def execFumSafeReset (s : State) : Host.Outcome State Fault Refusal :=
  done (if s.fum.resetDue ∧ s.cZero then
    let s1 := ((s.putBit Reg.FUMSTAT_SAFE_RESET true).pairDrop).fumEvent 203 (4096 * (s.get Reg.FUMSTAT_CAUSE).log2)
    ({ s1 with fum := { s1.fum with resetDue := false } } : State).safeReset
    else s)

/-- The comparator of the steward's cores mismatches (R424). -/
def execStewardLockstepFault (s : State) : Host.Outcome State Fault Refusal := done s.stewardHalt

/-! ### Forced closes (R45, R464 to R466) -/

/-- The target ports that lie at an island (R504). -/
def islandPorts (i : Nat) : List Nat :=
  if i = islSteward then [0, 1]
  else if i = islGeyser then [2, 0x24 + 5]
  else if i = islStream then [3, 0x24 + 11]
  else if i < 0x120 then [4 + i / 9]
  else if i < 0x140 then [4 + (i - 0x120)]
  else if 0x144 ≤ i ∧ i < 0x148 then (List.range 8).map (fun c => 4 + 8 * (i - 0x144) + c)
  else if i = islPorts then [0x24 + 8, 0x24 + 9]
  else if i = islConv ∨ i = islTephra then [0x24 + 7]
  else if 0x14F ≤ i ∧ i < 0x153 then [0x24 + 10]
  else if 0x153 ≤ i ∧ i < 0x157 then [0x24 + 12]
  else if i = islDrc 0 ∨ i = islDrc 1 then [0x35]
  else []

/-- What a forced close of island `i` abandons: the transactions at it, and the locks of its port (R466, R520). -/
def State.forceAbandon (s : State) (i : Nat) : State :=
  let s1 := (s.fab.reqs.filter (fun r => (targetIslands r.addr).contains i)).foldl (State.answerIsland 2) s
  [0, 4].foldl (fun t m => match t.lockedPort m with
    | some p => if (islandPorts i).contains p then t.lockBreak m 2 else t
    | none => t) s1

/-- The fabric port of island `i` is idle (R45): no transaction for it is outstanding, and no lock holds it (R528). -/
def State.islandIdle (s : State) (i : Nat) : Bool :=
  !s.fab.reqs.any (fun r => (targetIslands r.addr).contains i) &&
    [0, 4].all (fun m => match s.lockedPort m with | some p => !(islandPorts i).contains p | none => true)

/-- The island's fabric port reports idle (R45, R465); an island in reset waits for its release (R468). -/
def execIslandIdleClose (s : State) : Host.Outcome State Fault Refusal :=
  done (match s.clk.gating with
    | some i => if s.resetHolds i ∨ !s.islandIdle i then s else s.islandClose i false
    | none => s)

/-- ISLCMD with OP = force (R464, R465). -/
def State.islandForce (s : State) (isl : Nat) : State :=
  let s1 := s.islandCmd isl 2
  if s1.clk.gated.contains isl ∧ !s.bit Reg.ISLSTAT_BUSY then s1.forceAbandon isl else s1

def execIslandForce (isl : BitVec 10) (s : State) : Host.Outcome State Fault Refusal := done (s.islandForce isl.toNat)

/-- The port of the island that is being gated has not become idle within IDLE_TO (R45, R465): `fclk` cycles have passed since
the gate command, or since the release of the reset that it waited for (R468). -/
def execIslandForcedClose (s : State) : Host.Outcome State Fault Refusal :=
  done (match s.clk.gating with
    | some i => if s.resetHolds i ∨ s.fclkSince s.clk.gateAt < s.idleTimeout then s else (s.islandClose i true).forceAbandon i
    | none => s)

end Sys2Proof.Machine
end

