-- ==== Sys2Proof/Machine/RegFile.lean ====
section
/-! DEFINITION. The register file as a fabric or local access finds it: the plain field types of R14, the registers whose
reads show something that is no stored field, and the registers whose writes have a behaviour of their own. -/

namespace Sys2Proof.Machine

/-! ### The field types (R14, R15, R438) -/

/-- A write to one field of the word at `a` by its type; RWL fields are written by `plainWrite` while the lock is open. -/
def State.fieldWrite (a v : Nat) (s : State) (f : FldRow) : State :=
  let x := v / 2 ^ f.lo
  match f.ty with
  | .rw => s.put (fldAt a f) x
  | .w1c => s.put (fldAt a f) (s.get (fldAt a f) ^^^ (s.get (fldAt a f) &&& x))
  | .rwp => s.stage (fldAt a f) x
  | .rwl => if s.locked then s else s.put (fldAt a f) x
  | .ro => s
  | .wo => s

/-- A write to a register without behaviour of its own; with the lock closed a write to RWL fields is reported (R438). -/
def State.plainWrite (s : State) (a v : Nat) : State :=
  match rowAt a with
  | none => s
  | some r =>
    let s1 := r.flds.foldl (State.fieldWrite a v) s
    if s.locked && r.flds.any (fun f => f.ty == .rwl) then s1.fumLockWrite a else s1

/-- What a read of one field gives (R14). -/
def State.fieldRead (s : State) (a : Nat) (f : FldRow) : Nat :=
  match f.ty with
  | .wo => 0
  | .rwp => s.lastWritten (fldAt a f) * 2 ^ f.lo
  | _ => s.get (fldAt a f) * 2 ^ f.lo

/-- What a read of a register of stored fields gives; reserved fields read 0 (R15). -/
def State.plainRead (s : State) (a : Nat) : Nat :=
  match rowAt a with
  | none => 0
  | some r => r.flds.foldl (fun t f => t + s.fieldRead a f) 0

/-! ### Reads (the registers that show a state of the machine) -/

/-- FUMSLOTST of the selected slot (R416 to R423). -/
def State.fumSlotSt (s : State) : Nat :=
  let c := s.fumSlot (s.get Reg.FUMSLOTSEL_SLOT)
  c.limiting.toNat + 2 * c.filling.toNat +
    (match c.mutes with | [] => 0 | m :: _ => 4 + 8 * m.cause)

/-- FUMSLOTG: G of the last handed frame as a gain code. -/
def State.fumSlotG (s : State) : Nat :=
  codeField (levelCode (s.fumSlot (s.get Reg.FUMSLOTSEL_SLOT)).gain.toNat 2251799813685248 1)

/-- Word `i` of a latched record. -/
def recordWord (r : List Nat) (i : Nat) : Nat := r.getD i 0 % 2 ^ 32

/-- The head of a port's stamp FIFO as NETTXTS_TAG shows it. -/
def State.txtsTag (s : State) (n : Nat) : Nat :=
  match (s.netPort n).stamps with
  | [] => 0
  | e :: _ => e.2.1 % 65536 + 65536 * (e.2.2 % 2) + 2 ^ 31

/-- The head's stamp, as NETTXTS_NS shows it. -/
def State.txtsNs (s : State) (n : Nat) : Nat :=
  match (s.netPort n).stamps with
  | [] => 0
  | e :: _ => e.1 % 2 ^ 32

/-- What a read of the register word at `a` gives. -/
def State.regView (s : State) (a : Nat) : Nat :=
  let o := a % 65536
  match blockOf a with
  | 0 =>
    if o = 0x14 then s.nNow
    else if o = 0x108 then s.plainRead a ||| (if s.clk.gated.contains (s.get Reg.ISLCMD_ISLAND) then 8 else 0)
    else s.plainRead a
  | 1 =>
    if 0x40 ≤ o ∧ o < 0xA0 ∧ o % 16 = 4 then s.plainRead a % 65536 + 65536 * (s.refTimer ((o - 0x40) / 16) % 65536)
    else s.plainRead a
  | 2 => if o = 0x168 then s.gpioIn else s.plainRead a
  | 3 => if 0x50 ≤ o ∧ o < 0x68 then s.plainRead a / 32 * 32 + s.fabOutstanding ((o - 0x50) / 4) else s.plainRead a
  | 4 =>
    if o = 0x48 then s.evtPend
    else if o = 0x4C then s.msixCond + 65536 * s.evtOutCond
    else s.plainRead a
  | 5 => if o = 0x14 then s.gysPidCur else if o = 0x18 then s.gysPidSt else s.plainRead a
  | 6 => if o = 0x34 then s.calXpCur else if o = 0x38 then s.calXpSt else s.plainRead a
  | 7 =>
    if 0x3040 ≤ o ∧ o < 0x3060 then recordWord (s.pointRecord (s.get Reg.MTRSEL_POINT)) ((o - 0x3040) / 4)
    else if 0x3060 ≤ o ∧ o < 0x3070 then recordWord (s.groupRecord (s.get Reg.MTRSEL_GROUP)) ((o - 0x3060) / 4)
    else if 0x8000 ≤ o ∧ o % 8 = 0 then (s.point ((o - 0x8000) / 8)).src
    else s.plainRead a
  | 8 => if 0x1000 ≤ o ∧ o < 0x1400 then (s.valueAt (0x180000 + (o - 0x1000) / 4) (s.frame - 73)).data.toNat else s.plainRead a
  | 9 =>
    if 0x100 ≤ o ∧ o < 0x500 ∧ o % 16 = 0 then (s.routeAt ((o - 0x100) / 16) s.frame).route.toNat
    else if 0x100 ≤ o ∧ o < 0x500 ∧ o % 16 = 4 then (s.routeAt ((o - 0x100) / 16) s.frame).gain.toNat
    else s.plainRead a
  | 10 =>
    if o % 0x4000 = 0xB0 then s.txtsNs (o / 0x4000)
    else if o % 0x4000 = 0xB4 then s.txtsTag (o / 0x4000)
    else s.plainRead a
  | 13 => if o = 0x24 then s.fumSlotSt else if o = 0x28 then s.fumSlotG else s.plainRead a
  | 14 =>
    if o = 0x44 then
      (s.get Reg.DBGSTAT_OPEN) + 2 * Bool.toNat s.stw.debug + 4 * s.get Reg.DBGSTAT_DBG_DIS +
        (if s.stw.debug then 8 * (s.stw.core.npc % 2 ^ 19) else 0)
    else s.plainRead a
  | 16 =>
    if o = 8 then (Config.uid.extractLsb' 0 32).toNat
    else if o = 12 then (Config.uid.extractLsb' 32 32).toNat
    else s.plainRead a
  | 17 =>
    if 0x1000 ≤ pageOffset a ∧ pageOffset a < 0x3000 ∧ pageOffset a % 0x400 = 0x18 then
      s.ttSum (pageCluster a) ((pageOffset a - 0x1000) / 0x400)
    else s.plainRead a
  | _ => s.plainRead a

/-- What a read of a register does beside giving its value: TCd_NS captures (R494), NETTXTS_TAG pops (R344). -/
def State.regReadEffect (s : State) (a : Nat) : State :=
  let o := a % 65536
  if blockOf a = 1 ∧ (o = 0x108 ∨ o = 0x148) then s.tcNsRead ((o - 0x108) / 0x40)
  else if blockOf a = 10 ∧ o % 0x4000 = 0xB4 then s.txtsPop (o / 0x4000)
  else s

/-- A register read: its value, and the state after it.  A read of TCd_NS gives the nanoseconds it captures. -/
def State.regRead (s : State) (a : Nat) : Nat × State :=
  let t := s.regReadEffect a
  (if blockOf a = 1 then t.regView a else s.regView a, t)

/-! ### Writes with a behaviour of their own -/

/-- The clock block.  While a command is carried out a write to ISLCMD is ignored, whatever it holds (R464). -/
def State.clkWrite (s : State) (a v : Nat) : State :=
  match a % 65536 with
  | 0x0 => s.corecfgWrite (v % 4) (v / 4 % 4) (Config.measured s.free 0)
  | 0x4 => s.nintWrite v
  | 0x8 => s.nfracWrite v
  | 0xC =>
    let s1 := s.sscWrite (v / 4)
    let s2 := if v.testBit 0 then s1.loopRelock else s1
    if v.testBit 1 then s2.rampGoWrite else s2
  | 0x104 =>
    if s.bit Reg.ISLSTAT_BUSY then s.putBit Reg.ISLSTAT_CMD_IGNORED true
    else if v.testBit 31 then (if v / 4096 % 4 = 2 then s.islandForce (v % 1024) else s.islandCmd (v % 1024) (v / 4096 % 4))
    else s.plainWrite a v
  | _ => s.plainWrite a v

/-- The reference and time block. -/
def State.refBlockWrite (s : State) (a v : Nat) : State :=
  let o := a % 65536
  if o = 0x0 then (s.plainWrite a (v / 2 * 2 + s.get Reg.REFCFG_MODE)).modeWrite (v.testBit 0)
  else if o = 0xC then s.refctlWrite v
  else if o = 0x14 then s.refsteerWrite (BitVec.ofNat 32 v)
  else if 0x40 ≤ o ∧ o < 0xA0 ∧ o % 16 = 0 then
    s.refWrite ((o - 0x40) / 16) (v.testBit 0) (v / 2 % 16) (v / 32 % 16) (v.testBit 9)
  else if o = 0x114 ∨ o = 0x154 then s.tcIncWrite ((o - 0x114) / 0x40) v
  else if o = 0x128 ∨ o = 0x168 then
    let s1 := if v.testBit 0 then s.tcSet ((o - 0x128) / 0x40) (Config.measured s.free 0) else s
    if v.testBit 1 then s1.tcAdj ((o - 0x128) / 0x40) (Config.measured s.free 1) else s1
  else if o = 0x200 then
    let s1 := s.plainWrite a v
    if v.testBit 0 then s1.putBit Reg.TCLATCHCTL_PENDING true else s1
  else s.plainWrite a v

/-- The ROM is at work on an image, or has handed off. -/
def State.bootBusy (s : State) : Bool := decide (3 ≤ s.get Reg.BOOTSTAT_STAGE) && decide (s.get Reg.BOOTSTAT_STAGE ≤ 5)

/-- BOOTDOOR.GO (R556, R557): accepted from M1 in mode 0 or after a fallback, and from M5 in mode 2; an image is handed
over while the ROM has none. -/
def State.bootdoorGo (s : State) (m : Nat) : State :=
  let mode := s.get Reg.BOOTSTAT_MODE
  if ((m = 1 ∧ (mode = 0 ∨ s.bit Reg.BOOTSTAT_FALLBACK)) ∨ (m = 5 ∧ mode = 2)) ∧ !s.bootBusy then
    { s with boot := { s.boot with handed := true } }
  else s

/-- The power, reset, boot and pin block. -/
def State.pwrBlockWrite (s : State) (m a v : Nat) : State :=
  match a % 65536 with
  | 0x0 => if v.testBit 31 then s.pwrctlGo (v % 4) else s.plainWrite a v
  | 0xC => s.pwrrateWrite (v % 2) (v / 2 % 4)
  | 0x10 => if v.testBit 31 then s.rstReq m (v % 8) (v / 16 % 512) else s.plainWrite a v
  | 0x50 => s.tempmaxWrite
  | 0x64 => if v.testBit 0 then s.bootdoorGo m else s
  | 0x160 => s.gpiocfgWrite v
  | 0x164 => s.gpiooutWrite v
  | _ => s.plainWrite a v

/-- The fabric block. -/
def State.fabBlockWrite (s : State) (m a v : Nat) : State :=
  match a % 65536 with
  | 0x0 => s.remapWrite m (v.testBit 0)
  | 0x70 => s.fabcntClear
  | _ => s.plainWrite a v

/-- The event block. -/
def State.evtBlockWrite (s : State) (a v : Nat) : State :=
  let o := a % 65536
  if o < 0x20 then s.evtstatClear (o / 4) v
  else if o < 0x40 then s.evtenWrite ((o - 0x20) / 4) v
  else if o = 0x44 then s.evtswset v
  else if 0x1000 ≤ o then s.evtrouteWrite ((o - 0x1000) / 4) v
  else if s.evt.inReset then s
  else s.plainWrite a v

/-- The Geyser block: CANCEL before GO (R230), DROP before LOAD (R226). -/
def State.gysBlockWrite (s : State) (a v : Nat) : State :=
  let o := a % 65536
  if 0x40 ≤ o ∧ o < 0xC0 ∧ o % 32 = 0 then
    let n := (o - 0x40) / 32
    let s1 := s.plainWrite a v
    let s2 := if v.testBit 1 then s1.commitCancel n else s1
    if v.testBit 0 then s2.commitGo n else s2
  else if 0x1000 ≤ o ∧ o % 16 = 12 then
    let n := (o - 0x1000) / 16
    let s1 := s.plainWrite a v
    let s2 := if v.testBit 10 then s1.ovlDrop n else s1
    if v.testBit 9 then s2.ovlLoad n else s2
  else s.plainWrite a v

/-- MTRCLR (R283, R284). -/
def State.mtrclrWrite (s : State) (v : Nat) : State :=
  let ms := if v.testBit 31 then s.mtr.points.map Prod.fst else [v % 4096]
  let s1 := if v.testBit 16 then ms.foldl State.mtrHold s else s
  if v.testBit 17 then ms.foldl State.mtrClips s1 else s1

/-- The conversion and metering block; BIND is not written while the unit runs (R262). -/
def State.cnvBlockWrite (s : State) (a v : Nat) : State :=
  let o := a % 65536
  if 0x100 ≤ o ∧ o < 0x900 ∧ o % 64 = 0 then s.cnvCtlWrite ((o - 0x100) / 64) (v.testBit 0) (v / 2 % 8) (v / 16 % 8)
  else if 0x1000 ≤ o ∧ o < 0x2000 ∧ o % 16 = 0 then
    let c := (o - 0x1000) / 16
    let s1 := if s.bit (Reg.CNVCTL_EN (c / 8)) then s else s.plainWrite a v
    if v.testBit 31 then s1.cnvClr c else s1
  else if o = 0x3010 then s.mtrclrWrite v
  else s.plainWrite a v

/-- The audio port block; PORTCFG and PORTDIV are not written while the port is enabled (R301). -/
def State.apBlockWrite (s : State) (a v : Nat) : State :=
  let o := a % 65536
  if o = 0 then
    let s1 := s.plainWrite a v
    if v.testBit 0 then s1.apGo else s1
  else if 0x100 ≤ o ∧ o < 0x500 then
    let n := (o - 0x100) / 64
    if o % 64 = 0 ∨ o % 64 = 12 then (if s.bit (Reg.PORTCTL_EN n) then s else s.plainWrite a v)
    else if o % 64 = 4 then s.portCtlWrite n (v.testBit 0) (v.testBit 1)
    else if o % 64 = 16 then s.lanemaskWrite n v
    else s.plainWrite a v
  else s.plainWrite a v

def State.vntBlockWrite (s : State) (a v : Nat) : State :=
  if a % 65536 = 4 then s.vntForceWrite (v.testBit 0) else s.plainWrite a v

/-- A network port's registers. -/
def State.netBlockWrite (s : State) (a v : Nat) : State :=
  let n := a % 65536 / 0x4000
  match a % 0x4000 with
  | 0x0 => s.netcfgWrite n v
  | 0x94 => s.netcntClear n 0
  | 0x98 => s.netcntClear n 1
  | 0x9C => s.netcntClear n 2
  | 0xA4 => s.rxqTailWrite n v
  | 0xA8 => s.txqHeadWrite n v
  | _ => s.plainWrite a v

/-- The stream block (R349): MATCH, address and LAT words are not written while the stream is enabled. -/
def State.stmBlockWrite (s : State) (a v : Nat) : State :=
  let o := a % 65536
  if 0x1000 ≤ o ∧ o < 0x2000 then
    let r := (o - 0x1000) / 32
    if o % 32 = 0 then s.stmCtlWrite false r v
    else if s.bit (Reg.STRX_EN r) then s else s.plainWrite a v
  else if 0x2000 ≤ o ∧ o < 0x2800 then
    let t := (o - 0x2000) / 16
    if o % 16 = 0 then s.stmCtlWrite true t v
    else if o % 16 = 8 then s.put (Reg.STTX_DROPS t) 0
    else s.plainWrite a v
  else if 0x3000 ≤ o ∧ o < 0x3800 then s.strxcntClear ((o - 0x3000) / 16) (o % 16 / 4)
  else s.plainWrite a v

/-- The link block. -/
def State.lnkBlockWrite (s : State) (a v : Nat) : State :=
  let o := a % 65536
  if o = 0 then s.lnkcascWrite v
  else if 0x100 ≤ o ∧ o < 0x200 ∧ o % 64 = 0 then s.lnkcfgWrite ((o - 0x100) / 64) v
  else if 0x100 ≤ o ∧ o < 0x200 ∧ o % 64 = 8 then s.lnkcntClear ((o - 0x100) / 64)
  else if o = 0x200 then (s.plainWrite a v).pairElig
  else if o = 0x208 then (if v.testBit 0 then s.pairYield else s)
  else s.plainWrite a v

/-- Fumarole's block (R424, R437, R440); with PRI_PASS the causes that call for fallback change (R426). -/
def State.fumBlockWrite (s : State) (m a v : Nat) : State :=
  match a % 65536 with
  | 0x0 => (s.plainWrite a v).fumFallback
  | 0x8 => if v.testBit 0 then s.lockClose else s
  | 0xC => s.fumMuteReq (v.testBit 0) (m == 5)
  | 0x2C => s.fumcntClear
  | 0x40 =>
    let s1 := if v.testBit 16 then s.fumrecAck else s
    if v.testBit 17 then s1.fumrecClr (m == 5) else s1
  | _ => s.plainWrite a v

/-- DBGCTL (R590, R591): M0 opens the DAP unless the fuse forbids it, M0 and M5 close it; M4 halts, steps and resumes. -/
def State.dbgctlWrite (s : State) (m v : Nat) : State :=
  let s1 :=
    if v.testBit 0 then
      (if m = 0 ∧ !s.bit Reg.DBGSTAT_DBG_DIS ∧ !s.bit Reg.DBGSTAT_OPEN then
        ((s.putBit Reg.DBGCTL_OPEN true).putBit Reg.DBGSTAT_OPEN true).raiseOnce 233 else s)
    else if m = 0 ∨ m = 5 then (s.putBit Reg.DBGCTL_OPEN false).putBit Reg.DBGSTAT_OPEN false
    else s
  if m ≠ 4 then s1
  else
    let s2 := s1.putBit Reg.DBGCTL_STW_HALT (v.testBit 1)
    { s2 with stw := { s2.stw with debug := v.testBit 1, stepping := v.testBit 2 && v.testBit 1 } }

def State.hstBlockWrite (s : State) (m a v : Nat) : State :=
  if a % 65536 = 0x40 then s.dbgctlWrite m v else s.plainWrite a v

def State.drcBlockWrite (s : State) (a v : Nat) : State := if a % 65536 = 0 then s.drcWrite v else s.plainWrite a v

/-- The register page of a cluster: banks (R60), cells (R125, R132), the patrol counters. -/
def State.clusterWrite (s : State) (a v : Nat) : State :=
  let cl := pageCluster a
  let o := pageOffset a
  if o < 0x20 then s.bankWrite cl (o / 4) v
  else if 0x1000 ≤ o ∧ o < 0x3000 then
    let k := (o - 0x1000) / 0x400
    if o % 0x400 = 0 then s.cellctlWrite cl k v
    else if o % 0x400 = 12 then (if v.testBit 31 then s.cellpeakClr cl k else s)
    else s.plainWrite a v
  else if o = 0x3010 then s.patrolcntClear cl
  else s.plainWrite a v

/-- FUSECTL.PROG (R593): while RESET_N is low, within the fuses, while none is being programmed. -/
def State.fuseProg (s : State) : State :=
  let a := s.get Reg.FUSEADDR_ADDR
  if s.bit Reg.MGSTAT_RESET_N || decide (0x20 < a) || s.bit Reg.FUSESTAT_BUSY then s.putBit Reg.FUSESTAT_REFUSED true
  else { s.putBit Reg.FUSESTAT_BUSY true with fuses := { s.fuses with prog := some (a, s.get Reg.FUSEDATA_DATA) } }

/-- EVTSNAPCTL.TAKE (R586). -/
def State.evtsnapTake (s : State) : State := if s.bit Reg.MGSTAT_FCLK_OK then s.evtSnap 0 else s

/-- The management page (R583, R586, R593, R446). -/
def State.mgmWrite (s : State) (a v : Nat) : State :=
  match a % 65536 with
  | 0x38 =>
    let s1 := s.plainWrite a v
    if v.testBit 0 then s1.evtsnapTake else s1
  | 0x48 => if v.testBit 0 then s.fuseProg else s
  | 0x60 =>
    let s1 := s.plainWrite a v
    if v.testBit 31 then s1.loopinitGo else s1
  | _ => s.plainWrite a v

/-- A whole-word register write by master `m`. -/
def State.regWrite (s : State) (m a v : Nat) : State :=
  match blockOf a with
  | 0 => s.clkWrite a v
  | 1 => s.refBlockWrite a v
  | 2 => s.pwrBlockWrite m a v
  | 3 => s.fabBlockWrite m a v
  | 4 => s.evtBlockWrite a v
  | 5 => s.gysBlockWrite a v
  | 6 => if a % 65536 = 0x20 then s.put Reg.CALSATBUS_COUNT 0 else s.plainWrite a v
  | 7 => s.cnvBlockWrite a v
  | 8 => s.apBlockWrite a v
  | 9 => s.vntBlockWrite a v
  | 10 => s.netBlockWrite a v
  | 11 => s.stmBlockWrite a v
  | 12 => s.lnkBlockWrite a v
  | 13 => s.fumBlockWrite m a v
  | 14 => s.hstBlockWrite m a v
  | 15 => s.drcBlockWrite a v
  | 17 => s.clusterWrite a v
  | 18 => s.mgmWrite a v
  | _ => s

/-- REGISTER_WRITE (R14). -/
def execRegisterWrite (m : Fin 8) (a : BitVec 40) (v : BitVec 32) (s : State) : Host.Outcome State Fault Refusal :=
  done (s.regWrite m a.toNat v.toNat)

end Sys2Proof.Machine
end

