-- ==== Sys2Proof/Machine/Fabric.lean ====
section
/-! DEFINITION. What a transaction does at its target (14_fabric R500 to R522; 02_memory R51 to R58, R77 to R87), and the
commands that issue and grant transactions. -/

namespace Sys2Proof.Machine

/-! ### One beat -/

/-- What one beat of a transaction gave: the state, the word a read returns, and its code. -/
structure Beat where
  s    : State
  word : Sinter
  code : Nat
  deriving DecidableEq, Repr

/-- A beat its target refuses: a read returns poison (R503). -/
def State.refuseBeat (s : State) (code : Nat) : Beat := ⟨s, s.poison 0, code⟩

/-- A bank refuses an access of fabric master `m` to its word `w`: the owner is another (R57), or MODE is 0b11 and the region
fabric port is on port A (R64). -/
def State.bankDenies (s : State) (m cl b w : Nat) : Option State :=
  if s.bankOwner cl b ≠ 0xA then some (s.memFault cl b (masterReq m) 0 w 160)
  else if s.bankMode cl b = 3 then some (s.memFault cl b (masterReq m) 1 w 161)
  else none

/-- A read beat of master `m` at address `a`.  A bank word is read only while its owner is the region fabric port (R57); the
word a register gives has its residue generated (R52). -/
def State.readBeat (s : State) (m a : Nat) : Beat :=
  match s.place a with
  | .rom off => ⟨s, Config.bootRom off, fabOk⟩
  | .sram k => ⟨s, s.ram k, fabOk⟩
  | .base p => ⟨s, s.ram (baseKey p), fabOk⟩
  | .arena off => ⟨s, s.ram (arenaKey off), fabOk⟩
  | .imem cl k w => ⟨s, s.imemWord cl k w, fabOk⟩
  | .bank cl b w =>
    match s.bankDenies m cl b w with
    | some t => t.refuseBeat fabTarget
    | none => ⟨s, s.ram (bankKey cl b w), fabOk⟩
  | .reg r =>
    if (rowAt r).isSome then
      ⟨(s.regRead r).2, Sinter.ofData (BitVec.ofNat 32 (s.regRead r).1), fabOk⟩
    else s.refuseBeat fabDecode
  | .hole => (s.raise 163).refuseBeat fabTarget
  | .dram d => match s.dramRefuses d with
    | some t => t.refuseBeat fabTarget
    | none =>
      let f := s.takeLine (dramLineOf d)
      ⟨f.2, f.1.getD (dramWordOf d) Sinter.zero, fabOk⟩
  | .none => s.refuseBeat fabDecode

/-- A write beat of master `m` (R53, R78, R81, R228).  The word is stored as it comes (R51). -/
def State.writeBeat (s : State) (m a : Nat) (x : Sinter) : Beat :=
  match s.place a with
  | .rom _ => s.refuseBeat fabTarget
  | .sram k => ⟨s.setRam k x, x, fabOk⟩
  | .base p => ⟨s.directWrite p x, x, fabOk⟩
  | .arena off => match s.ovlLockedAt off with
    | some n => (s.ovlWriteRefused n).refuseBeat fabTarget
    | none => ⟨(s.setRam (arenaKey off) x).ovlTouched off, x, fabOk⟩
  | .imem cl k w =>
    if k < 8 ∧ s.bit (Reg.CELLSTAT_HALTED cl k) then ⟨s.setRam (imemKey cl k w) x, x, fabOk⟩
    else (s.memFault cl (8 + k) (masterReq m) 2 w 162).refuseBeat fabTarget
  | .bank cl b w =>
    match s.bankDenies m cl b w with
    | some t => t.refuseBeat fabTarget
    | none => ⟨s.setRam (bankKey cl b w) x, x, fabOk⟩
  | .reg r => if (rowAt r).isSome then ⟨s.regWrite m r x.data.toNat, x, fabOk⟩ else s.refuseBeat fabDecode
  | .hole => (s.raise 163).refuseBeat fabTarget
  | .dram d => match s.dramRefuses d with
    | some t => t.refuseBeat fabTarget
    | none => ⟨State.dramStore 1 d [x] s, x, fabOk⟩
  | .none => s.refuseBeat fabDecode

/-! ### The beats of a transaction -/

/-- What a run of beats gave: the state, the words read, the beats performed, and the code of the first beat refused. -/
structure Beats where
  s     : State
  words : List Sinter
  done  : Nat
  code  : Nat
  deriving DecidableEq, Repr

/-- `n` read beats from `a`; the first beat that is refused ends them. -/
def State.readBeats (m : Nat) : Nat → Nat → State → Beats
  | 0, _, s => ⟨s, [], 0, fabOk⟩
  | n + 1, a, s =>
    let b := s.readBeat m a
    if b.code ≠ fabOk then ⟨b.s, [], 0, b.code⟩
    else
      let r := State.readBeats m n (a + 4) b.s
      ⟨r.s, b.word :: r.words, r.done + 1, r.code⟩

/-- The write beats from `a`. -/
def State.writeBeats (m : Nat) : List Sinter → Nat → State → Beats
  | [], _, s => ⟨s, [], 0, fabOk⟩
  | x :: xs, a, s =>
    let b := s.writeBeat m a x
    if b.code ≠ fabOk then ⟨b.s, [], 0, b.code⟩
    else
      let r := State.writeBeats m xs (a + 4) b.s
      ⟨r.s, [], r.done + 1, r.code⟩

/-- A write into the DRAM window (R84, R85, R87): line by line, a whole line without a fetch. -/
def State.dramBurst (s : State) (a : Nat) (ws : List Sinter) : Beats :=
  match s.dramRefuses a with
  | some t => ⟨t, [], 0, fabTarget⟩
  | none => ⟨State.dramStore ws.length a ws s, [], ws.length, fabOk⟩

/-- A read of the DRAM window: each line is fetched once (R86). -/
def State.dramReadBurst (s : State) (a n : Nat) : Beats :=
  match s.dramRefuses a with
  | some t => ⟨t, [], 0, fabTarget⟩
  | none =>
    let r := State.dramLoad n a n s
    ⟨r.1, r.2, n, fabOk⟩

/-- `n` beats of a read by master `m` from `a` on. -/
def State.doRead (s : State) (m a n : Nat) : Beats := if inDram a then s.dramReadBurst a n else State.readBeats m n a s

/-- The beats of a write by master `m` from `a` on. -/
def State.doWrite (s : State) (m a : Nat) (ws : List Sinter) : Beats :=
  if inDram a then s.dramBurst a ws else State.writeBeats m ws a s

/-! ### A transaction at its target -/

/-- The beats of a request that have had their effect (R510): none in the DRAM window, whose controller sees the transaction as
one (R514). -/
def FabReq.had (r : FabReq) : Nat := if inDram r.addr then 0 else r.got

/-- The transaction of a request beyond the beats it has had (`had`, with the words of a read in `words`): plain reads and
writes; a locked read opens a lock (R517), a closing store releases it or is refused (R518, R520). -/
def State.perform (s : State) (r : FabReq) : Beats :=
  match r.op with
  | .read =>
    let b := s.doRead r.master (r.addr + 4 * r.had) (r.beats - r.had)
    ⟨b.s, s.padWords r.beats (r.words ++ b.words), r.had + b.done, b.code⟩
  | .write =>
    let b := s.doWrite r.master (r.addr + 4 * r.had) (r.words.drop r.had)
    ⟨b.s, [], r.had + b.done, b.code⟩
  | .lockedRead =>
    if s.lockBad r.master r.port then ⟨s.lockRefuse, s.padWords r.beats [], 0, fabTarget⟩
    else
      let b := (s.lockOpen r.master r.port).doRead r.master r.addr r.beats
      ⟨b.s, s.padWords r.beats b.words, b.done, b.code⟩
  | .closingWrite =>
    if s.lockedPort r.master = some r.port then
      let b := s.doWrite r.master r.addr r.words
      ⟨b.s.lockFree r.master, [], b.done, b.code⟩
    else if s.fab.broken.contains (r.master, r.port) then
      ⟨{ s with fab := { s.fab with broken := s.fab.broken.filter (fun b => b != (r.master, r.port)) } }, [], 0, fabLockBroken⟩
    else ⟨s.lockRefuse, [], 0, fabTarget⟩

/-! ### Issue -/

/-- A transaction is malformed (R500). -/
def badBurst (a n : Nat) : Bool := decide (a % 4 ≠ 0) || decide (n = 0) || decide (16 < n) || decide (4096 < a % 4096 + 4 * n)

/-- The fabric runs: its clock runs and no chip-scope reset holds it (R529). -/
def State.fabRuns (s : State) : Bool := s.pwr.chip == 0 && s.bit Reg.MGSTAT_FCLK_OK

/-- A master's port issues (R521). -/
def State.portIssues (s : State) (m : Nat) : Bool := s.fabRuns && !(decide (m < 6) && s.bit (Reg.FABMST_RESET m))

/-- The code with which a transaction is answered before it reaches an arbiter, if it is (R46, R500, R506, R526). -/
def State.answeredAtOnce (s : State) (a n : Nat) (full parity : Bool) : Option Nat :=
  if !parity then some fabParity
  else if badBurst a n then some fabBurst
  else if (portOf (s.bit Reg.FABCFG_REMAP_NOW) a).isNone then some fabDecode
  else if (targetIslands a).any s.islandShut then some fabIsland
  else if !full then some fabTarget
  else none

/-- The port of a transaction: one to a range that REMAP exchanges waits while a change is pending (R509). -/
def State.portFor (s : State) (a : Nat) : Nat :=
  if s.fab.remap ≠ 0 ∧ inRemap a then portWait else (portOf (s.bit Reg.FABCFG_REMAP_NOW) a).getD portWait

/-- The deadline at issue (R499, R511). -/
def State.dueAtIssue (s : State) (m : Nat) (due : Option (BitVec 32)) : Nat :=
  if m = 0 ∨ m = 1 ∨ m = 4 ∨ m = 5 then (s.fabTime + s.get (Reg.FABQOS_BUDGET m)) % 2 ^ 32
  else match due with
    | some d => d.toNat
    | none => noDeadline

/-- A request as it is issued. -/
def State.request (s : State) (m id : Nat) (op : FabOp) (a n : Nat) (words : List Sinter) (due : Option (BitVec 32)) : FabReq :=
  { master := m, id := id, op := op, addr := a, beats := n, words := words, port := s.portFor a, issue := s.fabTime,
    deadline := s.dueAtIssue m due, losses := 0, present := true, granted := false, got := 0, quiet := false, tag := s.free }

/-- A master issues a transaction: it is answered at once, or it becomes a request at its arbiter. -/
def State.issue (s : State) (r : FabReq) (full parity : Bool) : State :=
  if !s.portIssues r.master then s
  else match s.answeredAtOnce r.addr r.beats full parity with
    | some code => s.fabAnswer r code 0 (if r.op.isWrite then [] else s.padWords r.beats [])
    | none => { s with fab := { s.fab with reqs := s.fab.reqs ++ [r] } }

def execFabricRead (m : Fin 8) (id : BitVec 4) (addr : BitVec 40) (beats : BitVec 5) (due : Option (BitVec 32))
    (parity : Bool) (s : State) : Host.Outcome State Fault Refusal :=
  done (s.issue (s.request m id.toNat .read addr.toNat beats.toNat [] due) true parity)

def execFabricWrite (m : Fin 8) (id : BitVec 4) (addr : BitVec 40) (words : List Sinter) (full : Bool)
    (due : Option (BitVec 32)) (parity : Bool) (s : State) : Host.Outcome State Fault Refusal :=
  done (s.issue (s.request m id.toNat .write addr.toNat words.length words due) full parity)

/-! ### Arbitration (R510 to R519) -/

/-- The request is the oldest of its master, ID and port (R502, R516), and holds one of its master's 16 places (R501). -/
def State.mayRun (s : State) (r : FabReq) : Bool :=
  (s.outstanding r.master).any (fun x => x.tag == r.tag) &&
  (match s.fab.reqs.find? (fun x => x.master == r.master && x.id == r.id &&
      (x.port == r.port || (x.port == portHeld && r.port == portFab) || (x.port == portDw && r.port == portStore))) with
   | some x => x.tag == r.tag
   | none => false)

/-- `x` is served before `y` (R511, R514): M4 first, then the earlier deadline, the lower MASTER, the lower ID. -/
def State.beats (s : State) (x y : FabReq) : Bool :=
  if x.master = 4 ∧ y.master ≠ 4 then true
  else if y.master = 4 ∧ x.master ≠ 4 then false
  else if timeBefore (s.dueOf x) (s.dueOf y) then true
  else if timeBefore (s.dueOf y) (s.dueOf x) then false
  else decide (x.master < y.master) || (x.master == y.master && decide (x.id ≤ y.id))

/-- The requests present at a port in this arbitration. -/
def State.presentAt (s : State) (port : Nat) : List FabReq :=
  s.fab.reqs.filter (fun r => r.port == port && r.present && !r.granted && s.mayRun r)

/-- The winner among those the port's lock lets pass. -/
def State.winner (s : State) (port : Nat) : Option FabReq :=
  ((s.presentAt port).filter (fun r => s.lockPasses r.master port)).foldl (fun w r => match w with
    | none => some r
    | some x => if s.beats x r then some x else some r) none

/-- A grant after its deadline is counted (R515). -/
def State.lateGrant (s : State) (r : FabReq) : State :=
  if timeBefore (s.dueOf r) s.fabTime then ((s.bump Reg.FABCNT_MISSED).putBit Reg.FABSTAT_DL_MISS true).raiseOnce 184 else s

/-- The request writes FABCFG in the name of a master that may change REMAP (R509). -/
def FabReq.writesRemap (r : FabReq) : Bool :=
  r.op.isWrite && (r.master == 0 || r.master == 4) && decide (r.addr ≤ 0x80030000) && decide (0x80030000 < r.addr + 4 * r.beats)

/-- The beats that took the state from `s` to `t` may have left words with Geyser that it holds: the request waits for as many held
writes as there are now (R516). -/
def State.heldMark (s : State) (r : FabReq) (t : State) : State :=
  if s.gys.dwHeld.length < t.gys.dwHeld.length then
    { t with fab := { t.fab with
      waits := (r.tag, t.gys.dwHeld.length) :: t.fab.waits.filter (fun w => w.1 != r.tag) } }
  else t

/-- A performed request leaves its path and waits at a port of no target for its response. -/
def State.park (s : State) (r : FabReq) (port got : Nat) : State :=
  { s with fab := { s.fab with reqs := s.fab.reqs.map (fun x =>
      if x.tag = r.tag then { x with port := port, granted := true, present := false, got := got } else x) } }

/-- A performed transaction is answered; the write of a REMAP change that is still to take effect waits for its response, and so does
one of which Geyser holds a word (R509, R516). -/
def State.respond (s : State) (r : FabReq) (b : Beats) : State :=
  if b.s.fab.remap ≠ 0 ∧ r.writesRemap = true ∧ b.code = fabOk then b.s.park r portHeld b.done
  else
    let t := s.heldMark r b.s
    if b.code = fabOk ∧ t.fab.waits.any (fun w => w.1 == r.tag) = true then t.park r portDw b.done
    else (b.s.fabAnswer r b.code b.done b.words).fabRemove r

/-- A granted transaction runs to its last beat and is answered; its port has become free (R525). -/
def State.finish (s : State) (r : FabReq) : State :=
  let s1 := s.respond r (s.perform r)
  ({ s1 with fab := { s1.fab with tripped := s1.fab.tripped.filter (fun p => p != r.port) } } : State).fabSettle r.master

/-- A granted transaction stops after `k` beats and holds its path (R510). -/
def State.stall (s : State) (r : FabReq) (k : Nat) : State :=
  let b := if inDram r.addr then (⟨s, [], 0, fabOk⟩ : Beats)
    else if r.op.isWrite then s.doWrite r.master (r.addr + 4 * r.got) ((r.words.drop r.got).take (k - r.got))
    else s.doRead r.master (r.addr + 4 * r.got) (k - r.got)
  if b.code ≠ fabOk then s.finish r
  else
    let t := s.heldMark r b.s
    { t with fab := { t.fab with reqs := t.fab.reqs.map (fun x =>
    if x.tag = r.tag then
      { x with granted := true, losses := 0, deadline := s.dueOf r, got := Nat.max r.got k,
               words := if r.op.isWrite then r.words else r.words ++ b.words }
    else x) } }

/-- A transaction is carried on: to its end, or to a stall after `stall` beats. -/
def State.runGrant (s : State) (r : FabReq) (stall : Option Nat) : State :=
  match stall with
  | some k => if k < r.beats ∧ (r.op = .read ∨ r.op = .write) then s.stall r k else s.finish r
  | none => s.finish r

/-- A port arbitrates (R510, R511, R514): a held path resumes unless M4 takes the grant for its own transaction; a free one
grants the winner, and every other request present loses. -/
def State.grant (s : State) (port : Nat) (stall : Option Nat) : State :=
  match s.fab.reqs.find? (fun r => r.port == port && r.granted) with
  | some h =>
    (match (s.presentAt port).find? (fun r => r.master == 4) with
     | some d => ((s.presentAt port).filter (fun r => r.tag != d.tag)).foldl State.fabLose ((s.lateGrant d).finish d)
     | none => (s.presentAt port).foldl State.fabLose (s.runGrant h stall))
  | none =>
    (match s.winner port with
     | none => (s.presentAt port).foldl State.fabLose s
     | some w => (((s.presentAt port).filter (fun r => r.tag != w.tag)).foldl State.fabLose (s.lateGrant w)).runGrant w stall)

def execArbiterGrant (port : Fin 54) (stall : Option (Fin 16)) (s : State) : Host.Outcome State Fault Refusal :=
  done (if s.fabRuns then s.grant port (stall.map Fin.val) else s)

/-! ### Direct writes that Geyser has held (R248, R516) -/

/-- One held direct write has been accepted: the writes whose last word it was have their response. -/
def State.heldAnswer (s : State) : State :=
  let ws := s.fab.waits.map (fun w => (w.1, w.2 - 1))
  let s1 : State := { s with fab := { s.fab with waits := ws.filter (fun w => w.2 != 0) } }
  (s.fab.reqs.filter (fun r => r.port == portDw && ws.any (fun w => w.1 == r.tag && w.2 == 0))).foldl State.lateReply s1

def execDirectWriteHeldAccept (s : State) : Host.Outcome State Fault Refusal :=
  done (if s.gys.dwHeld.length = 0 ∨ 8192 ≤ s.gys.dwCount then s else s.directWriteHeldAccept.heldAnswer)

/-! ### An access that a command carries out whole -/

/-- The port is free for master `m`: no transaction holds its path and no lock of another keeps it (R510, R517); M4 always
passes (R514, R519). -/
def State.portFree (s : State) (m port : Nat) : Bool :=
  port != portWait && (m == 4 || (!s.fab.reqs.any (fun r => r.port == port && r.granted) && s.lockPasses m port))

/-- One transaction of a command that carries it out whole, from issue to response; none while it must wait, in which case
nothing has happened. -/
def State.access (s : State) (m id : Nat) (op : FabOp) (a n : Nat) (words : List Sinter) (full : Bool) : Option Beats :=
  if !s.portIssues m then none
  else
    let r := s.request m id op a n words none
    match s.answeredAtOnce a n full true with
    | some code => some ⟨s.fabFail m id a code, if op.isWrite then [] else s.padWords n [], 0, code⟩
    | none =>
      if s.portFree m r.port then
        let b := s.perform r
        some ⟨b.s.fabFail m id a b.code, b.words, b.done, b.code⟩
      else none

/-- A transaction carried out at once, in its turn among the commands, by a unit that waits for nothing else meanwhile: a
write, with its code. -/
def State.writeNow (s : State) (m id a : Nat) (ws : List Sinter) : State × Nat :=
  match s.answeredAtOnce a ws.length true true with
  | some code => (s.fabFail m id a code, code)
  | none =>
    let b := s.doWrite m a ws
    (b.s.fabFail m id a b.code, b.code)

/-- Likewise a read: its words, those not performed poison (R503). -/
def State.readNow (s : State) (m id a n : Nat) : State × List Sinter :=
  match s.answeredAtOnce a n true true with
  | some code => (s.fabFail m id a code, s.padWords n [])
  | none =>
    let b := s.doRead m a n
    (b.s.fabFail m id a b.code, s.padWords n b.words)

end Sys2Proof.Machine
end

