-- ==== Sys2Proof/Machine/StewardCtl.lean ====
section
/-! DEFINITION. The steward's control extension (R183 to R186): its fabric accesses, its waits, its control registers, its
jumps, and the taking of an event (R571). -/

namespace Sys2Proof.Machine

/-- The core of the steward, and the state with it replaced. -/
def State.setStwCore (s : State) (c : Core) : State := s.setCore .steward c

/-- An instruction of the control class acts in a bundle that has issued and not trapped (R178). -/
def State.ctl (s : State) (f : Core → State) : State := if s.stw.core.live then f s.stw.core else s

/-- A control value: a poison or faulty G register takes exception 0x6 (R93, R184). -/
def State.ctlValue (s : State) (g : Nat) (f : BitVec 32 → State) : State :=
  s.ctl (fun c => if (c.rdG g).ok then f (c.rdG g).data else s.trap .steward 6)

/-- The fabric address FAH:Ga. -/
def State.ctlAddr (s : State) (x : BitVec 32) : Nat := 2 ^ 32 * s.stw.fah.toNat + x.toNat

/-- A transaction of the steward (R183): one beat from M0. -/
def State.stewardIssue (s : State) (op : FabOp) (a : Nat) (words : List Sinter) : State :=
  s.issue (s.request 0 (Config.transactionId s.free).toNat op a 1 words none) true true

/-- A load (R183): the steward waits for the response. -/
def State.stewardLoad (s : State) (op : FabOp) (gd ga : Nat) : State :=
  s.ctlValue ga (fun x =>
    ({ s with stw := { s.stw with wait := some (s.free, gd + 1, s.stw.core.pc) } } : State).stewardIssue op (s.ctlAddr x) [])

/-- The word a store sends (R113, R185): a faulty one goes as poison. -/
def State.stewardWordOut (s : State) (gs : Nat) : Sinter := s.checked (s.stw.core.rdG gs)

/-- `fst` and `fstu` (R183, R185): the store is issued, and a residue mismatch takes exception 0x7 after it. -/
def State.stewardStore (s : State) (closing : Bool) (ga gs : Nat) : State :=
  s.ctlValue ga (fun x =>
    let s1 : State := if closing then { s with stw := { s.stw with wait := some (s.free, 0, s.stw.core.pc) } }
      else { s with stw := { s.stw with posted := s.stw.posted ++ [(s.free, s.stw.core.pc)] } }
    let s2 := s1.stewardIssue (if closing then .closingWrite else .write) (s.ctlAddr x) [s.stewardWordOut gs]
    if (s.stw.core.rdG gs).faulty then s2.softFault .steward 7 else s2)

def execFld (gd ga : Fin 32) (s : State) : Host.Outcome State Fault Refusal := done (s.stewardLoad .read gd ga)
def execFldl (gd ga : Fin 32) (s : State) : Host.Outcome State Fault Refusal := done (s.stewardLoad .lockedRead gd ga)
def execFst (ga gs : Fin 32) (s : State) : Host.Outcome State Fault Refusal := done (s.stewardStore false ga gs)
def execFstu (ga gs : Fin 32) (s : State) : Host.Outcome State Fault Refusal := done (s.stewardStore true ga gs)

/-- `fence` (R183): nothing is fetched until every outstanding transaction of the steward has its response. -/
def execFence (s : State) : Host.Outcome State Fault Refusal :=
  done (s.ctl (fun _ => { s with stw := { s.stw with fencing := true } }))

/-- `wfe` (R183, R571). -/
def execWfe (s : State) : Host.Outcome State Fault Refusal :=
  done (s.ctl (fun _ => { s with stw := { s.stw with waiting := true } }))

def execEi (s : State) : Host.Outcome State Fault Refusal := done (s.ctl (fun _ => { s with stw := { s.stw with ie := true } }))
def execDi (s : State) : Host.Outcome State Fault Refusal := done (s.ctl (fun _ => { s with stw := { s.stw with ie := false } }))

/-- `eret` (R105, R183). -/
def State.eret (s : State) : State :=
  let t := s.flow .steward (fun c => ({ c with npc := s.stw.epc.toNat }, true, .ok))
  if s.stw.core.live && !s.stw.core.atLoopEnd then { t with stw := { t.stw with ie := s.stw.pie, exl := false } } else t

def execEret (s : State) : Host.Outcome State Fault Refusal := done s.eret

/-- A control register written (R183, steward control registers); the read-only ones ignore it. -/
def State.csrWrite (s : State) (csr : Nat) (x : BitVec 32) : State :=
  match csr with
  | 0 => { s with stw := { s.stw with ie := x.getLsbD 0, pie := x.getLsbD 1, exl := x.getLsbD 2 } }
  | 1 => { s with stw := { s.stw with epc := x.setWidth 19 } }
  | 4 => { s with stw := { s.stw with vbase := x.setWidth 19 } }
  | 5 => { s with stw := { s.stw with fah := x.setWidth 8 } }
  | 6 => { s with stw := { s.stw with xwin := x.setWidth 4 } }
  | 7 => { s with stw := { s.stw with ywin := x.setWidth 4 } }
  | _ => s

/-- A control register read. -/
def State.csrRead (s : State) (csr : Nat) : BitVec 32 :=
  match csr with
  | 0 => BitVec.ofNat 32 (s.stw.ie.toNat + 2 * s.stw.pie.toNat + 4 * s.stw.exl.toNat)
  | 1 => s.stw.epc.setWidth 32
  | 2 => s.stw.ecause.setWidth 32
  | 3 => s.stw.einfo.setWidth 32
  | 4 => s.stw.vbase.setWidth 32
  | 5 => s.stw.fah.setWidth 32
  | 6 => s.stw.xwin.setWidth 32
  | 7 => s.stw.ywin.setWidth 32
  | 8 => s.stw.eaddr.setWidth 32
  | _ => (s.stw.eaddr.extractLsb' 32 8).setWidth 32

/-- A control register's code (R183): 0x0A to 0x1F are illegal encodings. -/
def csrLegal (csr : BitVec 5) : Bool := decide (csr.toNat ≤ 9)

def execMtcs (csr : BitVec 5) (gs : Fin 32) (s : State) : Host.Outcome State Fault Refusal :=
  done (if csrLegal csr then s.ctlValue gs (fun x => s.csrWrite csr.toNat x) else s.ctl (fun _ => s.trap .steward 2))

def execMfcs (gd : Fin 32) (csr : BitVec 5) (dup : Bool) (s : State) : Host.Outcome State Fault Refusal :=
  done (s.compute .steward (fun c pz =>
    if csrLegal csr then c.dupResult gd 1 (s.csrRead csr.toNat) none dup pz else (c, .trap 2)))

/-- `jr` (R105, R183, R184): a jump, which like a branch ends the loops it leaves (R104). -/
def execJr (ga : Fin 32) (s : State) : Host.Outcome State Fault Refusal :=
  done (s.flow .steward (fun c =>
    if (c.rdG ga).ok then (c.branch ((c.rdG ga).data.toNat % 2 ^ 19), true, .ok) else (c, false, .trap 6)))

/-- `jalr` (R105, R183, R184): a call; a ninth traps with CAUSE 0x5. -/
def execJalr (ga : Fin 32) (s : State) : Host.Outcome State Fault Refusal :=
  done (s.flow .steward (fun c =>
    if !(c.rdG ga).ok then (c, false, .trap 6)
    else if 8 ≤ c.stack.length then (c, false, .trap 5)
    else ({ c with stack := (c.pc + 1) :: c.stack, npc := (c.rdG ga).data.toNat % 2 ^ 19 }, true, .ok)))

/-- The lowest pending vector (R571). -/
def lowestBit (x : Nat) : Nat := ((List.range 32).find? (fun v => x.testBit v)).getD 0

/-- The steward is where it takes an event: it runs, nothing it waits for but an event or its transactions is open. -/
def State.takesEvents (s : State) : Bool :=
  s.stw.running && !s.stw.halted && !s.stw.debug && s.stw.wait.isNone && !s.islandStopped islSteward && s.stw.ie

/-- Exception 0xB (R186, R571): EPC is the next bundle.  An event that is taken while a fence waits ends the wait (log 198). -/
def execStewardEventTaken (s : State) : Host.Outcome State Fault Refusal :=
  done (if s.takesEvents && s.evtPend != 0 then
      ({ s with stw := { s.stw with fencing := false } } : State).stwException 0xB (lowestBit s.evtPend) s.stw.core.npc
    else s)

/-! ### Debug (R591) -/

def execStwHalt (m : Fin 8) (s : State) : Host.Outcome State Fault Refusal :=
  done (if m.val = 4 then
      { s.putBit Reg.DBGCTL_STW_HALT true with stw := { s.stw with debug := true } }
    else s)

def execStwResume (m : Fin 8) (s : State) : Host.Outcome State Fault Refusal :=
  done (if m.val = 4 then
      { s.putBit Reg.DBGCTL_STW_HALT false with stw := { s.stw with debug := false, stepping := false } }
    else s)

/-- STW_STEP: the next fetch of the halted steward runs one bundle. -/
def execStwStep (m : Fin 8) (s : State) : Host.Outcome State Fault Refusal :=
  done (if m.val = 4 ∧ s.stw.debug then { s with stw := { s.stw with stepping := true } } else s)

/-- DBGCTL.OPEN (R590). -/
def State.dbgSet (s : State) (m : Nat) (on : Bool) : State := s.dbgctlWrite (if m = 4 then 7 else m) on.toNat

def execDbgOpen (m : Fin 8) (s : State) : Host.Outcome State Fault Refusal := done (s.dbgSet m true)
def execDbgClose (m : Fin 8) (s : State) : Host.Outcome State Fault Refusal := done (s.dbgSet m false)

end Sys2Proof.Machine
end

