-- ==== Sys2Proof/Machine/Boot.lean ====
section
/-! DEFINITION. Boot (15_reset_power_boot R556 to R565): the image, the checks of the boot ROM, its loads and the hand-off.
The ROM's work is these commands; its fabric accesses are those of the steward, M0, carried out as they come. -/

namespace Sys2Proof.Machine

/-! ### The image (R557, R558) -/

/-- The image comes from flash: modes 1 and 3, until a fallback. -/
def State.bootFlash (s : State) : Bool :=
  (s.get Reg.BOOTSTAT_MODE == 1 || s.get Reg.BOOTSTAT_MODE == 3) && !s.bit Reg.BOOTSTAT_FALLBACK

/-- Byte k of an image in the stream buffer (R557). -/
def State.streamByte (s : State) (k : Nat) : BitVec 8 :=
  (s.ram (0x30000000 + k / 4 * 4)).data.extractLsb' (8 * (k % 4)) 8

/-- `n` bytes of the image from byte `o`: of the flash image the ROM has found, or of the stream buffer as it stands. -/
def State.imageBytes (s : State) (img : List (BitVec 8)) (o n : Nat) : List (BitVec 8) :=
  if s.bootFlash then (List.range n).map (fun i => img.getD (o + i) 0)
  else (List.range n).map (fun i => s.streamByte (o + i))

/-- A little-endian word of bytes, at byte `o`. -/
def leWord (bs : List (BitVec 8)) (o : Nat) : Nat :=
  (bs.getD o 0).toNat + 256 * (bs.getD (o + 1) 0).toNat + 65536 * (bs.getD (o + 2) 0).toNat +
    16777216 * (bs.getD (o + 3) 0).toNat

/-- The big-endian number of 32 bytes. -/
def beNum (bs : List (BitVec 8)) : Nat := bs.foldl (fun a b => 256 * a + b.toNat) 0

/-- A section of the table (R559). -/
structure Section where
  ty     : Nat
  off    : Nat
  len    : Nat
  dest   : Nat
  crc    : Nat
  spare  : Nat
  digest : Nat
  deriving DecidableEq, Repr

/-- Entry `i` of the section table. -/
def sectionAt (bs : List (BitVec 8)) (i : Nat) : Section :=
  let o := 32 + 64 * i
  { ty := leWord bs o, off := leWord bs (o + 4), len := leWord bs (o + 8),
    dest := leWord bs (o + 12) + 2 ^ 32 * leWord bs (o + 16),
    crc := leWord bs (o + 20), spare := leWord bs (o + 24) + leWord bs (o + 28),
    digest := beNum ((bs.drop (o + 32)).take 32) }

/-- Where the key of an image of `n` sections starts. -/
def keyAt (n : Nat) : Nat := 32 + 64 * n

/-- The bytes [a, a + n) lie within [lo, hi). -/
def within (a n lo hi : Nat) : Bool := decide (lo ≤ a) && decide (a + n ≤ hi)

/-- The destination its TYPE requires of a section (R559). -/
def State.destOk (s : State) (x : Section) : Bool :=
  let off := x.dest % 0x1000000
  let inWindow := decide (0x40000000 ≤ x.dest) && decide (x.dest < 0x80000000) && decide (x.dest % 0x10000000 < 0x8000000)
  let inCell := inWindow && decide (0x800000 ≤ off) && decide (off < 0x920000)
  match x.ty with
  | 1 => within x.dest x.len 0x10000000 0x103F0000
  | 2 => inCell && within (off % 0x20000) x.len 0 0x8000 && x.len % 8 == 0
  | 3 => inCell && (within (off % 0x20000) x.len 0x8000 0x10000 || within (off % 0x20000) x.len 0x10000 0x18000)
  | 4 => inWindow && decide (off < 0x200000) && within (off % 0x40000) x.len 0 0x40000
  | 5 => within x.dest x.len 0x20000000 0x20800000
  | 6 => within x.dest x.len 0x20800000 0x21000000
  | 7 => within x.dest x.len 0x100000000 (0x100000000 + s.dramCapacity)
  | 8 => x.dest == 0 && decide (8 ≤ x.len) && decide (x.len ≤ 65536) && x.len % 8 == 0
  | _ => false

/-- Two ranges of bytes have one in common. -/
def overlaps (a n b m : Nat) : Bool := decide (a < b + m) && decide (b < a + n)

/-- What the table requires of entry `i` beside the others' (R559). -/
def State.sectionOk (s : State) (secs : List Section) (i : Nat) (x : Section) : Bool :=
  x.spare == 0 && decide (x.ty < 256) && x.off % 64 == 0 && decide (keyAt secs.length + 128 ≤ x.off) && x.len != 0 &&
    x.len % 4 == 0 && s.destOk x &&
    (secs.take i).all (fun y => !overlaps x.off x.len y.off y.len &&
      (x.ty == 8 || y.ty == 8 || !overlaps x.dest x.len y.dest y.len))

/-! ### The checks (R560) -/

/-- The key-hash slot whose digest is `h`, programmed and not revoked. -/
def State.keySlot (s : State) (h : List (BitVec 32)) : Option Nat :=
  (List.range 4).find? (fun j => (s.get Reg.FUSECFG_KEYPROG).testBit j && !(s.get Reg.FUSECFG_KEYREV).testBit j &&
    (List.range 8).all (fun i => s.get (Reg.KEYHASH_WORD (8 * j + i)) == (h.getD i 0).toNat))

/-- The outcome of the checks of an image: the cause and the section of a rejection, or the key slot. -/
inductive BootCheck where
  | bad (err sect : Nat)
  | good (slot : Nat)
  deriving DecidableEq, Repr

/-- The largest image of the source (R558). -/
def State.imageMax (s : State) : Nat := if s.bootFlash then 0x1000000 else 0x400000

/-- The header (R558). -/
def headerBad (bs : List (BitVec 8)) : Bool :=
  leWord bs 0 != 0x4F415349 || leWord bs 4 != 1 || leWord bs 8 == 0 || decide (64 < leWord bs 8) ||
    leWord bs 20 != 0 || leWord bs 24 != 0 || leWord bs 28 != 0

/-- The checks of R560, over the image's bytes up to the end of its signature. -/
def State.bootChecks (s : State) (bs : List (BitVec 8)) : BootCheck :=
  let n := leWord bs 8
  let secs := (List.range n).map (sectionAt bs)
  let k := keyAt n
  if headerBad bs then .bad 1 0
  else if s.imageMax < leWord bs 12 then .bad 0xC 0
  else if secs.any (fun x => decide (leWord bs 12 < x.off + x.len)) then .bad 1 0
  else match (List.range n).find? (fun i => !s.sectionOk secs i (sectionAt bs i)) with
    | some i => .bad 2 i
    | none =>
      if !secs.any (fun x => x.ty == 1 && within 0x10040000 4 x.dest (x.dest + x.len)) then .bad 0xB 0
      else if s.get Reg.FUSECFG_KEYPROG = 0 then .bad 3 0
      else match s.keySlot (Digest.sha256 ((bs.drop k).take 64)) with
        | none => .bad 4 0
        | some j =>
          let e := Digest.digestNat (Digest.sha256 (bs.take (k + 64)))
          let at32 := fun i => beNum ((bs.drop (k + 32 * i)).take 32)
          if Digest.ecdsaOk e (at32 0) (at32 1) (at32 2) (at32 3) then .good j else .bad 5 0

/-! ### The ROM's accesses -/

/-- A write of words by the ROM: the state and its code. -/
def State.romWrite (s : State) (a : Nat) (ws : List Sinter) : State × Nat :=
  s.writeNow 0 (Config.transactionId s.free).toNat a ws

/-- Words of a DRAM section, line by line. -/
def State.romDram (s : State) (a : Nat) (ws : List Sinter) : State :=
  let b := s.doWrite 0 a ws
  b.s.fabFail 0 (Config.transactionId s.free).toNat a b.code

/-- A field of a register cleared or set by the ROM, the others of its word written as they read. -/
def State.romField (s : State) (f : Fld) (v : Nat) : State :=
  (s.romWrite f.addr [Sinter.ofData (BitVec.ofNat 32 (s.regView f.addr - s.get f * 2 ^ f.lo + v * 2 ^ f.lo))]).1

/-- Words written in ascending order (R561); those of DRAM line by line. -/
def State.romWords (s : State) (a : Nat) (ws : List (BitVec 32)) : State :=
  if inDram a then s.romDram a (ws.map Sinter.ofData)
  else ((List.range ws.length).zip ws).foldl (fun t p => (t.romWrite (a + 4 * p.1) [Sinter.ofData p.2]).1) s

/-! ### Rejection (R564) -/

/-- The fields the ROM clears, and the cells it halts. -/
def State.bootQuiet (s : State) : State :=
  let s1 := (List.range 16).foldl (fun t n => t.romField (Reg.PORTCTL_EN n) 0) s
  let s2 := (List.range 4).foldl (fun t n => t.romField (Reg.NETCFG_EN n) 0) s1
  let s3 := (List.range 128).foldl (fun t n => (t.romField (Reg.STRX_EN n) 0).romField (Reg.STTX_EN n) 0) s2
  let s4 := (List.range 4).foldl (fun t n => t.romField (Reg.LNKCFG_EN n) 0) s3
  (List.range 256).foldl (fun t w => t.romField (Reg.CELLCTL_HALT (w / 8) (w % 8)) 1) s4

/-- An image is rejected with a cause, at a section. -/
def State.bootReject (s : State) (err sect : Nat) : State :=
  let s1 := (((s.put Reg.BOOTSTAT_ERR err).put Reg.BOOTSTAT_SECT sect).put Reg.BOOTSTAT_STAGE 6).raise 219
  let s2 := s1.bootQuiet
  let s3 : State := { s2 with boot := { s2.boot with handed := false, image := [], sect := 0, regs := false } }
  if s.get Reg.BOOTSTAT_MODE = 3 ∧ !s.bit Reg.BOOTSTAT_FALLBACK then
    ((s3.putBit Reg.BOOTSTAT_FALLBACK true).put Reg.BOOTSTAT_STAGE 2).raise 220
  else s3

/-! ### The commands -/

/-- The steward starts (R557); a reserved mode stops the ROM (R556). -/
def State.bootStart (s : State) : State :=
  if s.boot.started || s.pwr.chip != 0 || decide (s.loop ≠ loopLocked) then s
  else
    let mode := s.get Reg.BOOTSTAT_MODE
    let s1 := s.stewardStart
    let s2 : State := { s1 with boot := { s1.boot with started := true } }
    if 4 ≤ mode then (s2.put Reg.BOOTSTAT_STAGE 6).put Reg.BOOTSTAT_ERR 0xA
    else s2.put Reg.BOOTSTAT_STAGE (if s.bootFlash then 3 else 2)

def execBootStart (s : State) : Host.Outcome State Fault Refusal := done s.bootStart

/-- BOOTDOOR.GO (R556). -/
def execBootdoorGo (m : Fin 8) (s : State) : Host.Outcome State Fault Refusal := done (s.bootdoorGo m)

/-- The ROM has an image to check: that of flash, or one handed over (R556, R564). -/
def State.bootMayCheck (s : State) : Bool :=
  s.boot.started && decide (s.get Reg.BOOTSTAT_MODE < 4) &&
    (if s.bootFlash then s.get Reg.BOOTSTAT_STAGE == 3 && s.boot.image.isEmpty else s.boot.handed && !s.bootBusy)

/-- The checks before any destination is written (R560). -/
def State.bootCheck (s : State) (flash : List (BitVec 8)) : State :=
  let head := s.imageBytes flash 0 (keyAt (Nat.min 64 (leWord (s.imageBytes flash 0 32) 8)) + 128)
  match s.bootChecks head with
  | .bad err sect => s.bootReject err sect
  | .good slot =>
    let s1 := ((s.put Reg.BOOTSTAT_KEYSLOT slot).put Reg.BOOTSTAT_STAGE 4).put Reg.BOOTSTAT_SECT 0
    { s1 with boot := { s1.boot with image := if s.bootFlash then flash else head, sect := 0, regs := false } }

def execBootCheck (flash : List (BitVec 8)) (s : State) : Host.Outcome State Fault Refusal :=
  done (if s.bootMayCheck then s.bootCheck flash else s)

/-- The sections of the image that is being loaded. -/
def State.bootSections (s : State) : Nat := leWord s.boot.image 8

/-- A section remains to load. -/
def State.bootMayLoad (s : State) : Bool :=
  s.get Reg.BOOTSTAT_STAGE == 4 && decide (s.boot.sect < s.bootSections) && !s.boot.regs

/-- A section is done. -/
def State.bootNext (s : State) : State :=
  let n := s.boot.sect + 1
  { s.put Reg.BOOTSTAT_SECT (if n < s.bootSections then n else s.boot.sect) with
    boot := { s.boot with sect := n, regs := false } }

/-- The words of bytes, lowest byte first. -/
def leWords (bs : List (BitVec 8)) : List (BitVec 32) :=
  (List.range (bs.length / 4)).map (fun i => BitVec.ofNat 32 (leWord bs (4 * i)))

/-- The words a bad read of a flash section gives. -/
def State.flashErrors (s : State) (n first : Nat) : List (BitVec 32) :=
  (List.range n).map (fun i => Config.flashError s.free (first + i))

/-- Section `x` is loaded and checked (R561): its words are written as they are read, a CRC that fails on flash makes the
ROM read it once more; a REGS section is only read (R562). -/
def State.sectionLoad (s : State) (x : Section) (bad1 bad2 : Bool) : State :=
  let i := s.boot.sect
  let bs := s.imageBytes s.boot.image x.off x.len
  let flash := s.bootFlash
  let crcOk := (Digest.crc32c bs).toNat == x.crc
  let store := fun (t : State) (ws : List (BitVec 32)) => if x.ty = 8 then t else t.romWords x.dest ws
  if x.ty = 7 ∧ !s.bit Reg.DRCSTAT_TRAINED then s.bootReject 8 i
  else
    let s1 := store s (if flash && bad1 then s.flashErrors (x.len / 4) 0 else leWords bs)
    let again := flash && (bad1 || !crcOk)
    let s2 := if again then store s1 (if bad2 then s.flashErrors (x.len / 4) (x.len / 4) else leWords bs) else s1
    if !crcOk || (flash && bad1 && bad2) then s2.bootReject 6 i
    else if Digest.digestNat (Digest.sha256 bs) ≠ x.digest then s2.bootReject 7 i
    else if x.ty = 8 then { s2 with boot := { s2.boot with regs := true } }
    else s2.bootNext

def execBootSectionLoad (bad1 bad2 : Bool) (s : State) : Host.Outcome State Fault Refusal :=
  done (if s.bootMayLoad then s.sectionLoad (sectionAt s.boot.image s.boot.sect) bad1 bad2 else s)

/-- The writes of a REGS section, in order; the flag says that one was out of range or not answered OK (R562). -/
def State.regsWrites : List (BitVec 32) → State → State × Bool
  | a :: v :: rest, s =>
    if a.toNat % 4 ≠ 0 ∨ a.toNat < 0x80000000 ∨ 0x80110000 ≤ a.toNat then (s, true)
    else
      let r := s.romWrite a.toNat [Sinter.ofData v]
      if r.2 ≠ fabOk then (r.1, true) else State.regsWrites rest r.1
  | _, s => (s, false)

/-- A REGS section that has passed its checks is performed. -/
def execBootRegsWrite (s : State) : Host.Outcome State Fault Refusal :=
  done (if s.boot.regs then
      let x := sectionAt s.boot.image s.boot.sect
      let r := State.regsWrites (leWords (s.imageBytes s.boot.image x.off x.len)) s
      if r.2 then r.1.bootReject 9 s.boot.sect else r.1.bootNext
    else s)

/-- The REMAP write of the hand-off can take effect (R509). -/
def State.remapFree (s : State) : Bool := !s.fab.reqs.any (fun r => inRemap r.addr && r.port != portWait)

/-- The hand-off (R565). -/
def State.bootHandoff (s : State) : State :=
  let s1 := (((s.putBit Reg.BOOTSTAT_DONE true).put Reg.BOOTSTAT_STAGE 5).put Reg.BOOTVER_IMAGE_VER
    (leWord s.boot.image 16)).raise 221
  let s2 := s1.setRam 0x1003FFF8 (Sinter.ofData 0)
  let s3 := s2.setRam 0x1003FFFC (Sinter.ofData 0xF4000000)
  let s4 := (s3.remapWrite 0 true).remapDone
  let c := s4.stw.core
  { s4 with
    boot := { s4.boot with handed := false, image := [], sect := 0 }
    stw := { s4.stw with
      ie := false
      core := { c with
        g := c.g.upd none 1 (some (Sinter.ofData (BitVec.ofNat 32 (s4.regView Reg.BOOTSTAT_STAGE.addr))))
        npc := 32768
        live := false } } }

def execBootHandoff (s : State) : Host.Outcome State Fault Refusal :=
  done (if s.get Reg.BOOTSTAT_STAGE = 4 ∧ s.bootSections ≤ s.boot.sect ∧ s.remapFree then s.bootHandoff else s)

end Sys2Proof.Machine
end

