-- ==== Sys2Proof/Machine/Distributor.lean ====
section
/-! DEFINITION. The distributors' descriptors (02_memory R69 to R72) and the scrubbers (R74 to R76). -/

namespace Sys2Proof.Machine

/-! ### Descriptors -/

/-- The master code of the region gateways, which carry descriptor transfers outside a cluster (R499). -/
def masterGateway : Nat := 6

def State.dqSrc (s : State) (cl d : Nat) : Nat := s.get (Reg.DQ_SRC cl d) + 2 ^ 32 * s.get (Reg.DQ_SRC_HI cl d)
def State.dqDst (s : State) (cl d : Nat) : Nat := s.get (Reg.DQ_DST cl d) + 2 ^ 32 * s.get (Reg.DQ_DST_HI cl d)

/-- The run of a descriptor; unlisted: not yet run in this window. -/
abbrev DqRun.none : DqRun := ⟨0, false, false⟩
def State.dqRun (s : State) (cl d : Nat) : DqRun := s.mem.dq.look DqRun.none (32 * cl + d)
def State.setDq (s : State) (cl d : Nat) (r : DqRun) : State :=
  { s with mem := { s.mem with dq := s.mem.dq.upd DqRun.none (32 * cl + d) r } }

/-- A number that tells the memories apart; none for what is no memory. -/
def memoryId : Place → Option Nat
  | .rom _ => some 1
  | .sram k => some (if k < 0x20000000 then 2 else if k < 0x40000000 then 3 else 0x1000 + k / 0x8000)
  | .base _ => some 4
  | .arena _ => some 4
  | .bank cl b _ => some (0x100000 + 8 * cl + b)
  | .imem cl k _ => some (0x200000 + 9 * cl + k)
  | .dram _ => some 5
  | .reg _ => none
  | .hole => none
  | .none => none

/-- `n` words from `a` lie within one memory. -/
def State.oneMemory (s : State) (a n : Nat) : Bool :=
  (memoryId (s.place a)).isSome && memoryId (s.place a) == memoryId (s.place (a + 4 * (n - 1)))

/-- The address lies in the cluster's own window. -/
def inOwnWindow (cl a : Nat) : Bool := decide (clusterBase cl ≤ a) && decide (a < clusterBase cl + 0x1000000)

/-- The descriptor may run (R70). -/
def State.dqValid (s : State) (cl d : Nat) : Bool :=
  let a := s.dqSrc cl d
  let b := s.dqDst cl d
  let n := s.get (Reg.DQ_COUNT cl d)
  (inOwnWindow cl a || inOwnWindow cl b) && a % 4 == 0 && b % 4 == 0 && n != 0 && s.get (Reg.DQ_DEADLINE cl d) != 3 &&
    s.oneMemory a n && s.oneMemory b n

/-- The descriptor that the distributor works on: the one that has moved words and has not completed, else the first whose run
of the window before is still due (R72), else the first enabled one that has had no run in this window (R69). -/
def State.dqTurn (s : State) (cl : Nat) : Option Nat :=
  match (List.range 32).find? (fun d => (s.dqRun cl d).run && (s.dqRun cl d).moved != 0) with
  | some d => some d
  | none => match (List.range 32).find? (fun d => (s.dqRun cl d).run) with
    | some d => some d
    | none => (List.range 32).find? (fun d => s.bit (Reg.DQ_EN cl d) && !(s.dqRun cl d).had)

/-- Words that the distributor reads: on port B in its own cluster (R57), else over the fabric. -/
def State.dqRead (s : State) (cl a n : Nat) : State × List Sinter :=
  if inOwnWindow cl a then
    (s, (List.range n).map (fun i => match s.scrubbed (a + 4 * i) with | some p => p.2 | none => s.poison i))
  else s.readNow masterGateway (Config.transactionId s.free).toNat a n

/-- A word that the distributor stores on port B; into an I memory only while its cell is halted, as R81 has it of the fabric
(log 192). -/
def State.dqStore (s : State) (a : Nat) (x : Sinter) : State :=
  match s.place a with
  | .imem cl k w =>
    if k < 8 ∧ s.bit (Reg.CELLSTAT_HALTED cl k) then s.setRam (imemKey cl k w) x else s.memFault cl (8 + k) 9 2 w 162
  | _ => match s.scrubbed a with
    | some p => s.setRam p.1 x
    | none => s

/-- Words that it writes. -/
def State.dqWrite (s : State) (cl a : Nat) (ws : List Sinter) : State :=
  if inOwnWindow cl a then
    ((List.range ws.length).zip ws).foldl (fun t w => t.dqStore (a + 4 * w.1) w.2) s
  else (s.writeNow masterGateway (Config.transactionId s.free).toNat a ws).1

/-- How many of `n` words from `a` a transaction carries (R500). -/
def burstWords (a n : Nat) : Nat := Nat.min (Nat.min n 16) ((4096 - a % 4096) / 4)

/-- `n` words moved from `a` to `b`, in at most `fuel` transactions. -/
def State.dqMove (cl : Nat) : Nat → Nat → Nat → Nat → State → State
  | 0, _, _, _, s => s
  | fuel + 1, a, b, n, s =>
    if n = 0 then s
    else
      let k := Nat.min (burstWords a n) (burstWords b n)
      let r := s.dqRead cl a k
      State.dqMove cl fuel (a + 4 * k) (b + 4 * k) (n - k) (r.1.dqWrite cl b r.2)

/-- `n` words from `b` on written as poison. -/
def State.dqPoison (cl : Nat) : Nat → Nat → Nat → State → State
  | 0, _, _, s => s
  | fuel + 1, b, n, s =>
    if n = 0 then s
    else
      let k := burstWords b n
      State.dqPoison cl fuel (b + 4 * k) (n - k) (s.dqWrite cl b ((List.range k).map (fun i => s.poison (n + i))))

/-- An invalid descriptor is reported once in its window, in its turn (R70). -/
def State.dqBad (s : State) (cl d : Nat) : State :=
  (((s.setDq cl d ⟨0, false, true⟩).putBit (Reg.DISTSTAT_DQ_BAD cl) true).put (Reg.DISTSTAT_LAST_DESC cl) d).raise 175

/-- The distributor moves up to `n` further words of a descriptor. -/
def State.dqStep (s : State) (cl d n : Nat) : State :=
  let r := s.dqRun cl d
  let count := s.get (Reg.DQ_COUNT cl d)
  let k := Nat.min n (count - r.moved)
  let t := State.dqMove cl k (s.dqSrc cl d + 4 * r.moved) (s.dqDst cl d + 4 * r.moved) k s
  if count ≤ r.moved + k then t.setDq cl d ⟨0, false, r.had || !r.run⟩ else t.setDq cl d ⟨r.moved + k, true, r.had || !r.run⟩

/-- A deposit waits for a sub-bank of an X memory of the cluster that `n` words from `a` on use: it goes first (R50, R69). -/
def State.s0Ahead (s : State) (cl a n : Nat) : Bool :=
  let off := a - clusterBase cl - 0x800000
  let w := 8 * cl + off / 0x20000
  inOwnWindow cl a && decide (clusterBase cl + 0x800000 ≤ a) && decide (off / 0x20000 < 8) && off % 0x20000 / 0x8000 == 1 &&
    (match (s.cell (physOf w)).stagedSet s.window with
     | none => false
     | some t => (List.range 16).any (fun j => (List.range (Nat.min n 8)).any (fun d => (off / 4 + d) % 8 == j % 8) &&
         (List.range 64).any (fun i => s.s0Waits s.window w t.srcs i j)))

/-- A deposit is ahead of the next `n` words of a descriptor. -/
def State.dqWaits (s : State) (cl d n : Nat) : Bool :=
  s.s0Ahead cl (s.dqSrc cl d + 4 * (s.dqRun cl d).moved) n || s.s0Ahead cl (s.dqDst cl d + 4 * (s.dqRun cl d).moved) n

def execDescriptorRun (cl d : Fin 32) (n : BitVec 16) (s : State) : Host.Outcome State Fault Refusal :=
  done (if s.dqTurn cl ≠ some d.val ∨ !s.takesPart (islBank cl) s.window then s
    else if (s.dqRun cl d).run ∨ s.dqValid cl d then (if s.dqWaits cl d n.toNat then s else s.dqStep cl d n.toNat)
    else s.dqBad cl d)

/-- The descriptor is due in this window and has not completed: its deadline counts (R71). -/
def State.dqPending (s : State) (cl d : Nat) : Bool :=
  decide (s.get (Reg.DQ_DEADLINE cl d) < 2) && ((s.dqRun cl d).run || (s.bit (Reg.DQ_EN cl d) && !(s.dqRun cl d).had &&
    s.dqValid cl d))

/-- A descriptor whose deadline passes is abandoned: what it has not written is written as poison (R71). -/
def State.dqAbandon (s : State) (cl d : Nat) : State :=
  let r := s.dqRun cl d
  let n := s.get (Reg.DQ_COUNT cl d) - r.moved
  let t := State.dqPoison cl n (s.dqDst cl d + 4 * r.moved) n s
  (((t.setDq cl d ⟨0, false, true⟩).putBit (Reg.DISTSTAT_DQ_LATE cl) true).put (Reg.DISTSTAT_LAST_DESC cl) d).raise 164

def State.dqDeadline (s : State) (w cl d : Nat) : State :=
  if s.dqPending cl d && s.takesPart (islBank cl) w then s.dqAbandon cl d else s

def execDescriptorDeadline (cl d : Fin 32) (s : State) : Host.Outcome State Fault Refusal := done (s.dqDeadline s.window cl d)

/-- A descriptor at the end of window w, its deadline judged: a run without one goes on, one that has not begun is still due, and
the descriptor's run for the new window follows it (R72); an invalid one whose turn has not come is reported (R70). -/
def State.dqRenew (w cl : Nat) (s : State) (d : Nat) : State :=
  let r := s.dqRun cl d
  let due := s.bit (Reg.DQ_EN cl d) && !r.had && !r.run && s.takesPart (islBank cl) w
  let s1 := if due && !s.dqValid cl d then s.dqBad cl d else s
  s1.setDq cl d (if r.run then { r with had := false }
    else if due && s.dqValid cl d && s.get (Reg.DQ_DEADLINE cl d) == 2 then ⟨0, true, false⟩ else DqRun.none)

/-- The end of window w for a cluster's descriptors: no deadline lies beyond E(w + 1) (R71). -/
def State.dqEdge (w : Nat) (s : State) (cl : Nat) : State :=
  let s1 := (List.range 32).foldl (fun t d => t.dqDeadline w cl d) s
  (List.range 32).foldl (State.dqRenew w cl) s1

/-! ### The scrubbers -/

/-- A mismatch (R75): the word stays; a bank word found faulty a second time after it was rewritten is a bank word fault, on
which the region declares the cluster degraded (R20, R76). -/
def State.scrubBad (s : State) (a key : Nat) : State :=
  let s1 := (((s.put Reg.SCRUBADDR_LO_ADDR a).put Reg.SCRUBADDR_HI_ADDR_HI (a / 2 ^ 32)).putBit Reg.SCRUBSTAT_MISMATCH
    true).raise 166
  let s2 := { s1 with mem := { s1.mem with dirty := true } }
  match s.place a with
  | .bank cl _ _ =>
    let again := decide (s.mem.scrub.look 0 key = 2)
    let s3 := { s2 with mem := { s2.mem with scrub := s2.mem.scrub.upd 0 key 1 } }
    if again then s3.degrade cl else s3
  | _ => s2

/-- The SRAM that a word lies in, by the address it is kept under (02_memory, memory inventory): its number, the word's place in
it, and its words. -/
def sramOf (key : Nat) : Nat × Nat × Nat :=
  if key < 0x20000000 then (0, (key - 0x10000000) / 4, 0x100000)
  else if key < 0x30000000 then (1, (key - 0x20000000) / 4, 0x400000)
  else if key < 0x40000000 then (2, (key - 0x30000000) / 4, 0x100000)
  else
    let cl := 8 * ((key - 0x40000000) / 0x10000000) + key % 0x10000000 / 0x1000000
    let off := key % 0x1000000
    if off < 0x200000 then (64 * (cl + 1) + off / 0x40000, off % 0x40000 / 4, 0x10000)
    else
      let o := off - 0x800000
      (64 * (cl + 1) + 8 + 3 * (o / 0x20000) + o % 0x20000 / 0x8000, o % 0x8000 / 4, 0x2000)

/-- Every SRAM, with its words: the steward's memory, the parameter store, the stream buffer, and of each cluster its 8 banks and
the I, X and Y memories of its 9 cells. -/
def sramAll : List (Nat × Nat) :=
  [(0, 0x100000), (1, 0x400000), (2, 0x100000)] ++ (List.range 32).flatMap (fun cl =>
    (List.range 35).map (fun i => (64 * (cl + 1) + i, if i < 8 then 0x10000 else 0x2000)))

/-- The pass in progress has covered every word of every SRAM (R74). -/
def State.scrubCovered (s : State) : Bool := sramAll.all (fun m => decide (m.2 ≤ s.mem.scrubAt.look 0 m.1))

/-- A pass completes (R75); a clean one that began after the last supply dip ends the precautionary limit (R436). -/
def State.scrubPass (s : State) : State :=
  let clean := !s.mem.dirty
  let s1 := (s.put Reg.SCRUBSTAT_PASSES (s.get Reg.SCRUBSTAT_PASSES + 1)).putBit Reg.SCRUBSTAT_CLEAN clean
  let s2 := (if s.bit Reg.SCRUBCTL_PASS_EVT then s1.raise 167 else s1).fumPassDone clean
  { s2 with mem := { s2.mem with scrubAt := [], dirty := false, passSince := true } }

/-- The scrubber of an SRAM reads its next word, the one at `a`, kept under `key` (R74): it checks it, and the pass completes when
every SRAM is covered. -/
def State.scrubNext (s : State) (a key : Nat) (x : Sinter) : State :=
  let m := sramOf key
  let s0 : State := { s with mem := { s.mem with scrubAt := s.mem.scrubAt.upd 0 m.1 (m.2.1 + 1) } }
  let s1 := if x.faulty then s0.scrubBad a key else s0
  if s1.scrubCovered then s1.scrubPass else s1

/-- A scrubber reads the word at an address, if that is the next of its SRAM: every word is read once in a pass (R74, log 32). -/
def execScrubRead (lo : BitVec 32) (hi : BitVec 8) (s : State) : Host.Outcome State Fault Refusal :=
  let a4 := (hi ++ lo).toNat / 4 * 4
  done (if !s.bit Reg.SCRUBCTL_EN then s
    else match s.scrubbed a4 with
      | some p => if s.mem.scrubAt.look 0 (sramOf p.1).1 = (sramOf p.1).2.1 then s.scrubNext a4 p.1 p.2 else s
      | none => s)

end Sys2Proof.Machine
end

