-- ==== Sys2Proof/Machine/Engine.lean ====
section
/-! DEFINITION. The frame grid (01_engine): what comes about at an input port frame edge (R21), at a period boundary (R3, R14), at a
stage edge (R23, R24) and at the cell stage deadline (R26, R27, R130, R414). -/

namespace Sys2Proof.Machine

/-- An engine-wide reset holds the data plane (R532, R533). -/
def State.planeHeld (s : State) : Bool := s.pwr.safe || (match s.pwr.rst with | some r => decide (3 ≤ r.1) | none => false)

/-- An island takes part in the present window. -/
def State.works (s : State) (i : Nat) : Bool := s.takesPart i s.window

/-! ### The period boundary (R3) -/

/-- Staged RWP fields take effect, the last write of the period winning (R14); the registers as they now stand govern the
samples of the period (R41).  Before the first boundary after a reset the registers had been as they stood until it. -/
def State.rwpApply (s : State) : State :=
  let regs := s.staged.foldl (fun m e => match e.2 with | some v => m.upd 0 e.1 v | none => m) s.regs
  { s with regs := regs, staged := [], eng := { s.eng with
      past := ((s.period, regs) :: (if s.eng.past.isEmpty then [(0, s.regs)] else s.eng.past)).take 8 } }

/-- Geyser at the boundary: the steps of R253, then the direct writes (R219, R247). -/
def State.gysBoundary (s : State) : State := if s.works islGeyser then s.gysFaultSteps.dwApplyAll else s

/-- Geyser's check of a PID fails at this edge (R253): every unit that reads it now gets poison. -/
def State.gysBadAt (s : State) (bad : Option Nat) : State :=
  match bad with
  | some pid => { s.gysStateFault pid with gys := { (s.gysStateFault pid).gys with bad := some pid } }
  | none => s

/-- The boundary of the present period. -/
def State.periodBoundary (s : State) : State :=
  let s1 := ({ s with evt := { s.evt with once := [] } } : State).rwpApply
  (s1.tablesAdopt s1.period).gysBoundary.heartbeat.pwrBoundary

/-- The conversion units take their words for a period at the edge after its first frame, at which that frame is deposited (R271). -/
def State.cnvPeriod (s : State) (f : Nat) : State := if f % 16 = 1 ∧ s.works islConv then s.cnvBoundary else s

/-! ### The stage edge (R23, R24) -/

/-- A slice that was reset is reloaded at the first stage edge from which it takes part (R218). -/
def State.sliceJoin (s : State) (r : Nat) : State :=
  if s.works (islSlice r) then
    { s.sliceReload r with cal := { (s.sliceReload r).cal with reload := s.cal.reload.filter (fun k => k != r) } }
  else s

/-- What the data plane does at E(w). -/
def State.planeEdge (s : State) (w : Nat) : State :=
  let s1 := if 1 ≤ w then ((List.range 32).foldl (State.dqEdge (w - 1)) (s.s0Close (w - 1))) else s
  let s2 := (s1.calActive.cellsEdge w).rampRelease
  let s3 := s2.cal.reload.foldl State.sliceJoin s2
  (List.range 32).foldl (fun t cl => t.patrolShow cl w) s3

/-- E(w), w being the window that begins. -/
def State.stageEdge (s : State) : State :=
  let w := s.window
  let s1 := if s.planeHeld then s else s.planeEdge w
  let s2 := if 6 ≤ w ∧ s1.works islTephra then s1.meterLatch (w - 6) else s1
  let s3 := if 6 ≤ w then s2.pairCompare (w - 6) else s2
  if 4 ≤ w then s3.fumCheck (w - 4) else s3

/-! ### Frames in and out -/

/-- The conversion channels of the enabled units in the modes named. -/
def State.convChans (s : State) (modes : Nat → Bool) : List Nat :=
  (List.range 256).filter (fun v => s.bit (Reg.CNVCTL_EN (v / 8)) && modes (s.cnvMode (v / 8)))

/-- The computations of a channel disagree, if it is the one named (R272). -/
def State.cnvNote (s : State) (v : Nat) (dup : Option Nat) : State := if dup = some v then s.cnvDup v else s

/-- The ingress conversion channels deposit their samples of frame `f` (R261, R262); silence where the port of the channel gives
none (R300, R303, R308, R314). -/
def State.convIn (s : State) (f : Nat) (dup : Option Nat) : State :=
  (s.convChans cnvIngress).foldl (fun t v =>
    let x := if t.portSilent v && dup != some v then Sinter.zero else t.ingressConv v f (dup == some v)
    ((t.ingressPut (t.get (Reg.CNVCH_BIND v)) f x).cnvNote v dup).convAdvance v) s

/-- An egress conversion channel takes the sample handed for frame `f` and gives its own (R260, R261, R273); held at 0 while
C is 0 (R424). -/
def State.convOutChan (f : Nat) (dup : Option Nat) (s : State) (v : Nat) : State :=
  let x := s.handedAt (s.get (Reg.CNVCH_BIND v)) f
  let s1 := s.setChan v ((s.chan v).take x)
  let s2 := (if x.good then s1 else s1.cnvPoisonIn v).cnvNote v dup
  let ys := if s.mutedAll then (s2.egressConv v f false).map (fun _ => Sinter.zero) else s2.egressConv v f (dup == some v)
  ({ s2 with cnv := { s2.cnv with out := s2.cnv.out.upd [] (slotKey f v) ys } } : State).convAdvance v

def State.convOut (s : State) (f : Nat) (dup : Option Nat) : State :=
  (s.convChans cnvEgress).foldl (State.convOutChan f dup) s

/-- What has come in during frame `f` is deposited at edge f + 1 (R24, R356, R374). -/
def State.framesIn (s : State) (f : Nat) (dup : Option Nat) : State :=
  let s1 := if s.works islStream then s.netDeposit f else s
  if s1.works islConv then (((List.range 32).foldl (State.cnvSlip f) s1).linkFeed f).convIn f dup else s1

/-- Frame `f` leaves Fumarole at edge f + 73 (R415), and enters the egress conversions and the packets of the transmit
streams. -/
def State.framesOut (s : State) (f : Nat) (dup : Option Nat) : State :=
  let s1 := s.fumHand f
  let s2 := if s1.works islConv then (if f % 16 = 0 then s1.cnvEgressPeriod (f / 16) else s1).convOut f dup else s1
  if s2.works islStream then s2.streamCollect f else s2

/-- The ports that were enabled through an engine reset return to RUN (R532). -/
def State.portsRestart (s : State) : State :=
  if s.works islPorts then
    let s1 := s.pins.restart.foldl (fun t n => t.put (Reg.PORTSTAT_STATE n) portRun) s
    { s1 with pins := { s1.pins with restart := [] } }
  else s

/-- The output side of an edge: ports and streams. -/
def State.edgeOut (s : State) (vntDup : Option Nat) : State :=
  let s1 := s.portsRestart
  let s2 := if s1.works islPorts then s1.portOutputs s1.frame vntDup
    else s1.portsLow
  if s2.works islStream then s2.streamQueue else s2

/-! ### The sample stores -/

/-- What no stage reads any more is dropped: frames more than 160 behind the present one. -/
def State.prune (s : State) : State :=
  let r := s.frame - 160
  let w := s.frame - 96
  { s with
    eng := { s.eng with
      ingress := Assoc.fromFrame w s.eng.ingress
      src := Assoc.fromFrame w s.eng.src
      bus := Assoc.fromFrame w s.eng.bus
      egr := Assoc.fromFrame w s.eng.egr
      wideOut := Assoc.fromFrame w s.eng.wideOut
      wideIn := Assoc.fromFrame w s.eng.wideIn
      sealed := Assoc.fromFrame r s.eng.sealed }
    fum := { s.fum with req := Assoc.fromFrame r s.fum.req, handed := Assoc.fromFrame r s.fum.handed }
    cnv := { s.cnv with out := Assoc.fromFrame r s.cnv.out }
    mtr := { s.mtr with taps := Assoc.fromFrame w s.mtr.taps }
    ports := { s.ports with ventIn := Assoc.fromFrame r s.ports.ventIn }
    lnk := { s.lnk with raw := Assoc.fromFrame w s.lnk.raw } }

/-! ### The edge -/

/-- The input port frame edge of the frame that now counts. -/
def State.edge (s : State) (cnvDup vntDup gysBad : Option Nat) (gpio : Nat) : State :=
  let f := s.frame
  let s1 := (s.gpioDrive gpio).pairRelease.actLevel (gpio.testBit 7)
  let s2 := if f % 16 = 0 then s1.periodBoundary else s1
  let s3 := ((s2.gysBadAt gysBad).cnvPeriod f).framesIn (f - 1) cnvDup
  let s4 := if f % 16 = 1 then s3.stageEdge else s3
  let s5 := if 2 ≤ f ∧ !s4.planeHeld then s4.directSlots (f - 2) else s4
  let s6 := s5.edgeOut vntDup
  let s7 := if 73 ≤ f then s6.framesOut (f - 73) cnvDup else s6
  let s8 := ((s7.linkTx f).fumTick.tcLatch.pwrEdge.rampStep.rampEdge).prune
  { s8 with gys := { s8.gys with bad := none } }

/-- FRAME_EDGE (R21): FRAME_COUNT advances, once the divider runs.  While a warm chip reset is asserted the data plane is held
and the count goes on (R22). -/
def State.frameEdge (s : State) (cnvDup vntDup gysBad : Option Nat) (gpio : Nat) : State :=
  if !s.dividerRuns then s
  else
    let t : State := { s with frame := (s.frame + 1) % 2 ^ 64 }
    if s.pwr.chip = 1 then t else t.edge cnvDup vntDup gysBad gpio

def execFrameEdge (cnvDup : Option (Fin 256)) (vntDup : Option (Fin 64)) (x : EdgeInput) (s : State) :
    Host.Outcome State Fault Refusal :=
  done (s.frameEdge (cnvDup.map Fin.val) (vntDup.map Fin.val) (x.gysBad.map BitVec.toNat) x.gpio.toNat)

/-! ### The cell stage deadline (R26) -/

/-- The sample of egress slot `o`, frame `j`, as it is sealed in window `w` (R34 to R37, R205). -/
def State.egressSample (s : State) (w o j : Nat) : Sinter :=
  let kind := s.getAt (w - 3) (Reg.EGW_KIND o)
  if kind = 0 then Sinter.zero
  else if kind = 1 then
    (if s.spoiledIn (s.getAt (w - 3) (Reg.EGW_CELL o)) w then s.poison (100 + o)
     else (s.eng.egr.look none (slotKey (16 * (w + 1) + j) o)).getD (s.poison (100 + o)))
  else if kind = 2 then
    (if s.nBus ≤ s.getAt (w - 3) (Reg.EGW_BUS o) then s.poison (100 + o) else s.busRead w (s.getAt (w - 3) (Reg.EGW_BUS o)) j)
  else s.poison (100 + o)

/-- The egress slots of period w - 3 are sealed (R414); silence is not listed. -/
def State.egressSeal (s : State) (w : Nat) : State :=
  let sealed := (List.range s.nEgr).foldl (fun m o =>
    (List.range 16).foldl (fun m j =>
      let x := s.egressSample w o j
      m.upd none (slotKey (16 * (w - 3) + j) o) (if x = Sinter.zero then none else some x)) m) s.eng.sealed
  { s with eng := { s.eng with sealed := sealed }, fum := { s.fum with seals := ((w - 3) :: s.fum.seals).take 12 } }

/-- The frame from which slots are sealed again under STALL (R424). -/
def State.stallEnds (s : State) : State :=
  if s.fumHas fumStall && decide (s.fum.since.look 0 fumStall = 0) then
    { s with fum := { s.fum with since := s.fum.since.upd 0 fumStall (s.frame + 1) } }
  else s

/-- The deadline of window `w` and its turnover reserve: overruns (R27), the spares' verdicts (R389 to R393), checkpoints
(R130), egress slots (R414). -/
def State.stageDeadline (s : State) (w : Nat) (patrol : List PatrolResult) : State :=
  let s1 : State := { s with eng := { s.eng with deadline := w + 1 } }
  let s2 := (List.range 256).foldl (State.cellDeadline w) s1
  let s3 := (List.range 32).foldl (State.spareWindow w patrol) s2
  let s4 := (List.range 256).foldl (State.cellSeal s2) s3
  if 3 ≤ w then (s4.egressSeal w).stallEnds else s4

def execCellStageDeadline (patrol : List PatrolResult) (s : State) : Host.Outcome State Fault Refusal :=
  done (if s.pwr.chip ≠ 0 ∨ s.planeHeld ∨ s.eng.deadline = s.window + 1 then s else s.stageDeadline s.window patrol)

/-! ### What goes on while no command waits -/

/-- One PCLK rising edge: both time domains advance (R492), and the deadline time base counts two FCLK cycles (R462, R511),
each while its clock runs. -/
def State.tick (s : State) : State :=
  let s1 := if s.dividerRuns then { s with refs := { s.refs with a := s.refs.a.tick, b := s.refs.b.tick } } else s
  if s.fabRuns && s.dividerRuns then s1.put Reg.FABTIME_TIME (s.fabTime + 2) else s1

end Sys2Proof.Machine
end

