-- ==== Sys2Proof/Machine/Fetch.lean ====
section
/-! DEFINITION. Fetching a bundle (R55, R165, R177, R178, R180) and what the steward takes before it fetches: the responses it
waits for (R183, R185, R186). -/

namespace Sys2Proof.Machine

/-- The steward is held: halted (R186, R591), waiting for a response (R183), for an event (R571) or for its outstanding
transactions (R183), its island closed, or a REMAP change pending on its next fetch (R509). -/
def State.stewardHeld (s : State) : Bool :=
  !s.stw.running || s.stw.halted || (s.stw.debug && !s.stw.stepping) || s.stw.wait.isSome ||
    (s.stw.waiting && s.evtPend == 0) || (s.stw.fencing && s.fab.reqs.any (fun r => r.master == 0)) ||
    s.islandStopped islSteward || (s.fab.remap != 0 && decide (s.stw.core.npc < 32768))

/-- The unit is to fetch: a cell with a running task that has not been stopped, or the steward when nothing holds it. -/
def State.fetches (s : State) (u : Exe) : Bool :=
  match u with
  | .steward => !s.stewardHeld
  | .cell p => match s.eff p with
    | some e => (s.cell e).started && !(s.cell e).stopped && (s.cell e).task.isSome && !s.islandStopped p
    | none => false

/-- The core with the results due by the next bundle landed and the next bundle's address as its own (R97). -/
def Core.step (c : Core) (w : BitVec 64) : Core :=
  let d := c.land (c.count + 1)
  { d with count := c.count + 1, pc := c.npc, npc := c.npc + 1, stRead := c.st, live := true, bundle := w }

/-- Execution runs off the last bundle, which has taken effect in full (R165, R178): the unit stops as a trap stops it, with CAUSE
0x2 at that bundle. -/
def State.runOff (s : State) (u : Exe) : State :=
  match u with
  | .cell p => match s.eff p with
    | some e => s.cellStop e 2 (lastBundle u) { s.core u with live := false }
    | none => s
  | .steward => s.stwException 2 0 (lastBundle u)

/-- The exception of an error response to the steward (R186): a closing store after a broken lock takes 0xA. -/
def State.stewardError (s : State) (r : FabResp) (closing : Bool) (pc : Nat) : State :=
  ({ s with stw := { s.stw with eaddr := BitVec.ofNat 40 r.addr } } : State).stwException
    (if closing && r.code == 4 then 0xA else 9) r.id pc

/-- The response the steward waits for, or one that tells of a failed posted store, is taken (R183, R185, R186): a load
carries the returned word unchanged. -/
def State.stewardTake (s : State) (r : FabResp) : State :=
  let s1 := { s with fab := { s.fab with resps := s.fab.resps.filter (fun x => x.tag != r.tag) } }
  match s.stw.wait with
  | some w =>
    if w.1 = r.tag then
      let s2 := { s1 with stw := { s1.stw with wait := none } }
      if r.code ≠ 0 then s2.stewardError r (w.2.1 == 0) w.2.2
      else if w.2.1 = 0 then s2
      else { s2 with stw := { s2.stw with core := s2.stw.core.sendG 1 (w.2.1 - 1) (r.words.headD (s.poison 0)) } }
    else takePosted s1 r
  | none => takePosted s1 r
where
  /-- The response to a posted store. -/
  takePosted (s : State) (r : FabResp) : State :=
    match s.stw.posted.find? (fun p => p.1 == r.tag) with
    | none => s
    | some p =>
      let s1 := { s with stw := { s.stw with posted := s.stw.posted.filter (fun x => x.1 != r.tag) } }
      if r.code ≠ 0 then s1.stewardError r false p.2 else s1

/-- A response has arrived that the steward is to take before it goes on. -/
def State.stewardResponse (s : State) : Option FabResp :=
  if s.stw.running && !s.stw.halted then
    s.fab.resps.find? (fun r => r.master == 0 &&
      ((match s.stw.wait with | some w => w.1 == r.tag | none => false) || s.stw.posted.any (fun p => p.1 == r.tag)))
  else none

/-- What keeps the steward's fetch from its word (R46, R499, R509): `some none` while the path is not free, a response code
other than OK where the fetch is answered with one.  A fetch is carried out in its turn, from issue to response (log 197). -/
def State.fetchBar (s : State) (pc : Nat) : Option (Option Nat) :=
  let a := stewardFetchAddr pc
  match s.answeredAtOnce a 2 true true with
  | some code => some (some code)
  | none => if s.portIssues 0 && s.portFree 0 (s.portFor a) then none else some none

/-- A fetch (R55, R165, R177): run-off, a bad half and an illegal encoding trap; else the bundle issues, in one cycle.
The steward's windows are those in force before its slots write (R95, R182). -/
def State.fetchBundle (s : State) (u : Exe) : State :=
  let s := if u = .steward then { s with stw := { s.stw with
    stepping := false, waiting := false, fencing := false, xnow := s.stw.xwin, ynow := s.stw.ywin } } else s
  let c := s.core u
  if lastBundle u < c.npc then s.runOff u
  else
    let h := s.bundleAt u c.npc
    let w := h.2.data ++ h.1.data
    let s1 := (s.setCore u (c.step w)).cycles u 1
    if !(h.1.ok && h.2.ok) then s1.trap u 3
    else if (decodeBundle u w.toNat).isNone then s1.trap u 2
    else s1

/-- An error response to a fetch (R186): exception 0x9 at the bundle that was to be fetched. -/
def State.fetchFails (s : State) (code : Nat) : State :=
  let id := (Config.transactionId s.free).toNat
  let a := stewardFetchAddr s.stw.core.npc
  let s1 := s.fabFail 0 id a code
  ({ s1 with stw := { s1.stw with eaddr := BitVec.ofNat 40 a, stepping := false, waiting := false, fencing := false } } :
    State).stwException 9 id s.stw.core.npc

/-- A fetch of a unit; the steward first takes a response that has arrived. -/
def execBundleFetch (u : Exe) (s : State) : Host.Outcome State Fault Refusal :=
  let resp := if u = .steward then s.stewardResponse else none
  done (match resp with
    | some r => s.stewardTake r
    | none =>
      if !s.fetches u then s
      else match (if u = .steward then s.fetchBar s.stw.core.npc else none) with
        | none => s.fetchBundle u
        | some none => s
        | some (some code) => s.fetchFails code)

end Sys2Proof.Machine
end

