-- ==== Sys2Proof/Machine/Host.lean ====
section
/-! DEFINITION. The host interface (16_events_host_mgmt): the PCIe endpoint (R576 to R581), the management port (R582 to R586), the
TAP and the debug access port (R587 to R590), and the fuses (R592, R593). -/

namespace Sys2Proof.Machine

/-! ### PCIe (R577 to R580) -/

/-- The fabric address of offset `o` of a BAR (R577); none where nothing is mapped. -/
def State.barAddr (s : State) (bar o : Nat) : Option Nat :=
  match bar with
  | 0 => if o < 0x110000 then some (0x80000000 + o) else none
  | 1 =>
    if o < 0x1000000 then some (0x20000000 + o)
    else if o < 0x1400000 then some (0x30000000 + (o - 0x1000000))
    else none
  | _ => if o < 0x10000000 then some (0x100000000 + s.get Reg.HSTWIN_WIN * 0x10000000 + o) else none

/-- The offset lies in the MSI-X table or the pending bit array of BAR0 (R577). -/
def inMsixTable (bar o : Nat) : Bool := bar == 0 && decide (0xE1000 ≤ o) && decide (o < 0xE1100)
def inMsixPba (bar o : Nat) : Bool := bar == 0 && decide (0xE1800 ≤ o) && decide (o < 0xE1808)

/-- A word of the MSI-X table: address, upper address, data and vector control of a vector. -/
def State.msixTableWord (s : State) (i : Nat) : Nat :=
  if i % 4 = 3 then (s.evt.vmask.testBit (i / 4)).toNat else s.evt.table.look 0 i

def State.msixTableWrite (s : State) (i v : Nat) : State :=
  if i % 4 ≠ 3 then { s with evt := { s.evt with table := s.evt.table.upd 0 i v } }
  else if v.testBit 0 then { s with evt := { s.evt with vmask := s.evt.vmask ||| 2 ^ (i / 4) } }
  else s.msixUnmask (some (i / 4))

/-- One access of a split request (R578): a run of words of the fabric, of the endpoint's own tables, or of nothing. -/
inductive HostPart where
  | fabric (a n : Nat)
  | table (i : Nat)
  | pba (i : Nat)
  | unmapped (o : Nat)
  deriving DecidableEq, Repr

/-- The part of a request of `n` words at `o` that is issued first, and its words: at most 16, within 4 KiB. -/
def State.hostPart (s : State) (bar o n : Nat) : HostPart × Nat :=
  if inMsixTable bar o then (.table ((o - 0xE1000) / 4), 1)
  else if inMsixPba bar o then (.pba ((o - 0xE1800) / 4), 1)
  else match s.barAddr bar o with
    | none => (.unmapped o, 1)
    | some a => (.fabric a (Nat.min (Nat.min n 16) ((4096 - a % 4096) / 4)), Nat.min (Nat.min n 16) ((4096 - a % 4096) / 4))

/-- What a request has given so far: the state, the words of a read with their fabric addresses, and the errors as address
and code. -/
structure HostRun where
  s     : State
  words : List (Nat × Sinter)
  errs  : List (Nat × Nat)
  deriving DecidableEq, Repr

/-- The fabric address HSTERR shows for an offset that is not mapped: as the BAR's first range would map it. -/
def unmappedAddr (bar o : Nat) : Nat := (if bar = 0 then 0x80000000 else if bar = 1 then 0x20000000 else 0x100000000) + o

/-- A word the endpoint answers itself. -/
def HostRun.own (r : HostRun) (v : Nat) : HostRun := { r with words := r.words ++ [(0, Sinter.ofData (BitVec.ofNat 32 v))] }

/-- A read of `n` words at `o`, in at most `fuel` parts; none while one of its transactions must wait. -/
def hostRead (bar : Nat) : Nat → Nat → Nat → HostRun → Option HostRun
  | 0, _, _, r => some r
  | fuel + 1, o, n, r =>
    if n = 0 then some r
    else
      let p := r.s.hostPart bar o n
      match p.1 with
      | .table i => hostRead bar fuel (o + 4) (n - 1) (r.own (r.s.msixTableWord i))
      | .pba i => hostRead bar fuel (o + 4) (n - 1) (r.own (if i = 0 then r.s.evt.pba else 0))
      | .unmapped _ => hostRead bar fuel (o + 4) (n - 1)
          { r with errs := r.errs ++ [(unmappedAddr bar o, fabDecode)], words := r.words ++ [(0, Sinter.zero)] }
      | .fabric a k => match r.s.access 1 0 .read a k [] true with
        | none => none
        | some b => hostRead bar fuel (o + 4 * k) (n - k)
            { s := b.s, words := r.words ++ ((List.range k).map (fun i => a + 4 * i)).zip b.words,
              errs := if b.code = fabOk then r.errs else r.errs ++ [(a, b.code)] }

/-- A write of words at `o`, likewise. -/
def hostWrite (bar : Nat) : Nat → Nat → List (BitVec 32) → HostRun → Option HostRun
  | 0, _, _, r => some r
  | fuel + 1, o, ws, r =>
    if ws.isEmpty then some r
    else
      let p := r.s.hostPart bar o ws.length
      match p.1 with
      | .table i => hostWrite bar fuel (o + 4) (ws.drop 1) { r with s := r.s.msixTableWrite i (ws.getD 0 0).toNat }
      | .pba _ => hostWrite bar fuel (o + 4) (ws.drop 1) r
      | .unmapped _ => hostWrite bar fuel (o + 4) (ws.drop 1) { r with errs := r.errs ++ [(unmappedAddr bar o, fabDecode)] }
      | .fabric a k => match r.s.access 1 0 .write a k ((ws.take k).map Sinter.ofData) true with
        | none => none
        | some b => hostWrite bar fuel (o + 4 * k) (ws.drop k)
            { r with s := b.s, errs := if b.code = fabOk then r.errs else r.errs ++ [(a, b.code)] }

/-- HSTERR takes an access (R579, R580). -/
def State.hstErr (s : State) (a code kind : Nat) : State :=
  (((s.put Reg.HSTERR_LO_ADDR a).put Reg.HSTERR_HI_ADDR_HI (a / 2 ^ 32)).put Reg.HSTERR_HI_CODE code).put
    Reg.HSTERR_HI_KIND kind

/-- An error of a host access (R579). -/
def State.hostError (s : State) (e : Nat × Nat) : State :=
  ((s.hstErr e.1 e.2 0).putBit Reg.HSTSTAT_ACC_ERR true).raiseOnce 226

/-- An error of a write, a posted request: it is reported through AER too (R579). -/
def State.hostPosted (s : State) (e : Nat × Nat) : State :=
  let t := s.hostError e
  { t with pcie := { t.pcie with
    aerUr := t.pcie.aerUr || e.2 == fabDecode, aerCa := t.pcie.aerCa || e.2 != fabDecode } }

/-- A word that a read returns is poison or mismatched (R580). -/
def State.hostWordCheck (s : State) (w : Nat × Sinter) : State :=
  if w.2.isPoison then ((s.hstErr w.1 0 1).putBit Reg.HSTSTAT_RD_POISON true).raiseOnce 227
  else if !w.2.ok then ((s.hstErr w.1 0 2).putBit Reg.HSTSTAT_RD_MISMATCH true).raiseOnce 227
  else s

def State.setCpl (s : State) (status : Nat) (data : List (BitVec 32)) (ep : Bool) : State :=
  { s with pcie := { s.pcie with cpl := some (status, data, ep) } }

/-- The completion of a read (R579, R580). -/
def HostRun.complete (r : HostRun) : State :=
  if r.errs.isEmpty then
    (r.words.foldl State.hostWordCheck r.s).setCpl 0 (r.words.map (fun w => w.2.data))
      (r.s.bit Reg.HSTCFG_POISON_EP && r.words.any (fun w => w.2.isPoison || !w.2.ok))
  else
    (r.errs.foldl State.hostError r.s).setCpl (if r.errs.any (fun e => e.2 == fabDecode) then 1 else 2) [] false

/-- The link is in L0 and no chip-scope reset holds the endpoint. -/
def State.hostUp (s : State) : Bool := s.bit Reg.HSTSTAT_LINK_UP && s.pwr.chip == 0

/-- The words a length field of 10 bits stands for: 0 is 1,024. -/
def tlpWords (n : Nat) : Nat := if n = 0 then 1024 else n

def execPcieMemRead (bar : Fin 3) (o : BitVec 32) (n : BitVec 10) (s : State) : Host.Outcome State Fault Refusal :=
  done (if !s.hostUp then s
    else match hostRead bar 1024 (o.toNat / 4 * 4) (tlpWords n.toNat) ⟨s, [], []⟩ with
      | some r => r.complete
      | none => s)

def execPcieMemWrite (bar : Fin 3) (o : BitVec 32) (words : List (BitVec 32)) (full : Bool) (s : State) :
    Host.Outcome State Fault Refusal :=
  let off := o.toNat / 4 * 4
  done (if !s.hostUp then s
    else if !full then s.hostPosted ((s.barAddr bar off).getD (unmappedAddr bar off), fabTarget)
    else match hostWrite bar words.length off words ⟨s, [], []⟩ with
      | some r => r.errs.foldl State.hostPosted r.s
      | none => s)

/-! ### The link and the function (R581) -/

def execHostLinkUp (speed width : BitVec 3) (bme msix fmask : Bool) (s : State) : Host.Outcome State Fault Refusal :=
  done (if s.pwr.chip ≠ 0 then s
    else
      let s1 := (((s.putBit Reg.HSTSTAT_LINK_UP true).put Reg.HSTSTAT_SPEED speed.toNat).put Reg.HSTSTAT_WIDTH
        width.toNat).raise 224
      let s2 := ((s1.putBit Reg.HSTSTAT_BME bme).putBit Reg.HSTSTAT_MSIX_EN msix).put Reg.PINDIFF_PCIE_INV
        (Config.measured s.free 0)
      if fmask then { s2 with pcie := { s2.pcie with fmask := true } } else s2.msixUnmask none)

/-- The handshake that link down, hot reset and Function Level Reset share. -/
def State.hostHandshake (s : State) : State := (s.masterReset 1).raise 225

def execHostLinkDown (s : State) : Host.Outcome State Fault Refusal :=
  done (if !s.hostUp then s
    else ((s.hostHandshake.putBit Reg.HSTSTAT_LINK_UP false).put Reg.HSTSTAT_SPEED 0).put Reg.HSTSTAT_WIDTH 0)

/-- A register field that a Function Level Reset returns to its reset value: the HST block but for DBGCTL, the debug status and
what shows the link. -/
def flrResets (k : Nat) : Bool :=
  blockOf (k / 64) == 14 && k / 64 != 0x800E0040 && k / 64 != 0x800E0044 && k != Reg.HSTSTAT_LINK_UP.key &&
    k != Reg.HSTSTAT_SPEED.key && k != Reg.HSTSTAT_WIDTH.key

def execHostFlr (s : State) : Host.Outcome State Fault Refusal :=
  done (if !s.hostUp then s
    else
      let s1 := s.hostHandshake.keepRegs (fun k => !flrResets k)
      ({ s1 with
        pcie := Pcie.reset
        evt := { s1.evt with table := [], vmask := Evt.reset.vmask, pba := 0 } } : State).raise 228)

/-! ### The management port (R582 to R585) -/

/-- The address under which a local address is found in the register table (R583). -/
def localAddr (a : Nat) : Option Nat :=
  if a < 0x10000 then some (0x80020000 + a)
  else if a < 0x20000 then some (0x800D0000 + (a - 0x10000))
  else if a < 0x20100 then some (0x10000020000 + (a - 0x20000))
  else none

/-- A register lies at a local address. -/
def localReg (a : Nat) : Option Nat :=
  match localAddr a with
  | some r => if a % 4 = 0 ∧ (rowAt r).isSome then some r else none
  | none => none

/-- `n` local reads from `a`: the words and the code. -/
def localReads : Nat → Nat → State → List (BitVec 32) × Nat × State
  | 0, _, s => ([], fabOk, s)
  | n + 1, a, s => match localReg a with
    | none => ([], fabDecode, s)
    | some r =>
      let v := s.regRead r
      let t := localReads n (a + 4) v.2
      (BitVec.ofNat 32 v.1 :: t.1, t.2.1, t.2.2)

/-- Local writes from `a`: the code. -/
def localWrites : List (BitVec 32) → Nat → State → Nat × State
  | [], _, s => (fabOk, s)
  | v :: vs, a, s => match localReg a with
    | none => (fabDecode, s)
    | some r => localWrites vs (a + 4) (s.regWrite 5 r v.toNat)

/-- A bit map of the words that a test holds of. -/
def wordMap (p : Sinter → Bool) (ws : List Sinter) : Nat :=
  ((List.range ws.length).zip ws).foldl (fun m w => if p w.2 then m ||| 2 ^ w.1 else m) 0

/-- The data of `n` words that no access has given. -/
def State.mgmtOpen (s : State) (n : Nat) : List (BitVec 32) := (List.range n).map (Config.mgmtWord s.free)

/-- The answer of the port with its events (R584). -/
def State.mgmtAnswer (s : State) (status : Nat) (data : List (BitVec 32)) (poison mismatch : Nat) : State :=
  let s1 := { s with mgmt := ⟨status, data, poison, mismatch⟩ }
  let s2 := if status % 8 ≠ 0 then s1.raiseOnce 230 else s1
  if poison ≠ 0 ∨ mismatch ≠ 0 then s2.raiseOnce 231 else s2

/-- A malformed transaction (R585). -/
def State.mgmtFrameErr (s : State) : State := (s.putBit Reg.MGSTAT_FRAME_ERR true).raiseOnce 229

/-- The port works but while POR holds the chip. -/
def State.mgmtUp (s : State) : Bool := s.pwr.chip != 3

def execMgmtLocalRead (a : BitVec 40) (cnt : BitVec 4) (good : Bool) (s : State) : Host.Outcome State Fault Refusal :=
  done (if !s.mgmtUp then s
    else if !good then s.mgmtFrameErr
    else
      let r := localReads (cnt.toNat + 1) a.toNat s
      r.2.2.mgmtAnswer r.2.1 (r.1 ++ s.mgmtOpen (cnt.toNat + 1 - r.1.length)) 0 0)

def execMgmtLocalWrite (a : BitVec 40) (words : List (BitVec 32)) (good : Bool) (s : State) :
    Host.Outcome State Fault Refusal :=
  done (if !s.mgmtUp then s
    else if !good then s.mgmtFrameErr
    else
      let r := localWrites words a.toNat s
      r.2.mgmtAnswer r.1 [] 0 0)

def execMgmtFabricRead (a : BitVec 40) (cnt : BitVec 4) (good stop : Bool) (s : State) : Host.Outcome State Fault Refusal :=
  done (if !s.mgmtUp then s
    else if !good then s.mgmtFrameErr
    else if !s.bit Reg.MGSTAT_FCLK_OK || stop then s.mgmtAnswer 8 (s.mgmtOpen (cnt.toNat + 1)) 0 0
    else match s.access 5 0 .read a.toNat (cnt.toNat + 1) [] true with
      | none => s
      | some b => b.s.mgmtAnswer b.code (b.words.map (fun w => w.data)) (wordMap Sinter.isPoison b.words)
          (wordMap Sinter.faulty b.words))

/-- The write of words over the fabric by M5. -/
def State.mgmtWrite (s : State) (a : Nat) (words : List (BitVec 32)) : Option Beats :=
  s.access 5 0 .write a words.length (words.map Sinter.ofData) true

def execMgmtFabricWrite (a : BitVec 40) (words : List (BitVec 32)) (good stop : Bool) (s : State) :
    Host.Outcome State Fault Refusal :=
  done (if !s.mgmtUp then s
    else if !good then s.mgmtFrameErr
    else if !s.bit Reg.MGSTAT_FCLK_OK then s.mgmtAnswer 8 [] 0 0
    else match s.mgmtWrite a.toNat words with
      | none => s
      | some b =>
        if !stop then b.s.mgmtAnswer b.code [] 0 0
        else if Config.mgmtPerformed s.free then b.s.mgmtAnswer 8 [] 0 0
        else s.mgmtAnswer 8 [] 0 0)

def execEvtsnapTake (s : State) : Host.Outcome State Fault Refusal := done s.evtsnapTake

/-! ### JTAG (R587, R588) -/

/-- An instruction is selected; the data register captures `dr`. -/
def State.tapSelect (s : State) (ir dr : Nat) : State := { s with tap := { s.tap with ir := ir, dr := dr } }

/-- The instruction as which the TAP acts: EXTEST, CLAMP and HIGHZ act only while RESET_N is low, and else as BYPASS (R588). -/
def State.tapActs (s : State) : Nat :=
  if s.bit Reg.MGSTAT_RESET_N && [0x00, 0x03, 0x04].contains s.tap.ir then 0xFF else s.tap.ir

def execExtest (s : State) : Host.Outcome State Fault Refusal := done (s.tapSelect 0x00 0)

def execSamplePreload (bsr : List Bool) (s : State) : Host.Outcome State Fault Refusal :=
  let s1 := s.tapSelect 0x01 0
  done { s1 with tap := { s1.tap with bsr := bsr } }

/-- The value of R1. -/
def idcodeValue : Nat := 0x2CE10A41

def execIdcode (s : State) : Host.Outcome State Fault Refusal := done (s.tapSelect 0x02 idcodeValue)
def execClamp (s : State) : Host.Outcome State Fault Refusal := done (s.tapSelect 0x03 0)
def execHighz (s : State) : Host.Outcome State Fault Refusal := done (s.tapSelect 0x04 0)

/-- Every code without an instruction of its own selects BYPASS (R587). -/
def tapBypasses (code : Nat) : Bool := !([0, 1, 2, 3, 4, 0x10, 0x11].contains code)

def execBypass (code : BitVec 8) (s : State) : Host.Outcome State Fault Refusal :=
  done (if tapBypasses code.toNat then s.tapSelect 0xFF 0 else s)

def execTapReset (s : State) : Host.Outcome State Fault Refusal := done (s.tapSelect 0x02 idcodeValue)

/-! ### The debug access port (R589, R590) -/

/-- The words of a DAP write: those queued, first queued first; a word that none was queued for is free. -/
def State.dapWords (s : State) (n : Nat) : List Sinter :=
  (List.range n).map (fun i => Sinter.ofData (s.tap.queue.getD i (Config.dapWord s.free i)))

/-- Update-DR of DAPCMD. -/
def State.dapCommand (s : State) (op : FabOp) (a n : Nat) : State :=
  let s0 := { s with tap := { s.tap with ir := 0x10 } }
  if !s.bit Reg.DBGSTAT_OPEN then s0.raiseOnce 234
  else match s0.access 4 (Config.transactionId s.free).toNat op a n (if op.isWrite then s.dapWords n else []) true with
    | none => s
    | some b =>
      let t := b.s.raiseOnce 232
      { t with tap := { t.tap with
          queue := if op.isWrite then t.tap.queue.drop n else t.tap.queue
          words := b.words, code := b.code, ready := true } }

def execDapRead (a : BitVec 40) (cnt : BitVec 4) (s : State) : Host.Outcome State Fault Refusal :=
  done (s.dapCommand .read a.toNat (cnt.toNat + 1))
def execDapWrite (a : BitVec 40) (cnt : BitVec 4) (s : State) : Host.Outcome State Fault Refusal :=
  done (s.dapCommand .write a.toNat (cnt.toNat + 1))
def execDapLockedRead (a : BitVec 40) (cnt : BitVec 4) (s : State) : Host.Outcome State Fault Refusal :=
  done (s.dapCommand .lockedRead a.toNat (cnt.toNat + 1))
def execDapClosingWrite (a : BitVec 40) (cnt : BitVec 4) (s : State) : Host.Outcome State Fault Refusal :=
  done (s.dapCommand .closingWrite a.toNat (cnt.toNat + 1))

/-- What a capture of DAPDATA gives (R589); REFUSED reads 1 while the DAP is closed (R590). -/
def State.dapData (s : State) : Nat :=
  let w := match s.tap.words with
    | x :: _ => x.data.toNat + 2 ^ 35 * x.isPoison.toNat + 2 ^ 36 * x.faulty.toNat
    | [] => (Config.dapWord s.free 0).toNat
  w + 2 ^ 32 * s.tap.code + 2 ^ 37 * s.tap.ready.toNat + 2 ^ 38 * (!s.bit Reg.DBGSTAT_OPEN).toNat

/-- A DAPDATA scan: the capture removes the word it returns, and a word with PUSH is queued. -/
def execDapdataCapture (push : Option (BitVec 32)) (s : State) : Host.Outcome State Fault Refusal :=
  done { s with tap := { s.tap with
    ir := 0x11, dr := s.dapData, words := s.tap.words.drop 1, queue := s.tap.queue ++ push.toList } }

/-! ### Fuses (R593) -/

def execFuseProg (s : State) : Host.Outcome State Fault Refusal := done s.fuseProg

/-- The word is programmed and verified; which bits a word that fails has taken is open (log 16). -/
def execFuseProgDone (ok : Bool) (s : State) : Host.Outcome State Fault Refusal :=
  done (match s.fuses.prog with
    | none => s
    | some p =>
      let s1 := { s with fuses := { words := s.fuses.words.upd 0 p.1 (s.fuses.words.look 0 p.1 |||
        (if ok then p.2 else p.2 &&& Config.measured s.free 0)), prog := none } }
      (s1.putBit Reg.FUSESTAT_BUSY false).putBit (if ok then Reg.FUSESTAT_DONE else Reg.FUSESTAT_FAIL) true)

end Sys2Proof.Machine
end

