-- ==== Sys2Proof/Machine/Dispatch.lean ====
section
/-! DEFINITION. One arm per command: its meaning. -/

namespace Sys2Proof.Machine

open Sys2Proof

def exec (i : Instr) (s : State) : Host.Outcome State Fault Refusal :=
  match i with
  | .frameEdge cnvDup vntDup x => Sys2Proof.Machine.execFrameEdge cnvDup vntDup x s
  | .cellStageDeadline patrol => Sys2Proof.Machine.execCellStageDeadline patrol s
  | .s0Deposit w k j left => Sys2Proof.Machine.execS0Deposit w k j left s
  | .descriptorRun cl d n => Sys2Proof.Machine.execDescriptorRun cl d n s
  | .descriptorDeadline cl d => Sys2Proof.Machine.execDescriptorDeadline cl d s
  | .bankHandover cl b v => Sys2Proof.Machine.execBankHandover cl b v s
  | .bankHandoverDone cl b => Sys2Proof.Machine.execBankHandoverDone cl b s
  | .scrubRead lo hi => Sys2Proof.Machine.execScrubRead lo hi s
  | .dramLineFetch line crc1 crc2 => Sys2Proof.Machine.execDramLineFetch line crc1 crc2 s
  | .dramWrite line ws crc1 crc2 => Sys2Proof.Machine.execDramWrite line ws crc1 crc2 s
  | .dramRefresh ch due => Sys2Proof.Machine.execDramRefresh ch due s
  | .dramRefreshEmergency ch => Sys2Proof.Machine.execDramRefreshEmergency ch s
  | .dramMr4Poll rate => Sys2Proof.Machine.execDramMr4Poll rate s
  | .dramEnable v => Sys2Proof.Machine.execDramEnable v s
  | .dramDisable v => Sys2Proof.Machine.execDramDisable v s
  | .dramTrainingDone ok => Sys2Proof.Machine.execDramTrainingDone ok s
  | .bundleFetch u => Sys2Proof.Machine.execBundleFetch u s
  | .taskBudgetReached p => Sys2Proof.Machine.execTaskBudgetReached p s
  | .ttApply w => Sys2Proof.Machine.execTtApply w s
  | .cellHalt w => Sys2Proof.Machine.execCellHalt w s
  | .cellRun w => Sys2Proof.Machine.execCellRun w s
  | .cellpeakClr w => Sys2Proof.Machine.execCellpeakClr w s
  | .nop u => Sys2Proof.Machine.execNop u s
  | .waitp u => Sys2Proof.Machine.execWaitp u s
  | .ret u => Sys2Proof.Machine.execRet u s
  | .trap u => Sys2Proof.Machine.execTrap u s
  | .evt u n => Sys2Proof.Machine.execEvt u n s
  | .mtc u creg gs => Sys2Proof.Machine.execMtc u creg gs s
  | .mfc u gd creg dup => Sys2Proof.Machine.execMfc u gd creg dup s
  | .amov u ad av => Sys2Proof.Machine.execAmov u ad av s
  | .aadd u ad av => Sys2Proof.Machine.execAadd u ad av s
  | .asub u ad av => Sys2Proof.Machine.execAsub u ad av s
  | .add u gd ga gb => Sys2Proof.Machine.execAdd u gd ga gb s
  | .sub u gd ga gb => Sys2Proof.Machine.execSub u gd ga gb s
  | .adds u gd ga gb => Sys2Proof.Machine.execAdds u gd ga gb s
  | .subs u gd ga gb => Sys2Proof.Machine.execSubs u gd ga gb s
  | .and u gd ga gb dup => Sys2Proof.Machine.execAnd u gd ga gb dup s
  | .or u gd ga gb dup => Sys2Proof.Machine.execOr u gd ga gb dup s
  | .xor u gd ga gb dup => Sys2Proof.Machine.execXor u gd ga gb dup s
  | .cmp u ga gb => Sys2Proof.Machine.execCmp u ga gb s
  | .min u gd ga gb => Sys2Proof.Machine.execMin u gd ga gb s
  | .max u gd ga gb => Sys2Proof.Machine.execMax u gd ga gb s
  | .abs u gd ga => Sys2Proof.Machine.execAbs u gd ga s
  | .clip u gd ga gb => Sys2Proof.Machine.execClip u gd ga gb s
  | .sel u cond gd ga gb => Sys2Proof.Machine.execSel u cond gd ga gb s
  | .shl u gd ga gb dup => Sys2Proof.Machine.execShl u gd ga gb dup s
  | .sra u gd ga gb => Sys2Proof.Machine.execSra u gd ga gb s
  | .shr u gd ga gb dup => Sys2Proof.Machine.execShr u gd ga gb dup s
  | .norm u gd ga gb => Sys2Proof.Machine.execNorm u gd ga gb s
  | .shli u gd ga t dup => Sys2Proof.Machine.execShli u gd ga t dup s
  | .srai u gd ga t => Sys2Proof.Machine.execSrai u gd ga t s
  | .shri u gd ga t dup => Sys2Proof.Machine.execShri u gd ga t dup s
  | .normi u gd ga t => Sys2Proof.Machine.execNormi u gd ga t s
  | .mpy u an ga gb => Sys2Proof.Machine.execMpy u an ga gb s
  | .mac u an ga gb => Sys2Proof.Machine.execMac u an ga gb s
  | .msu u an ga gb => Sys2Proof.Machine.execMsu u an ga gb s
  | .dmac u op0 op1 q a b x => Sys2Proof.Machine.execDmac u op0 op1 q a b x s
  | .sta u gd an sh => Sys2Proof.Machine.execSta u gd an sh s
  | .staP u gd an sh => Sys2Proof.Machine.execStaP u gd an sh s
  | .lin2g u gd ga dup => Sys2Proof.Machine.execLin2g u gd ga dup s
  | .g2lin u gd ga dup => Sys2Proof.Machine.execG2lin u gd ga dup s
  | .bexp u gd src dup => Sys2Proof.Machine.execBexp u gd src dup s
  | .li u gd imm dup => Sys2Proof.Machine.execLi u gd imm dup s
  | .lui u gd imm dup => Sys2Proof.Machine.execLui u gd imm dup s
  | .loop u form => Sys2Proof.Machine.execLoop u form s
  | .loopBackEdge u => Sys2Proof.Machine.execLoopBackEdge u s
  | .br u target => Sys2Proof.Machine.execBr u target s
  | .bcc u cond target => Sys2Proof.Machine.execBcc u cond target s
  | .call u target => Sys2Proof.Machine.execCall u target s
  | .ldX u gd pn am => Sys2Proof.Machine.execLdX u gd pn am s
  | .stX u pn am gs => Sys2Proof.Machine.execStX u pn am gs s
  | .sin u gd pn am => Sys2Proof.Machine.execSin u gd pn am s
  | .staX u an sh pn => Sys2Proof.Machine.execStaX u an sh pn s
  | .ldUX u gd pn am => Sys2Proof.Machine.execLdUX u gd pn am s
  | .ldY u gd pn am => Sys2Proof.Machine.execLdY u gd pn am s
  | .stY u pn am gs => Sys2Proof.Machine.execStY u pn am gs s
  | .sout u pn am gs => Sys2Proof.Machine.execSout u pn am gs s
  | .staY u an sh pn => Sys2Proof.Machine.execStaY u an sh pn s
  | .mtap u pn am gs => Sys2Proof.Machine.execMtap u pn am gs s
  | .ldUY u gd pn am => Sys2Proof.Machine.execLdUY u gd pn am s
  | .ldZ u gd bank pn am => Sys2Proof.Machine.execLdZ u gd bank pn am s
  | .stZ u gs bank pn am => Sys2Proof.Machine.execStZ u gs bank pn am s
  | .pget u gd sreg pn hold gysBad => Sys2Proof.Machine.execPget u gd sreg pn hold gysBad s
  | .pgetTwin u gd sreg pn hold gysBad => Sys2Proof.Machine.execPgetTwin u gd sreg pn hold gysBad s
  | .amoAdd u g bank pn dup => Sys2Proof.Machine.execAmoAdd u g bank pn dup s
  | .amoSwap u g bank pn => Sys2Proof.Machine.execAmoSwap u g bank pn s
  | .ldUZ u gd bank pn dup => Sys2Proof.Machine.execLdUZ u gd bank pn dup s
  | .fld gd ga => Sys2Proof.Machine.execFld gd ga s
  | .fst ga gs => Sys2Proof.Machine.execFst ga gs s
  | .fldl gd ga => Sys2Proof.Machine.execFldl gd ga s
  | .fstu ga gs => Sys2Proof.Machine.execFstu ga gs s
  | .fence => Sys2Proof.Machine.execFence s
  | .eret => Sys2Proof.Machine.execEret s
  | .wfe => Sys2Proof.Machine.execWfe s
  | .ei => Sys2Proof.Machine.execEi s
  | .di => Sys2Proof.Machine.execDi s
  | .mtcs csr gs => Sys2Proof.Machine.execMtcs csr gs s
  | .mfcs gd csr dup => Sys2Proof.Machine.execMfcs gd csr dup s
  | .jr ga => Sys2Proof.Machine.execJr ga s
  | .jalr ga => Sys2Proof.Machine.execJalr ga s
  | .stewardEventTaken => Sys2Proof.Machine.execStewardEventTaken s
  | .calMatrixFrame j dup gysBad hit => Sys2Proof.Machine.execCalMatrixFrame j dup gysBad hit s
  | .deepBusAdd b j => Sys2Proof.Machine.execDeepBusAdd b j s
  | .xpStateCheck xp ok => Sys2Proof.Machine.execXpStateCheck xp ok s
  | .xpRebuild xp => Sys2Proof.Machine.execXpRebuild xp s
  | .xpRampEnd xp => Sys2Proof.Machine.execXpRampEnd xp s
  | .calsatbusClear => Sys2Proof.Machine.execCalsatbusClear s
  | .ovlLoad n => Sys2Proof.Machine.execOvlLoad n s
  | .ovlLoadDone n badLines => Sys2Proof.Machine.execOvlLoadDone n badLines s
  | .ovlDrop n => Sys2Proof.Machine.execOvlDrop n s
  | .commitGo n => Sys2Proof.Machine.execCommitGo n s
  | .commitCancel n => Sys2Proof.Machine.execCommitCancel n s
  | .commitPrepareDone n => Sys2Proof.Machine.execCommitPrepareDone n s
  | .commitApply n => Sys2Proof.Machine.execCommitApply n s
  | .paramRampEnd pid => Sys2Proof.Machine.execParamRampEnd pid s
  | .foldStart n => Sys2Proof.Machine.execFoldStart n s
  | .foldEnd n => Sys2Proof.Machine.execFoldEnd n s
  | .commitDone n => Sys2Proof.Machine.execCommitDone n s
  | .directWrite pid x => Sys2Proof.Machine.execDirectWrite pid x s
  | .directWriteHeldAccept => Sys2Proof.Machine.execDirectWriteHeldAccept s
  | .cascPrepare n t novl ovla ovlb => Sys2Proof.Machine.execCascPrepare n t novl ovla ovlb s
  | .cascReport chip n code => Sys2Proof.Machine.execCascReport chip n code s
  | .cascDecision n => Sys2Proof.Machine.execCascDecision n s
  | .cascConfirm n => Sys2Proof.Machine.execCascConfirm n s
  | .cascAbort n => Sys2Proof.Machine.execCascAbort n s
  | .cascLocalAbort n => Sys2Proof.Machine.execCascLocalAbort n s
  | .cnvEnable u mode pre => Sys2Proof.Machine.execCnvEnable u mode pre s
  | .cnvInputEdge u interval settled rp => Sys2Proof.Machine.execCnvInputEdge u interval settled rp s
  | .cnvFadeEnd u => Sys2Proof.Machine.execCnvFadeEnd u s
  | .cnvchClr v => Sys2Proof.Machine.execCnvchClr v s
  | .mtrclrHold m all => Sys2Proof.Machine.execMtrclrHold m all s
  | .mtrclrClips m all => Sys2Proof.Machine.execMtrclrClips m all s
  | .cnvDisable u mode pre => Sys2Proof.Machine.execCnvDisable u mode pre s
  | .portEnable n arm => Sys2Proof.Machine.execPortEnable n arm s
  | .portDisable n arm => Sys2Proof.Machine.execPortDisable n arm s
  | .portArm n => Sys2Proof.Machine.execPortArm n s
  | .apStartGo => Sys2Proof.Machine.execApStartGo s
  | .syncArm => Sys2Proof.Machine.execSyncArm s
  | .startSyncEdge => Sys2Proof.Machine.execStartSyncEdge s
  | .apStartMessage ts => Sys2Proof.Machine.execApStartMessage ts s
  | .apStart => Sys2Proof.Machine.execApStart s
  | .portInputFrame n wave bits mistimed => Sys2Proof.Machine.execPortInputFrame n wave bits mistimed s
  | .apCodedReleased n l => Sys2Proof.Machine.execApCodedReleased n l s
  | .apClkStopped n => Sys2Proof.Machine.execApClkStopped n s
  | .apClkSwapCheck n bclk ws => Sys2Proof.Machine.execApClkSwapCheck n bclk ws s
  | .lanemaskWrite n v => Sys2Proof.Machine.execLanemaskWrite n v s
  | .vntRampEnd v => Sys2Proof.Machine.execVntRampEnd v s
  | .emergNLow => Sys2Proof.Machine.execEmergNLow s
  | .vntForce on => Sys2Proof.Machine.execVntForce on s
  | .emergCauseClear periods => Sys2Proof.Machine.execEmergCauseClear periods s
  | .vntReturnEnd => Sys2Proof.Machine.execVntReturnEnd s
  | .slotMuteClear o cause => Sys2Proof.Machine.execSlotMuteClear o cause s
  | .safeMuteNLow => Sys2Proof.Machine.execSafeMuteNLow s
  | .safePinClear frames => Sys2Proof.Machine.execSafePinClear frames s
  | .fumMuteReq on mgmt => Sys2Proof.Machine.execFumMuteReq on mgmt s
  | .stewardLockstepFault => Sys2Proof.Machine.execStewardLockstepFault s
  | .fumStall => Sys2Proof.Machine.execFumStall s
  | .fumSelfFault slot => Sys2Proof.Machine.execFumSelfFault slot s
  | .fumResumed => Sys2Proof.Machine.execFumResumed s
  | .fumSafeReset => Sys2Proof.Machine.execFumSafeReset s
  | .portWatch n => Sys2Proof.Machine.execPortWatch n s
  | .fumlockClose => Sys2Proof.Machine.execFumlockClose s
  | .fumrecAck => Sys2Proof.Machine.execFumrecAck s
  | .fumrecClr mgmt => Sys2Proof.Machine.execFumrecClr mgmt s
  | .fumcntClear => Sys2Proof.Machine.execFumcntClear s
  | .inselWrite insel refscale dev => Sys2Proof.Machine.execInselWrite insel refscale dev s
  | .coreNWrite reg v => Sys2Proof.Machine.execCoreNWrite reg v s
  | .relock => Sys2Proof.Machine.execRelock s
  | .rampGo => Sys2Proof.Machine.execRampGo s
  | .sscWrite v => Sys2Proof.Machine.execSscWrite v s
  | .loopinitGo => Sys2Proof.Machine.execLoopinitGo s
  | .hrefMeasureDone hz sdref => Sys2Proof.Machine.execHrefMeasureDone hz sdref s
  | .loopInputPresent => Sys2Proof.Machine.execLoopInputPresent s
  | .bandSearchDone band floorCode fits => Sys2Proof.Machine.execBandSearchDone band floorCode fits s
  | .acquireLock => Sys2Proof.Machine.execAcquireLock s
  | .coreLockFailed => Sys2Proof.Machine.execCoreLockFailed s
  | .coreRampDone => Sys2Proof.Machine.execCoreRampDone s
  | .corePhaseAligned => Sys2Proof.Machine.execCorePhaseAligned s
  | .coreInputLost dev => Sys2Proof.Machine.execCoreInputLost dev s
  | .coreInputReturn dev => Sys2Proof.Machine.execCoreInputReturn dev s
  | .holdExpired => Sys2Proof.Machine.execHoldExpired s
  | .coreCoast => Sys2Proof.Machine.execCoreCoast s
  | .coreOvershoot => Sys2Proof.Machine.execCoreOvershoot s
  | .auxclkCheck sdref pcie => Sys2Proof.Machine.execAuxclkCheck sdref pcie s
  | .dllLock d locked => Sys2Proof.Machine.execDllLock d locked s
  | .islandUngate isl => Sys2Proof.Machine.execIslandUngate isl s
  | .islandGate isl => Sys2Proof.Machine.execIslandGate isl s
  | .islandForce isl => Sys2Proof.Machine.execIslandForce isl s
  | .islandIdleClose => Sys2Proof.Machine.execIslandIdleClose s
  | .islandForcedClose => Sys2Proof.Machine.execIslandForcedClose s
  | .refEdgeMissing r dev bo => Sys2Proof.Machine.execRefEdgeMissing r dev bo s
  | .refIntervalEnd offs present pherr steer mean far dev bo => Sys2Proof.Machine.execRefIntervalEnd offs present pherr steer mean far dev bo s
  | .refSwitchDone bo => Sys2Proof.Machine.execRefSwitchDone bo s
  | .refWtrExpired r dev bo => Sys2Proof.Machine.execRefWtrExpired r dev bo s
  | .refHoldoffExpired r dev bo => Sys2Proof.Machine.execRefHoldoffExpired r dev bo s
  | .realign => Sys2Proof.Machine.execRealign s
  | .realignDone => Sys2Proof.Machine.execRealignDone s
  | .refsteerWrite v => Sys2Proof.Machine.execRefsteerWrite v s
  | .swSteerStale => Sys2Proof.Machine.execSwSteerStale s
  | .tcIncWrite d ns => Sys2Proof.Machine.execTcIncWrite d ns s
  | .tcNsRead d => Sys2Proof.Machine.execTcNsRead d s
  | .tcSet d bo => Sys2Proof.Machine.execTcSet d bo s
  | .tcAdj d bo => Sys2Proof.Machine.execTcAdj d bo s
  | .tcLatchGo => Sys2Proof.Machine.execTcLatchGo s
  | .netEnable n v => Sys2Proof.Machine.execNetEnable n v s
  | .netLinkUp n remote => Sys2Proof.Machine.execNetLinkUp n remote s
  | .netLinkDown n lock fec fault remote => Sys2Proof.Machine.execNetLinkDown n lock fec fault remote s
  | .netFrameRx n bytes fcs unc age => Sys2Proof.Machine.execNetFrameRx n bytes fcs unc age s
  | .netPauseEnd n => Sys2Proof.Machine.execNetPauseEnd n s
  | .netrxqTailWrite n v => Sys2Proof.Machine.execNetrxqTailWrite n v s
  | .nettxqHeadWrite n v => Sys2Proof.Machine.execNettxqHeadWrite n v s
  | .netTxRecord n later => Sys2Proof.Machine.execNetTxRecord n later s
  | .nettxtsPop n => Sys2Proof.Machine.execNettxtsPop n s
  | .netcntClear n k => Sys2Proof.Machine.execNetcntClear n k s
  | .streamEnable tx n v => Sys2Proof.Machine.execStreamEnable tx n v s
  | .streamDisable tx n => Sys2Proof.Machine.execStreamDisable tx n s
  | .stmRxStale r => Sys2Proof.Machine.execStmRxStale r s
  | .streamPresentEdge r => Sys2Proof.Machine.execStreamPresentEdge r s
  | .streamPacketSend n => Sys2Proof.Machine.execStreamPacketSend n s
  | .sttxDropsClear t => Sys2Proof.Machine.execSttxDropsClear t s
  | .strxcntClear r k => Sys2Proof.Machine.execStrxcntClear r k s
  | .linkEnable n v => Sys2Proof.Machine.execLinkEnable n v s
  | .linkTrain n => Sys2Proof.Machine.execLinkTrain n s
  | .linkUp n peer rtt swap pol0 pol1 => Sys2Proof.Machine.execLinkUp n peer rtt swap pol0 pol1 s
  | .linkDown n lost => Sys2Proof.Machine.execLinkDown n lost s
  | .linkFrameRx n head phase crc words pair => Sys2Proof.Machine.execLinkFrameRx n head phase crc words pair s
  | .controlMessageRx n origin seq msg phase => Sys2Proof.Machine.execControlMessageRx n origin seq msg phase s
  | .cascChipLost chip => Sys2Proof.Machine.execCascChipLost chip s
  | .clusterSelftest cl result => Sys2Proof.Machine.execClusterSelftest cl result s
  | .spareReverted cl => Sys2Proof.Machine.execSpareReverted cl s
  | .patrolcntClear cl => Sys2Proof.Machine.execPatrolcntClear cl s
  | .lnkcntClear n => Sys2Proof.Machine.execLnkcntClear n s
  | .pairYield => Sys2Proof.Machine.execPairYield s
  | .actInFall => Sys2Proof.Machine.execActInFall s
  | .pairAssertAct => Sys2Proof.Machine.execPairAssertAct s
  | .pairReverted => Sys2Proof.Machine.execPairReverted s
  | .fabricRead m id addr beats due parity => Sys2Proof.Machine.execFabricRead m id addr beats due parity s
  | .fabricWrite m id addr words full due parity => Sys2Proof.Machine.execFabricWrite m id addr words full due parity s
  | .arbiterGrant port stall => Sys2Proof.Machine.execArbiterGrant port stall s
  | .backoffExpired m id wait => Sys2Proof.Machine.execBackoffExpired m id wait s
  | .fabqosWrite m budget => Sys2Proof.Machine.execFabqosWrite m budget s
  | .lockTimeout m4 => Sys2Proof.Machine.execLockTimeout m4 s
  | .masterResetHandshake m => Sys2Proof.Machine.execMasterResetHandshake m s
  | .handshakeTimeout m => Sys2Proof.Machine.execHandshakeTimeout m s
  | .fabTimeout wait => Sys2Proof.Machine.execFabTimeout wait s
  | .fabDeadlock wait => Sys2Proof.Machine.execFabDeadlock wait s
  | .remapWrite m v => Sys2Proof.Machine.execRemapWrite m v s
  | .fabRemapDone => Sys2Proof.Machine.execFabRemapDone s
  | .fabcntClear => Sys2Proof.Machine.execFabcntClear s
  | .por => Sys2Proof.Machine.execPor s
  | .resetNLow => Sys2Proof.Machine.execResetNLow s
  | .chipResetRelease mode cascade gpio => Sys2Proof.Machine.execChipResetRelease mode cascade gpio s
  | .cellResetReq m target => Sys2Proof.Machine.execCellResetReq m target s
  | .clusterResetReq m target => Sys2Proof.Machine.execClusterResetReq m target s
  | .regionResetReq m target => Sys2Proof.Machine.execRegionResetReq m target s
  | .engineResetReq m => Sys2Proof.Machine.execEngineResetReq m s
  | .warmChipResetReq m => Sys2Proof.Machine.execWarmChipResetReq m s
  | .chipResetReq m => Sys2Proof.Machine.execChipResetReq m s
  | .mgmtResetReq m => Sys2Proof.Machine.execMgmtResetReq m s
  | .resetIdleTimeout => Sys2Proof.Machine.execResetIdleTimeout s
  | .resetRelease => Sys2Proof.Machine.execResetRelease s
  | .pwrReqRun => Sys2Proof.Machine.execPwrReqRun s
  | .pwrReqQuiesce => Sys2Proof.Machine.execPwrReqQuiesce s
  | .pwrReqHold => Sys2Proof.Machine.execPwrReqHold s
  | .holdEntered => Sys2Proof.Machine.execHoldEntered s
  | .holdExitDone => Sys2Proof.Machine.execHoldExitDone s
  | .pwrrateWrite family mult => Sys2Proof.Machine.execPwrrateWrite family mult s
  | .supplyWarn rail => Sys2Proof.Machine.execSupplyWarn rail s
  | .supplyDip rail => Sys2Proof.Machine.execSupplyDip rail s
  | .supplyResetThreshold rail above => Sys2Proof.Machine.execSupplyResetThreshold rail above s
  | .supplyChipReset => Sys2Proof.Machine.execSupplyChipReset s
  | .tempConversion k t => Sys2Proof.Machine.execTempConversion k t s
  | .tempSensorTimeout k => Sys2Proof.Machine.execTempSensorTimeout k s
  | .tempmaxWrite => Sys2Proof.Machine.execTempmaxWrite s
  | .bootStart => Sys2Proof.Machine.execBootStart s
  | .bootdoorGo m => Sys2Proof.Machine.execBootdoorGo m s
  | .bootCheck flash => Sys2Proof.Machine.execBootCheck flash s
  | .bootSectionLoad bad1 bad2 => Sys2Proof.Machine.execBootSectionLoad bad1 bad2 s
  | .bootRegsWrite => Sys2Proof.Machine.execBootRegsWrite s
  | .bootHandoff => Sys2Proof.Machine.execBootHandoff s
  | .evtenWrite w v => Sys2Proof.Machine.execEvtenWrite w v s
  | .evtrouteWrite e v => Sys2Proof.Machine.execEvtrouteWrite e v s
  | .evtstatClear w v => Sys2Proof.Machine.execEvtstatClear w v s
  | .evtswset v => Sys2Proof.Machine.execEvtswset v s
  | .msixSend x => Sys2Proof.Machine.execMsixSend x s
  | .msixUnmask x => Sys2Proof.Machine.execMsixUnmask x s
  | .pcieMemRead bar o n => Sys2Proof.Machine.execPcieMemRead bar o n s
  | .pcieMemWrite bar o words full => Sys2Proof.Machine.execPcieMemWrite bar o words full s
  | .hostLinkUp speed width bme msix fmask => Sys2Proof.Machine.execHostLinkUp speed width bme msix fmask s
  | .hostLinkDown => Sys2Proof.Machine.execHostLinkDown s
  | .hostFlr => Sys2Proof.Machine.execHostFlr s
  | .mgmtLocalRead a cnt good => Sys2Proof.Machine.execMgmtLocalRead a cnt good s
  | .mgmtLocalWrite a words good => Sys2Proof.Machine.execMgmtLocalWrite a words good s
  | .mgmtFabricRead a cnt good stop => Sys2Proof.Machine.execMgmtFabricRead a cnt good stop s
  | .mgmtFabricWrite a words good stop => Sys2Proof.Machine.execMgmtFabricWrite a words good stop s
  | .evtsnapTake => Sys2Proof.Machine.execEvtsnapTake s
  | .fuseProg => Sys2Proof.Machine.execFuseProg s
  | .fuseProgDone ok => Sys2Proof.Machine.execFuseProgDone ok s
  | .extest => Sys2Proof.Machine.execExtest s
  | .samplePreload bsr => Sys2Proof.Machine.execSamplePreload bsr s
  | .idcode => Sys2Proof.Machine.execIdcode s
  | .clamp => Sys2Proof.Machine.execClamp s
  | .highz => Sys2Proof.Machine.execHighz s
  | .bypass code => Sys2Proof.Machine.execBypass code s
  | .tapReset => Sys2Proof.Machine.execTapReset s
  | .dapRead a cnt => Sys2Proof.Machine.execDapRead a cnt s
  | .dapWrite a cnt => Sys2Proof.Machine.execDapWrite a cnt s
  | .dapLockedRead a cnt => Sys2Proof.Machine.execDapLockedRead a cnt s
  | .dapClosingWrite a cnt => Sys2Proof.Machine.execDapClosingWrite a cnt s
  | .dapdataCapture push => Sys2Proof.Machine.execDapdataCapture push s
  | .dbgOpen m => Sys2Proof.Machine.execDbgOpen m s
  | .dbgClose m => Sys2Proof.Machine.execDbgClose m s
  | .stwHalt m => Sys2Proof.Machine.execStwHalt m s
  | .stwResume m => Sys2Proof.Machine.execStwResume m s
  | .stwStep m => Sys2Proof.Machine.execStwStep m s
  | .pinShortDetect pin => Sys2Proof.Machine.execPinShortDetect pin s
  | .pinShortRetry pin retry => Sys2Proof.Machine.execPinShortRetry pin retry s
  | .faultnStuck => Sys2Proof.Machine.execFaultnStuck s
  | .pinProbe pin follows => Sys2Proof.Machine.execPinProbe pin follows s
  | .netRxPolarityInvert n => Sys2Proof.Machine.execNetRxPolarityInvert n s
  | .refLegMissing r => Sys2Proof.Machine.execRefLegMissing r s
  | .gpioWrite out v => Sys2Proof.Machine.execGpioWrite out v s
  | .ppsOutPulse edge => Sys2Proof.Machine.execPpsOutPulse edge s
  | .registerWrite m a v => Sys2Proof.Machine.execRegisterWrite m a v s

end Sys2Proof.Machine
end

