-- ==== Sys2Proof/Machine/Package.lean ====
section
/-! DEFINITION. The package (17_pins_package R594 to R599): the names of the balls, the signal or supply at each, and the place of
the port balls.  A ball is (i, c): its row index and its column, each from 1 to 46. -/

namespace Sys2Proof.Machine

/-- The letters of a row (R594). -/
def rowLetter : List String :=
  ["A", "B", "C", "D", "E", "F", "G", "H", "J", "K", "L", "M", "N", "P", "T", "U", "V", "W", "Y"]

/-- The name of row `i` (R594). -/
def rowName (i : Nat) : String :=
  (if i ≤ 19 then "" else if i ≤ 38 then "A" else "B") ++ rowLetter.getD ((i - 1) % 19) ""

/-- The name of a ball (R594). -/
def ballName (i c : Nat) : String := rowName i ++ toString c

/-- What a ball is: a port signal, a single ball of rows D and E or of the corners, a leg of a serial lane (`unit` NET, PCIE or CL),
a ball of an LPDDR5 interface, a supply, or VSS. -/
inductive BallUse where
  | bclk (n : Nat)
  | ws (n : Nat)
  | di (n d : Nat)
  | dout (n d : Nat)
  | single (name : String)
  | lane (unit : String) (rx : Bool) (n l : Nat) (negative : Bool)
  | ddr (d : Nat) (name : String)
  | supply (name : String)
  | vss
  deriving DecidableEq, Repr

/-- The signal at depth `p` and position `q` of the block of port `n` (R595). -/
def portSignal (n p q : Nat) : BallUse :=
  if p = 0 then (if q = 0 then .bclk n else if q = 5 then .ws n else .di n (q - 1))
  else if p = 1 then (if q < 4 then .di n (q + 4) else .dout n (q - 4))
  else .dout n (q + 2)

/-- The ball at depth `p` and position `q` of the block of port `n` (R595). -/
def portPlace (n p q : Nat) : Nat × Nat :=
  if n < 4 then (1 + p, 12 + 6 * n + q)
  else if n < 8 then (46 - p, 12 + 6 * (n - 4) + q)
  else if n < 12 then (12 + 6 * (n - 8) + q, 1 + p)
  else (12 + 6 * (n - 12) + q, 46 - p)

/-- Row D from column 12 and row E from column 12 (R596). -/
def rowD : List String :=
  ["HREF_P", "HREF_N", "WCK0", "WCK1", "START_SYNC", "PERIOD_OUT", "PPS_OUT", "RESET_N", "SAFE_MUTE_N", "EMERG_N", "FAULT_N"] ++
  ["EVT_OUT0", "EVT_OUT1", "EVT_OUT2", "EVT_OUT3", "BOOT_MODE0", "BOOT_MODE1", "BOOT_MODE2", "CASCADE_ID0", "CASCADE_ID1",
   "CASCADE_ID2", "GPIO0", "GPIO1", "GPIO2"]
def rowE : List String :=
  ["GPIO3", "GPIO4", "GPIO5", "GPIO6", "GPIO7", "FL_SCK", "FL_CS_N", "FL_DO", "FL_DI", "MSCK", "MCS_N", "MDI", "MDO"] ++
  ["TCK", "TMS", "TDI", "TDO", "TRST_N", "TEST0", "TEST1", "TEST2", "TEST3"]

/-- A lane leg at offset `x` of the four pairs of a corner row, if one lies there (R597). -/
def laneAt (x : Nat) (f : Nat → Bool → BallUse) : BallUse := if x % 3 < 2 then f (x / 3) (x % 3 == 1) else .vss

/-- The corner of NET and PCIe (R597). -/
def leftCorner (i c : Nat) : BallUse :=
  match i with
  | 2 => laneAt (c - 1) (fun j => .lane "NET" false j 0)
  | 4 => laneAt (c - 1) (fun j => .lane "NET" true j 0)
  | 7 => laneAt (c - 1) (fun j => .lane "PCIE" false 0 j)
  | 9 => laneAt (c - 1) (fun j => .lane "PCIE" true 0 j)
  | 11 => if c = 1 then .single "PCIE_REFCLK_P" else if c = 2 then .single "PCIE_REFCLK_N"
    else if c = 5 then .single "SD_RCAL0" else .vss
  | _ => .vss

/-- The corner of the cascade links (R597). -/
def rightCorner (i c : Nat) : BallUse :=
  match i with
  | 2 => laneAt (c - 36) (fun j => .lane "CL" false (j / 2) (j % 2))
  | 4 => laneAt (c - 36) (fun j => .lane "CL" true (j / 2) (j % 2))
  | 7 => laneAt (c - 36) (fun j => .lane "CL" false (2 + j / 2) (j % 2))
  | 9 => laneAt (c - 36) (fun j => .lane "CL" true (2 + j / 2) (j % 2))
  | 11 => if c = 42 then .single "SD_RCAL1" else if c = 45 then .single "SDREF_P"
    else if c = 46 then .single "SDREF_N" else .vss
  | _ => .vss

/-- A row of a DDR channel's block, by its offset `a` (R598). -/
def ddrRow (a : Nat) : List String :=
  match a with
  | 0 => ["DQ0", "DQ1", "DQ2", "DQ3", "DMI0", "RDQS0_T", "RDQS0_C", ""]
  | 1 => ["DQ4", "DQ5", "DQ6", "DQ7", "WCK0_T", "WCK0_C", "", "CK_T"]
  | 2 => ["DQ8", "DQ9", "DQ10", "DQ11", "DMI1", "RDQS1_T", "RDQS1_C", "CK_C"]
  | 3 => ["DQ12", "DQ13", "DQ14", "DQ15", "WCK1_T", "WCK1_C", "", "CS0"]
  | _ => ["CA0", "CA1", "CA2", "CA3", "CA4", "CA5", "CA6", "CS1"]

/-- A ball of the block of interface `d` at row `i` and offset `b` of its eight columns (R598). -/
def ddrBall (d i b : Nat) : BallUse :=
  if i = 41 then (if b = 0 then .ddr d "RESET_N" else if b = 2 then .ddr d "ZQ" else .vss)
  else
    let ch := if 42 ≤ i then 0 else 1
    let name := (ddrRow (i - (if ch = 0 then 42 else 36))).getD b ""
    if name = "" then .vss else .ddr d ("CH" ++ toString ch ++ "_" ++ name)

/-- The supply of a ball that carries no signal (R599); none for VSS. -/
def supplyAt (i c : Nat) : Option String :=
  let odd := (i + c) % 2 = 1
  let mid := 12 ≤ i ∧ i ≤ 35
  let inner := 12 ≤ c ∧ c ≤ 35
  if [(24, 23), (24, 25), (25, 22), (25, 24), (26, 23), (26, 25), (27, 22), (27, 24)].contains (i, c) then some "VDD_SAFE"
  else if [(6, 13), (6, 15), (6, 17), (7, 12), (7, 14), (7, 16)].contains (i, c) then some "VDD_PLL"
  else if [(5, 34), (5, 35), (6, 33), (6, 35)].contains (i, c) then some "VDD_MGMT"
  else if i = 5 ∧ (c ≤ 11 ∨ 36 ≤ c) then some "VDD_SD"
  else if i = 10 ∧ (c ≤ 11 ∨ 36 ≤ c) then some "VDDA_SD"
  else if 36 ≤ i ∧ (c = 9 ∨ c = 38) then some "VDDQ_LP"
  else if 36 ≤ i ∧ (c = 11 ∨ c = 36) then some "VDD2_LP"
  else if !odd then none
  else if inner ∧ (mid ∨ (8 ≤ i ∧ i ≤ 11) ∨ (36 ≤ i ∧ i ≤ 41)) then some "VDD_CORE"
  else if mid ∧ ((8 ≤ c ∧ c ≤ 11) ∨ (36 ≤ c ∧ c ≤ 39)) then some "VDD_SRAM"
  else if (mid ∧ ((4 ≤ c ∧ c ≤ 7) ∨ (40 ≤ c ∧ c ≤ 43))) ∨ (inner ∧ (i = 6 ∨ i = 7 ∨ i = 42 ∨ i = 43)) then some "VDD_IO"
  else none

/-- A ball without a signal. -/
def powerBall (i c : Nat) : BallUse := match supplyAt i c with | some v => .supply v | none => .vss

/-- What a corner ball is, a supply row among them. -/
def cornerBall (u : BallUse) (i c : Nat) : BallUse := if u = .vss then powerBall i c else u

/-- What ball (i, c) is (R595 to R599). -/
def ballUse (i c : Nat) : BallUse :=
  let alongC := 12 ≤ c ∧ c ≤ 35
  let alongI := 12 ≤ i ∧ i ≤ 35
  if i ≤ 3 ∧ alongC then portSignal ((c - 12) / 6) (i - 1) ((c - 12) % 6)
  else if 44 ≤ i ∧ alongC then portSignal (4 + (c - 12) / 6) (46 - i) ((c - 12) % 6)
  else if c ≤ 3 ∧ alongI then portSignal (8 + (i - 12) / 6) (c - 1) ((i - 12) % 6)
  else if 44 ≤ c ∧ alongI then portSignal (12 + (i - 12) / 6) (46 - c) ((i - 12) % 6)
  else if i = 4 ∧ alongC then .single (rowD.getD (c - 12) "")
  else if i = 5 ∧ 12 ≤ c ∧ c ≤ 33 then .single (rowE.getD (c - 12) "")
  else if i ≤ 11 ∧ c ≤ 11 then cornerBall (leftCorner i c) i c
  else if i ≤ 11 ∧ 36 ≤ c then cornerBall (rightCorner i c) i c
  else if 36 ≤ i ∧ c ≤ 8 then ddrBall 0 i (c - 1)
  else if 36 ≤ i ∧ 39 ≤ c then ddrBall 1 i (c - 39)
  else powerBall i c

/-- The ball of an output pin number of a port: BCLK, WS, DO0 to DO7 (R595). -/
def portPinBall (pin : Nat) : Nat × Nat :=
  let k := pin % 10
  if k = 0 then portPlace (pin / 10) 0 0
  else if k = 1 then portPlace (pin / 10) 0 5
  else if k < 4 then portPlace (pin / 10) 1 (k + 2)
  else portPlace (pin / 10) 2 (k - 4)

/-- How many balls satisfy a test. -/
def ballCount (p : BallUse → Bool) : Nat :=
  ((List.range 46).map (fun i => ((List.range 46).filter (fun c => p (ballUse (i + 1) (c + 1)))).length)).foldl (· + ·) 0

end Sys2Proof.Machine
end

