-- ==== Sys2Proof/Safety.lean ====
section
/-! DEFINITION. What a state may not lose: the invariant every step keeps, and what it is for two states to differ only in
named registers. -/

namespace Sys2Proof.Machine

open Sys2Proof

/-- At most 8 return addresses and 3 active loops (R102, R104). -/
def Core.shallow (c : Core) : Prop := c.stack.length ≤ 8 ∧ c.loops.length ≤ 3

/-- A time domain holds a time and an increment its fields can hold (R492, R493): nanoseconds below one second, 48 bits of
seconds, 32 bits of fraction, and at least 1 ns a PCLK edge. -/
def Domain.legal (x : Domain) : Prop :=
  x.sec < 2 ^ 48 ∧ x.ns < 1000000000 ∧ x.frac < 2 ^ 32 ∧ 1 ≤ x.incNs ∧ x.incNs < 2 ^ 8 ∧ x.incFrac < 2 ^ 32

/-- The invariant: registers and memories are in canonical form, no call stack or loop nest is deeper than the hardware's,
both time domains hold a legal time, and Fumarole's whole-chip weight and the Vent's fade lie on their ramps (R325, R425). -/
structure State.Inv (s : State) : Prop where
  regs  : s.regs.wf 0 = true
  sram  : s.mem.sram.wf Sinter.zero = true
  dram  : s.mem.dram.wf none = true
  cells : ∀ e ∈ s.cells, e.2.core.shallow
  stw   : s.stw.core.shallow
  timeA : s.refs.a.legal
  timeB : s.refs.b.legal
  fum   : s.fum.ang ≤ 144
  vent  : s.vent.ang ≤ 128

/-- The state satisfies the invariant, `q` is what waits in its queue, and its frame count satisfies `fr`. -/
def State.Held (q : List Instr) (fr : Nat → Prop) (s : State) : Prop := s.pending = q ∧ fr s.frame ∧ s.Inv

/-- `t` is `s` but for the counter of free values and the register fields `fs`. -/
def OnlyRegs (fs : List Fld) (s t : State) : Prop :=
  t = { s with free := t.free, regs := t.regs } ∧ ∀ k, k ∉ fs.map Fld.key → t.regs.look 0 k = s.regs.look 0 k

/-- `t` is `s` but for the counter of free values, the register fields `fs`, and the events `es`, whose status is now set
(R566); what the MSI-X vectors see of them may have changed too. -/
def Raises (es : List Nat) (fs : List Fld) (s t : State) : Prop :=
  t = { s with free := t.free, regs := t.regs, evt := t.evt } ∧
  (∀ k, k ∉ fs.map Fld.key → k ∉ es.map (fun n => (Reg.EVTSTAT_STAT (n / 32)).key) → t.regs.look 0 k = s.regs.look 0 k) ∧
  ∀ n, n < 256 → t.evtStat n = (s.evtStat n || es.contains n)

/-- A result for Gd on its way, readable `lat` bundles later (R97); a write to G0 is discarded (R92). -/
def Core.resultG (c : Core) (lat gd : Nat) (x : Sinter) : List InFlight :=
  if gd = 0 then [] else [⟨c.count + lat, c.count, .g gd, .w x⟩]

/-- A result for An on its way: after 1 bundle for the next `mac` and `msu`, after 3 for every other reader (R97). -/
def Core.resultA (c : Core) (n : Nat) (x : Acc) : List InFlight :=
  [⟨c.count + 1, c.count, .am n, .acc x⟩, ⟨c.count + 3, c.count, .a n, .acc x⟩]

/-- The new value of pointer Pn on its way (R97, R101). -/
def Core.resultP (c : Core) (n : Nat) (m : Modifier) : List InFlight :=
  [⟨c.count + 1, c.count, .c n, .h (c.newPtr n m)⟩]

/-- The state after an instruction of `u` that changes nothing but ST, which becomes `st`, and what is in flight, to which it
adds `fs`. -/
def State.after (s : State) (u : Exe) (st : BitVec 32) (fs : List InFlight) : State :=
  { s.setCore u { s.core u with st := st, fly := (s.core u).fly ++ fs } with free := s.free + 1 }

/-- ST with the flags of the 32-bit result `x`, and SAT set where it has saturated (R110, R148). -/
def stOfResult (st x : BitVec 32) (v c sat : Bool) : BitVec 32 :=
  if sat then stSet (stFlags st (Flags.ofResult x v c)) stSat else stFlags st (Flags.ofResult x v c)

/-- The instruction `i` of `u` delivers to Gd the exact result `z` in 32 bits, with carry `cy` (R110): kept where it fits, else
saturated where `sat` says so and wrapped where not; and a word that passes its check where `ok` says that the operands do (R112). -/
def State.delivers (s : State) (u : Exe) (i : Instr) (gd : Nat) (z : Int) (cy sat ok : Bool) : Prop :=
  ∃ x : Sinter, x.isPoison = false ∧ (ok = true → x.ok = true) ∧
    x.data = (if min32 ≤ z ∧ z ≤ max32 ∨ sat = false then BitVec.ofInt 32 z else if 0 < z then 0x7FFFFFFF else 0x80000000) ∧
    exec i s = .next (s.after u (stOfResult (s.core u).st x.data (!decide (min32 ≤ z ∧ z ≤ max32)) cy
      (!decide (min32 ≤ z ∧ z ≤ max32) && sat)) ((s.core u).resultG 1 gd x))

/-- `t` is `s` but for the on-chip word kept at `k`, which is now `x`, and the scrubber's mark of it. -/
def Stores (k : Nat) (x : Sinter) (s t : State) : Prop :=
  t = { s with mem := { s.mem with sram := t.mem.sram, scrub := t.mem.scrub } } ∧ ∀ j, t.ram j = if j = k then x else s.ram j

/-- `t` is `s` but for the core of `u`, which is now `c`, the cycles of a cell's task, `n` more, and the counter of free values. -/
def Continues (u : Exe) (c : Core) (n : Nat) (s t : State) : Prop :=
  match u with
  | .steward => t = { s with free := t.free, stw := { s.stw with core := c } }
  | .cell p => ∃ e, s.eff p = some e ∧ t = { s with free := t.free, cells := t.cells } ∧
      t.cell e = { s.cell e with core := c, taskCyc := (s.cell e).taskCyc + n, winCyc := (s.cell e).winCyc + n } ∧
      ∀ j, j ≠ e → t.cell j = s.cell j

/-- The parts of the state beside the register fields. -/
inductive Part where
  | pending | frame | staged | mem | eng | cells | stw | evt | cal | gys | fum | vent | lnk | cnv
  | mtr | ports | clk | refs | net | fab | pwr | boot | pcie | mgmt | tap | fuses | pins
  deriving DecidableEq, Repr

/-- Two states agree in a part. -/
def Part.same (s t : State) : Part → Prop
  | .pending => t.pending = s.pending
  | .frame => t.frame = s.frame
  | .staged => t.staged = s.staged
  | .mem => t.mem = s.mem
  | .eng => t.eng = s.eng
  | .cells => t.cells = s.cells
  | .stw => t.stw = s.stw
  | .evt => t.evt = s.evt
  | .cal => t.cal = s.cal
  | .gys => t.gys = s.gys
  | .fum => t.fum = s.fum
  | .vent => t.vent = s.vent
  | .lnk => t.lnk = s.lnk
  | .cnv => t.cnv = s.cnv
  | .mtr => t.mtr = s.mtr
  | .ports => t.ports = s.ports
  | .clk => t.clk = s.clk
  | .refs => t.refs = s.refs
  | .net => t.net = s.net
  | .fab => t.fab = s.fab
  | .pwr => t.pwr = s.pwr
  | .boot => t.boot = s.boot
  | .pcie => t.pcie = s.pcie
  | .mgmt => t.mgmt = s.mgmt
  | .tap => t.tap = s.tap
  | .fuses => t.fuses = s.fuses
  | .pins => t.pins = s.pins

/-- `t` is `s` but for the counter of free values, the parts `ps`, the register fields `fs`, and the status of the events `es`. -/
def Only (ps : List Part) (es : List Nat) (fs : List Fld) (s t : State) : Prop :=
  (∀ p, p ∉ ps → (p = .evt → es = []) → p.same s t) ∧
  (∀ k, k ∉ fs.map Fld.key → k ∉ es.map (fun n => (Reg.EVTSTAT_STAT (n / 32)).key) → t.regs.look 0 k = s.regs.look 0 k) ∧
  ∀ n, n < 256 → n ∉ es → (Reg.EVTSTAT_STAT (n / 32)).key ∉ fs.map Fld.key → t.evtStat n = s.evtStat n

/-- The fields of Fumarole's record and what follows from them (R433, R439). -/
def recFlds : List Fld := [Reg.FUMRECSTAT_COUNT, Reg.FUMRECSTAT_NEXT, Reg.FUMRECSTAT_WRAPPED, Reg.FUMRECSTAT_UNACK, Reg.FUMSTAT_FAULTN] ++
  (List.range 64).flatMap (fun i => [Reg.FUMREC_WORD0 i, Reg.FUMREC_WORD1 i, Reg.FUMREC_WORD2 i, Reg.FUMREC_WORD3 i])

/-- The fields that the start and the end of a cause of whole-chip mute can change (R424 to R428). -/
def muteFlds : List Fld := [Reg.FUMSTAT_CAUSE, Reg.FUMSTAT_MUTE_ALL, Reg.FUMSTAT_FALLBACK, Reg.PAIRSTAT_ACTIVE, Reg.VNTSTAT_CAUSE_FUM,
  Reg.VNTSTAT_TAKEOVER, Reg.VNTSTAT_RETURNING] ++ recFlds

/-- From `s` to `t` the cause `c` of whole-chip mute arises (R424): MUTE_ALL and FAULT_N stand, and with the first cause a chip of a
pair drops ACT_OUT and E200 is raised. -/
def Mutes (c : Nat) (s t : State) : Prop :=
  (∀ i, i < 10 → t.fumHas i = (s.fumHas i || i == c)) ∧ t.bit Reg.FUMSTAT_MUTE_ALL = true ∧ t.bit Reg.FUMSTAT_FAULTN = true ∧
  (s.bit Reg.FUMSTAT_MUTE_ALL = false → (s.pairMode = true → t.bit Reg.PAIRSTAT_ACTIVE = false) ∧
    (s.evt.inReset = false → t.evtStat 200 = true))

/-- From `s` to `t` the cause `c` of whole-chip mute clears (R424, R425): with the last one MUTE_ALL and the fallback end and E201 is
raised. -/
def Unmutes (c : Nat) (s t : State) : Prop :=
  (∀ i, i < 10 → t.fumHas i = (s.fumHas i && i != c)) ∧
  (s.get Reg.FUMSTAT_CAUSE = 2 ^ c → t.bit Reg.FUMSTAT_MUTE_ALL = false ∧ t.bit Reg.FUMSTAT_FALLBACK = false ∧
    (s.evt.inReset = false → t.evtStat 201 = true)) ∧
  ((∃ i, i < 10 ∧ i ≠ c ∧ s.fumHas i = true) → t.bit Reg.FUMSTAT_MUTE_ALL = s.bit Reg.FUMSTAT_MUTE_ALL)

/-- From `s` to `t` the cause `f` of the Vent's takeover arises (R324): E81 only with the first of them. -/
def TakesOver (f : Fld) (s t : State) : Prop :=
  t.bit f = true ∧ t.bit Reg.VNTSTAT_TAKEOVER = true ∧
  (s.bit Reg.VNTSTAT_TAKEOVER = false → t.bit Reg.VNTSTAT_RETURNING = false ∧ t.vent.fade = 0 ∧
    (s.evt.inReset = false → t.evtStat 81 = true)) ∧
  (s.bit Reg.VNTSTAT_TAKEOVER = true → t.vent = s.vent ∧ t.evt = s.evt)

/-- The port start at Ts is set (R304, R305): kept where it lies at least 2 frames ahead, else moved, with LATE and E65, to the first
boundary that does. -/
def StartsAt (ts : Nat) (s t : State) : Prop :=
  t.bit Reg.APSTARTSTAT_PENDING = true ∧
  (s.frame + 2 ≤ ts → t.apTs = ts ∧ t.evt = s.evt ∧ t.bit Reg.APSTARTSTAT_LATE = s.bit Reg.APSTARTSTAT_LATE) ∧
  (ts < s.frame + 2 → s.frame + 2 ≤ t.apTs ∧ t.apTs < s.frame + 18 ∧ t.apTs % 16 = 0 ∧ t.bit Reg.APSTARTSTAT_LATE = true ∧
    (s.evt.inReset = false → t.evtStat 65 = true))

/-- The RWL fields (R14): what the safety lock guards beside the guard PIDs (R437, R438). -/
def rwlFlds : List Fld := [Reg.SCRUBCTL_EN, Reg.VNTCFG_EMERG_EN, Reg.VNTCFG_TAKEOVER_ALL, Reg.VNTCFG_HOLD, Reg.VNTCTL_FORCE,
  Reg.FUMCFG_LOCKSTEP_ACT, Reg.FUMCFG_FABRIC_ACT, Reg.FUMCFG_GEYSER_ACT, Reg.FUMCFG_STALL_ACT, Reg.FUMCFG_PRI_PASS,
  Reg.FUMCFG_REC_SEV, Reg.FUMCFG_FAULTN_SEV, Reg.FUMCFG_FILL_MAX, Reg.FUMCFG2_LIM_REL, Reg.FUMCFG2_PRECAUT, Reg.FUMCFG2_MUTE_HOLD,
  Reg.FABWD_LIMIT, Reg.PWRCFG_THERM_RESUME, Reg.PINCFG_PROBE_DATA, Reg.PINCFG_PROBE_CTRL, Reg.PINCFG_SHORT_EN] ++
  (List.range 16).map Reg.CODEDCFG_DET_EN

/-- The events of the start of a cause of whole-chip mute (R424, R426). -/
def muteEvts : List Nat := [200, 202, 81, 82]

/-- The fields and the events that a change of the core loop's state can touch (R448, R456, R497). -/
def loopFlds : List Fld := [Reg.CORESTAT_STATE, Reg.MGSTAT_FCLK_OK, Reg.MGSTAT_CORE_LOCKED, Reg.BOOTSTAT_STAGE, Reg.TCLATCHCTL_DISTURBED,
  Reg.CORESTAT_SSC_ON, Reg.CORESTAT_SSC_NOREF, Reg.CLKFAULT_KIND] ++ muteFlds
def loopEvts : List Nat := [0, 13, 15] ++ muteEvts

/-- A clock command is refused with `kind` (R464 and others): CLKFAULT and E15, and nothing else. -/
def ClockRefuses (kind : Nat) (s t : State) : Prop :=
  t.get Reg.CLKFAULT_KIND = kind ∧ Only [] [15] [Reg.CLKFAULT_KIND] s t ∧ (s.evt.inReset = false → t.evtStat 15 = true)

/-- The core loop goes to the state `st` outside LOCKED and HOLD: with the cause CLOCK of whole-chip mute (R448). -/
def LoopGoes (st : Nat) (es : List Nat) (fs : List Fld) (s t : State) : Prop :=
  t.loop = st ∧ t.fumHas 2 = true ∧ t.bit Reg.MGSTAT_CORE_LOCKED = false ∧ t.bit Reg.TCLATCHCTL_DISTURBED = true ∧
  (s.evt.inReset = false → ∀ e ∈ es, t.evtStat e = true) ∧ Only [.clk, .fum, .vent] (es ++ loopEvts) (fs ++ loopFlds) s t

/-- The fields and the events that the consequences of a change of a reference can touch (R474 to R486, R498). -/
def refFlds : List Fld := [Reg.REFCTL_FORCE_EN, Reg.REFCTL_FORCE_REF, Reg.REFSTAT_SWITCHING, Reg.REFSTAT_SEL, Reg.REFSTAT_HOLDOVER, Reg.REFSTAT_REALIGNING, Reg.REFSTAT_FALLBACK,
  Reg.REFSTAT_BUILTOUT, Reg.REFBO_BO, Reg.REFSTEER_STEER, Reg.CORECFG_INSEL, Reg.CORESTAT_INPUT_NOW, Reg.CORESTAT_INPUT_LOST,
  Reg.CORESTAT_COAST] ++ loopFlds
def refEvts : List Nat := [2, 3, 19, 20, 21, 22, 23] ++ loopEvts

end Sys2Proof.Machine
end

