-- ==== Sys2Proof/Certificates/Slice0/Obligations.lean ====
section
/-! DEFINITION. The statements for the provers, one definition each: what every family of commands does and what it leaves as it is, the
conditions under which each command completes, and what every step keeps.  `Only`, `OnlyRegs` and `Raises` of Safety.lean say what a
command leaves unchanged. -/

open Sys2Proof Sys2Proof.Machine

/-- The queue is first in, first out: a step runs the command at its front on the state with the rest of it; with none waiting, a PCLK
edge passes (the model's choice, log 20). -/
def Obligations.StepRunsTheFront : Prop :=
  (∀ (c : Instr) (q : List Instr) (s : State), step { s with pending := c :: q } = exec c { s with pending := q }) ∧
  ∀ s : State, s.pending = [] → step s = .next s.tick

/-- Every command answers a next state, from every state: none is refused and none ends in a fault. -/
def Obligations.EveryCommandCompletes : Prop := ∀ (c : Instr) (s : State), ∃ t, exec c s = .next t

/-- R102, R104, R325, R425, R492, R493: the invariant is kept by every step, from every state that has it: registers and memories stay in
canonical form, no call stack holds more than 8 addresses and no core more than 3 loops, both time domains hold a legal time, and the
weights of Fumarole and the Vent stay on their ramps; and the step takes one command from the queue and adds none. -/
def Obligations.StepsKeepTheInvariant : Prop :=
  ∀ s t : State, s.Inv → step s = .next t → t.Inv ∧ t.pending = s.pending.tail

/-- The state after reset satisfies the invariant, and its queue is empty. -/
def Obligations.ResetHasTheInvariant : Prop := State.reset.Inv ∧ State.reset.pending = []

/-- R3, R21, R22: the 64-bit FRAME_COUNT advances by one at an input port frame edge once the frame divider has started, and the
edge's work is done; at the stage edges, where descriptors are judged, the write of one abandoned there may ask for a reset that takes
the count to 0.  Through a warm chip reset the edge does nothing else; before the first lock, and while POR or a chip reset is
asserted, the count holds.

R22, R382: beside a control message that aligns a chip with its master, and beside a reset that takes it to 0, the frame count moves at
frame edges only, and there by one. -/
def Obligations.FrameCount : Prop :=
  (
  ∀ (a : Option (Fin 256)) (b : Option (Fin 64)) (x : EdgeInput) (s : State),
    (s.dividerRuns = true → s.pwr.chip = 1 →
      exec (.frameEdge a b x) s = .next { s with free := s.free + 1, frame := (s.frame + 1) % 2 ^ 64 }) ∧
    (s.Inv → s.dividerRuns = true → (s.frame + 1) % 2 ^ 64 % 16 ≠ 1 →
      ∃ t, exec (.frameEdge a b x) s = .next t ∧ t.frame = (s.frame + 1) % 2 ^ 64 ∧ t.pending = s.pending ∧
        (s.pwr.chip ≠ 1 → t.gys.bad = none)) ∧
    (s.Inv → s.dividerRuns = true → (s.frame + 1) % 2 ^ 64 % 16 = 1 →
      ∃ t, exec (.frameEdge a b x) s = .next t ∧ (t.frame = (s.frame + 1) % 2 ^ 64 ∨ t.frame = 0) ∧ t.pending = s.pending) ∧
    (s.dividerRuns = false → exec (.frameEdge a b x) s = .next { s with free := s.free + 1 })
  ) ∧
  (
  ∀ (c : Instr) (s t : State), s.Inv → exec c s = .next t → (∀ n o q m a, c ≠ .controlMessageRx n o q m a) →
    t.frame = s.frame ∨ t.frame = 0 ∨ ((∃ a b x, c = .frameEdge a b x) ∧ t.frame = (s.frame + 1) % 2 ^ 64)
  )

/-- R537: every RWL field, the safety lock and Fumarole's guard copies keep their values through every reset except POR, at its request, its
assertion and its release. -/
def Obligations.ResetsKeepTheGuards : Prop :=
  ∀ (m : Fin 8) (tg : BitVec 9) (mo ca : BitVec 3) (gp : BitVec 8) (i : Fin 8) (v : BitVec 13) (s : State), s.Inv →
    ∀ c ∈ [Instr.cellResetReq m tg, .clusterResetReq m tg, .regionResetReq m tg, .engineResetReq m, .warmChipResetReq m, .chipResetReq m,
      .mgmtResetReq m, .resetNLow, .fumSafeReset, .supplyChipReset, .tempConversion i v, .resetIdleTimeout, .resetRelease, .holdExitDone,
      .chipResetRelease mo ca gp], ∃ t, exec c s = .next t ∧
        (∀ f ∈ rwlFlds, t.get f = s.get f) ∧ t.locked = s.locked ∧ t.fum.guard = s.fum.guard

/-- R26, R414: at the cell stage deadline of window w, from window 3 on, the egress slots of period w - 3 are sealed; the
deadline of a window acts once. -/
def Obligations.StageDeadlineSeals : Prop :=
  (∀ (p : List PatrolResult) (s : State), s.pwr.chip = 0 → s.planeHeld = false → s.eng.deadline ≠ s.window + 1 → 3 ≤ s.window →
    ∃ t, exec (.cellStageDeadline p) s = .next t ∧ t.fum.seals.head? = some (s.window - 3)) ∧
  (∀ (p : List PatrolResult) (s : State), s.eng.deadline = s.window + 1 →
    exec (.cellStageDeadline p) s = .next { s with free := s.free + 1 })

/-- R28, R69, R118: the distributor's deposit of one staged input's sample for one frame of the present period, in its turn, lands in
the cell's X memory at the address of the staged set, and every other word of the on-chip memories stays; out of its turn, or with the
distributor's island stopped, nothing is deposited.

R69 to R72: a descriptor in its turn that breaks a condition is not run, flagged and raised as E175; one that is valid
or whose run is open moves its next words, up to `n` of them, from its source to its destination, and its run ends with the last; it
waits while a deposit goes first; one whose deadline passes is abandoned: its run is over for the window, DQ_LATE names it. -/
def Obligations.IngressDelivery : Prop :=
  (
  ∀ (w : Fin 256) (i : Fin 64) (j : Fin 16) (left : BitVec 18) (s : State) (a : Adopted),
    (s.cell (physOf w)).stagedSet s.window = some a →
    ((s.s0Turn s.window w a.srcs i j = false ∨ s.islandStopped (islBank (cellCl (physOf w))) = true) →
      exec (.s0Deposit w i j left) s = .next { s with free := s.free + 1 }) ∧
    (s.s0Turn s.window w a.srcs i j = true → s.islandStopped (islBank (cellCl (physOf w))) = false →
      let c := a.srcs.look 0 i - 1
      let k := xmemKey (cellCl (physOf w)) (cellK (physOf w)) (stagedWord a.baseSel s.window i j % 8192)
      ∃ t, exec (.s0Deposit w i j left) s = .next t ∧
        (∀ n, t.ram n = if n = k then s.stagedSample c (16 * s.window + j) else s.ram n) ∧
        t.eng.deposited.look false (stagedKey s.window w i j) = true ∧
        (s.chanExists c = true → s.lnk.srcChan.contains c = false → Only [.mem, .eng] [] [] s t) ∧
        (s.chanExists c = false → s.evt.inReset = false → s.evt.once.contains 100 = false → t.evtStat 100 = true))
  ) ∧
  (
  ∀ (cl d : Fin 32) (n : BitVec 16) (s : State),
    ((s.dqTurn cl ≠ some d.val ∨ s.takesPart (islBank cl) s.window = false) → exec (.descriptorRun cl d n) s = .next { s with free := s.free + 1 }) ∧
    (s.dqTurn cl = some d.val → s.takesPart (islBank cl) s.window = true →
      (s.dqRun cl d).run = false → s.dqValid cl d = false → s.evt.inReset = false →
      ∃ t, exec (.descriptorRun cl d n) s = .next t ∧
        Raises [175] [Reg.DISTSTAT_DQ_BAD cl, Reg.DISTSTAT_LAST_DESC cl] { s with mem := { s.mem with dq := t.mem.dq } } t ∧
        t.bit (Reg.DISTSTAT_DQ_BAD cl) = true ∧ t.get (Reg.DISTSTAT_LAST_DESC cl) = d.val ∧ t.dqRun cl d = ⟨0, false, true⟩) ∧
    (s.dqTurn cl = some d.val → s.takesPart (islBank cl) s.window = true → (s.dqRun cl d).run = true ∨ s.dqValid cl d = true →
      (s.dqWaits cl d n.toNat = true → exec (.descriptorRun cl d n) s = .next { s with free := s.free + 1 }) ∧
      (s.dqWaits cl d n.toNat = false →
        let r := s.dqRun cl d
        let k := Nat.min n.toNat (s.get (Reg.DQ_COUNT cl d) - r.moved)
        ∃ t, exec (.descriptorRun cl d n) s = .next t ∧
          t.dqRun cl d = (if s.get (Reg.DQ_COUNT cl d) ≤ r.moved + k then ⟨0, false, r.had || !r.run⟩
            else ⟨r.moved + k, true, r.had || !r.run⟩) ∧
          (∀ (i j : Nat) (x y : Sinter), k = 1 → (s.dqSrc cl d + 4 * r.moved) % 4 = 0 → (s.dqDst cl d + 4 * r.moved) % 4 = 0 →
            inOwnWindow cl (s.dqSrc cl d + 4 * r.moved) = true → inOwnWindow cl (s.dqDst cl d + 4 * r.moved) = true →
            s.scrubbed (s.dqSrc cl d + 4 * r.moved) = some (i, x) → s.scrubbed (s.dqDst cl d + 4 * r.moved) = some (j, y) →
            (∀ c q w, s.place (s.dqDst cl d + 4 * r.moved) ≠ .imem c q w) →
            (∀ m, t.ram m = if m = j then x else s.ram m) ∧ Only [.mem] [] [] s t))) ∧
    (s.dqPending cl d = true → s.takesPart (islBank cl) s.window = true →
      ∃ t, exec (.descriptorDeadline cl d) s = .next t ∧ t.bit (Reg.DISTSTAT_DQ_LATE cl) = true ∧
        t.get (Reg.DISTSTAT_LAST_DESC cl) = d.val ∧ t.dqRun cl d = ⟨0, false, true⟩) ∧
    (s.dqPending cl d = false → exec (.descriptorDeadline cl d) s = .next { s with free := s.free + 1 })
  )

/-- R60, R62, R63: a write of BANKCTL sets PENDING and its values wait, the last one written standing; when the handover ends
OWNER and MODE take them and PENDING clears.  Neither changes a word of a memory, and no other register changes. -/
def Obligations.BankHandover : Prop :=
  (∀ (cl : Fin 32) (b : Fin 8) (v : BitVec 32) (s : State), ∃ t, exec (.bankHandover cl b v) s = .next t ∧
    OnlyRegs [Reg.BANKCTL_PENDING cl b] { s with mem := { s.mem with handover := t.mem.handover } } t ∧
    t.bit (Reg.BANKCTL_PENDING cl b) = true ∧
    ∀ k, t.mem.handover.look none k = if k = 8 * cl.val + b.val then some ⟨v.toNat % 16, v.toNat / 16 % 4⟩
      else s.mem.handover.look none k) ∧
  (∀ (cl : Fin 32) (b : Fin 8) (h : Handover) (s : State), s.mem.handover.look none (8 * cl.val + b.val) = some h →
    h.owner < 16 → h.mode < 4 → ∃ t, exec (.bankHandoverDone cl b) s = .next t ∧
    OnlyRegs [Reg.BANKCTL_OWNER cl b, Reg.BANKCTL_MODE cl b, Reg.BANKCTL_PENDING cl b]
      { s with mem := { s.mem with handover := t.mem.handover } } t ∧
    t.get (Reg.BANKCTL_OWNER cl b) = h.owner ∧ t.get (Reg.BANKCTL_MODE cl b) = h.mode ∧
    t.bit (Reg.BANKCTL_PENDING cl b) = false ∧
    ∀ k, t.mem.handover.look none k = if k = 8 * cl.val + b.val then none else s.mem.handover.look none k) ∧
  (∀ (cl : Fin 32) (b : Fin 8) (s : State), s.mem.handover.look none (8 * cl.val + b.val) = none →
    exec (.bankHandoverDone cl b) s = .next { s with free := s.free + 1 })

/-- R74 to R76: a scrubber reads the words of its SRAM in order: a good word only moves it on, a mismatch outside the banks is recorded,
flagged and raised as E166, and the word stays; a word out of its order is not read, nor any while the scrubbers are off.

R86: a line of good words is delivered where its CRC passes, at once or at the retry, which is counted and raised as E169; a line with a
faulty word is delivered with poison in its place and E170; a second CRC failure delivers 12 poison words and raises E168.  No stored
word changes.  R85, R90: a line beyond the capacity is refused with E174, and while the DRAM is not up every other is.

R87: a write of all 12 words of a line stores each of them, with no fetch, and leaves every other DRAM word and every
register; a write of one word keeps the others of its line where the fetch is good, and makes them poison, with E168, where it fails
twice.  A refused write (R85, R90) stores nothing.

R89 to R91: an idle refresh takes one from the postponed count, an emergency raises E171, a changed MR4 rate is shown and
raised as E173, and the DRAM is enabled, trained and disabled through DRCCFG and DRCSTAT, whose TRAINED and SELF_REFRESH at those
writes are the model's choice where the spec is silent (log 34). -/
def Obligations.ScrubberAndDram : Prop :=
  (
  ∀ (lo : BitVec 32) (hi : BitVec 8) (s : State),
    (s.bit Reg.SCRUBCTL_EN = false → exec (.scrubRead lo hi) s = .next { s with free := s.free + 1 }) ∧
    (∀ (k : Nat) (x : Sinter), s.scrubbed ((hi ++ lo).toNat / 4 * 4) = some (k, x) → s.mem.scrubAt.look 0 (sramOf k).1 ≠ (sramOf k).2.1 →
      exec (.scrubRead lo hi) s = .next { s with free := s.free + 1 }) ∧
    (∀ (k : Nat) (x : Sinter) (m : Nat × Nat), s.bit Reg.SCRUBCTL_EN = true → s.scrubbed ((hi ++ lo).toNat / 4 * 4) = some (k, x) →
      s.mem.scrubAt.look 0 (sramOf k).1 = (sramOf k).2.1 → m ∈ sramAll → m.1 ≠ (sramOf k).1 → s.mem.scrubAt.look 0 m.1 < m.2 →
      let d : State := { s with mem := { s.mem with scrubAt := s.mem.scrubAt.upd 0 (sramOf k).1 ((sramOf k).2.1 + 1) } }
      (x.faulty = false → exec (.scrubRead lo hi) s = .next { d with free := s.free + 1 }) ∧
      (x.faulty = true → s.place ((hi ++ lo).toNat / 4 * 4) = .sram k → s.evt.inReset = false → ∃ t, exec (.scrubRead lo hi) s = .next t ∧
        Raises [166] [Reg.SCRUBADDR_LO_ADDR, Reg.SCRUBADDR_HI_ADDR_HI, Reg.SCRUBSTAT_MISMATCH]
          { d with mem := { d.mem with dirty := true } } t ∧
        t.bit Reg.SCRUBSTAT_MISMATCH = true ∧ t.get Reg.SCRUBADDR_LO_ADDR = (hi ++ lo).toNat / 4 * 4 % 2 ^ 32))
  ) ∧
  (
  let adr : List Fld := [Reg.DRAMFAULT_LO_ADDR, Reg.DRAMFAULT_HI_ADDR_HI, Reg.DRAMFAULT_HI_KIND]
  ∀ (l : BitVec 28) (c1 c2 : Bool) (s : State),
    let word (i : Nat) : Sinter := s.dramRaw (dramAddr l.toNat i)
    let line (ws : List Sinter) : State := { s with mem := { s.mem with line := some (l.toNat, ws) } }
    let good := (List.range 12).map word
    (s.dramRefuses (dramAddr l.toNat 0) = none →
      ((∀ i, i < 12 → (word i).faulty = false) →
        exec (.dramLineFetch l true c2) s = .next { line good with free := s.free + 1 } ∧
        (s.evt.inReset = false → ∃ t, exec (.dramLineFetch l false true) s = .next t ∧
          Raises [169] (Reg.DRAMCNT_RETRIED :: adr) (line good) t ∧
          t.get Reg.DRAMCNT_RETRIED = Nat.min (s.get Reg.DRAMCNT_RETRIED + 1) (2 ^ 16 - 1) ∧ t.get Reg.DRAMFAULT_HI_KIND = 1)) ∧
      (∀ i, i < 12 → (word i).faulty = true → (∀ k, k < i → (word k).faulty = false) → s.evt.inReset = false →
        ∃ t ws, exec (.dramLineFetch l true c2) s = .next t ∧ Raises [170] adr (line ws) t ∧ t.get Reg.DRAMFAULT_HI_KIND = 2 ∧
          t.get Reg.DRAMFAULT_LO_ADDR = dramAddr l.toNat i % 2 ^ 32 ∧ ws.length = 12 ∧
          ∀ k x, ws[k]? = some x → if (word k).faulty then x.isPoison = true else x = word k) ∧
      (s.evt.inReset = false → ∃ t ws, exec (.dramLineFetch l false false) s = .next t ∧
        Raises [168] (Reg.DRAMCNT_FAILED :: adr) (line ws) t ∧ ws.length = 12 ∧ (∀ x ∈ ws, x.isPoison = true) ∧
        t.get Reg.DRAMCNT_FAILED = Nat.min (s.get Reg.DRAMCNT_FAILED + 1) (2 ^ 16 - 1) ∧ t.get Reg.DRAMFAULT_HI_KIND = 0)) ∧
    (0x100000000 + s.dramCapacity ≤ dramAddr l.toNat 0 → s.evt.inReset = false → ∃ t, exec (.dramLineFetch l c1 c2) s = .next t ∧
      Raises [174] adr s t ∧ t.get Reg.DRAMFAULT_HI_KIND = 3) ∧
    (dramAddr l.toNat 0 < 0x100000000 + s.dramCapacity → s.dramUp = false →
      exec (.dramLineFetch l c1 c2) s = .next { s with free := s.free + 1 })
  ) ∧
  (
  ∀ (l : BitVec 28) (c1 c2 : Bool) (s : State),
    (s.dramRefuses (dramAddr l.toNat 0) = none →
      (∀ (x : Fin 12 → Sinter), ∃ t, exec (.dramWrite l ((List.finRange 12).map (fun i => (i, x i))) c1 c2) s = .next t ∧
        (∀ i : Fin 12, t.dramRaw (dramAddr l.toNat i) = x i) ∧
        (∀ a, (∀ i : Fin 12, a ≠ dramAddr l.toNat i) → t.dramRaw a = s.dramRaw a) ∧
        t.mem.sram = s.mem.sram ∧ Only [.mem] [] [] s t) ∧
      (∀ (i : Fin 12) (x : Sinter), (∀ k, k < 12 → (s.dramRaw (dramAddr l.toNat k)).faulty = false) →
        ∃ t, exec (.dramWrite l [(i, x)] true c2) s = .next t ∧
          (∀ a, t.dramRaw a = if a = dramAddr l.toNat i then x else s.dramRaw a) ∧ t.mem.sram = s.mem.sram ∧ Only [.mem] [] [] s t) ∧
      (∀ (i : Fin 12) (x : Sinter), s.evt.inReset = false → ∃ t, exec (.dramWrite l [(i, x)] false false) s = .next t ∧
        (∀ a, (∀ k : Fin 12, a ≠ dramAddr l.toNat k) → t.dramRaw a = s.dramRaw a) ∧ t.dramRaw (dramAddr l.toNat i) = x ∧
        (∀ k : Fin 12, k ≠ i → (t.dramRaw (dramAddr l.toNat k)).isPoison = true) ∧ t.evtStat 168 = true)) ∧
    (∀ (ws : List (Fin 12 × Sinter)) (t : State), s.dramRefuses (dramAddr l.toNat 0) = some t →
      exec (.dramWrite l ws c1 c2) s = .next { t with free := t.free + 1 })
  ) ∧
  (
  (∀ (ch : Fin 4) (due : Fin 9) (s : State), ∃ t, exec (.dramRefresh ch due) s = .next t ∧
    OnlyRegs [Reg.DRCSTAT_POSTPONED] { s with mem := { s.mem with postponed := t.mem.postponed } } t ∧
    ∀ c, t.mem.postponed.look 0 c = if c = ch.val then Nat.min due.val s.postponeMax - 1 else s.mem.postponed.look 0 c) ∧
  (∀ (ch : Fin 4) (s : State), s.evt.inReset = false → ∃ t, exec (.dramRefreshEmergency ch) s = .next t ∧
    Raises [171] [Reg.DRCSTAT_POSTPONED] { s with mem := { s.mem with postponed := t.mem.postponed } } t ∧
    t.mem.postponed.look 0 ch = s.postponeMax - 1) ∧
  (∀ (r : BitVec 3) (s : State), s.evt.inReset = false → s.get Reg.DRCSTAT_MR4_RATE ≠ r.toNat →
    ∃ t, exec (.dramMr4Poll r) s = .next t ∧ Raises [173] [Reg.DRCSTAT_MR4_RATE] s t ∧ t.get Reg.DRCSTAT_MR4_RATE = r.toNat) ∧
  (∀ (v : BitVec 31) (s : State), s.bit Reg.DRCCFG_EN = false → ∃ t, exec (.dramEnable v) s = .next t ∧
    OnlyRegs [Reg.DRCCFG_EN, Reg.DRCCFG_RATE, Reg.DRCCFG_DENSITY, Reg.DRCCFG_DBI_RD, Reg.DRCCFG_DBI_WR, Reg.DRCSTAT_TRAINED,
      Reg.DRCSTAT_SELF_REFRESH] { s with mem := { s.mem with training := true } } t ∧
    t.bit Reg.DRCCFG_EN = true ∧ t.bit Reg.DRCSTAT_TRAINED = false ∧ t.bit Reg.DRCSTAT_SELF_REFRESH = false) ∧
  (∀ (v : BitVec 31) (s : State), s.bit Reg.DRCCFG_EN = true → ∃ t, exec (.dramDisable v) s = .next t ∧
    OnlyRegs [Reg.DRCCFG_EN, Reg.DRCSTAT_SELF_REFRESH] { s with mem := { s.mem with training := false } } t ∧
    t.bit Reg.DRCCFG_EN = false ∧ t.bit Reg.DRCSTAT_SELF_REFRESH = true) ∧
  (∀ (v : BitVec 31) (s : State), s.bit Reg.DRCCFG_EN = true → ∃ t, exec (.dramEnable v) s = .next t ∧ OnlyRegs [] s t) ∧
  (∀ (v : BitVec 31) (s : State), s.bit Reg.DRCCFG_EN = false → ∃ t, exec (.dramDisable v) s = .next t ∧
    OnlyRegs [Reg.DRCCFG_RATE, Reg.DRCCFG_DENSITY, Reg.DRCCFG_DBI_RD, Reg.DRCCFG_DBI_WR] s t) ∧
  (∀ (s : State), s.mem.training = true → ∃ t, exec (.dramTrainingDone true) s = .next t ∧
    OnlyRegs [Reg.DRCSTAT_TRAINED] { s with mem := { s.mem with training := false } } t ∧ t.bit Reg.DRCSTAT_TRAINED = true) ∧
  (∀ (s : State), s.mem.training = true → s.evt.inReset = false → ∃ t, exec (.dramTrainingDone false) s = .next t ∧
    Raises [172] [] { s with mem := { s.mem with training := false } } t)
  )

/-- R110, R112, R147, R148: `add`, `sub`, `adds`, `subs`, `abs` and the left shift that saturates deliver the exact result in 32
bits: the first two and `abs` saturate or wrap by SAT_EN, the others always saturate; V says that the result did not fit, C is the
carry out of the unsigned sum.  Nothing else changes. -/
def Obligations.SaturatingResults : Prop :=
  ∀ (u : Exe) (gd ga gb : Fin 32) (s : State), (s.core u).live = true →
    let a := (s.core u).rdG ga
    let b := (s.core u).rdG gb
    let en := (s.core u).stRead.getLsbD stSatEn
    a.isPoison = false →
    (b.isPoison = false →
      s.delivers u (.add u gd ga gb) gd (a.data.toInt + b.data.toInt) (decide (2 ^ 32 ≤ a.data.toNat + b.data.toNat)) en
        (a.ok && b.ok) ∧
      s.delivers u (.adds u gd ga gb) gd (a.data.toInt + b.data.toInt) (decide (2 ^ 32 ≤ a.data.toNat + b.data.toNat)) true
        (a.ok && b.ok) ∧
      s.delivers u (.sub u gd ga gb) gd (a.data.toInt - b.data.toInt) (decide (b.data.toNat ≤ a.data.toNat)) en
        (a.ok && b.ok) ∧
      s.delivers u (.subs u gd ga gb) gd (a.data.toInt - b.data.toInt) (decide (b.data.toNat ≤ a.data.toNat)) true
        (a.ok && b.ok)) ∧
    (b.ok = true →
      s.delivers u (.norm u gd ga gb) gd (a.data.toInt * 2 ^ (b.data.toNat % 64)) false true a.ok) ∧
    s.delivers u (.abs u gd ga) gd a.data.toInt.natAbs false en a.ok ∧
    (∀ t : Fin 32, s.delivers u (.normi u gd ga t) gd (a.data.toInt * 2 ^ t.val) false true a.ok)

/-- R115, R116: a poison operand makes the result of a flag-setting instruction poison, sets U and PSN and clears Z, N, V and C;
`cmp` sets U with no result; `min`, `max` and the conversions leave the flags; a select that depends on U gives poison.

R114, R158: a result whose unit's two copies disagree is poison, with ST.RES, CELLFAULT cause 8 and E97, and the cell continues. -/
def Obligations.PoisonOperands : Prop :=
  (
  ∀ (u : Exe) (gd ga gb t : Fin 32) (an ad as : Fin 8) (c : SelCond) (s : State), (s.core u).live = true →
    let p (st : BitVec 32) (lat : Nat) (i : Instr) : Prop := ∃ x : Sinter, x.isPoison = true ∧
      exec i s = .next (s.after u st ((s.core u).resultG lat gd x))
    let st := (s.core u).st
    (((s.core u).rdG ga).isPoison = true →
      (∀ i ∈ [Instr.add u gd ga gb, .sub u gd ga gb, .adds u gd ga gb, .subs u gd ga gb, .and u gd ga gb false,
          .or u gd ga gb false, .xor u gd ga gb false, .abs u gd ga, .clip u gd ga gb, .clip u gd gb ga, .shli u gd ga t false,
          .srai u gd ga t, .shri u gd ga t false, .normi u gd ga t, .add u gd gb ga, .sub u gd gb ga, .adds u gd gb ga,
          .subs u gd gb ga, .and u gd gb ga false, .or u gd gb ga false, .xor u gd gb ga false],
        p (stFlags (stSet st stPsn) Flags.unordered) 1 i) ∧
      (((s.core u).rdG gb).ok = true → ∀ i ∈ [Instr.shl u gd ga gb false, .sra u gd ga gb, .shr u gd ga gb false, .norm u gd ga gb],
        p (stFlags (stSet st stPsn) Flags.unordered) 1 i) ∧
      (∀ i ∈ [Instr.cmp u ga gb, .cmp u gb ga], exec i s = .next (s.after u (stFlags st Flags.unordered) [])) ∧
      (∀ i ∈ [Instr.min u gd ga gb, .min u gd gb ga, .max u gd ga gb, .max u gd gb ga, .bexp u gd (.g ga) false],
        p (stSet st stPsn) 1 i) ∧
      (∀ i ∈ [Instr.lin2g u gd ga false, .g2lin u gd ga false], p (stSet st stPsn) 2 i) ∧
      (∀ i ∈ [Instr.mpy u an ga gb, .mpy u an gb ga, .mac u an ga gb, .mac u an gb ga, .msu u an ga gb, .msu u an gb ga],
        ∃ x : Acc, x.psn = true ∧ exec i s = .next (s.after u (stSet st stPsn) ((s.core u).resultA an x)))) ∧
    ((s.core u).stRead.getLsbD stU = true → p (stSet st stPsn) 1 (.sel u c gd ga gb)) ∧
    ((((s.core u).rdA ad).psn = true ∨ ((s.core u).rdA as).psn = true) → ∀ i ∈ [Instr.aadd u ad as, .asub u ad as],
      ∃ x : Acc, x.psn = true ∧ exec i s = .next (s.after u (stSet st stPsn) ((s.core u).resultA ad x)))
  ) ∧
  (
  ∀ (q e : Fin 288) (gd ga gb t : Fin 32) (an : Fin 8) (imm : BitVec 12) (k : BitVec 6) (s : State), s.eff q = some e.val →
    let u := Exe.cell q
    let c := s.core u
    let faults (lat : Nat) (i : Instr) : Prop := ∃ t x, exec i s = .next t ∧ x.isPoison = true ∧
      (t.cell e).core.fly = c.fly ++ c.resultG lat gd x ∧ (t.cell e).core.st.getLsbD stRes = true ∧
      (t.cell e).stopped = (s.cell e).stopped ∧ t.get (Reg.CELLFAULT_CAUSE (e / 9) (e % 9)) = 8 ∧ t.evtStat 97 = true ∧ t.mem = s.mem
    c.live = true → s.evt.inReset = false →
    (∀ i ∈ [Instr.and u gd ga gb true, .or u gd ga gb true, .xor u gd ga gb true, .shli u gd ga t true, .shri u gd ga t true,
      .li u gd imm true, .lui u gd imm true, .bexp u gd (.g ga) true, .bexp u gd (.a an) true], faults 1 i) ∧
    ((c.rdG gb).faulty = false → ∀ i ∈ [Instr.shl u gd ga gb true, .shr u gd ga gb true], faults 1 i) ∧
    (k.toNat ≤ 0x24 → faults 1 (.mfc u gd k true)) ∧ ∀ i ∈ [Instr.lin2g u gd ga true, .g2lin u gd ga true], faults 2 i
  )

/-- R112, R147: `and`, `or`, `xor` and the logical shifts deliver their bits with a generated residue, with Z and N of the result
and V clear; C is clear, or the last bit shifted out.  The arithmetic right shift keeps a good word good.  A faulty count traps
with CAUSE 0x6.

R147, R148: `cmp` compares the exact values; `min` and `max` deliver the chosen operand, the first where they are equal, and
no flag; `clip` limits to the magnitude of its second operand and says so in V; `sel` chooses by the flags as the bundle reads
them. -/
def Obligations.BitAndCompareResults : Prop :=
  (
  ∀ (u : Exe) (gd ga gb t : Fin 32) (s : State), (s.core u).live = true →
    let a := (s.core u).rdG ga
    let b := (s.core u).rdG gb
    let st := (s.core u).st
    let gives (i : Instr) (x : BitVec 32) (c : Bool) : Prop := exec i s =
      .next (s.after u (stFlags st (Flags.ofResult x false c)) ((s.core u).resultG 1 gd (Sinter.ofData x)))
    (b.faulty = true → ∀ i ∈ [Instr.shl u gd ga gb false, .sra u gd ga gb, .shr u gd ga gb false, .norm u gd ga gb],
      exec i s = .next { s.trap u 6 with free := (s.trap u 6).free + 1 }) ∧
    (a.isPoison = false →
    (b.isPoison = false → gives (.and u gd ga gb false) (a.data &&& b.data) false ∧
      gives (.or u gd ga gb false) (a.data ||| b.data) false ∧ gives (.xor u gd ga gb false) (a.data ^^^ b.data) false) ∧
    (b.ok = true → 0 < b.data.toNat % 64 →
      gives (.shl u gd ga gb false) (a.data <<< (b.data.toNat % 64))
        (decide (b.data.toNat % 64 ≤ 32) && a.data.getLsbD (32 - b.data.toNat % 64)) ∧
      gives (.shr u gd ga gb false) (a.data >>> (b.data.toNat % 64))
        (decide (b.data.toNat % 64 ≤ 32) && a.data.getLsbD (b.data.toNat % 64 - 1))) ∧
    (0 < t.val → gives (.shli u gd ga t false) (a.data <<< t.val) (a.data.getLsbD (32 - t)) ∧
      gives (.shri u gd ga t false) (a.data >>> t.val) (a.data.getLsbD (t - 1))) ∧
    (a.ok = true → (b.ok = true → 0 < b.data.toNat % 64 →
        gives (.sra u gd ga gb) (a.data.sshiftRight (b.data.toNat % 64))
          (a.data.getLsbD (Nat.min (b.data.toNat % 64) 32 - 1))) ∧
      (0 < t.val → gives (.srai u gd ga t) (a.data.sshiftRight t.val) (a.data.getLsbD (t - 1)))))
  ) ∧
  (
  ∀ (u : Exe) (gd ga gb : Fin 32) (s : State), (s.core u).live = true →
    let a := (s.core u).rdG ga
    let b := (s.core u).rdG gb
    let st := (s.core u).st
    (a.isPoison = false → b.isPoison = false →
      exec (.cmp u ga gb) s = .next (s.after u (stFlags st ⟨decide (a.data.toInt = b.data.toInt),
        decide (a.data.toInt < b.data.toInt), false, decide (b.data.toNat ≤ a.data.toNat), false⟩) []) ∧
      exec (.min u gd ga gb) s = .next (s.after u st ((s.core u).resultG 1 gd (if a.data.toInt ≤ b.data.toInt then a else b))) ∧
      exec (.max u gd ga gb) s = .next (s.after u st ((s.core u).resultG 1 gd (if b.data.toInt ≤ a.data.toInt then a else b)))) ∧
    (a.ok = true → b.ok = true →
      let m : Int := Nat.min b.data.toInt.natAbs 0x7FFFFFFF
      let z := max (-m) (min m a.data.toInt)
      exec (.clip u gd ga gb) s = .next (s.after u (stFlags st (Flags.ofResult (BitVec.ofInt 32 z) (decide (z ≠ a.data.toInt)) false))
        ((s.core u).resultG 1 gd (Sinter.ofData (BitVec.ofInt 32 z))))) ∧
    (∀ (c : SelCond), (s.core u).stRead.getLsbD stU = false → a.isPoison = false → b.isPoison = false →
      exec (.sel u c gd ga gb) s = .next (s.after u st ((s.core u).resultG 1 gd (if selHolds (s.core u).stRead c then a else b))))
  )

/-- R143 to R145, R160: the immediates and control-register moves: `li` sign-extends, `lui` fills bits 31:20, `mtc` writes the
low 16 bits of a good Gs, L and B readable after 2 bundles, ST at once and its RW bits alone; `mfc` zero-extends but for M, which it
sign-extends, and ST and PRD as they stand; a poison or faulty Gs traps with CAUSE 0x6 and an unassigned creg with 0x2; `nop` changes
nothing.

R11, R111, R156 to R158: `lin2g` gives the muted code for 0 and otherwise a code within 2 units of the exact one, from -144 dB to 0;
`g2lin` gives 0 for the muted code and otherwise the gain of the limited code within 2^-24 of it, or rounded to its last bit; `bexp` counts
the redundant sign bits of a word or an accumulator: shifted left by that many it keeps its value, by one more it does not. -/
def Obligations.MovesAndConversions : Prop :=
  (
  ∀ (u : Exe) (gd gs : Fin 32) (s : State), (s.core u).live = true →
    let st := (s.core u).st
    let r := (s.core u).resultG 1 gd
    exec (.nop u) s = .next { s.setCore u (s.core u) with free := s.free + 1 } ∧
    (∀ imm : BitVec 12, exec (.li u gd imm false) s = .next (s.after u st (r (Sinter.ofData (imm.signExtend 32)))) ∧
      exec (.lui u gd imm false) s = .next (s.after u st (r (Sinter.ofData (imm ++ 0#20))))) ∧
    (∀ k : BitVec 6, k.toNat < 0x23 → ((s.core u).rdG gs).ok = true →
      exec (.mtc u k gs) s = .next (s.after u st [⟨(s.core u).count + (if 16 ≤ k.toNat ∧ k.toNat < 32 then 2 else 1),
        (s.core u).count, .c k.toNat, .h (((s.core u).rdG gs).data.extractLsb' 0 16)⟩])) ∧
    (((s.core u).rdG gs).ok = true → exec (.mtc u 0x23 gs) s = .next (s.after u
      ((st &&& 0xFFFEF0E0) ||| (((s.core u).rdG gs).data &&& 0x00010F1F)) [])) ∧
    (∀ k : BitVec 6, k.toNat < 0x23 →
      exec (.mfc u gd k false) s = .next (s.after u st (r (Sinter.ofData
        (if 8 ≤ k.toNat ∧ k.toNat < 16 then ((s.core u).rdC k.toNat).signExtend 32 else ((s.core u).rdC k.toNat).zeroExtend 32))))) ∧
    exec (.mfc u gd 0x23 false) s = .next (s.after u st (r (Sinter.ofData (s.core u).stRead))) ∧
    exec (.mfc u gd 0x24 false) s = .next (s.after u st (r (Sinter.ofData (s.prd u)))) ∧
    (((s.core u).rdG gs).ok = false → ∀ k : BitVec 6, k.toNat < 0x24 →
      exec (.mtc u k gs) s = .next { s.trap u 6 with free := (s.trap u 6).free + 1 }) ∧
    (∀ k : BitVec 6, 0x24 < k.toNat → exec (.mfc u gd k false) s = .next { s.trap u 2 with free := (s.trap u 2).free + 1 }) ∧
    (∀ k : BitVec 6, 0x24 ≤ k.toNat → exec (.mtc u k gs) s = .next { s.trap u 2 with free := (s.trap u 2).free + 1 })
  ) ∧
  (
  ∀ (u : Exe) (gd ga : Fin 32) (an : Fin 8) (s : State), (s.core u).live = true →
    let c := s.core u
    let x := (c.rdG ga).data.toInt
    let y := (c.rdA an).val.toInt
    ((c.rdG ga).isPoison = false →
      (∃ g : Int, (if x = 0 then g = -8388608 else -589824 ≤ g ∧ g ≤ 0 ∧ -(lin2gDepth x.natAbs : Int) - 2 ≤ g ∧
          g ≤ max (-589824) (2 - (lin2gDepth x.natAbs : Int))) ∧
        exec (.lin2g u gd ga false) s = .next (s.after u c.st (c.resultG 2 gd (Sinter.ofData (BitVec.ofInt 32 g))))) ∧
      (∃ g : Int, (if codeOf (c.rdG ga).data = -8388608 then g = 0 else
          let f : Int := gainScaled (limitCode (codeOf (c.rdG ga).data))
          ((g * 2 ^ 24 - f).natAbs : Int) ≤ max (2 ^ 23) (f / 2 ^ 24)) ∧
        exec (.g2lin u gd ga false) s = .next (s.after u c.st (c.resultG 2 gd (Sinter.ofData (BitVec.ofInt 32 g))))) ∧
      (∃ n : Nat, n ≤ 31 ∧ min32 ≤ x * 2 ^ n ∧ x * 2 ^ n ≤ max32 ∧
        (n < 31 → ¬(min32 ≤ x * 2 ^ (n + 1) ∧ x * 2 ^ (n + 1) ≤ max32)) ∧
        exec (.bexp u gd (.g ga) false) s = .next (s.after u c.st (c.resultG 1 gd (Sinter.ofData (BitVec.ofNat 32 n)))))) ∧
    ((c.rdA an).psn = false → ∃ n : Nat, n ≤ 71 ∧ min72 ≤ y * 2 ^ n ∧ y * 2 ^ n ≤ max72 ∧
      (n < 71 → ¬(min72 ≤ y * 2 ^ (n + 1) ∧ y * 2 ^ (n + 1) ≤ max72)) ∧
      exec (.bexp u gd (.a an) false) s = .next (s.after u c.st (c.resultG 1 gd (Sinter.ofData (BitVec.ofNat 32 n)))))
  )

/-- R108, R112, R146, R151 to R153: `mpy`, `mac` and `msu` form the exact product and sum, saturated to 72 bits, with the residue
carried; `dmac` does two lanes at once; `aadd` and `asub` add accumulators, `amov` copies one.

R109, R113, R154, R155: `sta` rounds the accumulator, or the sum of a pair, half to even at the shift's place and saturates to
32 bits; a word whose accumulator carries its right residue passes its check. -/
def Obligations.AccumulatorsAndRounding : Prop :=
  (
  ∀ (u : Exe) (an : Fin 8) (ga gb : Fin 32) (s : State), (s.core u).live = true →
    let c := s.core u
    let gives (i : Instr) (n : Nat) (z r : Int) : Prop := exec i s = .next (s.after u
      (if min72 ≤ z ∧ z ≤ max72 then c.st else stSet (stSet c.st stAov) stSat)
      (c.resultA n ⟨BitVec.ofInt 72 (max min72 (min max72 z)), if min72 ≤ z ∧ z ≤ max72 then residueInt r else
        residueInt (max min72 (min max72 z)), false⟩))
    ((c.rdG ga).isPoison = false → (c.rdG gb).isPoison = false →
      let p := (c.rdG ga).data.toInt * (c.rdG gb).data.toInt
      let r : Int := (c.rdG ga).r * (c.rdG gb).r
      gives (.mpy u an ga gb) an p r ∧
      ((c.rdAM an).psn = false →
        gives (.mac u an ga gb) an ((c.rdAM an).val.toInt + p) ((c.rdAM an).res.toNat + r) ∧
        gives (.msu u an ga gb) an ((c.rdAM an).val.toInt - p) ((c.rdAM an).res.toNat - r))) ∧
    (∀ as : Fin 8, (c.rdA an).psn = false → (c.rdA as).psn = false →
      gives (.aadd u an as) an ((c.rdA an).val.toInt + (c.rdA as).val.toInt) ((c.rdA an).res.toNat + (c.rdA as).res.toNat) ∧
      gives (.asub u an as) an ((c.rdA an).val.toInt - (c.rdA as).val.toInt) ((c.rdA an).res.toNat - (c.rdA as).res.toNat)) ∧
    (∀ as : Fin 8, exec (.amov u an as) s = .next (s.after u
      (if (c.rdA as).psn then stSet c.st stPsn else c.st) (c.resultA an (c.rdA as)))) ∧
    (∀ (q : Fin 4) (a b : Fin 16) (x : Bool) (d : Nat), d = 2 * b.val + (if x then 0 else 1) →
      (c.rdG (2 * a)).isPoison = false → (c.rdG (2 * b)).isPoison = false → (c.rdG (2 * a + 1)).isPoison = false →
      (c.rdG d).isPoison = false →
      exec (.dmac u .mpy .mpy q a b x) s = .next (s.after u c.st
        (c.resultA (2 * q) ⟨BitVec.ofInt 72 ((c.rdG (2 * a)).data.toInt * (c.rdG (2 * b)).data.toInt),
            residueInt ((c.rdG (2 * a)).r * (c.rdG (2 * b)).r), false⟩ ++
         c.resultA (2 * q + 1) ⟨BitVec.ofInt 72 ((c.rdG (2 * a + 1)).data.toInt * (c.rdG d).data.toInt),
            residueInt ((c.rdG (2 * a + 1)).r * (c.rdG d).r), false⟩))) ∧
    (∀ (q : Fin 4) (a b : Fin 16) (x : Bool),
      exec (.dmac u .none .none q a b x) s = .next { s.trap u 2 with free := (s.trap u 2).free + 1 })
  ) ∧
  (
  ∀ (u : Exe) (gd : Fin 32) (an : Fin 8) (sh : BitVec 5) (s : State), (s.core u).live = true →
    -8 ≤ sh.toInt → sh.toInt ≤ 8 →
    let c := s.core u
    let gives (i : Instr) (z : Int) : Prop :=
      let k := roundHalfEven z (31 - sh.toInt).toNat
      exec i s = .next (s.after u (if min32 ≤ k ∧ k ≤ max32 then c.st else stSet (stSet c.st stSat) stV)
        (c.resultG 2 gd (Sinter.ofData (BitVec.ofInt 32 (max min32 (min max32 k))))))
    ((c.rdA an).psn = false → (c.rdA an).res = residueInt (c.rdA an).val.toInt →
      gives (.sta u gd an sh) (c.rdA an).val.toInt) ∧
    (an.val % 2 = 0 → (c.rdA an).psn = false → (c.rdA an).res = residueInt (c.rdA an).val.toInt →
      (c.rdA (an + 1)).psn = false → (c.rdA (an + 1)).res = residueInt (c.rdA (an + 1)).val.toInt →
      gives (.staP u gd an sh) ((c.rdA an).val.toInt + (c.rdA (an + 1)).val.toInt)) ∧
    (an.val % 2 = 1 → exec (.staP u gd an sh) s = .next { s.trap u 2 with free := (s.trap u 2).free + 1 })
  )

/-- R103 to R105, R142, R163, R164: a taken branch goes to its target and ends the loops whose bodies the target leaves; a branch
that is not taken changes nothing; `call` pushes the address of the next bundle and `ret` takes it back, and neither ends a loop; a
taken transfer costs 2 cycles.  A ninth call, a return from an empty stack, and a transfer in the last bundle of a body trap.

R102 to R106, R161, R162: a `loop` that fits opens a loop at the next level with its count; a count of 0 goes past the body; a
poison or faulty count, a fourth level, a body beyond the last bundle and one that leaves the enclosing body trap.  At the end of
the innermost body the loop repeats while more than one iteration remains, at no cost where its body is in the loop buffer; else it
ends; elsewhere the next bundle follows. -/
def Obligations.FlowAndLoops : Prop :=
  (
  ∀ (u : Exe) (t : BitVec 12) (k : BrCond) (s : State), (s.core u).live = true →
    let c := s.core u
    let goes (i : Instr) (d : Core) : Prop := ∃ r, exec i s = .next r ∧ Continues u d 2 s r
    let traps (i : Instr) (n : Nat) : Prop := exec i s = .next { s.trap u n with free := (s.trap u n).free + 1 }
    (c.atLoopEnd = true → traps (.br u t) 2 ∧ traps (.bcc u k t) 2 ∧ traps (.call u t) 2 ∧ traps (.ret u) 2) ∧
    (c.atLoopEnd = false →
      goes (.br u t) { c with
        npc := targetOf u c.pc t
        loops := c.loops.takeWhile (fun l => decide (l.first ≤ targetOf u c.pc t ∧ targetOf u c.pc t ≤ l.last)) } ∧
      (branchHolds c.stRead k = true → goes (.bcc u k t) { c with
        npc := targetOf u c.pc t
        loops := c.loops.takeWhile (fun l => decide (l.first ≤ targetOf u c.pc t ∧ targetOf u c.pc t ≤ l.last)) }) ∧
      (branchHolds c.stRead k = false → exec (.bcc u k t) s = .next { s.setCore u c with free := s.free + 1 }) ∧
      (c.stack.length < 8 → goes (.call u t) { c with stack := (c.pc + 1) :: c.stack, npc := targetOf u c.pc t }) ∧
      (8 ≤ c.stack.length → traps (.call u t) 5) ∧
      (∀ a rest, c.stack = a :: rest → goes (.ret u) { c with stack := rest, npc := a }) ∧
      (c.stack = [] → traps (.ret u) 5))
  ) ∧
  (
  ∀ (u : Exe) (form : LoopForm) (s : State), (s.core u).live = true →
    let c := s.core u
    let stop := c.pc + loopBody form
    let traps (n : Nat) : Prop := exec (.loop u form) s = .next { s.trap u n with free := (s.trap u n).free + 1 }
    (c.atLoopEnd = false →
      (c.loopCount form = none → traps 6) ∧
      (∀ n, c.loopCount form = some n →
        ((lastBundle u < stop ∨ ∃ l ∈ c.loops, l.last < stop) → traps 2) ∧
        (stop ≤ lastBundle u → (∀ l ∈ c.loops, stop ≤ l.last) →
          (n = 0 → ∃ r, exec (.loop u form) s = .next r ∧ Continues u { c with npc := stop + 1 } 2 s r) ∧
          (0 < n → 3 ≤ c.loops.length → traps 4) ∧
          (0 < n → c.loops.length < 3 → exec (.loop u form) s = .next { s.setCore u { c with
            loops := c.loops ++ [⟨c.pc + 1, stop⟩]
            c := c.c.upd none (32 + c.loops.length) (some (BitVec.ofNat 16 n))
            lbuf := if loopBody form ≤ 64 then some ⟨c.pc + 1, stop⟩ else c.lbuf } with free := s.free + 1 })))) ∧
    (∀ (outer : List Loop) (l : Loop), c.loops = outer ++ [l] → l.last = c.pc → 2 ≤ (c.lc outer.length).toNat →
      ∃ r, exec (.loopBackEdge u) s = .next r ∧ Continues u { c with
        npc := l.first
        c := c.c.upd none (32 + outer.length) (some (c.lc outer.length - 1)) } (if c.buffered l then 0 else 2) s r) ∧
    (∀ (outer : List Loop) (l : Loop), c.loops = outer ++ [l] → l.last = c.pc → (c.lc outer.length).toNat ≤ 1 →
      (∀ m ∈ outer.getLast?, m.last ≠ c.pc) → ∃ r, exec (.loopBackEdge u) s = .next r ∧
        Continues u { c with loops := outer, c := c.c.upd none (32 + outer.length) (some 0) } 0 s r) ∧
    ((∀ l ∈ c.loops.getLast?, l.last ≠ c.pc) → ∃ r, exec (.loopBackEdge u) s = .next r ∧ Continues u c 0 s r)
  )

/-- R55, R97, R165, R177 to R180, R183, R186: a bundle of two good halves that a running cell fetches, or the steward once no
response waits for it, nothing holds it and its path is free, issues if it is legal: the results due land, the address advances and a
cell's task takes one cycle.  A poison or faulty half traps with CAUSE 0x3, an illegal encoding with 0x2; past the last bundle, which
has taken effect, a cell stops with CAUSE 0x2 there.  An error response to the steward's fetch is its exception 9; the response it
waits for is taken first; a unit that is not to fetch does nothing. -/
def Obligations.BundleFetch : Prop :=
  (∀ (p e : Fin 288) (s : State), s.eff p = some e.val →
    let u := Exe.cell p
    let c := s.core u
    let lo := s.ram (imemKey (e / 9) (e % 9) (2 * c.npc))
    let hi := s.ram (imemKey (e / 9) (e % 9) (2 * c.npc + 1))
    let w : BitVec 64 := hi.data ++ lo.data
    let d := { c.land (c.count + 1) with count := c.count + 1, pc := c.npc, npc := c.npc + 1, stRead := c.st, live := true, bundle := w }
    let issued := (s.setCore u d).cycles u 1
    (s.fetches u = true → c.npc ≤ 4095 →
      (lo.ok = true → hi.ok = true → (decodeBundle u w.toNat).isSome = true →
        ∃ t, exec (.bundleFetch u) s = .next t ∧ Continues u d 1 s t) ∧
      (lo.ok = true → hi.ok = true → (decodeBundle u w.toNat).isSome = false →
        exec (.bundleFetch u) s = .next { issued.trap u 2 with free := (issued.trap u 2).free + 1 }) ∧
      ((lo.ok && hi.ok) = false →
        exec (.bundleFetch u) s = .next { issued.trap u 3 with free := (issued.trap u 3).free + 1 })) ∧
    (s.fetches u = true → 4095 < c.npc → ∃ t, exec (.bundleFetch u) s = .next t ∧ (t.cell e).stopped = true ∧
      (t.cell e).core = { c with live := false } ∧ t.bit (Reg.CELLSTAT_TRAPPED (e / 9) (e % 9)) = true ∧
      t.get (Reg.CELLFAULT_CAUSE (e / 9) (e % 9)) = 2 ∧ t.get (Reg.CELLFAULT_ADDR (e / 9) (e % 9)) = 4095) ∧
    (s.fetches u = false → exec (.bundleFetch u) s = .next { s with free := s.free + 1 })) ∧
  (∀ s : State, s.stewardResponse = none →
    let c := s.stw.core
    let lo := (s.bundleAt .steward c.npc).1
    let hi := (s.bundleAt .steward c.npc).2
    let w : BitVec 64 := hi.data ++ lo.data
    let d := { c.land (c.count + 1) with count := c.count + 1, pc := c.npc, npc := c.npc + 1, stRead := c.st, live := true, bundle := w }
    let ready (x : Core) : State := { s with stw := { s.stw with
      stepping := false, waiting := false, fencing := false, xnow := s.stw.xwin, ynow := s.stw.ywin, core := x } }
    (s.stewardHeld = true → exec (.bundleFetch .steward) s = .next { s with free := s.free + 1 }) ∧
    (s.stewardHeld = false → s.fetchBar c.npc = some none → exec (.bundleFetch .steward) s = .next { s with free := s.free + 1 }) ∧
    (s.stewardHeld = false → ∀ code, s.fetchBar c.npc = some (some code) → s.stw.exl = false →
      ∃ t, exec (.bundleFetch .steward) s = .next t ∧ t.stw.ecause = 9 ∧ t.stw.epc = BitVec.ofNat 19 c.npc ∧
        t.stw.eaddr = BitVec.ofNat 40 (stewardFetchAddr c.npc) ∧ t.stw.exl = true ∧ t.mem = s.mem) ∧
    (s.stewardHeld = false → s.fetchBar c.npc = none → c.npc < 2 ^ 19 →
      (lo.ok = true → hi.ok = true → (decodeBundle .steward w.toNat).isSome = true →
        exec (.bundleFetch .steward) s = .next { ready d with free := s.free + 1 }) ∧
      (lo.ok = true → hi.ok = true → (decodeBundle .steward w.toNat).isSome = false →
        exec (.bundleFetch .steward) s = .next { (ready d).trap .steward 2 with free := ((ready d).trap .steward 2).free + 1 }) ∧
      ((lo.ok && hi.ok) = false →
        exec (.bundleFetch .steward) s = .next { (ready d).trap .steward 3 with free := ((ready d).trap .steward 3).free + 1 }))) ∧
  (∀ (s : State) (r : FabResp) (n pc : Nat) (x : Sinter) (l : List Sinter), s.stewardResponse = some r → s.stw.wait = some (r.tag, n + 1, pc) →
    r.code = 0 → r.words = x :: l → ∃ t, exec (.bundleFetch .steward) s = .next t ∧ t.stw.wait = none ∧
      t.stw.core.fly = s.stw.core.fly ++ s.stw.core.resultG 1 n x ∧ t.mem = s.mem)

/-- R94, R126 to R129, R142: `waitp` ends the task: its sticky bits go to CELLSTAT, and the next enabled task is entered with ST but
for SAT_EN clear, accumulators 0, no loop and no return address, or the window's work ends; a task whose count reaches its BUDGET
is flagged and keeps running; `trap` stops the cell with CAUSE 0x1, and is the steward's exception 1; `evt n` raises E(240 + n).  The
steward has no `waitp`; outside a bundle that has issued none of them acts.

R125, R132, CELLPEAK: a table is marked for adoption, a halt is asked for and withdrawn, and the peak is cleared, each by its one
field. -/
def Obligations.TasksAndCellControl : Prop :=
  (
  (∀ (p e : Fin 288) (s : State), s.eff p = some e.val → (s.core (.cell p)).live = true →
    let c := s.cell e
    let st := c.core.st
    ∃ t, exec (.waitp (.cell p)) s = .next t ∧
      t = { s with free := t.free, regs := t.regs, evt := t.evt, cells := t.cells } ∧ (∀ j, j ≠ e.val → t.cell j = s.cell j) ∧
      (t.cell e).ran = c.taskNo :: c.ran ∧
      t.bit (Reg.CELLSTAT_RES (e / 9) (e % 9)) = (s.bit (Reg.CELLSTAT_RES (e / 9) (e % 9)) || st.getLsbD 9) ∧
      t.bit (Reg.CELLSTAT_PSN (e / 9) (e % 9)) = (s.bit (Reg.CELLSTAT_PSN (e / 9) (e % 9)) || st.getLsbD 10) ∧
      t.bit (Reg.CELLSTAT_SAT (e / 9) (e % 9)) = (s.bit (Reg.CELLSTAT_SAT (e / 9) (e % 9)) || st.getLsbD 8) ∧
      t.bit (Reg.CELLSTAT_AOV (e / 9) (e % 9)) = (s.bit (Reg.CELLSTAT_AOV (e / 9) (e % 9)) || st.getLsbD 11) ∧
      (match c.nextTask s.window c.taskNo with
       | some k => (t.cell e).task = some k.idx ∧ (t.cell e).core.npc = k.entry ∧ (t.cell e).core.stack = [] ∧
           (t.cell e).core.loops = [] ∧ (t.cell e).core.st = (if k.satEn then 0x10000 else 0) ∧
           (∀ n, (t.cell e).core.rdA n = Acc.zero) ∧ (t.cell e).core.live = false
       | none => (t.cell e).task = none ∧ (t.cell e).core.live = false)) ∧
  (∀ (p e : Fin 288) (k : Task) (s : State), s.eff p = some e.val → (s.cell e).runningTask s.window = some k → k.idx < 32 →
    k.budget ≤ (s.cell e).taskCyc → ∃ t, exec (.taskBudgetReached p) s = .next t ∧
      t.bit (Reg.CELLSTAT_OVER_BUDGET (e / 9) (e % 9)) = true ∧ t.get (Reg.CELLSTAT_BUDGET_TASK (e / 9) (e % 9)) = k.idx ∧
      (t.cell e).core = (s.cell e).core ∧ (t.cell e).stopped = (s.cell e).stopped ∧ t.mem = s.mem) ∧
  (∀ (p e : Fin 288) (s : State), s.eff p = some e.val → (s.core (.cell p)).live = true →
    ∃ t, exec (.trap (.cell p)) s = .next t ∧ (t.cell e).stopped = true ∧ t.mem = s.mem ∧
      t.bit (Reg.CELLSTAT_TRAPPED (e / 9) (e % 9)) = true ∧ t.get (Reg.CELLFAULT_CAUSE (e / 9) (e % 9)) = 1 ∧
      t.get (Reg.CELLFAULT_ADDR (e / 9) (e % 9)) = (s.core (.cell p)).pc % 4096) ∧
  (∀ (u : Exe) (n : Fin 16) (s : State), (s.core u).live = true → s.evt.inReset = false →
    ∃ t, exec (.evt u n) s = .next t ∧ Raises [240 + n.val] [] s t) ∧
  (∀ s : State, s.stw.core.live = true →
    exec (.waitp .steward) s = .next { s.trap .steward 2 with free := (s.trap .steward 2).free + 1 } ∧
    (s.stw.exl = false → ∃ t, exec (.trap .steward) s = .next t ∧ t.stw.ecause = 1 ∧ t.stw.exl = true ∧ t.mem = s.mem ∧
      t.stw.epc = BitVec.ofNat 19 s.stw.core.pc)) ∧
  (∀ (u : Exe) (n : Fin 16) (s : State), (s.core u).live = false →
    ∀ i ∈ [Instr.waitp u, .trap u, .evt u n], exec i s = .next { s with free := s.free + 1 })
  ) ∧
  (
  ∀ (w : Fin 256) (s : State),
    (∃ t, exec (.ttApply w) s = .next t ∧ OnlyRegs [Reg.CELLSTAT_TT_PENDING (w / 8) (w % 8)] s t ∧
      t.bit (Reg.CELLSTAT_TT_PENDING (w / 8) (w % 8)) = true) ∧
    (∃ t, exec (.cellHalt w) s = .next t ∧ OnlyRegs [Reg.CELLCTL_HALT (w / 8) (w % 8)] s t ∧
      t.bit (Reg.CELLCTL_HALT (w / 8) (w % 8)) = true) ∧
    (∃ t, exec (.cellRun w) s = .next t ∧ OnlyRegs [Reg.CELLCTL_HALT (w / 8) (w % 8)] s t ∧
      t.bit (Reg.CELLCTL_HALT (w / 8) (w % 8)) = false) ∧
    (∃ t, exec (.cellpeakClr w) s = .next t ∧ OnlyRegs [Reg.CELLPEAK_PEAK (w / 8) (w % 8)] s t ∧
      t.get (Reg.CELLPEAK_PEAK (w / 8) (w % 8)) = 0)
  )

/-- R92, R101, R112, R114, R118 to R120, R139, R167, R172, R175, R182: loads: the word read goes to Gd after 2 bundles, 3 from a bank,
and the pointer is post-modified; a load into G0 makes no access; poison sets PSN.  `sin` reads the staged input in S1 and the bus in
S3, silence where the bus is absent; an unaligned bank load gives the four bytes from the byte on that M names, poison where a word of
them is bad or, with cause 8, the two rotators disagree.  The steward has neither `sin`, `ld.u` nor a Z slot.

R66, R109, R113, R115, R121, R124, R168, R170, R174: stores: a word that passes its check is stored at the address the pointer
gives and nowhere else, and the pointer is post-modified; a faulty one is stored as poison, as is a poison or mismatched accumulator;
a shift out of range traps.  `sout` writes the slot whose declared writer the cell is, in the frame its task works on, poison with
E104, and nothing where the slot is absent; `mtap` passes a sample to the point whose word names the cell and is else refused; an
atomic operation stores and returns the old word, and stores poison, noted in PSN, where a word is bad or its two residues disagree. -/
def Obligations.LoadsAndStores : Prop :=
  (
  ∀ (u : Exe) (gd : Fin 32) (pn b : Fin 8) (am : BitVec 4) (a2 : BitVec 2) (dup : Bool) (s : State), (s.core u).live = true →
    let c := s.core u
    let p := (c.p pn).toNat
    let gives (i : Instr) (lat : Nat) (m : List InFlight) (x : Sinter) : Prop := exec i s = .next (s.after u
      (if x.isPoison then stSet c.st stPsn else c.st) (m ++ c.resultG lat gd x))
    (gd.val ≠ 0 → gives (.ldX u gd pn am) 2 (c.resultP pn (c.am4 am)) (s.ram (s.xyKey u false p)) ∧
      gives (.ldY u gd pn am) 2 (c.resultP pn (c.am4 am)) (s.ram (s.xyKey u true p))) ∧
    (gd.val = 0 → ∀ i ∈ [Instr.ldX u gd pn am, .ldY u gd pn am], exec i s = .next { s with free := s.free + 1 }) ∧
    (u = .steward → ∀ i ∈ [Instr.sin u gd pn am, .ldUX u gd pn a2, .ldUY u gd pn a2, .ldUZ u gd b pn dup],
      exec i s = .next { s.trap u 2 with free := (s.trap u 2).free + 1 }) ∧
    (u = .steward → gd.val = 0 → exec (.ldZ u gd b pn a2) s = .next { s with free := s.free + 1 }) ∧
    (∀ q e : Fin 288, u = .cell q → s.eff q = some e.val →
      let lo := s.ram (bankKey (e / 9) b p)
      let hi := s.ram (bankKey (e / 9) b ((p + 1) % 65536))
      (gd.val = 0 → ∀ i ∈ [Instr.sin u gd pn am, .ldUX u gd pn a2, .ldUY u gd pn a2, .ldZ u gd b pn a2, .ldUZ u gd b pn dup],
        exec i s = .next { s with free := s.free + 1 }) ∧
      (gd.val ≠ 0 → gives (.sin u gd pn am) 2 (c.resultP pn (c.am4 am))
        (if (s.cell e).isS3 s.window then (if s.nBus ≤ p / 16 % 512 then Sinter.zero else s.busRead s.window (p / 16 % 512) (p % 16))
         else s.stagedInput e (s.window - 1) (p / 16 % 64) (p % 16))) ∧
      (gd.val ≠ 0 → s.bankOwner (e / 9) b = e % 9 → c.amoBusy b p = false →
        (s.bankMode (e / 9) b ≠ 3 → gives (.ldZ u gd b pn a2) 3 (c.resultP pn (c.am2 pn a2)) lo) ∧
        (s.bankMode (e / 9) b = 1 →
          (lo.ok = true → hi.ok = true → gives (.ldUZ u gd b pn false) 3 [] (Sinter.ofData (BitVec.extractLsb'
            (8 * ((c.m pn).toNat % 4)) 32 (hi.data ++ lo.data)))) ∧
          ((lo.ok && hi.ok) = false → ∃ x : Sinter, x.isPoison = true ∧ gives (.ldUZ u gd b pn false) 3 [] x) ∧
          (s.evt.inReset = false → ∃ t x, exec (.ldUZ u gd b pn true) s = .next t ∧ x.isPoison = true ∧
            (t.cell e).core.fly = c.fly ++ c.resultG 3 gd x ∧ (t.cell e).core.st.getLsbD stRes = true ∧
            (t.cell e).stopped = (s.cell e).stopped ∧ t.get (Reg.CELLFAULT_CAUSE (e / 9) (e % 9)) = 8 ∧ t.evtStat 97 = true ∧
            t.mem = s.mem))))
  ) ∧
  (
  ∀ (u : Exe) (gs : Fin 32) (an pn b : Fin 8) (am : BitVec 4) (a2 : BitVec 2) (sh : BitVec 5) (s : State), (s.core u).live = true →
    let c := s.core u
    let p := (c.p pn).toNat
    let x := c.rdG gs
    (x.faulty = false →
      (∃ t, exec (.stX u pn am gs) s = .next t ∧
        Stores (s.xyKey u false p) x (s.after u c.st (c.resultP pn (c.am4 am))) t) ∧
      (∃ t, exec (.stY u pn am gs) s = .next t ∧
        Stores (s.xyKey u true p) x (s.after u c.st (c.resultP pn (c.am4 am))) t)) ∧
    (x.faulty = true →
      (∃ t, exec (.stX u pn am gs) s = .next t ∧ (t.ram (s.xyKey u false p)).isPoison = true ∧
        ∀ j, j ≠ s.xyKey u false p → t.ram j = s.ram j) ∧
      (∃ t, exec (.stY u pn am gs) s = .next t ∧ (t.ram (s.xyKey u true p)).isPoison = true ∧
        ∀ j, j ≠ s.xyKey u true p → t.ram j = s.ram j)) ∧
    (¬(-8 ≤ sh.toInt ∧ sh.toInt ≤ 8) → ∀ i ∈ [Instr.staX u an sh pn, .staY u an sh pn],
      exec i s = .next { s.trap u 2 with free := (s.trap u 2).free + 1 }) ∧
    (-8 ≤ sh.toInt → sh.toInt ≤ 8 → (c.rdA an).psn = true ∨ (c.rdA an).res ≠ residueInt (c.rdA an).val.toInt →
      (∃ t, exec (.staX u an sh pn) s = .next t ∧ (t.ram (s.xyKey u false p)).isPoison = true ∧
        ∀ j, j ≠ s.xyKey u false p → t.ram j = s.ram j) ∧
      (∃ t, exec (.staY u an sh pn) s = .next t ∧ (t.ram (s.xyKey u true p)).isPoison = true ∧
        ∀ j, j ≠ s.xyKey u true p → t.ram j = s.ram j)) ∧
    (u = .steward → ∀ i ∈ [Instr.sout u pn am gs, .mtap u pn a2 gs, .stZ u gs b pn a2, .amoAdd u gs b pn false, .amoSwap u gs b pn],
      exec i s = .next { s.trap u 2 with free := (s.trap u 2).free + 1 }) ∧
    (-8 ≤ sh.toInt → sh.toInt ≤ 8 → (c.rdA an).psn = false → (c.rdA an).res = residueInt (c.rdA an).val.toInt →
      let k := roundHalfEven (c.rdA an).val.toInt (31 - sh.toInt).toNat
      let y := Sinter.ofData (BitVec.ofInt 32 (max min32 (min max32 k)))
      let d := s.after u (if min32 ≤ k ∧ k ≤ max32 then c.st else stSet (stSet c.st stSat) stV) (c.resultP pn ⟨1, false⟩)
      (∃ t, exec (.staX u an sh pn) s = .next t ∧ Stores (s.xyKey u false p) y d t) ∧
      (∃ t, exec (.staY u an sh pn) s = .next t ∧ Stores (s.xyKey u true p) y d t)) ∧
    (∀ (q e : Fin 288), u = .cell q → s.eff q = some e.val → x.faulty = false →
      (x.isPoison = false → (if (s.cell e).isS3 s.window then s.nEgr else s.nSrc) ≤ p / 16 % 1024 →
        exec (.sout u pn am gs) s = .next (s.after u c.st (c.resultP pn (c.am4 am)))) ∧
      (x.isPoison = true → s.evt.inReset = false → (s.cell e).once.contains 104 = false →
        ∃ t, exec (.sout u pn am gs) s = .next t ∧ t.evtStat 104 = true ∧ t.mem = s.mem) ∧
      (x.isPoison = false → p / 16 % 1024 < (if (s.cell e).isS3 s.window then s.nEgr else s.nSrc) →
        s.writerOk ((s.cell e).isS3 s.window) (workOf e) (p / 16 % 1024) = true →
        let f := 16 * (s.window + 4 - (if (s.cell e).isS3 s.window then 3 else 1)) + p % 16
        let d := s.after u c.st (c.resultP pn (c.am4 am))
        exec (.sout u pn am gs) s = .next (if (s.cell e).isS3 s.window then
          { d with eng := { d.eng with egr := d.eng.egr.upd none (slotKey f (p / 16 % 1024)) (some x) } }
          else { d with eng := { d.eng with src := d.eng.src.upd none (slotKey f (p / 16 % 1024)) (some x) } })) ∧
      (s.bankOwner (e / 9) b = e % 9 → c.amoBusy b p = false →
        (s.bankMode (e / 9) b ≠ 3 → ∃ t, exec (.stZ u gs b pn a2) s = .next t ∧
          Stores (bankKey (e / 9) b p) x (s.after u c.st (c.resultP pn (c.am2 pn a2))) t) ∧
        (s.bankMode (e / 9) b = 2 → (s.ram (bankKey (e / 9) b p)).ok = true → x.ok = true →
          let old := s.ram (bankKey (e / 9) b p)
          let z := old.data.toInt + x.data.toInt
          let d : State := { s.setCore u { c with amo := some (b.val, p / 2 % 8, c.count), fly := c.fly ++ c.resultG 3 gs old } with
            free := s.free + 1 }
          (∃ t, exec (.amoAdd u gs b pn false) s = .next t ∧
            Stores (bankKey (e / 9) b p) (Sinter.ofData (BitVec.ofInt 32 (max min32 (min max32 z)))) d t) ∧
          (∃ t, exec (.amoAdd u gs b pn true) s = .next t ∧ (t.ram (bankKey (e / 9) b p)).isPoison = true ∧
            (∀ j, j ≠ bankKey (e / 9) b p → t.ram j = s.ram j) ∧ (t.cell e).core.fly = c.fly ++ c.resultG 3 gs old ∧
            (t.cell e).core.st.getLsbD stPsn = true ∧ t.get (Reg.CELLFAULT_CAUSE (e / 9) (e % 9)) = 7) ∧
          (∃ t, exec (.amoSwap u gs b pn) s = .next t ∧ Stores (bankKey (e / 9) b p) x d t)) ∧
        (s.bankMode (e / 9) b = 2 → ((s.ram (bankKey (e / 9) b p)).ok && x.ok) = false →
          ∃ t, exec (.amoAdd u gs b pn false) s = .next t ∧ (t.ram (bankKey (e / 9) b p)).isPoison = true ∧
            (∀ j, j ≠ bankKey (e / 9) b p → t.ram j = s.ram j) ∧ (t.cell e).core.st.getLsbD stPsn = true))) ∧
    (∀ (q e : Fin 288), u = .cell q → s.eff q = some e.val →
      let f := s.workFrame ((s.cell e).isS3 s.window) (p % 16)
      let w := s.srcWord (p / 16) ((f - 64) / 16)
      (srcKind w = 1 → srcCell w = workOf e →
        let d := s.after u c.st (c.resultP pn (c.am2 pn a2))
        exec (.mtap u pn a2 gs) s = .next { d with mtr := { d.mtr with taps := d.mtr.taps.upd none (slotKey f (p / 16)) (some x) } }) ∧
      (¬(srcKind w = 1 ∧ srcCell w = workOf e) → ∃ t, exec (.mtap u pn a2 gs) s = .next t ∧ t.mtr = s.mtr ∧ t.mem = s.mem ∧
        t.bit Reg.MTRSTAT_REFUSED = true))
  )

/-- R58, R64, R67, R100, R121: refused accesses: an unaligned load aimed at X or Y memory, a bank access by a cell that does not own
the bank, and one its mode does not allow return poison, store nothing, and are recorded in MEMFAULT with E160 or E161; a `sout` to a
slot of another writer is discarded with E100.  The latency and MEMFAULT.WORD of a refused X or Y access are the model's (log 200). -/
def Obligations.RefusedAccesses : Prop :=
  ∀ (q e : Fin 288) (gd : Fin 32) (pn b : Fin 8) (a2 : BitVec 2) (am : BitVec 4) (s : State), s.eff q = some e.val →
    let u := Exe.cell q
    let c := s.core u
    let p := (c.p pn).toNat
    let rec' := [Reg.MEMFAULT_TARGET (e / 9), Reg.MEMFAULT_REQ (e / 9), Reg.MEMFAULT_KIND (e / 9), Reg.MEMFAULT_WORD (e / 9)]
    c.live = true → s.evt.inReset = false →
    (gd.val ≠ 0 →
      (∃ t x, exec (.ldUX u gd pn a2) s = .next t ∧ x.isPoison = true ∧
        Raises [161] rec' (s.after u (stSet c.st stPsn) (c.resultP pn (c.am2 pn a2) ++ c.resultG 2 gd x)) t ∧
        t.get (Reg.MEMFAULT_TARGET (e / 9)) = 17 + e % 9 ∧ t.get (Reg.MEMFAULT_KIND (e / 9)) = 1) ∧
      (∃ t x, exec (.ldUY u gd pn a2) s = .next t ∧ x.isPoison = true ∧
        Raises [161] rec' (s.after u (stSet c.st stPsn) (c.resultP pn (c.am2 pn a2) ++ c.resultG 2 gd x)) t ∧
        t.get (Reg.MEMFAULT_TARGET (e / 9)) = 26 + e % 9 ∧ t.get (Reg.MEMFAULT_KIND (e / 9)) = 1) ∧
      (s.bankOwner (e / 9) b ≠ e % 9 → ∃ t x, exec (.ldZ u gd b pn a2) s = .next t ∧ x.isPoison = true ∧
        Raises [160] rec' (s.after u (stSet c.st stPsn) (c.resultP pn (c.am2 pn a2) ++ c.resultG 3 gd x)) t ∧
        t.get (Reg.MEMFAULT_TARGET (e / 9)) = b ∧ t.get (Reg.MEMFAULT_REQ (e / 9)) = e % 9 ∧
        t.get (Reg.MEMFAULT_KIND (e / 9)) = 0 ∧ t.get (Reg.MEMFAULT_WORD (e / 9)) = p) ∧
      (s.bankOwner (e / 9) b = e % 9 → s.bankMode (e / 9) b ≠ 1 → ∃ t x, exec (.ldUZ u gd b pn false) s = .next t ∧
        x.isPoison = true ∧ Raises [161] rec' (s.after u (stSet c.st stPsn) (c.resultG 3 gd x)) t ∧
        t.get (Reg.MEMFAULT_KIND (e / 9)) = 1) ∧
      (s.bankOwner (e / 9) b = e % 9 → s.bankMode (e / 9) b ≠ 2 → ∀ i ∈ [Instr.amoAdd u gd b pn false, .amoSwap u gd b pn],
        ∃ t x, exec i s = .next t ∧ x.isPoison = true ∧ Raises [161] rec' (s.after u (stSet c.st stPsn) (c.resultG 3 gd x)) t ∧
          t.get (Reg.MEMFAULT_KIND (e / 9)) = 1) ∧
      (s.bankOwner (e / 9) b = e % 9 → (s.bankMode (e / 9) b = 3 ∨ c.amoBusy b p = true) → ∃ t x, exec (.ldZ u gd b pn a2) s = .next t ∧
        x.isPoison = true ∧ Raises [161] rec' (s.after u (stSet c.st stPsn) (c.resultP pn (c.am2 pn a2) ++ c.resultG 3 gd x)) t ∧
        t.get (Reg.MEMFAULT_KIND (e / 9)) = 1)) ∧
    ((c.rdG gd).faulty = false → s.bankOwner (e / 9) b ≠ e % 9 → ∃ t, exec (.stZ u gd b pn a2) s = .next t ∧
      Raises [160] rec' (s.after u c.st (c.resultP pn (c.am2 pn a2))) t) ∧
    ((c.rdG gd).good = true → p / 16 % 1024 < (if (s.cell e).isS3 s.window then s.nEgr else s.nSrc) →
      s.writerOk ((s.cell e).isS3 s.window) (workOf e) (p / 16 % 1024) = false →
      ∃ t, exec (.sout u pn am gd) s = .next t ∧ Raises [100] [] (s.after u c.st (c.resultP pn (c.am4 am))) t)

/-- R96, R101, R122, R123, R139, R173, R242, R253: `pget` delivers the parameter whose PID the base and the pointer give, as it
stands in its frame; `pget.twin` delivers its three words, the value twice with full weight where no change has set it.  U = 1 leaves
the pointer, else it is post-modified, also for Gd = G0; a poison or faulty base traps with CAUSE 0x6, whatever Gd is; where Geyser's
check fails the words are poison; G0 and G30 up have no twin form, and the steward has neither. -/
def Obligations.ParameterReads : Prop :=
  ∀ (gd : Fin 32) (sr pn : Fin 8) (hold bad : Bool) (s : State),
    (∀ q e : Fin 288, s.eff q = some e.val →
      let u := Exe.cell q
      let c := s.core u
      let base := c.rdG (24 + sr)
      let pid := (base.data.toNat % 2 ^ 21 + (c.p pn).toNat / 16) % 2 ^ 21
      let f := s.workFrame ((s.cell e).isS3 s.window) ((c.p pn).toNat % 16) - 64
      let m := if hold then [] else c.resultP pn ⟨(c.m pn).toInt, false⟩
      let st := if (s.valueAt pid f).isPoison then stSet c.st stPsn else c.st
      c.live = true →
      (base.ok = true →
        exec (.pget u gd sr pn hold false) s = .next (s.after u st (m ++ c.resultG 3 gd (s.valueAt pid f))) ∧
        (∃ t x, exec (.pget u gd sr pn hold true) s = .next t ∧ x.isPoison = true ∧
          (t.cell e).core.fly = c.fly ++ m ++ c.resultG 3 gd x ∧ (t.cell e).core.st.getLsbD stPsn = true) ∧
        (1 ≤ gd.val → gd.val ≤ 29 →
          (∃ st, exec (.pgetTwin u gd sr pn hold false) s = .next (s.after u st
            (m ++ c.resultG 3 gd (s.twinWords pid f).1 ++ c.resultG 3 (gd + 1) (s.twinWords pid f).2.1 ++
              c.resultG 3 (gd + 2) (Sinter.ofData (s.twinWords pid f).2.2)))) ∧
          (∃ t x, exec (.pgetTwin u gd sr pn hold true) s = .next t ∧ x.isPoison = true ∧
            (t.cell e).core.fly = c.fly ++ (m ++ c.resultG 3 gd x ++ c.resultG 3 (gd + 1) x ++ c.resultG 3 (gd + 2) x))) ∧
        ((s.gys.chg.look [] pid).find? (fun x => decide (x.first ≤ f)) = none → s.twinWords pid f =
          (s.valueAt pid f, s.valueAt pid f, 0x7FFFFFFF))) ∧
      (base.ok = false → exec (.pget u gd sr pn hold bad) s = .next { s.trap u 6 with free := (s.trap u 6).free + 1 } ∧
        (1 ≤ gd.val → gd.val ≤ 29 → exec (.pgetTwin u gd sr pn hold bad) s = .next { s.trap u 6 with free := (s.trap u 6).free + 1 })) ∧
      (gd.val = 0 ∨ 29 < gd.val → exec (.pgetTwin u gd sr pn hold bad) s =
        .next { s.trap u 2 with free := (s.trap u 2).free + 1 })) ∧
    (s.stw.core.live = true → ∀ i ∈ [Instr.pget .steward gd sr pn hold bad, .pgetTwin .steward gd sr pn hold bad],
      exec i s = .next { s.trap .steward 2 with free := (s.trap .steward 2).free + 1 })

/-- R46, R113, R180, R183 to R186, R500, R506: the steward's loads and stores issue one beat to FAH:Ga from its port: a load and a
closing store wait for their response, a store is posted; where the fabric answers at once the response is there and no request.  A
faulty word goes as poison with exception 0x7; a poison or faulty address takes exception 0x6 and issues nothing. -/
def Obligations.StewardAccesses : Prop :=
  ∀ (g ga gs : Fin 32) (s : State), s.stw.core.live = true →
    let a := 2 ^ 32 * s.stw.fah.toNat + (s.stw.core.rdG ga).data.toNat
    let c := s.stw.core
    let sends (i : Instr) (op : FabOp) (ws : List Sinter) (w : Option (Nat × Nat × Nat)) (ps : List (Nat × Nat)) : Prop :=
      ∃ r : FabReq, r.master = 0 ∧ r.op = op ∧ r.addr = a ∧ r.beats = 1 ∧ r.words = ws ∧ r.granted = false ∧ r.tag = s.free ∧
        exec i s = .next { s with
          free := s.free + 1
          stw := { s.stw with wait := w, posted := ps }
          fab := { s.fab with reqs := s.fab.reqs ++ [r] } }
    let answered (i : Instr) (code : Nat) : Prop := ∃ t, exec i s = .next t ∧ t.fab.reqs = s.fab.reqs ∧ t.mem = s.mem ∧
      ∃ r ∈ t.fab.resps, r.master = 0 ∧ r.code = code ∧ r.addr = a ∧ r.tag = s.free
    ((c.rdG ga).ok = true → s.portIssues 0 = true → s.answeredAtOnce a 1 true true = none →
      sends (.fld g ga) .read [] (some (s.free, g + 1, c.pc)) s.stw.posted ∧
      sends (.fldl g ga) .lockedRead [] (some (s.free, g + 1, c.pc)) s.stw.posted ∧
      ((c.rdG gs).faulty = false →
        sends (.fst ga gs) .write [c.rdG gs] s.stw.wait (s.stw.posted ++ [(s.free, c.pc)]) ∧
        sends (.fstu ga gs) .closingWrite [c.rdG gs] (some (s.free, 0, c.pc)) s.stw.posted) ∧
      ((c.rdG gs).faulty = true → s.stw.exl = false → ∀ i ∈ [Instr.fst ga gs, .fstu ga gs], ∃ t r x, exec i s = .next t ∧
        t.fab.reqs = s.fab.reqs ++ [r] ∧ r.addr = a ∧ r.words = [x] ∧ x.isPoison = true ∧ t.stw.ecause = 7 ∧ t.stw.exl = true ∧
        t.stw.epc = BitVec.ofNat 19 c.pc)) ∧
    ((c.rdG ga).ok = true → s.portIssues 0 = true → ∀ code, s.answeredAtOnce a 1 true true = some code →
      ∀ i ∈ [Instr.fld g ga, .fldl g ga, .fst ga gs, .fstu ga gs], answered i code) ∧
    ((c.rdG ga).ok = false → ∀ i ∈ [Instr.fld g ga, .fldl g ga, .fst ga gs, .fstu ga gs],
      exec i s = .next { s.trap .steward 6 with free := (s.trap .steward 6).free + 1 })

/-- R114, R183, R184, R186, the steward control registers: `fence`, `wfe`, `ei` and `di` set their one bit; `mtcs` writes the register its code
names, the read-only ones keeping their value; `mfcs` gives each register zero-extended, or poison with exception 8 where the copies
of its unit disagree; a poison or faulty Gs takes exception 6, an unassigned register 2.

R105, R183, R184, R186, R571: `jr` and `jalr` jump to the low 19 bits of a good register, the second pushing the next bundle;
`eret` goes on at EPC with IE from PIE and EXL clear; an event taken saves the next bundle in EPC, its vector in EINFO and IE in PIE,
clears IE, sets EXL and goes on at VBASE + 16 * 0xB.  In the last bundle of a loop body the three trap, a bad register is exception
6, a ninth call 5; an event that is not pending, or that the steward may not take, changes nothing. -/
def Obligations.StewardRegistersAndJumps : Prop :=
  (
  ∀ (gd gs : Fin 32) (s : State), s.stw.core.live = true →
    let x := (s.stw.core.rdG gs).data
    let goes (w : Steward) : Host.Outcome State Fault Refusal := .next { s with free := s.free + 1, stw := w }
    exec .fence s = goes { s.stw with fencing := true } ∧ exec .wfe s = goes { s.stw with waiting := true } ∧
    exec .ei s = goes { s.stw with ie := true } ∧ exec .di s = goes { s.stw with ie := false } ∧
    ((s.stw.core.rdG gs).ok = true →
      exec (.mtcs 0 gs) s = goes { s.stw with ie := x.getLsbD 0, pie := x.getLsbD 1, exl := x.getLsbD 2 } ∧
      exec (.mtcs 1 gs) s = goes { s.stw with epc := x.extractLsb' 0 19 } ∧
      exec (.mtcs 4 gs) s = goes { s.stw with vbase := x.extractLsb' 0 19 } ∧
      exec (.mtcs 5 gs) s = goes { s.stw with fah := x.extractLsb' 0 8 } ∧
      exec (.mtcs 6 gs) s = goes { s.stw with xwin := x.extractLsb' 0 4 } ∧
      exec (.mtcs 7 gs) s = goes { s.stw with ywin := x.extractLsb' 0 4 } ∧
      ∀ k ∈ [2#5, 3#5, 8#5, 9#5], exec (.mtcs k gs) s = goes s.stw) ∧
    (∀ k : BitVec 5, 9 < k.toNat → ∀ i ∈ [Instr.mtcs k gs, .mfcs gd k false],
      exec i s = .next { s.trap .steward 2 with free := (s.trap .steward 2).free + 1 }) ∧
    (s.stw.exl = false → ∀ k : BitVec 5, k.toNat ≤ 9 → ∃ t x, exec (.mfcs gd k true) s = .next t ∧ x.isPoison = true ∧
      t.stw.core.fly = s.stw.core.fly ++ s.stw.core.resultG 1 gd x ∧ t.stw.ecause = 8 ∧ t.stw.exl = true) ∧
    ((s.stw.core.rdG gs).ok = false → ∀ k : BitVec 5, k.toNat ≤ 9 →
      exec (.mtcs k gs) s = .next { s.trap .steward 6 with free := (s.trap .steward 6).free + 1 }) ∧
    (∀ p ∈ [(0#5, BitVec.ofNat 32 (s.stw.ie.toNat + 2 * s.stw.pie.toNat + 4 * s.stw.exl.toNat)), (1#5, s.stw.epc.zeroExtend 32),
        (2#5, s.stw.ecause.zeroExtend 32), (3#5, s.stw.einfo.zeroExtend 32), (4#5, s.stw.vbase.zeroExtend 32),
        (5#5, s.stw.fah.zeroExtend 32), (6#5, s.stw.xwin.zeroExtend 32), (7#5, s.stw.ywin.zeroExtend 32),
        (8#5, s.stw.eaddr.extractLsb' 0 32), (9#5, (s.stw.eaddr.extractLsb' 32 8).zeroExtend 32)],
      exec (.mfcs gd p.1 false) s = .next (s.after .steward s.stw.core.st (s.stw.core.resultG 1 gd (Sinter.ofData p.2))))
  ) ∧
  (
  (∀ (ga : Fin 32) (s : State), s.stw.core.live = true → s.stw.core.atLoopEnd = false →
    let c := s.stw.core
    let a := (c.rdG ga).data.toNat % 2 ^ 19
    let goes (w : Steward) : Host.Outcome State Fault Refusal := .next { s with free := s.free + 1, stw := w }
    ((c.rdG ga).ok = true →
      exec (.jr ga) s = goes { s.stw with core := { c with
        npc := a
        loops := c.loops.takeWhile (fun l => decide (l.first ≤ a ∧ a ≤ l.last)) } } ∧
      (c.stack.length < 8 → exec (.jalr ga) s = goes { s.stw with core := { c with stack := (c.pc + 1) :: c.stack, npc := a } })) ∧
    ((c.rdG ga).ok = false → ∀ i ∈ [Instr.jr ga, .jalr ga],
      exec i s = .next { s.trap .steward 6 with free := (s.trap .steward 6).free + 1 }) ∧
    ((c.rdG ga).ok = true → 8 ≤ c.stack.length →
      exec (.jalr ga) s = .next { s.trap .steward 5 with free := (s.trap .steward 5).free + 1 }) ∧
    exec .eret s = goes { s.stw with core := { c with npc := s.stw.epc.toNat }, ie := s.stw.pie, exl := false }) ∧
  (∀ (ga : Fin 32) (s : State), s.stw.core.live = true → s.stw.core.atLoopEnd = true → ∀ i ∈ [Instr.jr ga, .jalr ga, .eret],
    exec i s = .next { s.trap .steward 2 with free := (s.trap .steward 2).free + 1 }) ∧
  (∀ s : State, (s.takesEvents = false ∨ s.evtPend = 0) → exec .stewardEventTaken s = .next { s with free := s.free + 1 }) ∧
  (∀ (s : State) (v : Nat), s.takesEvents = true → v < 32 → s.evtPend.testBit v = true → (∀ u < v, s.evtPend.testBit u = false) →
    exec .stewardEventTaken s = .next { s with
      free := s.free + 1
      stw := { s.stw with
        epc := BitVec.ofNat 19 s.stw.core.npc, ecause := 0xB, einfo := BitVec.ofNat 16 v, pie := s.stw.ie, ie := false, exl := true,
        waiting := false, fencing := false,
        core := { s.stw.core with live := false, npc := (s.stw.vbase.toNat / 16 * 16 + 176) % 2 ^ 19 } } })
  )

/-- R590, R591: the debug access port halts, resumes and steps the steward; the steward opens debug where no fuse disables it,
raising E233, and it or the host closes it; the same writes by another master, and a step of a steward not halted, change nothing. -/
def Obligations.DebugControl : Prop :=
  ∀ s : State,
    (∃ t, exec (.stwHalt 4) s = .next t ∧ OnlyRegs [Reg.DBGCTL_STW_HALT] { s with stw := { s.stw with debug := true } } t ∧
      t.bit Reg.DBGCTL_STW_HALT = true) ∧
    (∃ t, exec (.stwResume 4) s = .next t ∧
      OnlyRegs [Reg.DBGCTL_STW_HALT] { s with stw := { s.stw with debug := false, stepping := false } } t ∧
      t.bit Reg.DBGCTL_STW_HALT = false) ∧
    (s.stw.debug = true → exec (.stwStep 4) s = .next { s with free := s.free + 1, stw := { s.stw with stepping := true } }) ∧
    (s.bit Reg.DBGSTAT_DBG_DIS = false → s.bit Reg.DBGSTAT_OPEN = false → ∃ t, exec (.dbgOpen 0) s = .next t ∧
        Only [] [233] [Reg.DBGCTL_OPEN, Reg.DBGSTAT_OPEN] s t ∧
        (s.evt.inReset = false → s.evt.once.contains 233 = false → t.evtStat 233 = true) ∧
        t.bit Reg.DBGCTL_OPEN = true ∧ t.bit Reg.DBGSTAT_OPEN = true) ∧
    (∀ m : Fin 8, m ≠ 4 → ∀ i ∈ [Instr.stwHalt m, .stwResume m, .stwStep m], exec i s = .next { s with free := s.free + 1 }) ∧
    (s.stw.debug = false → exec (.stwStep 4) s = .next { s with free := s.free + 1 }) ∧
    (∀ m : Fin 8, m ≠ 0 → exec (.dbgOpen m) s = .next { s with free := s.free + 1 }) ∧
    (∀ m : Fin 8, m ≠ 0 → m ≠ 5 → exec (.dbgClose m) s = .next { s with free := s.free + 1 }) ∧
    ((s.bit Reg.DBGSTAT_DBG_DIS = true ∨ s.bit Reg.DBGSTAT_OPEN = true) → exec (.dbgOpen 0) s = .next { s with free := s.free + 1 }) ∧
    (∀ m : Fin 8, m = 0 ∨ m = 5 → ∃ t, exec (.dbgClose m) s = .next t ∧ OnlyRegs [Reg.DBGCTL_OPEN, Reg.DBGSTAT_OPEN] s t ∧
      t.bit Reg.DBGCTL_OPEN = false ∧ t.bit Reg.DBGSTAT_OPEN = false)

/-- R34, R188, R193, R196 to R200, R253: a matrix frame works on frame j of period w - 2 and forms every bus: a bus into which one
crosspoint leads is the product of its coefficient and its sample, rounded half to even by its PRESCALE to 32 bits and saturated; every
other bus is silent.  The bus of a coefficient whose unit's copies disagree, of a crosspoint for which Geyser's check fails, and of an
output whose check fails is poison, flagged.  Before window 2 nothing is worked. -/
def Obligations.MatrixFrame : Prop :=
  (∀ (j : Fin 16) (k b : Nat) (xs : List XpChange) (s : State), 2 ≤ s.window → k < s.nSrc → b < s.nBus →
    s.cal.xp = [(1024 * b + k, xs)] → s.cal.badXp = [] → (∀ i, i < 4 → s.takesPart (islSlice i) s.window = true) →
    (∀ i, i < s.nBus → s.deepAt (s.window - 2) i = false ∧ s.getAt (s.window - 2) (Reg.CALBUS_PRESCALE i) < 5 ∧
      s.getAt (s.window - 2) (Reg.CALBUS_WIDE_OUT i) ≠ 1) →
    let n := 16 * (s.window + 2) + j.val
    let c := xpCoef xs (16 * (s.window - 2) + j)
    let x := s.srcSample s.window k j
    xpPoison xs (16 * (s.window - 2) + j) = false → -2 ^ 31 ≤ c → c ≤ 2 ^ 31 → x.ok = true →
    ∃ t, exec (.calMatrixFrame j none none none) s = .next t ∧
      (t.eng.bus.look none (slotKey n b)).getD Sinter.zero = Sinter.ofData (BitVec.ofInt 32 (max min32 (min max32
        (roundHalfEven (16 * (c * x.data.toInt)) (31 + s.getAt (s.window - 2) (Reg.CALBUS_PRESCALE b)))))) ∧
      (∀ i, i < s.nBus → i ≠ b → t.eng.bus.look none (slotKey n i) = none) ∧
      t.cal.formed.contains n = true ∧ t.cal.xp = s.cal.xp ∧ t.eng.src = s.eng.src ∧ t.eng.egr = s.eng.egr ∧
      Only [.eng, .cal] [144, 152] [Reg.CALSTAT_BUS_SAT, Reg.CALSATBUS_BUS, Reg.CALSATBUS_COUNT, Reg.CALSTAT_BUS_ABSENT] s t) ∧
  (∀ (j : Fin 16) (xp : BitVec 19) (b : Fin 512) (s : State), 2 ≤ s.window →
    let n := 16 * (s.window + 2) + j.val
    let poison (t : State) (i : Nat) : Prop := ((t.eng.bus.look none (slotKey n i)).getD Sinter.zero).isPoison = true
    (xp.toNat / 1024 < s.nBus → s.deepAt (s.window - 2) (xp.toNat / 1024) = false →
      (xpCoef (s.cal.xp.look [] xp.toNat) (16 * (s.window - 2) + j) ≠ 0 →
        s.takesPart (islSlice (s.sliceOf (xp.toNat / 1024))) s.window = true →
        ∃ t, exec (.calMatrixFrame j (some xp) none none) s = .next t ∧ poison t (xp.toNat / 1024) ∧
          t.bit Reg.CALSTAT_RESIDUE = true) ∧
      (∃ t, exec (.calMatrixFrame j none (some xp) none) s = .next t ∧ poison t (xp.toNat / 1024) ∧
        t.bit Reg.GYSSTAT_STATE_FAULT = true)) ∧
    (b.val < s.nBus → s.deepAt (s.window - 2) b = false → s.cal.xp = [] → s.getAt (s.window - 2) (Reg.CALBUS_PRESCALE b) < 5 →
      s.takesPart (islSlice (s.sliceOf b)) s.window = true →
      ∃ t, exec (.calMatrixFrame j none none (some b)) s = .next t ∧ poison t b ∧ t.bit Reg.CALSTAT_RESIDUE = true)) ∧
  (∀ (j : Fin 16) (d g : Option (BitVec 19)) (h : Option (Fin 512)) (s : State), s.window < 2 →
    exec (.calMatrixFrame j d g h) s = .next { s with free := s.free + 1 })

/-- R34, R195, R200, R203, R204, R213, R217, R218: a failed state word of a crosspoint that exists is flagged and raised as E147, makes
poison of the frames of the window worked before it, and in the next window the crosspoint is rebuilt; a ramp's end is marked at its
last frame; a write of CALSATBUS clears its count.  The addition of a received wide sum that has not arrived makes the deep bus poison
with E151, one that has arrived is added and the sum rounded; while its slice takes no part the output is poison.  Outside these
conditions nothing changes. -/
def Obligations.CrosspointUpkeep : Prop :=
  (∀ (xp : BitVec 19) (ok : Bool) (s : State), (ok = true ∨ s.xpExists xp.toNat = false) →
    exec (.xpStateCheck xp ok) s = .next { s with free := s.free + 1 }) ∧
  (∀ (xp : BitVec 19) (s : State), xp.toNat % 1024 < s.nSrc → xp.toNat / 1024 < s.nBus → ∃ t, exec (.xpStateCheck xp false) s = .next t ∧
    Only [.eng, .cal] [147] [Reg.CALSTAT_XP_FAULT, Reg.CALFAULT_XP_XP, Reg.CALFAULT_XP_KIND] s t ∧
    t.cal.xp = s.cal.xp ∧ t.cal.formed = s.cal.formed ∧ t.eng.src = s.eng.src ∧ t.eng.egr = s.eng.egr ∧
    (∀ j : Fin 16,
      (∀ i, i < 512 → i ≠ xp.toNat / 1024 → t.eng.bus.look none (slotKey (16 * (s.window + 2) + j) i) =
        s.eng.bus.look none (slotKey (16 * (s.window + 2) + j) i)) ∧
      (s.cal.formed.contains (16 * (s.window + 2) + j.val) = true → s.deepAt (s.window - 2) (xp.toNat / 1024) = false →
        xpCoef (s.cal.xp.look [] xp.toNat) (16 * (s.window - 2) + j) ≠ 0 →
        ∃ x, t.eng.bus.look none (slotKey (16 * (s.window + 2) + j) (xp.toNat / 1024)) = some x ∧ x.isPoison = true)) ∧
    t.bit Reg.CALSTAT_XP_FAULT = true ∧ t.get Reg.CALFAULT_XP_XP = xp.toNat ∧ t.get Reg.CALFAULT_XP_KIND = 0 ∧
    t.cal.badXp.look 0 xp.toNat = s.window + 1 ∧ (s.evt.inReset = false → s.evt.once.contains 147 = false → t.evtStat 147 = true)) ∧
  (∀ (xp : BitVec 19) (s : State), s.cal.badXp.look 0 xp.toNat = s.window → 2 ≤ s.window →
    ∃ t, exec (.xpRebuild xp) s = .next t ∧ t = { s with free := s.free + 1, cal := t.cal } ∧
      t.cal.xp.look [] xp.toNat = s.xpRebuilt xp.toNat (16 * (s.window - 2)) ∧
      (s.cal.xp.look [] xp.toNat = [] → ∃ x, t.cal.xp.look [] xp.toNat = [x] ∧ x.first = 16 * (s.window - 2) ∧ x.c0 = 0 ∧
        let w := s.valueAt (0x100000 + xp.toNat) (16 * (s.window - 2))
        x.c1 = (if w.ok then xpTarget w.data else 0) ∧ x.law = 4 ∧ x.len = (if x.c1 = 0 then 0 else s.minRamp)) ∧
      (∀ i, i ≠ xp.toNat → t.cal.xp.look [] i = s.cal.xp.look [] i) ∧ t.cal.badXp.look 0 xp.toNat = 0) ∧
  (∀ (xp : BitVec 19) (s : State), (s.cal.badXp.look 0 xp.toNat ≠ s.window ∨ s.window < 2) →
    exec (.xpRebuild xp) s = .next { s with free := s.free + 1 }) ∧
  (∀ (xp : BitVec 19) (x : XpChange) (rest : List XpChange) (s : State), s.cal.xp.look [] xp.toNat = x :: rest →
    (s.frame < x.first + x.len - 1 → exec (.xpRampEnd xp) s = .next { s with free := s.free + 1 }) ∧
    (x.first + x.len - 1 ≤ s.frame → ∃ t, exec (.xpRampEnd xp) s = .next t ∧ t = { s with free := s.free + 1, cal := t.cal } ∧
      t.cal.xp.look [] xp.toNat = { x with ended := true } :: rest ∧
      ∀ i, i ≠ xp.toNat → t.cal.xp.look [] i = s.cal.xp.look [] i)) ∧
  (∀ s : State, ∃ t, exec .calsatbusClear s = .next t ∧ OnlyRegs [Reg.CALSATBUS_COUNT] s t ∧ t.get Reg.CALSATBUS_COUNT = 0) ∧
  (∀ (b : Fin 512) (j : Fin 16) (s : State), 3 ≤ s.window → s.deepAt (s.window - 3) b = true → b.val < s.nBus →
    let n := 16 * (s.window + 1) + j.val
    let a := s.cal.held.look Acc.zero (slotKey n b)
    let k := s.getAt (s.window - 3) (Reg.CALBUS_PRESCALE b)
    let part := s.takesPart (islSlice (s.sliceOf b)) s.window
    (part = false → ∃ t, exec (.deepBusAdd b j) s = .next t ∧ ((t.eng.bus.look none (slotKey n b)).getD Sinter.zero).isPoison = true ∧
      t.cal.held.look Acc.zero (slotKey n b) = Acc.zero ∧ Only [.eng, .cal] [] [] s t) ∧
    (part = true → s.wideSum n (s.getAt (s.window - 3) (Reg.CALBUS_WIDE_CHAN b)) = none →
      ∃ t, exec (.deepBusAdd b j) s = .next t ∧ t.bit Reg.CALSTAT_WIDE_MISSING = true ∧
        ((t.eng.bus.look none (slotKey n b)).getD Sinter.zero).isPoison = true ∧ t.cal.held.look Acc.zero (slotKey n b) = Acc.zero ∧
        Only [.eng, .cal] [151] [Reg.CALSTAT_WIDE_MISSING, Reg.CALFAULT_SLICE, Reg.CALFAULT_BUS, Reg.CALFAULT_FRAME,
          Reg.CALFAULT_KIND] s t) ∧
    (part = true → k < 5 → ∀ (x : Int) (r : Nat), s.wideSum n (s.getAt (s.window - 3) (Reg.CALBUS_WIDE_CHAN b)) = some (x, r) →
      a.psn = false → a.res = residueInt a.val.toInt → (r : Int) % 127 = x % 127 → min72 ≤ a.val.toInt + x → a.val.toInt + x ≤ max72 →
      ∃ t, exec (.deepBusAdd b j) s = .next t ∧
        (t.eng.bus.look none (slotKey n b)).getD Sinter.zero =
          Sinter.ofData (BitVec.ofInt 32 (max min32 (min max32 (roundHalfEven (a.val.toInt + x) (31 + k))))) ∧
        t.cal.held.look Acc.zero (slotKey n b) = Acc.zero ∧ (s.getAt (s.window - 3) (Reg.CALBUS_WIDE_OUT b) ≠ 1 →
          Only [.eng, .cal] [144] [Reg.CALSTAT_BUS_SAT, Reg.CALSATBUS_BUS, Reg.CALSATBUS_COUNT] s t))) ∧
  (∀ (b : Fin 512) (j : Fin 16) (s : State), (s.window < 3 ∨ s.deepAt (s.window - 3) b = false ∨ s.nBus ≤ b.val) →
    exec (.deepBusAdd b j) s = .next { s with free := s.free + 1 })

/-- R226, R228, R229: LOAD latches the directory entry of an unlocked overlay that is not LOADING; in its turn the load ends VALID with
E133 where every check passes and INVALID with its reason and E134 where one fails, the overlay that lies in DRAM being copied first;
DROP empties the entry; a locked overlay is not loaded and not dropped, one that is LOADING not loaded; no load ends out of its turn. -/
def Obligations.Overlays : Prop :=
  (∀ (n : Fin 256) (s : State), s.gys.locks.look 0 n = 0 → s.get (Reg.OVL_STATE n) ≠ 1 →
    ∃ t o, exec (.ovlLoad n) s = .next t ∧ t.get (Reg.OVL_STATE n) = 1 ∧ t.get (Reg.OVL_REASON n) = 0 ∧
      t.gys.ovl.look none n = some o ∧ o.addr = s.get (Reg.OVL_ADDR n) ∧ o.count = s.get (Reg.OVL_COUNT n) ∧
      t.gys.loadq = s.gys.loadq ++ [n.val] ∧ Only [.gys] [] [Reg.OVL_STATE n, Reg.OVL_REASON n] s t) ∧
  (∀ (n : Fin 256) (s : State), s.gys.locks.look 0 n = 0 → ∃ t, exec (.ovlDrop n) s = .next t ∧
    t.get (Reg.OVL_STATE n) = 0 ∧ t.gys.ovl.look none n = none ∧ t.mem = s.mem ∧
    Only [.gys] [] [Reg.OVL_STATE n, Reg.OVL_REASON n] s t) ∧
  (∀ (n : Fin 256) (s : State), s.gys.locks.look 0 n ≠ 0 → exec (.ovlDrop n) s = .next { s with free := s.free + 1 } ∧
    exec (.ovlLoad n) s = .next { s with free := s.free + 1 }) ∧
  (∀ (n : Fin 256) (s : State), s.get (Reg.OVL_STATE n) = 1 → exec (.ovlLoad n) s = .next { s with free := s.free + 1 }) ∧
  (∀ (n : Fin 256) (bad : List (BitVec 20)) (s : State), (s.gys.loadq.head? ≠ some n.val ∨ s.gys.ovl.look none n = none) →
    exec (.ovlLoadDone n bad) s = .next { s with free := s.free + 1 }) ∧
  (∀ (n : Fin 256) (o : OvlLatch) (bad : List (BitVec 20)) (s : State), s.gys.ovl.look none n = some o →
    s.gys.loadq.head? = some n.val → o.loc = true →
    let c := State.ovlCopy o (bad.map BitVec.toNat) (3 * o.count) 0 { s with gys := { s.gys with loadq := s.gys.loadq.tail } }
    let r := if o.modified then 7 else if s.ovlFrame n o ≠ 0 then s.ovlFrame n o else c.ovlEntries o o.count 0 none
    ∃ t, exec (.ovlLoadDone n bad) s = .next t ∧ t.get (Reg.OVL_STATE n) = (if r = 0 then 2 else 3) ∧
      (r ≠ 0 → t.get (Reg.OVL_REASON n) = r) ∧ t.mem = c.mem ∧ t.gys = c.gys) ∧
  (∀ (n : Fin 256) (o : OvlLatch) (bad : List (BitVec 20)) (s : State), s.gys.ovl.look none n = some o →
    s.gys.loadq.head? = some n.val → o.loc = false → s.evt.inReset = false →
    let r := if o.modified then 7 else if s.ovlFrame n o ≠ 0 then s.ovlFrame n o else s.ovlEntries o o.count 0 none
    (r = 0 → ∃ t, exec (.ovlLoadDone n bad) s = .next t ∧ t.get (Reg.OVL_STATE n) = 2 ∧ t.evtStat 133 = true ∧
      t.gys.loadq = s.gys.loadq.tail ∧ Only [.gys] [133] [Reg.OVL_STATE n] s t) ∧
    (r ≠ 0 → ∃ t, exec (.ovlLoadDone n bad) s = .next t ∧ t.get (Reg.OVL_STATE n) = 3 ∧ t.get (Reg.OVL_REASON n) = r ∧
      t.evtStat 134 = true ∧ t.gys.loadq = s.gys.loadq.tail ∧ Only [.gys] [134] [Reg.OVL_STATE n, Reg.OVL_REASON n] s t))

/-- R228, R230 to R234, R236, R237, R243, R244, R542: GO latches a commit into a free slot and queues it; a busy slot ignores GO with
GO_IGNORED; outside RUN it is refused with RESULT 7; CANCEL aborts a waiting commit with RESULT 6 and no other.  In its turn the
preparation refuses a commit that names no overlay or too many (2), one that is not VALID (1), a guard word under the closed lock (4) and
a need of more ramps than are free (3); else the commit is READY, at T or, prepared too late, at the next boundary with LATE and E137.

R219, R235, R237, R250, R252, R258: at F, after the commits that go before it, a commit of general parameters without a ramp puts each
entry's value in force from F on, the values before F staying as they are, and raises E129; one with a guard word under the closed lock
is aborted with RESULT 4, a cascade commit reached late with 5; before F, or before its CONFIRM, nothing happens.  The fold of the commit
whose turn it is writes the base words; a folded commit whose slots are released is DONE with E131; an end of ramp is marked at its last
frame. -/
def Obligations.CommitsAndEffect : Prop :=
  (
  let ends (s : State) (n : Nat) : List Fld := [Reg.GYSCMT_STATE n, Reg.GYSCMT_RESULT n, Reg.GYSSTAT_FREE_RAMPS] ++
    (s.commitOf n).ovls.map (fun i => Reg.OVL_LOCKED i)
  (∀ (n : Fin 4) (s : State), s.cmtBusy n = true → ∃ t, exec (.commitGo n) s = .next t ∧
    OnlyRegs [Reg.GYSSTAT_GO_IGNORED] s t ∧ t.bit Reg.GYSSTAT_GO_IGNORED = true) ∧
  (∀ (n : Fin 4) (s : State), s.cmtBusy n = false → s.get Reg.PWRSTAT_STATE ≠ 0 → s.evt.inReset = false →
    ∃ t, exec (.commitGo n) s = .next t ∧ Raises [130] [Reg.GYSCMT_STATE n, Reg.GYSCMT_RESULT n] s t ∧
      t.get (Reg.GYSCMT_STATE n) = 5 ∧ t.get (Reg.GYSCMT_RESULT n) = 7) ∧
  (∀ (n : Fin 4) (s : State), s.cmtBusy n = false → s.get Reg.PWRSTAT_STATE = 0 → (s.bit (Reg.GYSCMT_CASC n) && s.isMaster) = false →
    ∃ t, exec (.commitGo n) s = .next t ∧ t.get (Reg.GYSCMT_STATE n) = 1 ∧ t.get (Reg.GYSCMT_RESULT n) = 0 ∧
      (t.commitOf n).t = s.get (Reg.GYSCMT_T_LO n) + 2 ^ 32 * s.get (Reg.GYSCMT_T_HI n) ∧ (t.commitOf n).casc = false ∧
      t.gys.prepq = s.gys.prepq ++ [n.val] ∧ t.gys.chg = s.gys.chg ∧
      Only [.gys] [] ([Reg.GYSCMT_STATE n, Reg.GYSCMT_RESULT n, Reg.GYSCMT_LATE n] ++
        (List.range 256).map (fun i => Reg.OVL_LOCKED i)) s t) ∧
  (∀ (n : Fin 4) (s : State), s.cmtState n = 1 ∨ (s.cmtState n = 2 ∧ s.frame < 16 * ((s.commitOf n).f / 16)) →
    ∃ t, exec (.commitCancel n) s = .next t ∧ t.get (Reg.GYSCMT_STATE n) = 6 ∧
      t.get (Reg.GYSCMT_RESULT n) = 6 ∧ t.gys.chg = s.gys.chg ∧
      Only [.gys] [] (ends s n) s t) ∧
  (∀ (n : Fin 4) (s : State), s.cmtState n ≠ 1 → ¬(s.cmtState n = 2 ∧ s.frame < 16 * ((s.commitOf n).f / 16)) →
    exec (.commitCancel n) s = .next { s with free := s.free + 1 }) ∧
  (∀ (n : Fin 4) (s : State), s.gys.prepq.head? ≠ some n.val → exec (.commitPrepareDone n) s = .next { s with free := s.free + 1 }) ∧
  (∀ (n : Fin 4) (s : State), s.gys.prepq.head? = some n.val →
    let c := s.commitOf n
    let fits := 1 ≤ c.novl ∧ c.novl ≤ 8
    let valid := ∀ o ∈ c.list, s.get (Reg.OVL_STATE o) = 2
    let guarded := ∃ e ∈ s.resolve c.list, isGuard e.pid = true
    let refused (r : Nat) : Prop := ∃ t, exec (.commitPrepareDone n) s = .next t ∧ t.get (Reg.GYSCMT_STATE n) = 5 ∧
      t.get (Reg.GYSCMT_RESULT n) = r ∧ (s.evt.inReset = false → t.evtStat 130 = true) ∧ t.gys.chg = s.gys.chg ∧ t.mem = s.mem ∧
      (r ≠ 4 → c.casc = false → Only [.gys] [130] (ends s n) s t)
    (¬fits → refused 2) ∧ (fits → ¬valid → refused 1) ∧ (fits → valid → s.locked = true → guarded → refused 4) ∧
    (fits → valid → (s.locked = true → ¬guarded) →
      s.get Reg.GYSSTAT_FREE_RAMPS < ((s.resolve c.list).filter Entry.needsSlot).length → refused 3)) ∧
  (∀ (n : Fin 4) (s : State), s.gys.prepq.head? = some n.val → 1 ≤ (s.commitOf n).novl → (s.commitOf n).novl ≤ 8 →
    (∀ o ∈ (s.commitOf n).list, s.get (Reg.OVL_STATE o) = 2) → (s.locked = true → ∀ e ∈ s.resolve (s.commitOf n).list, isGuard e.pid = false) →
    ((s.resolve (s.commitOf n).list).filter Entry.needsSlot).length ≤ s.get Reg.GYSSTAT_FREE_RAMPS →
    (s.commitOf n).casc = false → 16 * ((s.commitOf n).t / 16) ≤ s.frame → s.evt.inReset = false →
    ∃ t, exec (.commitPrepareDone n) s = .next t ∧ t.get (Reg.GYSCMT_STATE n) = 2 ∧ (t.commitOf n).f = 16 * (s.period + 1) ∧
      t.bit (Reg.GYSCMT_LATE n) = true ∧ t.evtStat 128 = true ∧ t.evtStat 137 = true ∧ t.gys.chg = s.gys.chg) ∧
  (∀ (n : Fin 4) (s : State), s.gys.prepq.head? = some n.val → 1 ≤ (s.commitOf n).novl → (s.commitOf n).novl ≤ 8 →
    (∀ o ∈ (s.commitOf n).list, s.get (Reg.OVL_STATE o) = 2) → (s.locked = true → ∀ e ∈ s.resolve (s.commitOf n).list, isGuard e.pid = false) →
    ((s.resolve (s.commitOf n).list).filter Entry.needsSlot).length ≤ s.get Reg.GYSSTAT_FREE_RAMPS →
    ((s.commitOf n).casc = true ∨ s.frame < 16 * ((s.commitOf n).t / 16)) → s.evt.inReset = false →
    ∃ t, exec (.commitPrepareDone n) s = .next t ∧ t.get (Reg.GYSCMT_STATE n) = 2 ∧ (t.commitOf n).f = (s.commitOf n).t ∧
      (t.commitOf n).entries = s.resolve (s.commitOf n).list ∧ t.evtStat 128 = true ∧ t.gys.chg = s.gys.chg ∧
      ((s.commitOf n).casc = false →
        Only [.gys] [128, 132] [Reg.GYSCMT_STATE n, Reg.GYSSTAT_FREE_RAMPS, Reg.GYSCMT_F_LO n, Reg.GYSCMT_F_HI n] s t))
  ) ∧
  (
  let ends (s : State) (n : Nat) : List Fld := [Reg.GYSCMT_STATE n, Reg.GYSCMT_RESULT n, Reg.GYSSTAT_FREE_RAMPS] ++
    (s.commitOf n).ovls.map (fun i => Reg.OVL_LOCKED i)
  (∀ (n : Fin 4) (s : State), (s.cmtState n ≠ 2 ∨ s.frame < (s.commitOf n).f ∨ s.cmtBehind n = true ∨
      ((s.commitOf n).casc = true ∧ (s.commitOf n).confirmed = false)) → exec (.commitApply n) s = .next { s with free := s.free + 1 }) ∧
  (∀ (n : Fin 4) (s : State), s.cmtState n = 2 → (s.commitOf n).f ≤ s.frame → s.cmtBehind n = false → s.evt.inReset = false →
    ((s.commitOf n).casc = true → (s.commitOf n).confirmed = true → (s.commitOf n).f < s.frame →
      ∃ t, exec (.commitApply n) s = .next t ∧ t.get (Reg.GYSCMT_STATE n) = 6 ∧ t.get (Reg.GYSCMT_RESULT n) = 5 ∧
        t.evtStat 138 = true ∧ Only [.gys] [138] (ends s n) s t) ∧
    ((s.commitOf n).casc = false → s.locked = true → (∃ e ∈ (s.commitOf n).entries, isGuard e.pid = true) →
      ∃ t, exec (.commitApply n) s = .next t ∧ t.get (Reg.GYSCMT_STATE n) = 6 ∧ t.get (Reg.GYSCMT_RESULT n) = 4 ∧
        t.evtStat 130 = true ∧ Only [.gys] [130] (ends s n) s t)) ∧
  (∀ (n : Fin 4) (s : State), s.cmtState n = 2 → (s.commitOf n).f ≤ s.frame → s.cmtBehind n = false → s.gys.bad = none →
    ((s.commitOf n).casc = false ∨ ((s.commitOf n).confirmed = true ∧ s.frame = (s.commitOf n).f)) →
    (∀ e ∈ (s.commitOf n).entries, e.pid < 0x100000 ∧ e.law = 0 ∧ e.subst = false ∧ e.cls ≠ 2 ∧
      s.gys.dwAt.contains e.pid = false ∧ ∀ x ∈ s.gys.chg.look [] e.pid, x.first ≤ (s.commitOf n).f) →
    ((s.commitOf n).entries.map Entry.pid).Nodup → s.evt.inReset = false →
    ∃ t, exec (.commitApply n) s = .next t ∧ t.get (Reg.GYSCMT_STATE n) = 3 ∧ t.evtStat 129 = true ∧
      t.gys.foldq = s.gys.foldq ++ [n.val] ∧
      (∀ e ∈ (s.commitOf n).entries, ∀ f, (s.commitOf n).f ≤ f → t.valueAt e.pid f = e.val) ∧
      (∀ p f, s.horizon ≤ f → f < (s.commitOf n).f → t.valueAt p f = s.valueAt p f) ∧
      (∀ p f, (∀ e ∈ (s.commitOf n).entries, e.pid ≠ p) → t.valueAt p f = s.valueAt p f) ∧
      Only [.gys] [129] [Reg.GYSCMT_STATE n] s t) ∧
  (∀ (n : Fin 4) (s : State),
    ((s.gys.foldq.head? ≠ some n.val ∨ s.frame < 16 * ((s.commitOf n).f / 16 + 4) + 1 ∨ (s.commitOf n).folding = true) →
      exec (.foldStart n) s = .next { s with free := s.free + 1 }) ∧
    (((s.commitOf n).folding = false ∨ (s.commitOf n).folded = true) → exec (.foldEnd n) s = .next { s with free := s.free + 1 }) ∧
    ((s.cmtState n ≠ 3 ∨ (s.commitOf n).folded = false ∨ ∃ e ∈ (s.commitOf n).entries, s.xpOpen n e = true ∨ s.slotOpen n e = true) →
      exec (.commitDone n) s = .next { s with free := s.free + 1 })) ∧
  (∀ (n : Fin 4) (s : State), s.gys.foldq.head? = some n.val → 16 * ((s.commitOf n).f / 16 + 4) + 1 ≤ s.frame →
    (s.commitOf n).folding = false → ∃ t, exec (.foldStart n) s = .next t ∧ t = { s with free := s.free + 1, gys := t.gys } ∧
      t.commitOf n = { s.commitOf n with folding := true }) ∧
  (∀ (n : Fin 4) (s : State), (s.commitOf n).folding = true → (s.commitOf n).folded = false →
    ((s.commitOf n).entries.map Entry.pid).Nodup → ∃ t, exec (.foldEnd n) s = .next t ∧
      (∀ e ∈ (s.commitOf n).entries, (s.commitOf n).shadowed.contains e.pid = false → t.ram (baseKey e.pid) = e.val) ∧
      (∀ k, (∀ e ∈ (s.commitOf n).entries, (s.commitOf n).shadowed.contains e.pid = false → k ≠ baseKey e.pid) → t.ram k = s.ram k) ∧
      (t.commitOf n).folded = true ∧ t.gys.foldq = s.gys.foldq.filter (fun m => m != n.val) ∧ Only [.mem, .gys] [] [] s t) ∧
  (∀ (n : Fin 4) (s : State), s.cmtState n = 3 → (s.commitOf n).folded = true →
    (∀ e ∈ (s.commitOf n).entries, s.xpOpen n e = false ∧ s.slotOpen n e = false) → s.evt.inReset = false →
    ∃ t, exec (.commitDone n) s = .next t ∧ t.get (Reg.GYSCMT_STATE n) = 4 ∧ t.get (Reg.GYSCMT_RESULT n) = 0 ∧
      t.evtStat 131 = true ∧ Only [.gys] [131] (ends s n) s t) ∧
  (∀ (pid : BitVec 21) (c : Change) (rest : List Change) (s : State), s.gys.chg.look [] pid.toNat = c :: rest →
    (s.frame < c.first + c.len - 1 → exec (.paramRampEnd pid) s = .next { s with free := s.free + 1 }) ∧
    (c.first + c.len - 1 ≤ s.frame → ∃ t, exec (.paramRampEnd pid) s = .next t ∧ t = { s with free := s.free + 1, gys := t.gys } ∧
      t.gys.chg.look [] pid.toNat = { c with ended := true } :: rest ∧
      ∀ i, i ≠ pid.toNat → t.gys.chg.look [] i = s.gys.chg.look [] i))
  )

/-- R223, R247, R248, R438: a direct write is accepted for the next boundary, the last one of a PID standing, a gain code outside its range
flagged; beyond 8,192 in a period it is held with E142 and accepted, oldest first, once the period has room; a guard word is refused
while the lock is closed. -/
def Obligations.DirectWrites : Prop :=
  (∀ (pid : BitVec 21) (x : Sinter) (s : State), (isGuard pid.toNat && s.locked) = false → s.gys.dwCount < 8192 →
    let g : Gys := { s.gys with
      dw := s.gys.dw.filter (fun d => d.pid != pid.toNat) ++ [⟨pid.toNat, x, s.pidClass pid.toNat⟩]
      dwCount := s.gys.dwCount + 1 }
    ((s.pidClass pid.toNat = 2 → x.ok = true → codeValid (codeOf x.data) = true) →
      exec (.directWrite pid x) s = .next { s with free := s.free + 1, gys := g }) ∧
    (s.pidClass pid.toNat = 2 → x.ok = true → codeValid (codeOf x.data) = false → ∃ t, exec (.directWrite pid x) s = .next t ∧
      t.gys = g ∧ t.bit Reg.GYSSTAT_GAIN_LIM = true ∧ t.get Reg.GYSFAULT_PID = pid.toNat ∧ t.get Reg.GYSFAULT_KIND = 2 ∧
      Only [.gys] [140] [Reg.GYSSTAT_GAIN_LIM, Reg.GYSFAULT_PID, Reg.GYSFAULT_KIND] s t)) ∧
  (∀ (pid : BitVec 21) (x : Sinter) (s : State), (isGuard pid.toNat && s.locked) = false → 8192 ≤ s.gys.dwCount →
    ∃ t, exec (.directWrite pid x) s = .next t ∧ t.bit Reg.GYSSTAT_DW_HELD = true ∧
      t.gys = { s.gys with dwHeld := s.gys.dwHeld ++ [⟨pid.toNat, x, s.pidClass pid.toNat⟩] } ∧
      Only [.gys] [142] [Reg.GYSSTAT_DW_HELD] s t) ∧
  (∀ (pid : BitVec 21) (x : Sinter) (s : State), (isGuard pid.toNat && s.locked) = true →
    ∃ t, exec (.directWrite pid x) s = .next t ∧ t.gys = s.gys ∧ t.mem = s.mem) ∧
  (∀ (d : DirectWrite) (rest : List DirectWrite) (s : State), s.gys.dwHeld = d :: rest → s.gys.dwCount < 8192 → s.fab.waits = [] →
    (s.pidClass d.pid = 2 → d.val.ok = true → codeValid (codeOf d.val.data) = true) →
    exec .directWriteHeldAccept s = .next { s with
      free := s.free + 1
      gys := { s.gys with
        dwHeld := rest
        dw := s.gys.dw.filter (fun e => e.pid != d.pid) ++ [⟨d.pid, d.val, s.pidClass d.pid⟩]
        dwCount := s.gys.dwCount + 1 } }) ∧
  (∀ s : State, (s.gys.dwHeld = [] ∨ 8192 ≤ s.gys.dwCount) → exec .directWriteHeldAccept s = .next { s with free := s.free + 1 })

/-- R256 to R258: the master's GO sends PREPARE, or aborts where D has passed; PREPARE starts a cascade commit in a free slot and is
reported with code 0x8 by a busy one; the master notes the chips' reports and codes, and at D confirms where all are ready, itself among
them and the boundary of T ahead, and aborts everywhere where not.  CONFIRM counts before the boundary of T; ABORT, and T without
CONFIRM, abort with RESULT 5 and E138, and ABORT raises E138 alone in a chip whose slot was busy.  Outside these conditions nothing
changes. -/
def Obligations.CascadeCommits : Prop :=
  let ends (s : State) (n : Nat) : List Fld := [Reg.GYSCMT_STATE n, Reg.GYSCMT_RESULT n, Reg.GYSSTAT_FREE_RAMPS] ++
    (s.commitOf n).ovls.map (fun i => Reg.OVL_LOCKED i)
  let starts (n : Nat) : List Fld := [Reg.GYSCMT_STATE n, Reg.GYSCMT_RESULT n, Reg.GYSCMT_LATE n] ++ (List.range 256).map (fun i => Reg.OVL_LOCKED i)
  let aborted (n : Nat) (t : State) : Prop := t.get (Reg.GYSCMT_STATE n) = 6 ∧ t.get (Reg.GYSCMT_RESULT n) = 5 ∧ t.evtStat 138 = true
  let nothing (i : Instr) (s : State) : Prop := exec i s = .next { s with free := s.free + 1 }
  let sent (s t : State) : Prop := t.lnk.seen = (s.cascadeId, s.lnk.seq) :: s.lnk.seen ∧ t.lnk.seq = s.lnk.seq + 1
  (∀ (n : Fin 4) (s : State), s.cmtBusy n = false → s.get Reg.PWRSTAT_STATE = 0 → s.bit (Reg.GYSCMT_CASC n) = true → s.isMaster = true →
    s.evt.inReset = false →
    let d := cascD (s.get (Reg.GYSCMT_T_LO n) + 2 ^ 32 * s.get (Reg.GYSCMT_T_HI n))
    (s.frame ≤ d → ∃ t, exec (.commitGo n) s = .next t ∧ t.get (Reg.GYSCMT_STATE n) = 1 ∧ (t.commitOf n).casc = true ∧
      t.get Reg.GYSCASC_SLOT = n ∧ t.get Reg.GYSCASC_READY = 0 ∧ t.get Reg.GYSCASC_REFUSED = 0 ∧ sent s t ∧
      t.gys.prepq = s.gys.prepq ++ [n.val] ∧
      Only [.gys, .lnk] [] (starts n ++ [Reg.GYSCASC_READY, Reg.GYSCASC_REFUSED, Reg.GYSCASC_SLOT]) s t) ∧
    (d < s.frame → ∃ t, exec (.commitGo n) s = .next t ∧ aborted n t ∧ t.gys.chg = s.gys.chg)) ∧
  (∀ (n : Fin 4) (tm : BitVec 64) (nv : Fin 16) (a b : BitVec 32) (s : State),
    (s.cmtBusy n = false → ∃ t, exec (.cascPrepare n tm nv a b) s = .next t ∧ t.get (Reg.GYSCMT_STATE n) = 1 ∧
      (t.commitOf n).casc = true ∧ (t.commitOf n).t = tm.toNat ∧ t.gys.prepq = s.gys.prepq ++ [n.val] ∧
      t.gys.busy.contains n.val = false ∧ Only [.gys] [] (starts n) s t) ∧
    (s.cmtBusy n = true → ∃ t, exec (.cascPrepare n tm nv a b) s = .next t ∧ t.gys.busy.contains n.val = true ∧
      t.commitOf n = s.commitOf n ∧ sent s t ∧ Only [.gys, .lnk] [] [] s t)) ∧
  (∀ (chip : Fin 8) (n : Fin 4) (code : Fin 16) (s : State),
    (s.isMaster = true → s.get Reg.GYSCASC_SLOT = n.val → ∃ t, exec (.cascReport chip n code) s = .next t ∧
      t.gys.codes.look 0 chip = code ∧
      (code = 0 → OnlyRegs [Reg.GYSCASC_READY] { s with gys := { s.gys with codes := t.gys.codes } } t ∧
        t.get Reg.GYSCASC_READY = s.get Reg.GYSCASC_READY ||| 2 ^ chip.val) ∧
      (code ≠ 0 → OnlyRegs [Reg.GYSCASC_REFUSED] { s with gys := { s.gys with codes := t.gys.codes } } t ∧
        t.get Reg.GYSCASC_REFUSED = s.get Reg.GYSCASC_REFUSED ||| 2 ^ chip.val)) ∧
    ((s.isMaster = false ∨ s.get Reg.GYSCASC_SLOT ≠ n.val) → nothing (.cascReport chip n code) s)) ∧
  (∀ (n : Fin 4) (s : State), s.evt.inReset = false →
    let c := s.commitOf n
    let all := s.get Reg.GYSCASC_READY &&& s.cascadeMask = s.cascadeMask ∧ s.cmtState n = 2 ∧ s.frame < 16 * (c.t / 16)
    (s.isMaster = true → c.casc = true → c.decided = false → cascD c.t ≤ s.frame →
      (all → ∃ t, exec (.cascDecision n) s = .next t ∧ t.commitOf n = { c with confirmed := true, decided := true } ∧ sent s t ∧
        Only [.gys, .lnk] [] [] s t) ∧
      (¬all → ∃ t, exec (.cascDecision n) s = .next t ∧ aborted n t ∧ sent s t ∧ Only [.gys, .lnk] [138] (ends s n) s t)) ∧
    ((s.isMaster = false ∨ c.casc = false ∨ c.decided = true ∨ s.frame < cascD c.t) → nothing (.cascDecision n) s)) ∧
  (∀ (n : Fin 4) (s : State),
    let c := s.commitOf n
    let counts := s.cmtState n = 2 ∧ c.casc = true ∧ s.frame < 16 * (c.t / 16)
    (counts → ∃ t, exec (.cascConfirm n) s = .next t ∧ t.commitOf n = { c with confirmed := true } ∧ Only [.gys] [] [] s t) ∧
    (¬counts → nothing (.cascConfirm n) s)) ∧
  (∀ (n : Fin 4) (s : State), s.evt.inReset = false →
    let c := s.commitOf n
    let holds := c.casc = true ∧ (s.cmtState n = 1 ∨ s.cmtState n = 2 ∨ s.cmtState n = 5 ∨
      (s.cmtState n = 6 ∧ s.get (Reg.GYSCMT_RESULT n) ≠ 5))
    let late := c.casc = true ∧ c.confirmed = false ∧ (s.cmtState n = 1 ∨ s.cmtState n = 2) ∧ 16 * (c.t / 16) ≤ s.frame
    (s.gys.busy.contains n.val = true → ∃ t, exec (.cascAbort n) s = .next t ∧ t.gys.busy.contains n.val = false ∧
      Raises [138] [] { s with gys := { s.gys with busy := t.gys.busy } } t) ∧
    (s.gys.busy.contains n.val = false → holds → ∃ t, exec (.cascAbort n) s = .next t ∧ aborted n t ∧ Only [.gys] [138] (ends s n) s t) ∧
    (s.gys.busy.contains n.val = false → ¬holds → nothing (.cascAbort n) s) ∧
    (late → ∃ t, exec (.cascLocalAbort n) s = .next t ∧ aborted n t ∧ Only [.gys] [138] (ends s n) s t) ∧
    (¬late → nothing (.cascLocalAbort n) s))

/-- R259, R262, R265 to R269, R275, R318: a unit that is off takes MODE and PRE and starts (an ASRC unit in ACQUIRE, another in RUN, MODE 0
off); while EN is 1 they do not change; EN = 0 stops it.  An input edge of an ASRC unit counts towards COARSE, there towards RUN, or
moves the tracked ratio, within the stated error (a free value, log 4); an irregular one begins the search again, or in RUN, like 64 out
of range, loses the input; a read point near an end of its buffer is to be recentred.  No edge reaches a stopped unit or one of another
mode.  FADE ends after 16 frames; CLR zeroes a peak. -/
def Obligations.ConversionUnits : Prop :=
  (∀ (u : Fin 32) (m p : BitVec 3) (s : State), s.bit (Reg.CNVCTL_EN u) = false → ∃ t, exec (.cnvEnable u m p) s = .next t ∧
    t.bit (Reg.CNVCTL_EN u) = true ∧ t.get (Reg.CNVCTL_MODE u) = m.toNat ∧ t.get (Reg.CNVCTL_PRE u) = p.toNat ∧
    t.get (Reg.CNVSTAT_STATE u) = (if m = 0 then 0 else if m = 1 then 1 else 3) ∧
    Only [.cnv] [92] [Reg.CNVCTL_EN u, Reg.CNVCTL_MODE u, Reg.CNVCTL_PRE u, Reg.CNVSTAT_STATE u, Reg.CNVSTAT_RESP_NOW u,
      Reg.CNVGDELAY_GDELAY u, Reg.CNVSTAT_RESP_BAD u, Reg.CNVFAULT_KIND u] s t) ∧
  (∀ (u : Fin 32) (m p : BitVec 3) (s : State), s.bit (Reg.CNVCTL_EN u) = true → ∃ t, exec (.cnvEnable u m p) s = .next t ∧
    OnlyRegs [Reg.CNVCTL_EN u] s t ∧ t.bit (Reg.CNVCTL_EN u) = true) ∧
  (∀ (u : Fin 32) (m p : BitVec 3) (s : State), s.bit (Reg.CNVCTL_EN u) = true → ∃ t, exec (.cnvDisable u m p) s = .next t ∧
    OnlyRegs [Reg.CNVCTL_EN u, Reg.CNVSTAT_STATE u, Reg.CNVSTAT_LOCKED u, Reg.CNVRATIO_RATIO u] s t ∧
    t.bit (Reg.CNVCTL_EN u) = false ∧ t.get (Reg.CNVSTAT_STATE u) = 0 ∧ t.bit (Reg.CNVSTAT_LOCKED u) = false ∧
    t.get (Reg.CNVRATIO_RATIO u) = 0) ∧
  (∀ (u : Fin 32) (m p : BitVec 3) (s : State), s.bit (Reg.CNVCTL_EN u) = false → ∃ t, exec (.cnvDisable u m p) s = .next t ∧
    OnlyRegs [Reg.CNVCTL_EN u, Reg.CNVCTL_MODE u, Reg.CNVCTL_PRE u] s t ∧ t.bit (Reg.CNVCTL_EN u) = false ∧
    t.get (Reg.CNVCTL_MODE u) = m.toNat ∧ t.get (Reg.CNVCTL_PRE u) = p.toNat) ∧
  (∀ (u : Fin 32) (i : BitVec 32) (b : Bool) (rp : Option (Fin 64)) (s : State), (s.islandStopped islConv = true ∨ s.cnvMode u ≠ 1 ∨
      s.cnvDeaf u = true ∨ (s.cnvState u ≠ 1 ∧ s.cnvState u ≠ 2 ∧ s.cnvState u ≠ 3)) →
    exec (.cnvInputEdge u i b rp) s = .next { s with free := s.free + 1 }) ∧
  (∀ (u : Fin 32) (i : BitVec 32) (b : Bool) (rp : Option (Fin 64)) (s : State), s.islandStopped islConv = false → s.cnvMode u = 1 →
    s.cnvDeaf u = false → s.cnvState u = 1 → preRange (s.get (Reg.CNVCTL_PRE u)) ≠ none →
    let g := if regular (s.unit u).last i.toNat then (s.unit u).good + 1 else 0
    ∃ t, exec (.cnvInputEdge u i b rp) s = .next t ∧ OnlyRegs [Reg.CNVSTAT_STATE u] { s with cnv := t.cnv } t ∧
      (g < 8 → t.cnvState u = 1 ∧ t.unit u = { s.unit u with last := i.toNat, good := g }) ∧
      (8 ≤ g → t.cnvState u = 2 ∧ (t.unit u).coarse = 0 ∧ (t.unit u).sum = 0 ∧ (t.unit u).last = i.toNat) ∧
      (∀ v : Fin 32, v ≠ u → t.unit v = s.unit v) ∧ t.cnv.chans = s.cnv.chans) ∧
  (∀ (u : Fin 32) (i : BitVec 32) (b : Bool) (rp : Option (Fin 64)) (s : State), s.islandStopped islConv = false → s.cnvMode u = 1 →
    s.cnvDeaf u = false → s.cnvState u = 2 →
    let r := s.ratioOf 64 ((s.unit u).sum + i.toNat)
    (regular (s.unit u).last i.toNat = false → ∃ t, exec (.cnvInputEdge u i b rp) s = .next t ∧
      OnlyRegs [Reg.CNVSTAT_STATE u] { s with cnv := t.cnv } t ∧ t.cnvState u = 1 ∧ (t.unit u).good = 0) ∧
    (regular (s.unit u).last i.toNat = true → (s.unit u).coarse < 63 → ∃ t, exec (.cnvInputEdge u i b rp) s = .next t ∧
      t = { s with free := s.free + 1, cnv := t.cnv } ∧
      t.unit u = { s.unit u with last := i.toNat, coarse := (s.unit u).coarse + 1, sum := (s.unit u).sum + i.toNat }) ∧
    (regular (s.unit u).last i.toNat = true → 63 ≤ (s.unit u).coarse → s.evt.inReset = false →
      ∃ t, exec (.cnvInputEdge u i b rp) s = .next t ∧
        (inRange (s.get (Reg.CNVCTL_PRE u)) r = true → t.cnvState u = 3 ∧ (t.unit u).startAt = 16 * (s.period + 1) ∧ t.evtStat 88 = true) ∧
        (inRange (s.get (Reg.CNVCTL_PRE u)) r = false → t.cnvState u = 1 ∧ t.get (Reg.CNVSTAT_CAUSE u) = 2))) ∧
  (∀ (u : Fin 32) (i : BitVec 32) (b : Bool) (rp : Option (Fin 64)) (s : State), s.islandStopped islConv = false → s.cnvMode u = 1 →
    s.cnvDeaf u = false → s.cnvState u = 3 →
    let sum := (s.unit u).sum - (s.unit u).sum / 64 + i.toNat
    let r := s.ratioOf 64 sum
    let out := inRange (s.get (Reg.CNVCTL_PRE u)) (s.ratioOf 1 i.toNat) = false
    (regular (s.unit u).last i.toNat = true → (out → (s.unit u).out < 63) → r < 2 ^ 31 →
      ∃ (t : State) (e : Int), exec (.cnvInputEdge u i b rp) s = .next t ∧ OnlyRegs [Reg.CNVRATIO_RATIO u] { s with cnv := t.cnv } t ∧
        e.natAbs ≤ r / (if s.bit (Reg.CNVSTAT_LOCKED u) then 100000000 else 100000) ∧ (t.get (Reg.CNVRATIO_RATIO u) : Int) = r + e ∧
        (rp = none → (t.unit u).slip = (s.unit u).slip) ∧
        (∀ x, rp = some x → (t.unit u).slip = if x.val ≤ 4 ∨ 59 ≤ x.val then some x.val else (s.unit u).slip)) ∧
    (regular (s.unit u).last i.toNat = false → s.evt.inReset = false → s.evt.once.contains 90 = false →
      ∃ t, exec (.cnvInputEdge u i b rp) s = .next t ∧ t.cnvState u = 4 ∧ t.get (Reg.CNVSTAT_CAUSE u) = 1 ∧ t.evtStat 90 = true ∧
        Only [.cnv] [90] [Reg.CNVSTAT_STATE u, Reg.CNVSTAT_CAUSE u, Reg.CNVRATIO_RATIO u] s t) ∧
    (regular (s.unit u).last i.toNat = true → out → 63 ≤ (s.unit u).out →
      ∃ t, exec (.cnvInputEdge u i b rp) s = .next t ∧ t.cnvState u = 4 ∧ t.get (Reg.CNVSTAT_CAUSE u) = 2 ∧
        Only [.cnv] [90] [Reg.CNVSTAT_STATE u, Reg.CNVSTAT_CAUSE u, Reg.CNVRATIO_RATIO u] s t)) ∧
  (∀ (u : Fin 32) (s : State), s.cnvState u = 4 → (s.unit u).fade + 15 ≤ s.frame → ∃ t, exec (.cnvFadeEnd u) s = .next t ∧
    OnlyRegs [Reg.CNVSTAT_STATE u, Reg.CNVSTAT_LOCKED u] { s with cnv := t.cnv } t ∧ t.cnvState u = 1 ∧
    t.bit (Reg.CNVSTAT_LOCKED u) = false) ∧
  (∀ (u : Fin 32) (s : State), (s.cnvState u ≠ 4 ∨ s.frame < (s.unit u).fade + 15) →
    exec (.cnvFadeEnd u) s = .next { s with free := s.free + 1 }) ∧
  (∀ (v : Fin 256) (s : State), ∃ t, exec (.cnvchClr v) s = .next t ∧ OnlyRegs [Reg.CNVCH_DPEAK v] { s with cnv := t.cnv } t ∧
    t.get (Reg.CNVCH_DPEAK v) = 0x800000 ∧ t.chan v = { s.chan v with peak := 0 } ∧ ∀ i, i ≠ v.val → t.chan i = s.chan i)

/-- R283, R284: a write of MTRCLR sets the held code of a point, or of every point, to its peak since the last snapshot, or clears its
clips, and changes nothing else. -/
def Obligations.MeterClears : Prop :=
  (∀ (m : BitVec 12) (s : State), ∃ t, exec (.mtrclrHold m false) s = .next t ∧ t = { s with free := s.free + 1, mtr := { s.mtr with points := t.mtr.points } } ∧
    (∀ i, t.point i = if i = m.toNat then { s.point i with hold := levelCode (s.point i).peak (2 ^ 31) 1, holdAge := 0 }
      else s.point i)) ∧
  (∀ (m : BitVec 12) (s : State), ∃ t, exec (.mtrclrHold m true) s = .next t ∧ t = { s with free := s.free + 1, mtr := { s.mtr with points := t.mtr.points } } ∧
    ∀ e ∈ s.mtr.points, t.point e.1 = { s.point e.1 with hold := levelCode (s.point e.1).peak (2 ^ 31) 1, holdAge := 0 }) ∧
  (∀ (m : BitVec 12) (s : State), ∃ t, exec (.mtrclrClips m false) s = .next t ∧ t = { s with free := s.free + 1, mtr := { s.mtr with points := t.mtr.points } } ∧
    (∀ i, t.point i = if i = m.toNat then { s.point i with clips := 0 } else s.point i)) ∧
  (∀ (m : BitVec 12) (s : State), ∃ t, exec (.mtrclrClips m true) s = .next t ∧ t = { s with free := s.free + 1, mtr := { s.mtr with points := t.mtr.points } } ∧
    ∀ i, t.point i = { s.point i with clips := 0 })

/-- R298, R302 to R307, R437: PORTCTL enables a port, arms it, or stops it at its next frame edge, until which a further write changes only
its bits; the start of the ports is set by GO, by START_SYNC or by the master's message; at Ts every READY port runs, its ARM clears, the
safety lock closes and E64 is raised; a written lane mask waits for the port's frame edge.  Where the source is not the chosen one, or Ts
has not come, nothing happens.

R261, R295 to R300, R302, R303, R307, R313 to R318: a frame of a master-grid port at the base rate, with no lane searched for coded
data or in fade, gives each channel its slot's word, 24 or 32 bits wide, or silence where the port does not run or the mask bit is 0: to S0
where no unit binds the channel, else to the unit.  A frame of a foreign port that is not 64 bits long, or mistimed, is a glitch; a port
that is off, or receives its frame edge on the wrong level of WS, takes no frame.  Coded lanes are released after 4,096 frames; stopped
and exchanged clocks are reported. -/
def Obligations.PortStartsAndInputs : Prop :=
  (
  let inert : List Fld := (List.range 64).map (fun v => Reg.VNTRT_INERT v)
  let ts : List Fld := [Reg.APSTART_T_LO_T, Reg.APSTART_T_HI_T_HI, Reg.APSTARTSTAT_PENDING, Reg.APSTARTSTAT_LATE]
  let nothing (i : Instr) (s : State) : Prop := exec i s = .next { s with free := s.free + 1 }
  let idle (s : State) (n : Nat) (arm : Bool) : Nat := if s.portMode n = 0 then 0 else if s.portBadRate n then 3 else if arm then 1 else 0
  let ctl (n : Nat) (s t : State) : Prop := Only [.ports] [80] ([Reg.PORTCTL_EN n, Reg.PORTCTL_ARM n, Reg.PORTSTAT_STATE n] ++ inert) s t
  (∀ (n : Fin 16) (arm : Bool) (s : State), ∃ t, exec (.portEnable n arm) s = .next t ∧ ctl n s t ∧
    t.bit (Reg.PORTCTL_EN n) = true ∧ t.bit (Reg.PORTCTL_ARM n) = arm ∧ t.ports.stopping = s.ports.stopping ∧
    (s.ports.stopping.contains n.val = true → t.portState n = s.portState n) ∧
    (s.ports.stopping.contains n.val = false →
      t.portState n = (if arm = false ∧ s.portState n = 2 then 2 else idle s n arm) ∧
      (s.portMode n = 2 → t.ports.clocks.contains n.val = true))) ∧
  (∀ (n : Fin 16) (s : State), ∃ t, exec (.portArm n) s = .next t ∧ ctl n s t ∧ t.bit (Reg.PORTCTL_ARM n) = true ∧
    t.bit (Reg.PORTCTL_EN n) = s.bit (Reg.PORTCTL_EN n) ∧ t.ports.stopping = s.ports.stopping ∧
    t.portState n = (if s.bit (Reg.PORTCTL_EN n) ∧ s.ports.stopping.contains n.val = false then idle s n true else s.portState n)) ∧
  (∀ (n : Fin 16) (arm : Bool) (s : State), ∃ t, exec (.portDisable n arm) s = .next t ∧ ctl n s t ∧
    t.bit (Reg.PORTCTL_EN n) = false ∧ t.bit (Reg.PORTCTL_ARM n) = arm ∧ t.portState n = s.portState n ∧ t.ports.clocks = s.ports.clocks ∧
    t.ports.stopping.contains n.val = (s.ports.stopping.contains n.val || s.bit (Reg.PORTCTL_EN n))) ∧
  (∀ s : State, s.bit Reg.APSTARTCTL_SRC = false → s.apFollower = false →
    ∃ t, exec .apStartGo s = .next t ∧ StartsAt s.apT s t ∧ (s.bit Reg.APSTARTCTL_CASC = false → t.lnk = s.lnk) ∧
      (s.bit Reg.APSTARTCTL_CASC = true → t.lnk.seen = (s.cascadeId, s.lnk.seq) :: s.lnk.seen) ∧ Only [.ports, .lnk] [65] ts s t) ∧
  (∀ s : State, (s.bit Reg.APSTARTCTL_SRC = true ∨ s.apFollower = true) → nothing .apStartGo s) ∧
  (∀ s : State, ∃ t, exec .syncArm s = .next t ∧ OnlyRegs [Reg.APSTARTCTL_SYNC_ARM] s t ∧ t.bit Reg.APSTARTCTL_SYNC_ARM = true) ∧
  (∀ s : State, s.bit Reg.APSTARTCTL_SRC = true → s.bit Reg.APSTARTCTL_SYNC_ARM = true → s.apFollower = false →
    ∃ t, exec .startSyncEdge s = .next t ∧ StartsAt (16 * (s.frame / 16) + 48) s t ∧
      t.bit Reg.APSTARTCTL_SYNC_ARM = false ∧ (s.bit Reg.APSTARTCTL_CASC = false → t.lnk = s.lnk) ∧
      Only [.ports, .lnk] [65] (Reg.APSTARTCTL_SYNC_ARM :: ts) s t) ∧
  (∀ s : State, (s.bit Reg.APSTARTCTL_SRC = false ∨ s.bit Reg.APSTARTCTL_SYNC_ARM = false ∨ s.apFollower = true) →
    nothing .startSyncEdge s) ∧
  (∀ (x : BitVec 64) (s : State), (s.apFollower = true → ∃ t, exec (.apStartMessage x) s = .next t ∧
    StartsAt x.toNat s t ∧ Only [.ports] [65] ts s t) ∧ (s.apFollower = false → nothing (.apStartMessage x) s)) ∧
  (∀ s : State, (s.bit Reg.APSTARTSTAT_PENDING = false ∨ s.frame < s.apTs) → nothing .apStart s) ∧
  (∀ s : State, s.bit Reg.APSTARTSTAT_PENDING = true → s.apTs ≤ s.frame → (∀ n, n < 16 → s.portState n ≠ 1) →
    ∃ t, exec .apStart s = .next t ∧ OnlyRegs [Reg.APSTARTSTAT_PENDING] s t ∧ t.bit Reg.APSTARTSTAT_PENDING = false) ∧
  (∀ s : State, s.bit Reg.APSTARTSTAT_PENDING = true → s.apTs ≤ s.frame → s.evt.inReset = false →
    (∃ n, n < 16 ∧ s.portState n = 1) → ∃ t, exec .apStart s = .next t ∧
    (∀ n, n < 16 → s.portState n = 1 → t.portState n = 2 ∧ t.bit (Reg.PORTCTL_ARM n) = false) ∧
    (∀ n, n < 16 → s.portState n ≠ 1 → t.portState n = s.portState n) ∧ t.bit Reg.APSTARTSTAT_PENDING = false ∧
    t.locked = true ∧ t.evtStat 64 = true ∧
    Only [.lnk] [64] ([Reg.APSTARTSTAT_PENDING, Reg.FUMLOCK_CLOSED, Reg.PAIRSTAT_ACTIVE] ++
      (List.range 16).flatMap (fun n => [Reg.PORTCTL_ARM n, Reg.PORTSTAT_STATE n])) s t) ∧
  (∀ (n : Fin 16) (v : BitVec 32) (s : State), ∃ t, exec (.lanemaskWrite n v) s = .next t ∧
    OnlyRegs [Reg.LANEMASK_IN n, Reg.LANEMASK_OUT n] { s with ports := { s.ports with maskNext := t.ports.maskNext } } t ∧
    t.get (Reg.LANEMASK_IN n) = v.toNat % 65536 ∧ t.get (Reg.LANEMASK_OUT n) = v.toNat / 65536 ∧
    ∀ i, t.ports.maskNext.look none i = if i = n.val then some v.toNat else s.ports.maskNext.look none i)
  ) ∧
  (
  let nothing (i : Instr) (s : State) : Prop := exec i s = .next { s with free := s.free + 1 }
  (∀ (n : Fin 16) (ws : Bool) (lanes : List (BitVec 65)) (b : BitVec 8) (m : Bool) (s : State),
    (s.islandStopped islPorts = true ∨ (s.bit (Reg.PORTCTL_EN n) = false ∧ s.ports.stopping.contains n.val = false) ∨ s.portMode n = 0 ∨
      s.portState n = 3 ∨ s.portUnusable n = true ∨ ws ≠ (s.get (Reg.PORTCFG_FMT n) == 1)) → nothing (.portInputFrame n ⟨ws, lanes⟩ b m) s) ∧
  (∀ (n : Fin 16) (ws : Bool) (lanes : List (BitVec 65)) (b : BitVec 8) (m : Bool) (s : State), s.islandStopped islPorts = false →
    s.bit (Reg.PORTCTL_EN n) = true → s.portState n ≠ 3 → s.portUnusable n = false → ws = (s.get (Reg.PORTCFG_FMT n) == 1) →
    (s.portMode n = 1 → s.portRatek n = 0 → s.get (Reg.CODEDCFG_DET_EN n) = 0 → s.ports.lastDet = [] →
      let w (i : Nat) : BitVec 32 := (lanes.getD (i / 2) 0).extractLsb' (32 * (1 - i % 2) + s.get (Reg.PORTCFG_FMT n)) 32
      let x (i : Nat) : Sinter := if s.portState n = 2 ∧ (s.maskOf n).testBit i then
        Sinter.ofData (if s.get (Reg.PORTCFG_WL n) = 0 then w i &&& 0xFFFFFF00 else w i) else Sinter.zero
      ∃ t, exec (.portInputFrame n ⟨ws, lanes⟩ b m) s = .next t ∧ t.ports.count.look 0 n = s.ports.count.look 0 n + 1 ∧
        (∀ i : Fin 16, s.boundTo (16 * n.val + i.val) = [] → t.ingressAt (16 * n.val + i.val) s.frame = x i) ∧
        (∀ (i : Fin 16) (v : Nat), s.boundTo (16 * n.val + i.val) = [v] → s.bit (Reg.CNVCTL_EN (v / 8)) = true →
          (t.chan v).hist.head? = some (x i)) ∧
        (∀ k, (∀ j : Fin 16, k ≠ slotKey (s.frame + 64) (16 * n.val + j.val)) → t.eng.ingress.look none k = s.eng.ingress.look none k) ∧
        ((∀ q, q < 256 → s.boundTo q = []) → Only [.ports, .eng] [] [Reg.PORTSTAT_CLK_STOPPED n] s t)) ∧
    (2 ≤ s.portMode n → (b ≠ 64 ∨ m = true) → s.ports.stopping.contains n.val = false → s.evt.inReset = false →
      s.evt.once.contains 67 = false → (∀ q, q < 256 → s.boundTo q = []) → s.portUnits n = [] →
      ∃ t, exec (.portInputFrame n ⟨ws, lanes⟩ b m) s = .next t ∧ t.bit (Reg.PORTSTAT_GLITCH n) = true ∧
        t.get (Reg.PORTSTAT_BCLK_CNT n) = Nat.min b.toNat 127 ∧ t.evtStat 67 = true ∧
        Only [.ports] [67, 69] [Reg.PORTSTAT_CLK_STOPPED n, Reg.PORTSTAT_GLITCH n, Reg.PORTSTAT_BCLK_CNT n, Reg.CODED_MUTED n] s t)) ∧
  (∀ (n : Fin 16) (l : Fin 8) (s : State),
    let due := (s.get (Reg.CODED_MUTED n)).testBit l = true ∧ s.ports.lastDet.look 0 (8 * n.val + l.val) + 4096 ≤ s.ports.count.look 0 n
    (due → s.evt.inReset = false → ∃ t, exec (.apCodedReleased n l) s = .next t ∧ Raises [70] [Reg.CODED_MUTED n] s t ∧
      ∀ j, j < 8 → (t.get (Reg.CODED_MUTED n)).testBit j = ((s.get (Reg.CODED_MUTED n)).testBit j && j != l.val)) ∧
    (¬due → nothing (.apCodedReleased n l) s)) ∧
  (∀ (n : Fin 16) (s : State), s.bit (Reg.PORTCTL_EN n) = true → 2 ≤ s.portMode n → s.evt.inReset = false →
    ∃ t, exec (.apClkStopped n) s = .next t ∧ t.bit (Reg.PORTSTAT_CLK_STOPPED n) = true ∧ t.evtStat 66 = true ∧
      Only [.cnv] [66, 90] (Reg.PORTSTAT_CLK_STOPPED n :: (List.range 32).flatMap (fun u =>
        [Reg.CNVSTAT_STATE u, Reg.CNVSTAT_CAUSE u, Reg.CNVRATIO_RATIO u])) s t) ∧
  (∀ (n : Fin 16) (s : State), (s.bit (Reg.PORTCTL_EN n) = false ∨ s.portMode n < 2) → nothing (.apClkStopped n) s) ∧
  (∀ (n : Fin 16) (b w : BitVec 32) (s : State), (s.portMode n ≠ 3 ∨ s.bit (Reg.PORTCTL_EN n) = false) → nothing (.apClkSwapCheck n b w) s) ∧
  (∀ (n : Fin 16) (b w : BitVec 32) (s : State), s.portMode n = 3 → s.bit (Reg.PORTCTL_EN n) = true →
    let raised := b.toNat < w.toNat ∧ s.bit (Reg.PORTSTAT_SWAPPED n) = false
    ∃ t, exec (.apClkSwapCheck n b w) s = .next t ∧ t.bit (Reg.PORTSTAT_SWAPPED n) = decide (b.toNat < w.toNat) ∧
      (raised → s.evt.inReset = false → Raises [68] [Reg.PORTSTAT_SWAPPED n] s t) ∧
      (¬raised → OnlyRegs [Reg.PORTSTAT_SWAPPED n] s t))
  )

/-- R323, R324, R327, R328, R438: the causes of the Vent's takeover.  EMERG_N low while enabled, and FORCE, take over; FORCE is refused while
the lock is closed; with the last cause cleared TAKEOVER ends, and the return over 128 frames is due at the next output edge; EMERG_N's
cause clears at a boundary after HOLD periods high.  The marks of a route's ramp and of the return end with them. -/
def Obligations.VentTakeover : Prop :=
  let take : List Fld := [Reg.VNTSTAT_TAKEOVER, Reg.VNTSTAT_RETURNING]
  (∀ (v : Fin 64) (s : State), (∀ c ∈ (s.routeAt v s.frame).conns, c.first + 127 ≤ s.frame ∨ c.c0 = c.c1) →
    ∃ t, exec (.vntRampEnd v) s = .next t ∧ OnlyRegs [Reg.VNTRT_RAMPING v] s t ∧ t.bit (Reg.VNTRT_RAMPING v) = false) ∧
  (∀ (v : Fin 64) (s : State), (∃ c ∈ (s.routeAt v s.frame).conns, s.frame < c.first + 127 ∧ c.c0 ≠ c.c1) →
    exec (.vntRampEnd v) s = .next { s with free := s.free + 1 }) ∧
  (∀ s : State, s.bit Reg.VNTCFG_EMERG_EN = true → ∃ t, exec .emergNLow s = .next t ∧ t.bit Reg.VNTSTAT_EMERG_PIN = true ∧
    TakesOver Reg.VNTSTAT_CAUSE_EMERG s t ∧
    Only [.vent] [81] (Reg.VNTSTAT_EMERG_PIN :: Reg.VNTSTAT_CAUSE_EMERG :: take) s t) ∧
  (∀ s : State, s.bit Reg.VNTCFG_EMERG_EN = false → ∃ t, exec .emergNLow s = .next t ∧ OnlyRegs [Reg.VNTSTAT_EMERG_PIN] s t ∧
    t.bit Reg.VNTSTAT_EMERG_PIN = true) ∧
  (∀ s : State, s.locked = false → ∃ t, exec (.vntForce true) s = .next t ∧ t.bit Reg.VNTCTL_FORCE = true ∧
    TakesOver Reg.VNTSTAT_CAUSE_FORCE s t ∧ Only [.vent] [81] (Reg.VNTCTL_FORCE :: Reg.VNTSTAT_CAUSE_FORCE :: take) s t) ∧
  (∀ s : State, s.locked = false → ∃ t, exec (.vntForce false) s = .next t ∧ t.bit Reg.VNTCTL_FORCE = false ∧
    t.bit Reg.VNTSTAT_CAUSE_FORCE = false ∧
    Only [.vent] [] [Reg.VNTCTL_FORCE, Reg.VNTSTAT_CAUSE_FORCE, Reg.VNTSTAT_TAKEOVER] s t ∧
    (s.bit Reg.VNTSTAT_CAUSE_FORCE = true → s.bit Reg.VNTSTAT_TAKEOVER = true → s.bit Reg.VNTSTAT_CAUSE_EMERG = false →
      s.bit Reg.VNTSTAT_CAUSE_FUM = false → t.bit Reg.VNTSTAT_TAKEOVER = false ∧ t.vent.due = true ∧ t.vent.ang = 128) ∧
    ((s.bit Reg.VNTSTAT_CAUSE_EMERG = true ∨ s.bit Reg.VNTSTAT_CAUSE_FUM = true) →
      t.bit Reg.VNTSTAT_TAKEOVER = s.bit Reg.VNTSTAT_TAKEOVER ∧ t.vent = s.vent)) ∧
  (∀ (on : Bool) (s : State), s.locked = true → ∃ t, exec (.vntForce on) s = .next t ∧ t.bit Reg.FUMSTAT_LOCK_WR = true ∧
    t.get Reg.FUMLWADDR_LO_ADDR = 0x80090004 ∧
    Only [.fum] [206] ([Reg.FUMLWADDR_LO_ADDR, Reg.FUMLWADDR_HI_ADDR_HI, Reg.FUMSTAT_LOCK_WR] ++ recFlds) s t) ∧
  (∀ (p : BitVec 17) (s : State), s.frame % 16 = 0 → Nat.max 1 (s.get Reg.VNTCFG_HOLD) ≤ p.toNat →
    s.bit Reg.VNTSTAT_CAUSE_EMERG = true → s.bit Reg.VNTSTAT_TAKEOVER = true → ∃ t, exec (.emergCauseClear p) s = .next t ∧
      t.bit Reg.VNTSTAT_EMERG_PIN = false ∧ t.bit Reg.VNTSTAT_CAUSE_EMERG = false ∧
      (s.bit Reg.VNTSTAT_CAUSE_FUM = false → s.bit Reg.VNTSTAT_CAUSE_FORCE = false → t.bit Reg.VNTSTAT_TAKEOVER = false ∧
        t.vent.due = true ∧ t.vent.ang = 128) ∧
      ((s.bit Reg.VNTSTAT_CAUSE_FUM = true ∨ s.bit Reg.VNTSTAT_CAUSE_FORCE = true) → t.bit Reg.VNTSTAT_TAKEOVER = true ∧ t.vent = s.vent) ∧
      Only [.vent] [] [Reg.VNTSTAT_EMERG_PIN, Reg.VNTSTAT_CAUSE_EMERG, Reg.VNTSTAT_TAKEOVER] s t) ∧
  (∀ (p : BitVec 17) (s : State), (s.frame % 16 ≠ 0 ∨ p.toNat < Nat.max 1 (s.get Reg.VNTCFG_HOLD) ∨ s.bit Reg.VNTSTAT_CAUSE_EMERG = false) →
    ∃ t, exec (.emergCauseClear p) s = .next t ∧ OnlyRegs [Reg.VNTSTAT_EMERG_PIN] s t ∧ t.bit Reg.VNTSTAT_EMERG_PIN = false) ∧
  (∀ s : State, s.vent.ang ≠ 0 → exec .vntReturnEnd s = .next { s with free := s.free + 1 }) ∧
  (∀ s : State, s.vent.ang = 0 → ∃ t, exec .vntReturnEnd s = .next t ∧ OnlyRegs [Reg.VNTSTAT_RETURNING] s t ∧
    t.bit Reg.VNTSTAT_RETURNING = false)

/-- R411, R414, R424 to R430, R186: each source of whole-chip mute brings its cause: SAFE_MUTE_N (which also closes the port gate), the
management port, a lockstep fault of the steward (which halts), a stall, a self fault; an action of 0 only records, of 2 asks for a safe
reset; a cause that stands already is not raised again. -/
def Obligations.WholeChipMute : Prop :=
  (∀ s : State, s.fumHas 0 = false → ∃ t, exec .safeMuteNLow s = .next t ∧ Mutes 0 s t ∧
    t.fum.gate = Nat.max 1 s.fum.gate ∧ Only [.fum, .vent, .ports] [200, 202, 81, 82] muteFlds s t ∧
    t.ports = { s.ports with out := t.ports.out } ∧ (s.portClocks = true → t.ports = s.ports) ∧
    (s.portClocks = false → ∀ q, q < 256 → t.ports.out.look none q = if t.portHiz q then none else some [0])) ∧
  (∀ s : State, s.fumHas 1 = false → ∃ t, exec (.fumMuteReq true true) s = .next t ∧ Mutes 1 s t ∧ t.bit Reg.FUMCTL_MUTE_REQ = true ∧
    Only [.fum, .vent] [200, 202, 81, 82] (Reg.FUMCTL_MUTE_REQ :: muteFlds) s t) ∧
  (∀ s : State, s.fumHas 0 = true → ∃ t, exec .safeMuteNLow s = .next t ∧ t.fum.gate = Nat.max 1 s.fum.gate ∧
    Only [.fum, .ports] [] [] s t) ∧
  (∀ s : State, s.fumHas 1 = true → ∃ t, exec (.fumMuteReq true true) s = .next t ∧ OnlyRegs [Reg.FUMCTL_MUTE_REQ] s t ∧
    t.bit Reg.FUMCTL_MUTE_REQ = true) ∧
  (∀ s : State, s.fumHas 8 = true → 4 ≤ s.window → s.fum.seals.contains (s.window - 4) = false → s.get Reg.FUMCFG_STALL_ACT ≠ 0 →
    ∃ t, exec .fumStall s = .next t ∧ Only [.fum] [] [] s t) ∧
  (∀ (o : Option (Fin 512)) (s : State), s.fumHas 9 = true → ∃ t, exec (.fumSelfFault o) s = .next t ∧ Only [.fum] [207] recFlds s t ∧
    (∀ i, o = some i → t.handedAt i (s.frame - 73) = Sinter.zero)) ∧
  (∀ (on : Bool) (s : State), exec (.fumMuteReq on false) s = .next { s with free := s.free + 1 }) ∧
  (∀ s : State, s.evt.inReset = false → ∃ t, exec .stewardLockstepFault s = .next t ∧ t.stw.halted = true ∧ t.stw.running = false ∧
    t.evtStat 204 = true ∧ (s.get Reg.FUMCFG_LOCKSTEP_ACT ≠ 0 → s.fumHas 6 = false → Mutes 6 s t) ∧
    (2 ≤ s.get Reg.FUMCFG_LOCKSTEP_ACT → t.fum.resetDue = true) ∧
    (s.get Reg.FUMCFG_LOCKSTEP_ACT = 0 → t.bit Reg.FUMSTAT_MUTE_ALL = s.bit Reg.FUMSTAT_MUTE_ALL ∧ t.bit Reg.FUMRECSTAT_UNACK = true) ∧
    Only [.stw, .fab, .fum, .vent] [204, 178, 200, 202, 81, 82] ([Reg.FABLOCK_M0_OPEN, Reg.FABLOCK_M0_PORT, Reg.FABLOCKBRK_OWNER,
      Reg.FABLOCKBRK_PORT, Reg.FABLOCKBRK_CAUSE, Reg.FABSTAT_LOCK_BROKEN] ++ muteFlds) s t) ∧
  (∀ s : State, 4 ≤ s.window → s.fum.seals.contains (s.window - 4) = false → s.fumHas 8 = false → s.get Reg.FUMCFG_STALL_ACT ≠ 0 →
    ∃ t, exec .fumStall s = .next t ∧ Mutes 8 s t ∧ (2 ≤ s.get Reg.FUMCFG_STALL_ACT → t.fum.resetDue = true) ∧
      Only [.fum, .vent] [200, 202, 81, 82] muteFlds s t) ∧
  (∀ s : State, 4 ≤ s.window → s.fum.seals.contains (s.window - 4) = false → s.get Reg.FUMCFG_STALL_ACT = 0 →
    ∃ t, exec .fumStall s = .next t ∧ t.bit Reg.FUMRECSTAT_UNACK = true ∧ t.fum.seq = s.fum.seq + 1 ∧ t.fum.resetDue = s.fum.resetDue ∧
      Only [.fum] [] recFlds s t) ∧
  (∀ s : State, s.window < 4 ∨ s.fum.seals.contains (s.window - 4) = true →
    exec .fumStall s = .next { s with free := s.free + 1 }) ∧
  (∀ (o : Option (Fin 512)) (s : State), s.fumHas 9 = false → s.evt.inReset = false → ∃ t, exec (.fumSelfFault o) s = .next t ∧
    Mutes 9 s t ∧ t.evtStat 207 = true ∧ (∀ i, o = some i → t.handedAt i (s.frame - 73) = Sinter.zero) ∧
    Only [.fum, .vent] [207, 200, 202, 81, 82] muteFlds s t)

/-- R416, R419, R420, R422 to R425, R430, R432, R435, R437, R438, R440: what ends a mute, and Fumarole's own commands: SAFE_MUTE_N high for 16 frames, the
management port's release and a cause whose condition for clearing is met clear their causes; a slot's cause clears once its time has
run; the port watch, the lock, the record and the counters. -/
def Obligations.FumaroleCommands : Prop :=
  (∀ (n : BitVec 16) (s : State), 16 ≤ n.toNat → s.fumHas 0 = true → ∃ t, exec (.safePinClear n) s = .next t ∧ Unmutes 0 s t ∧
    t.fum.gate = 0 ∧ Only [.fum, .vent] [201, 202, 81, 82] muteFlds s t) ∧
  (∀ (n : BitVec 16) (s : State), (n.toNat < 16 ∨ s.fumHas 0 = false) → exec (.safePinClear n) s = .next { s with free := s.free + 1 }) ∧
  (∀ s : State, s.fumHas 1 = true → ∃ t, exec (.fumMuteReq false true) s = .next t ∧ Unmutes 1 s t ∧
    t.bit Reg.FUMCTL_MUTE_REQ = false ∧ Only [.fum, .vent] [201, 202, 81, 82] (Reg.FUMCTL_MUTE_REQ :: muteFlds) s t) ∧
  (∀ s : State, s.fumHas 1 = false → ∃ t, exec (.fumMuteReq false true) s = .next t ∧ OnlyRegs [Reg.FUMCTL_MUTE_REQ] s t ∧
    t.bit Reg.FUMCTL_MUTE_REQ = false) ∧
  (∀ s : State, (∀ c ∈ [2, 3, 4, 8], (s.fumHas c && s.clearMet c) = false) → exec .fumResumed s = .next { s with free := s.free + 1 }) ∧
  (∀ (c : Nat) (s : State), c ∈ [2, 3, 4, 8] → s.get Reg.FUMSTAT_CAUSE = 2 ^ c → s.clearMet c = true →
    ∃ t, exec .fumResumed s = .next t ∧ Unmutes c s t ∧ Only [.fum, .vent] [201, 202, 81, 82] muteFlds s t) ∧
  (∀ (o : Fin 512) (c : Fin 8) (s : State), ∃ t, exec (.slotMuteClear o c) s = .next t ∧
    t = { s with free := s.free + 1, fum := { s.fum with slots := t.fum.slots } } ∧
    ∀ i, t.fumSlot i = if i = o.val then { s.fumSlot o with mutes := (s.fumSlot o).mutes.filter (fun m => !(m.cause == c.val &&
      (if c.val = 3 then decide (m.since + 4096 + 73 ≤ s.frame) else if c.val = 1 then decide (m.since + 73 ≤ s.frame)
        else decide (m.since + 16 * s.muteHold ≤ s.lookedTo)))) } else s.fumSlot i) ∧
  (∀ (n : Fin 16) (s : State), ¬(s.portMode n = 1 ∧ s.portState n = 2) → exec (.portWatch n) s = .next { s with free := s.free + 1 }) ∧
  (∀ (n : Fin 16) (s : State), s.portMode n = 1 → s.portState n = 2 → ∃ t, exec (.portWatch n) s = .next t ∧
    OnlyRegs [Reg.FUMSTAT_PORT_WATCH] { s with ports := { s.ports with out := t.ports.out } } t ∧
    t.bit Reg.FUMSTAT_PORT_WATCH = true ∧
    ∀ q, t.ports.out.look none q = if q / 16 = n.val then (if s.portHiz q then none else some [0]) else s.ports.out.look none q) ∧
  (∀ s : State, ∃ t, exec .fumlockClose s = .next t ∧ OnlyRegs [Reg.FUMLOCK_CLOSED] s t ∧ t.locked = true) ∧
  (∀ s : State, ∃ t, exec .fumrecAck s = .next t ∧ OnlyRegs [Reg.FUMRECSTAT_UNACK, Reg.FUMSTAT_FAULTN] s t ∧
    t.bit Reg.FUMRECSTAT_UNACK = false ∧ t.bit Reg.FUMSTAT_FAULTN = (s.bit Reg.FUMSTAT_MUTE_ALL || s.fumHas 9)) ∧
  (∀ s : State, ∃ t, exec (.fumrecClr true) s = .next t ∧ Only [.fum] [] recFlds s t ∧ t.get Reg.FUMRECSTAT_COUNT = 0 ∧
    t.get Reg.FUMRECSTAT_NEXT = 1 ∧ t.bit Reg.FUMRECSTAT_WRAPPED = false ∧ t.bit Reg.FUMRECSTAT_UNACK = false ∧ t.fum.seq = 0 ∧
    ∀ i, i < 64 → t.get (Reg.FUMREC_WORD0 i) = 0 ∧ t.get (Reg.FUMREC_WORD1 i) = 0 ∧ t.get (Reg.FUMREC_WORD2 i) = 0 ∧
      t.get (Reg.FUMREC_WORD3 i) = 0) ∧
  (∀ s : State, exec (.fumrecClr false) s = .next { s with free := s.free + 1 }) ∧
  (∀ s : State, ∃ t, exec .fumcntClear s = .next t ∧ OnlyRegs [Reg.FUMCNT_FILLED, Reg.FUMCNT_LIMITED] s t ∧
    t.get Reg.FUMCNT_FILLED = 0 ∧ t.get Reg.FUMCNT_LIMITED = 0)

/-- R444 to R446, R448, R452, R454 to R456, R459, R461, R469, R484: the commands to the core loop.  A write that changes nothing does
nothing; INSEL captures hitlessly within CAPWIN, else, or before the lock, or from a HOLD that a RAMP or ALIGN was left for, the loop
relocks, and FALLBACK and SEL follow it; REFSCALE, NINT and FRAC change in QUIESCE only, refused by KIND; RELOCK goes to CAL from LOCKED
and HOLD; RAMP_GO waits for C = 0; SSC starts spread, is refused, or waits for LOCKED; LOOPINIT's GO takes good settings, flags bad ones. -/
def Obligations.CoreLoopCommands : Prop :=
  let follow : List Fld := [Reg.CORECFG_INSEL, Reg.REFSTAT_SWITCHING, Reg.REFSTAT_SEL, Reg.REFSTAT_HOLDOVER, Reg.REFSTAT_REALIGNING,
    Reg.REFSTAT_FALLBACK, Reg.REFSTEER_STEER]
  (∀ (i r : BitVec 2) (d : BitVec 32) (s : State), s.get Reg.CORECFG_INSEL = i.toNat → s.get Reg.CORECFG_REFSCALE = r.toNat →
    exec (.inselWrite i r d) s = .next { s with free := s.free + 1 }) ∧
  (∀ (i r : BitVec 2) (d : BitVec 32) (s : State), s.get Reg.CORECFG_INSEL ≠ i.toNat → s.get Reg.CORECFG_REFSCALE = r.toNat →
    3 ≤ s.loop → s.loop ≤ 5 → s.clk.floor = false →
    (d.toNat ≤ s.get Reg.CLKCAP_CAPWIN → s.get Reg.CLKCAP_CAPWIN ≠ 0 → s.inputUsable i.toNat = true → s.evt.inReset = false →
      ∃ t, exec (.inselWrite i r d) s = .next t ∧ t.get Reg.CORECFG_INSEL = i.toNat ∧ t.get Reg.CORESTAT_INPUT_NOW = i.toNat ∧
        t.loop = s.loop ∧ t.bit Reg.CORESTAT_INPUT_LOST = false ∧ t.evtStat 2 = true ∧ t.clk.n = t.serviceN ∧
        t.bit Reg.REFSTAT_FALLBACK = decide (i ≠ 0) ∧ (i ≠ 0 → t.get Reg.REFSTAT_SEL = if i = 3 then 5 else i.toNat) ∧
        Only [.clk, .refs] [2, 20, 21] (Reg.CORESTAT_INPUT_NOW :: Reg.CORESTAT_INPUT_LOST :: follow) s t)) ∧
  (∀ (i r : BitVec 2) (d : BitVec 32) (s : State), s.get Reg.CORECFG_INSEL ≠ i.toNat → s.get Reg.CORECFG_REFSCALE = r.toNat →
    s.clk.floor = false →
    (s.loop = 6 → s.clk.redo = false → d.toNat ≤ s.get Reg.CLKCAP_CAPWIN → s.get Reg.CLKCAP_CAPWIN ≠ 0 → s.inputUsable i.toNat = true →
      s.evt.inReset = false → ∃ t, exec (.inselWrite i r d) s = .next t ∧ t.get Reg.CORECFG_INSEL = i.toNat ∧ t.loop = 5 ∧
        t.bit Reg.CORESTAT_INPUT_LOST = false ∧ t.evtStat 2 = true ∧ t.evtStat 0 = true) ∧
    ((s.loop = 1 ∨ s.loop = 2 ∨ (s.loop = 6 ∧ s.clk.redo = true) ∨ (3 ≤ s.loop ∧ s.loop ≤ 6 ∧ (s.get Reg.CLKCAP_CAPWIN < d.toNat ∨
        s.inputUsable i.toNat = false))) → ∃ t, exec (.inselWrite i r d) s = .next t ∧ t.get Reg.CORECFG_INSEL = i.toNat ∧
      t.loop = 1 ∧ t.fumHas 2 = true ∧ (5 ≤ s.loop → s.evt.inReset = false → t.evtStat 3 = true) ∧ t.bit Reg.REFSTAT_FALLBACK = decide (i ≠ 0) ∧
      Only [.clk, .refs, .fum, .vent] ([3, 20, 21] ++ loopEvts)
        ([Reg.CORESTAT_INPUT_NOW, Reg.CORESTAT_INPUT_LOST, Reg.CORESTAT_COAST] ++ follow ++ loopFlds) s t)) ∧
  (∀ (i r : BitVec 2) (d : BitVec 32) (s : State), s.get Reg.CORECFG_INSEL ≠ i.toNat → s.get Reg.CORECFG_REFSCALE = r.toNat →
    s.loop = 0 ∨ s.loop = 7 ∨ s.clk.floor = true → ∃ t, exec (.inselWrite i r d) s = .next t ∧ Only [.refs] [20, 21] follow s t ∧
      t.get Reg.CORECFG_INSEL = i.toNat ∧ t.bit Reg.REFSTAT_FALLBACK = decide (i ≠ 0)) ∧
  (∀ (v : BitVec 24) (s : State),
    (s.get Reg.CORECFG_REFSCALE = v.toNat % 4 → exec (.coreNWrite 0 v) s = .next { s with free := s.free + 1 }) ∧
    (s.get Reg.CORENINT_NINT = v.toNat % 65536 → exec (.coreNWrite 1 v) s = .next { s with free := s.free + 1 }) ∧
    (s.get Reg.CORENFRAC_FRAC = v.toNat → exec (.coreNWrite 2 v) s = .next { s with free := s.free + 1 })) ∧
  (∀ (v : BitVec 24) (s : State), s.get Reg.PWRSTAT_STATE ≠ 1 →
    (s.get Reg.CORECFG_REFSCALE ≠ v.toNat % 4 → ∃ t, exec (.coreNWrite 0 v) s = .next t ∧ ClockRefuses 1 s t) ∧
    (s.get Reg.CORENINT_NINT ≠ v.toNat % 65536 → ∃ t, exec (.coreNWrite 1 v) s = .next t ∧ ClockRefuses 1 s t) ∧
    (s.get Reg.CORENFRAC_FRAC ≠ v.toNat → ∃ t, exec (.coreNWrite 2 v) s = .next t ∧ ClockRefuses 1 s t)) ∧
  (∀ (v : BitVec 24) (s : State), s.get Reg.PWRSTAT_STATE = 1 →
    let sc := s.get Reg.CORECFG_REFSCALE
    let nint := s.get Reg.CORENINT_NINT
    let frac := s.get Reg.CORENFRAC_FRAC
    (sc ≠ v.toNat % 4 → (s.scaleBad (v.toNat % 4) = true ∨ aboveGuard (s.rootHz 0 (v.toNat % 4) (nint * 2 ^ 24 + frac)) = true) →
      ∃ t, exec (.coreNWrite 0 v) s = .next t ∧ ClockRefuses 2 s t) ∧
    (s.scaleBad (v.toNat % 4) = false → aboveGuard (s.rootHz 0 (v.toNat % 4) (nint * 2 ^ 24 + frac)) = false →
      ∃ t, exec (.coreNWrite 0 v) s = .next t ∧ OnlyRegs [Reg.CORECFG_REFSCALE] s t ∧ t.get Reg.CORECFG_REFSCALE = v.toNat % 4) ∧
    (nint ≠ v.toNat % 65536 → v.toNat % 65536 < 8 → ∃ t, exec (.coreNWrite 1 v) s = .next t ∧ ClockRefuses 6 s t) ∧
    (nint ≠ v.toNat % 65536 → 8 ≤ v.toNat % 65536 → aboveGuard (s.rootHz 0 sc (v.toNat % 65536 * 2 ^ 24 + frac)) = true →
      ∃ t, exec (.coreNWrite 1 v) s = .next t ∧ ClockRefuses 2 s t) ∧
    (8 ≤ v.toNat % 65536 → aboveGuard (s.rootHz 0 sc (v.toNat % 65536 * 2 ^ 24 + frac)) = false →
      ∃ t, exec (.coreNWrite 1 v) s = .next t ∧ OnlyRegs [Reg.CORENINT_NINT] s t ∧ t.get Reg.CORENINT_NINT = v.toNat % 65536) ∧
    (frac ≠ v.toNat → aboveGuard (s.rootHz 0 sc (nint * 2 ^ 24 + v.toNat)) = true →
      ∃ t, exec (.coreNWrite 2 v) s = .next t ∧ ClockRefuses 2 s t) ∧
    (aboveGuard (s.rootHz 0 sc (nint * 2 ^ 24 + v.toNat)) = false →
      ∃ t, exec (.coreNWrite 2 v) s = .next t ∧ OnlyRegs [Reg.CORENFRAC_FRAC] s t ∧ t.get Reg.CORENFRAC_FRAC = v.toNat)) ∧
  (∀ s : State, s.loop = 5 ∨ s.loop = 6 → s.clk.floor = false → ∃ t, exec .relock s = .next t ∧
    LoopGoes 1 [3] [Reg.CORESTAT_INPUT_NOW, Reg.CORESTAT_INPUT_LOST, Reg.CORESTAT_COAST] s t) ∧
  (∀ s : State, s.loop = 3 → exec .rampGo s = .next { s with free := s.free + 1 }) ∧
  (∀ s : State, ((s.loop ≠ 5 ∧ s.loop ≠ 6) ∨ s.clk.floor = true) → exec .relock s = .next { s with free := s.free + 1 }) ∧
  (∀ s : State, s.loop = 5 → s.get Reg.PWRSTAT_STATE = 1 →
    s.rampHigh = false → ∃ t, exec .rampGo s = .next t ∧ t.clk.rampGo = true ∧ t.pwr = { s.pwr with rampApply := true } ∧ t.fumHas 2 = true ∧ t.loop = 5 ∧
      Only [.clk, .pwr, .fum, .vent] muteEvts muteFlds s t) ∧
  (∀ s : State, s.loop = 5 → s.get Reg.PWRSTAT_STATE = 1 → s.rampHigh = true → ∃ t, exec .rampGo s = .next t ∧ ClockRefuses 2 s t) ∧
  (∀ s : State, s.loop ≠ 3 → s.loop ≠ 5 ∨ s.get Reg.PWRSTAT_STATE ≠ 1 → ∃ t, exec .rampGo s = .next t ∧ ClockRefuses 3 s t) ∧
  (∀ s : State, ∃ t, exec (.sscWrite 3) s = .next t ∧ ClockRefuses 4 s t) ∧
  (∀ (v : BitVec 2) (s : State), v ≠ 3 → s.loop ≠ 5 → ∃ t, exec (.sscWrite v) s = .next t ∧ OnlyRegs [Reg.CORECTL_SSC] s t ∧
    t.get Reg.CORECTL_SSC = v.toNat) ∧
  (∀ (s : State), s.loop = 5 → ∃ t, exec (.sscWrite 0) s = .next t ∧ t.get Reg.CORECTL_SSC = 0 ∧ t.bit Reg.CORESTAT_SSC_ON = false ∧
    Only [.clk] [13] [Reg.CORECTL_SSC, Reg.CORESTAT_SSC_ON, Reg.CORESTAT_SSC_NOREF] s t) ∧
  (∀ (v : BitVec 2) (s : State), s.loop = 5 → v = 1 ∨ v = 2 → s.evt.inReset = false →
    let high := v = 2 ∧ ∃ f, s.rootHz (s.get Reg.CORESTAT_INPUT_NOW) (s.get Reg.CORECFG_REFSCALE) s.clk.n = some f ∧
      1633500000 * 10000 < f * 10025
    ∃ t, exec (.sscWrite v) s = .next t ∧ t.get Reg.CORECTL_SSC = v.toNat ∧ t.loop = 5 ∧
      (s.bit Reg.AUXSTAT_SDREF_OK = false → t.bit Reg.CORESTAT_SSC_NOREF = true ∧ t.bit Reg.CORESTAT_SSC_ON = false ∧ t.evtStat 15 = true) ∧
      (s.bit Reg.AUXSTAT_SDREF_OK = true → high → t.get Reg.CLKFAULT_KIND = 4 ∧ t.bit Reg.CORESTAT_SSC_ON = false ∧ t.evtStat 15 = true) ∧
      (s.bit Reg.AUXSTAT_SDREF_OK = true → ¬high → t.bit Reg.CORESTAT_SSC_ON = true ∧ t.bit Reg.CORESTAT_SSC_NOREF = false ∧
        t.fumHas 2 = true)) ∧
  (∀ s : State, s.bit Reg.MGSTAT_LOOP_WAIT = false → exec .loopinitGo s = .next { s with free := s.free + 1 }) ∧
  (∀ s : State, s.bit Reg.MGSTAT_LOOP_WAIT = true → s.loopinitGood = true → ∃ t, exec .loopinitGo s = .next t ∧
    OnlyRegs [Reg.MGSTAT_LOOP_WAIT, Reg.MGSTAT_LOOP_BAD] { s with clk := { s.clk with init := t.clk.init } } t ∧
    t.clk.init = some (s.get Reg.LOOPINIT_NINT, s.get Reg.LOOPINIT_FRAC_FRAC, s.get Reg.LOOPINIT_REFSCALE, s.get Reg.LOOPINIT_FAMILY,
      s.get Reg.LOOPINIT_MULT) ∧ t.bit Reg.MGSTAT_LOOP_WAIT = false ∧ t.bit Reg.MGSTAT_LOOP_BAD = false) ∧
  (∀ s : State, s.bit Reg.MGSTAT_LOOP_WAIT = true → s.loopinitGood = false → ∃ t, exec .loopinitGo s = .next t ∧
    OnlyRegs [Reg.MGSTAT_LOOP_WAIT, Reg.MGSTAT_LOOP_BAD] s t ∧ t.bit Reg.MGSTAT_LOOP_WAIT = true ∧ t.bit Reg.MGSTAT_LOOP_BAD = true)

/-- R443, R446 to R448, R450, R451, R453, R455, R458, R460, R461, R463, R485: what happens to the core loop.  The automatic measurement;
OFF to CAL once the input is there; the band search; ACQUIRE to ALIGN or RAMP; a failed lock back to CAL; RAMP to ALIGN; ALIGN to LOCKED; a
lost input to HOLD, no fallback being enabled; its return within CAPWIN to LOCKED, else to CAL; the end of hold to the floor, where the
loop coasts, or relocks if its input has returned; the overshoot monitor; the auxiliary clocks and the DLLs.  In a state that such an event
does not concern it changes nothing. -/
def Obligations.CoreLoopEvents : Prop :=
  (∀ (hz : BitVec 32) (s : State), s.pwr.chip = 0 → s.loop = 0 → s.clk.first = true → s.clk.init = none → s.bit Reg.LOOPINIT_AUTO = true →
    s.bit Reg.MGSTAT_LOOP_WAIT = false → nearHz hz.toNat 24576000 = true → s.get Reg.LOOPINIT_MULT ≠ 3 →
    ∃ t, exec (.hrefMeasureDone hz true) s = .next t ∧ t.clk.href = hz.toNat ∧
      t.clk.init = some (64, 0, 0, 0, s.get Reg.LOOPINIT_MULT) ∧
      Only [.clk] [] [Reg.LOOPINIT_FAMILY, Reg.LOOPINIT_NINT, Reg.LOOPINIT_FRAC_FRAC, Reg.LOOPINIT_REFSCALE, Reg.MGSTAT_LOOP_WAIT,
        Reg.MGSTAT_LOOP_BAD] s t) ∧
  (∀ (hz : BitVec 32) (s : State), s.pwr.chip = 0 → s.loop = 0 → s.clk.first = true → s.clk.init = none → s.bit Reg.LOOPINIT_AUTO = true →
    s.bit Reg.MGSTAT_LOOP_WAIT = false → ∃ t, exec (.hrefMeasureDone hz false) s = .next t ∧ t.bit Reg.MGSTAT_LOOP_WAIT = true ∧
      Only [.clk] [] [Reg.MGSTAT_LOOP_WAIT] s t) ∧
  (∀ (hz : BitVec 32) (s : State), s.pwr.chip = 0 → s.loop = 0 → s.clk.first = true → s.clk.init = none → s.bit Reg.LOOPINIT_AUTO = true →
    s.bit Reg.MGSTAT_LOOP_WAIT = false → nearHz hz.toNat 22579200 = true → s.get Reg.LOOPINIT_MULT ≠ 3 →
    ∃ t, exec (.hrefMeasureDone hz true) s = .next t ∧ t.clk.init = some (64, 0, 0, 1, s.get Reg.LOOPINIT_MULT)) ∧
  (∀ (hz : BitVec 32) (ok : Bool) (s : State), (s.pwr.chip ≠ 0 ∨ s.loop ≠ 0 ∨ s.clk.first = false ∨ s.clk.init.isSome = true ∨
    s.bit Reg.LOOPINIT_AUTO = false ∨ s.bit Reg.MGSTAT_LOOP_WAIT = true) → exec (.hrefMeasureDone hz ok) s = .next { s with free := s.free + 1 }) ∧
  (∀ s : State, (s.loop = 7 ∧ s.bit Reg.CORESTAT_COAST = false ∨ s.loop = 6 ∧ s.clk.floor = true) →
    s.inputUsable (s.get Reg.CORECFG_INSEL) = true →
    exec .loopInputPresent s = .next { s with free := s.free + 1, clk := { s.clk with back := true } }) ∧
  (∀ s : State, (s.inputUsable (s.get Reg.CORECFG_INSEL) = false ∨ (s.loop = 6 ∧ s.clk.floor = false) ∨ (1 ≤ s.loop ∧ s.loop ≤ 5)) →
    exec .loopInputPresent s = .next { s with free := s.free + 1 }) ∧
  (∀ s : State, s.inputUsable (s.get Reg.CORECFG_INSEL) = true → s.loop = 0 → s.clk.first = false ∨ s.clk.init.isSome = true →
    ∃ t, exec .loopInputPresent s = .next t ∧
      LoopGoes 1 [] [Reg.CORESTAT_INPUT_NOW, Reg.CORESTAT_INPUT_LOST, Reg.CORESTAT_COAST] s t) ∧
  (∀ s : State, s.inputUsable (s.get Reg.CORECFG_INSEL) = true → s.loop = 7 → s.bit Reg.CORESTAT_COAST = true →
    s.get Reg.PWRSTAT_STATE ≠ 2 → s.pwr.step ≠ 2 → ∃ t, exec .loopInputPresent s = .next t ∧
      LoopGoes 1 [3] [Reg.CORESTAT_INPUT_NOW, Reg.CORESTAT_INPUT_LOST, Reg.CORESTAT_COAST] s t) ∧
  (∀ (b : BitVec 5) (f : BitVec 12) (s : State), s.loop = 1 → ∃ t, exec (.bandSearchDone b f true) s = .next t ∧
    t.get Reg.CORECAL_BAND = b.toNat ∧ t.get Reg.CORECAL_FLOOR_CODE = f.toNat ∧
    LoopGoes 2 [] [Reg.CORECAL_BAND, Reg.CORECAL_FLOOR_CODE] s t) ∧
  (∀ (b : BitVec 5) (f : BitVec 12) (s : State), s.loop = 1 → s.evt.inReset = false → s.evt.once.contains 9 = false →
    ∃ t, exec (.bandSearchDone b f false) s = .next t ∧ t.loop = 1 ∧ t.evtStat 9 = true ∧ Only [] [9] [] s t) ∧
  (∀ s : State, s.loop = 2 → s.clk.first = false → s.clk.ramp = false → ∃ t, exec .acquireLock s = .next t ∧ LoopGoes 4 [] [] s t ∧
    t.clk.n = s.serviceN) ∧
  (∀ s : State, s.loop = 2 → s.clk.first = false → s.clk.ramp = true →
    (s.clk.n ≠ s.serviceN → ∃ t, exec .acquireLock s = .next t ∧ LoopGoes 3 [4] [] s t ∧ t.clk.n = s.clk.n) ∧
    (s.clk.n = s.serviceN → ∃ t, exec .acquireLock s = .next t ∧ LoopGoes 4 [4, 5] [] s t)) ∧
  (∀ (b : BitVec 5) (f : BitVec 12) (k : Bool) (s : State), s.loop ≠ 1 → exec (.bandSearchDone b f k) s = .next { s with free := s.free + 1 }) ∧
  (∀ s : State, s.loop ≠ 2 → exec .acquireLock s = .next { s with free := s.free + 1 } ∧ exec .coreLockFailed s = .next { s with free := s.free + 1 }) ∧
  (∀ s : State, s.rampReaches = false → exec .coreRampDone s = .next { s with free := s.free + 1 }) ∧
  (∀ s : State, s.loop ≠ 4 → exec .corePhaseAligned s = .next { s with free := s.free + 1 }) ∧
  (∀ (s : State) (n f r fam m : Nat), s.loop = 2 → s.clk.first = true → s.clk.init = some (n, f, r, fam, m) → s.clk.ramp = false →
    n < 2 ^ 16 → f < 2 ^ 24 → r < 4 → fam < 2 → m < 4 → ∃ t, exec .acquireLock s = .next t ∧
      LoopGoes 4 [] [Reg.CORENINT_NINT, Reg.CORENFRAC_FRAC, Reg.CORECFG_REFSCALE, Reg.PWRRATE_FAMILY, Reg.PWRRATE_MULT,
        Reg.PWRRATE_FAMILY_NOW, Reg.PWRRATE_MULT_NOW] s t ∧ t.clk.first = false ∧
      t.get Reg.CORENINT_NINT = n ∧ t.get Reg.CORENFRAC_FRAC = f ∧ t.get Reg.CORECFG_REFSCALE = r ∧
      t.get Reg.PWRRATE_FAMILY_NOW = fam ∧ t.get Reg.PWRRATE_MULT_NOW = m) ∧
  (∀ s : State, s.loop = 2 → ∃ t, exec .coreLockFailed s = .next t ∧ t.loop = 1 ∧ t.fumHas 2 = true ∧
    t.bit Reg.MGSTAT_CORE_LOCKED = false ∧
    Only [.clk, .fum, .vent] (9 :: loopEvts) loopFlds s t ∧ (s.evt.inReset = false → s.evt.once.contains 9 = false → t.evtStat 9 = true)) ∧
  (∀ s : State, s.rampReaches = true → ∃ t, exec .coreRampDone s = .next t ∧ LoopGoes 4 [5] [] s t ∧ t.clk.n = s.serviceN ∧ t.clk.ramp = s.clk.ramp) ∧
  (∀ s : State, s.loop = 4 → s.evt.inReset = false → ∃ t, exec .corePhaseAligned s = .next t ∧
    t.loop = 5 ∧ t.get Reg.CORESTAT_PHASE = (if s.get Reg.REFSTAT_SEL = 0 ∨ s.get Reg.REFSTAT_SEL = 7 then 2 else 1) ∧
    t.bit Reg.MGSTAT_CORE_LOCKED = true ∧ t.evtStat 0 = true ∧ t.evtStat 10 = true ∧ (s.get Reg.CORECTL_SSC = 0 → t.clk.lockedAt ≠ 0) ∧
    Only [.clk, .fum, .vent] (10 :: loopEvts) (Reg.CORESTAT_PHASE :: loopFlds) s t) ∧
  (∀ (d : BitVec 32) (s : State), s.loopRuns = false → (s.loop = 0 ∨ s.bit Reg.CORESTAT_INPUT_LOST = true) →
    exec (.coreInputLost d) s = .next { s with free := s.free + 1 }) ∧
  (∀ (d : BitVec 32) (s : State), (s.loop = 6 ∨ s.loop = 7) → s.bit Reg.CORESTAT_INPUT_LOST = false → s.evt.inReset = false →
    ∃ t, exec (.coreInputLost d) s = .next t ∧ t.bit Reg.CORESTAT_INPUT_LOST = true ∧ t.loop = s.loop ∧ t.clk.back = false ∧ t.evtStat 1 = true) ∧
  (∀ (d : BitVec 32) (s : State), s.loopRuns = true → s.evt.inReset = false → s.bit Reg.REFFB_WCK0_EN = false → s.bit Reg.REFFB_WCK1_EN = false →
    s.bit Reg.REFFB_LINK_EN = false → ∃ t, exec (.coreInputLost d) s = .next t ∧ t.loop = 6 ∧ t.bit Reg.CORESTAT_INPUT_LOST = true ∧
      t.evtStat 1 = true ∧ t.get Reg.CORECFG_INSEL = s.get Reg.CORECFG_INSEL ∧
      Only [.clk, .refs, .fum, .vent] ([1, 17, 19, 20, 21] ++ loopEvts) ([Reg.CORESTAT_INPUT_LOST, Reg.REF_PRESENT 0, Reg.REF_OFFSET 0,
        Reg.REF_STATE 0, Reg.REF_CAUSE 0, Reg.REFSTAT_SWITCHING, Reg.REFSTAT_SEL, Reg.REFSTAT_HOLDOVER, Reg.REFSTAT_REALIGNING,
        Reg.REFSTAT_BUILTOUT, Reg.REFBO_BO, Reg.REFSTEER_STEER] ++ loopFlds) s t) ∧
  (∀ (d : BitVec 32) (s : State), s.loop = 6 → s.bit Reg.CORESTAT_INPUT_LOST = true → s.clk.floor = false → s.evt.inReset = false →
    (s.get Reg.CORECFG_INSEL ≠ 0 ∨ s.get (Reg.REF_STATE 0) = 3) →
    let fits := d.toNat ≤ s.get Reg.CLKCAP_CAPWIN ∧ s.get Reg.CLKCAP_CAPWIN ≠ 0 ∧ s.inputUsable (s.get Reg.CORECFG_INSEL) = true ∧
      s.clk.redo = false
    (fits → ∃ t, exec (.coreInputReturn d) s = .next t ∧ t.loop = 5 ∧ t.bit Reg.CORESTAT_INPUT_LOST = false ∧ t.evtStat 2 = true ∧
      t.evtStat 0 = true ∧
      Only [.clk, .fum, .vent] (2 :: loopEvts) ([Reg.CORESTAT_INPUT_LOST, Reg.CORESTAT_INPUT_NOW, Reg.REF_PRESENT 0] ++ loopFlds) s t) ∧
    (¬fits → ∃ t, exec (.coreInputReturn d) s = .next t ∧ LoopGoes 1 [3] [Reg.CORESTAT_INPUT_NOW, Reg.CORESTAT_INPUT_LOST,
      Reg.CORESTAT_COAST, Reg.REF_PRESENT 0] s t)) ∧
  (∀ (d : BitVec 32) (s : State), s.bit Reg.CORESTAT_INPUT_LOST = false → exec (.coreInputReturn d) s = .next { s with free := s.free + 1 }) ∧
  (∀ (d : BitVec 32) (s : State), s.bit Reg.CORESTAT_INPUT_LOST = true → (s.loop = 7 ∨ (s.loop = 6 ∧ s.clk.floor = true)) →
    ∃ t, exec (.coreInputReturn d) s = .next t ∧ t.bit Reg.CORESTAT_INPUT_LOST = false ∧ t.clk.back = true ∧ t.loop = s.loop) ∧
  (∀ s : State, (s.loop ≠ 6 ∨ s.clk.floor = true ∨ s.frame < s.clk.heldAt + s.holdTime) → exec .holdExpired s = .next { s with free := s.free + 1 }) ∧
  (∀ s : State, s.loop = 6 → s.clk.floor = false → s.clk.heldAt + s.holdTime ≤ s.frame → s.evt.inReset = false →
    ∃ t, exec .holdExpired s = .next t ∧ t.evtStat 24 = true ∧
    t.fumHas 2 = true ∧ t.clk.floor = true ∧ t.loop = (if s.cZero then 7 else 6) ∧
    Only [.clk, .fum, .vent] (24 :: loopEvts) loopFlds s t) ∧
  (∀ s : State, (s.loop ≠ 7 ∨ s.bit Reg.CORESTAT_COAST = true) → exec .coreCoast s = .next { s with free := s.free + 1 }) ∧
  (∀ s : State, s.loop = 7 → s.bit Reg.CORESTAT_COAST = false → s.evt.inReset = false → s.clk.back = true →
    s.inputUsable (s.coastInput % 4) = true → s.floorHolds = false → ∃ t, exec .coreCoast s = .next t ∧ t.loop = 1 ∧
      t.evtStat 6 = true ∧ t.evtStat 3 = true ∧ t.bit Reg.CORESTAT_COAST = false ∧ t.get Reg.CORECFG_INSEL = s.coastInput % 4) ∧
  (∀ s : State, s.loop = 7 → s.bit Reg.CORESTAT_COAST = false → s.evt.inReset = false →
    (s.clk.back = false ∨ s.inputUsable (s.coastInput % 4) = false ∨ s.floorHolds = true) → ∃ t, exec .coreCoast s = .next t ∧ t.loop = 7 ∧
    t.bit Reg.CORESTAT_COAST = true ∧ t.evtStat 6 = true ∧ t.get Reg.CORECFG_INSEL = s.coastInput % 4 ∧ t.fumHas 2 = true ∧
    Only [.clk, .refs, .fum, .vent] ([6, 20, 21] ++ muteEvts) ([Reg.CORESTAT_COAST, Reg.CORECFG_INSEL, Reg.REFSTAT_SWITCHING,
      Reg.REFSTAT_SEL, Reg.REFSTAT_HOLDOVER, Reg.REFSTAT_REALIGNING, Reg.REFSTAT_FALLBACK, Reg.REFSTEER_STEER] ++ muteFlds) s t) ∧
  (∀ s : State, s.evt.inReset = false → s.evt.once.contains 7 = false → ∃ t, exec .coreOvershoot s = .next t ∧
    t.bit Reg.CORESTAT_GUARD = true ∧ t.evtStat 7 = true ∧ t.fumHas 2 = true ∧ t.loop = s.loop ∧
    Only [.clk, .fum, .vent] (7 :: muteEvts) (Reg.CORESTAT_GUARD :: muteFlds) s t) ∧
  (∀ (a b : BitVec 16) (s : State), s.clk.first = true → exec (.auxclkCheck a b) s = .next { s with free := s.free + 1 }) ∧
  (∀ (a b : BitVec 16) (s : State), s.clk.first = false → ∃ t, exec (.auxclkCheck a b) s = .next t ∧
    (2 * (a.toNat * s.baseRate) < 156250000 → t.bit Reg.AUXSTAT_SDREF_OK = false ∧
      (s.bit Reg.AUXSTAT_SDREF_OK = true → s.evt.inReset = false → t.evtStat 14 = true)) ∧
    (2 * (b.toNat * s.baseRate) < 100000000 → t.bit Reg.AUXSTAT_PCIE_OK = false ∧
      (s.bit Reg.AUXSTAT_PCIE_OK = true → s.evt.inReset = false → t.evtStat 14 = true)) ∧
    (1000 * (a.toNat * s.baseRate - 156250000) ≤ 156250000 → 1000 * (156250000 - a.toNat * s.baseRate) ≤ 156250000 →
      15 ≤ s.clk.sdGood → t.bit Reg.AUXSTAT_SDREF_OK = true) ∧
    (1000 * (b.toNat * s.baseRate - 100000000) ≤ 100000000 → 1000 * (100000000 - b.toNat * s.baseRate) ≤ 100000000 →
      15 ≤ s.clk.pcGood → t.bit Reg.AUXSTAT_PCIE_OK = true) ∧
    (s.loop ≠ 5 ∨ s.get Reg.CORECTL_SSC = 0 → Only [.clk] [14] [Reg.AUXSTAT_SDREF_OK, Reg.AUXSTAT_PCIE_OK] s t)) ∧
  (∀ (d : Fin 22) (b : Bool) (s : State), s.evt.inReset = false → ∃ t, exec (.dllLock d b) s = .next t ∧
    (∀ i, i < 22 → (t.get Reg.DLLSTAT_LOCKED).testBit i = if i = d.val then b else (s.get Reg.DLLSTAT_LOCKED).testBit i) ∧
    ((s.get Reg.DLLSTAT_LOCKED).testBit d = true → b = false → t.evtStat 11 = true) ∧ Only [] [11] [Reg.DLLSTAT_LOCKED] s t)

/-- R45 to R47, R464 to R466, R468, R528: ISLCMD is ignored while BUSY and refused for the fabric's own island or an island that does not
exist; ungate lets an island take part from the next whole window; gate waits until the island is idle, then closes its clock; force, and a
gate not idle within IDLE_TO, close it at once with FORCED and E12, and no transaction at the island stays; while a reset holds the island
the gate waits. -/
def Obligations.Islands : Prop :=
  (∀ (i : BitVec 10) (s : State), s.bit Reg.ISLSTAT_BUSY = true →
    (∃ t, exec (.islandUngate i) s = .next t ∧ OnlyRegs [Reg.ISLSTAT_CMD_IGNORED] s t ∧ t.bit Reg.ISLSTAT_CMD_IGNORED = true) ∧
    (∃ t, exec (.islandGate i) s = .next t ∧ OnlyRegs [Reg.ISLSTAT_CMD_IGNORED] s t ∧ t.bit Reg.ISLSTAT_CMD_IGNORED = true) ∧
    (∃ t, exec (.islandForce i) s = .next t ∧ OnlyRegs [Reg.ISLSTAT_CMD_IGNORED] s t ∧ t.bit Reg.ISLSTAT_CMD_IGNORED = true)) ∧
  (∀ (i : BitVec 10) (s : State), s.bit Reg.ISLSTAT_BUSY = false → s.clk.gated.contains i.toNat = true → i.toNat < 0x159 →
    ∃ t, exec (.islandUngate i) s = .next t ∧ t.clk.gated.contains i.toNat = false ∧ t.clk.join.look 0 i.toNat = s.window + 2 ∧
      (∀ j, j ≠ i.toNat → t.clk.gated.contains j = s.clk.gated.contains j ∧ t.clk.join.look 0 j = s.clk.join.look 0 j) ∧
      OnlyRegs [Reg.ISLCMD_ISLAND, Reg.ISLCMD_OP] { s with clk := t.clk } t) ∧
  (∀ (i : BitVec 10) (s : State), s.bit Reg.ISLSTAT_BUSY = false → s.clk.gated.contains i.toNat = false → i.toNat < 0x159 →
    ∃ t, exec (.islandUngate i) s = .next t ∧ OnlyRegs [Reg.ISLCMD_ISLAND, Reg.ISLCMD_OP] s t) ∧
  (∀ (i : BitVec 10) (s : State), s.bit Reg.ISLSTAT_BUSY = false → i.toNat < 0x159 → i.toNat ≠ 0x148 →
    ∃ t, exec (.islandGate i) s = .next t ∧ t = { s with free := s.free + 1, regs := t.regs, clk := { s.clk with
      gating := some i.toNat, gateAt := s.now } } ∧
      OnlyRegs [Reg.ISLCMD_ISLAND, Reg.ISLCMD_OP, Reg.ISLSTAT_BUSY] { s with clk := t.clk } t ∧ t.bit Reg.ISLSTAT_BUSY = true) ∧
  (∀ (i : BitVec 10) (s : State), s.bit Reg.ISLSTAT_BUSY = false → 0x159 ≤ i.toNat ∨ i.toNat = 0x148 → s.evt.inReset = false →
    ∀ c ∈ [Instr.islandGate i, .islandForce i], ∃ t, exec c s = .next t ∧ t.get Reg.CLKFAULT_KIND = 5 ∧
      Raises [15] [Reg.CLKFAULT_KIND, Reg.ISLCMD_ISLAND, Reg.ISLCMD_OP] s t) ∧
  (∀ (i : BitVec 10) (s : State), s.bit Reg.ISLSTAT_BUSY = false → 0x159 ≤ i.toNat → s.evt.inReset = false →
    ∃ t, exec (.islandUngate i) s = .next t ∧ t.get Reg.CLKFAULT_KIND = 5 ∧
      Raises [15] [Reg.CLKFAULT_KIND, Reg.ISLCMD_ISLAND, Reg.ISLCMD_OP] s t) ∧
  (∀ (i : BitVec 10) (s : State), s.bit Reg.ISLSTAT_BUSY = false → i.toNat < 0x159 → i.toNat ≠ 0x148 →
    ∃ t, exec (.islandForce i) s = .next t ∧ t.clk.gated.contains i.toNat = true ∧ t.bit Reg.ISLSTAT_FORCED = true ∧
      t.clk.gating = none ∧ ∀ r ∈ t.fab.reqs, (targetIslands r.addr).contains i.toNat = false) ∧
  (∀ (i : BitVec 10) (s : State), s.bit Reg.ISLSTAT_BUSY = false → i.toNat < 0x159 → i.toNat ≠ 0x148 → s.fab.reqs = [] →
    s.bit Reg.FABLOCK_M0_OPEN = false → s.bit Reg.FABLOCK_M4_OPEN = false → s.evt.inReset = false →
    ∃ t, exec (.islandForce i) s = .next t ∧ t.clk.gated.contains i.toNat = true ∧ t.bit Reg.ISLSTAT_FORCED = true ∧
      t.clk.gating = none ∧ (∀ j, j ≠ i.toNat → t.clk.gated.contains j = s.clk.gated.contains j) ∧
      Raises [12] [Reg.ISLCMD_ISLAND, Reg.ISLCMD_OP, Reg.ISLSTAT_BUSY, Reg.ISLSTAT_FORCED] { s with clk := t.clk } t) ∧
  (∀ (i : Nat) (s : State), s.clk.gating = some i → s.islandIdle i = false → exec .islandIdleClose s = .next { s with free := s.free + 1 }) ∧
  (∀ (i : Nat) (s : State), s.clk.gating = some i → s.resetHolds i = false → s.islandIdle i = true → ∃ t, exec .islandIdleClose s = .next t ∧
    t.clk.gated.contains i = true ∧ t.clk.gating = none ∧ t.bit Reg.ISLSTAT_BUSY = false ∧ t.bit Reg.ISLSTAT_FORCED = false ∧
    (∀ j, j ≠ i → t.clk.gated.contains j = s.clk.gated.contains j) ∧
    OnlyRegs [Reg.ISLSTAT_BUSY, Reg.ISLSTAT_FORCED] { s with clk := t.clk } t) ∧
  (∀ (i : Nat) (s : State), s.clk.gating = some i → s.resetHolds i = false → s.idleTimeout ≤ s.fclkSince s.clk.gateAt →
    ∃ t, exec .islandForcedClose s = .next t ∧
    t.clk.gated.contains i = true ∧ t.clk.gating = none ∧ t.bit Reg.ISLSTAT_BUSY = false ∧ t.bit Reg.ISLSTAT_FORCED = true ∧
    (∀ r ∈ t.fab.reqs, (targetIslands r.addr).contains i = false) ∧
    (s.fab.reqs = [] → s.bit Reg.FABLOCK_M0_OPEN = false → s.bit Reg.FABLOCK_M4_OPEN = false → s.evt.inReset = false →
      Raises [12] [Reg.ISLSTAT_BUSY, Reg.ISLSTAT_FORCED] { s with clk := t.clk } t)) ∧
  (∀ (i : Nat) (s : State), s.clk.gating = some i → s.fclkSince s.clk.gateAt < s.idleTimeout → exec .islandForcedClose s = .next { s with free := s.free + 1 }) ∧
  (∀ (i : Nat) (s : State), s.clk.gating = some i → s.resetHolds i = true → exec .islandIdleClose s = .next { s with free := s.free + 1 } ∧
    exec .islandForcedClose s = .next { s with free := s.free + 1 }) ∧
  (∀ s : State, s.clk.gating = none → exec .islandIdleClose s = .next { s with free := s.free + 1 } ∧
    exec .islandForcedClose s = .next { s with free := s.free + 1 })

/-- R470 to R473, R476 to R478: a reference whose edges are missing is no longer PRESENT, its OFFSET reads 0, and it leaves QUALIFIED for HOLDOFF, or
for ABSENT with E17 where HOLDOFF is 0; the end of an interval records presence, offsets and the phase error, and a fit ABSENT
reference starts to wait and one that is OFF and enabled is ABSENT; WTR over it is QUALIFIED with E16, HOLDOFF over ABSENT with E17;
a switch ends with E20, on its target where selection asks for no other.  What has not run out, or is not under way, does not end.

R450, R487, R488, R490, R491: REALIGN is refused with CMD_REFUSED and E29 unless the loop is LOCKED on a selected reference other
than REF0, in hardware mode, without holdover, switch or fallback; once the slew can have brought the grid there BO is 0 and E25 is
raised; in software mode REFSTEER is limited to ±1,000 ppm, and E28 says that no write has come for SW_TO periods. -/
def Obligations.ReferenceInputs : Prop :=
  (
  (∀ (r : Fin 6) (d b : BitVec 32) (s : State), s.bit (Reg.REF_PRESENT r) = true → ∃ t, exec (.refEdgeMissing r d b) s = .next t ∧
    t.bit (Reg.REF_PRESENT r) = false ∧ t.get (Reg.REF_OFFSET r) = 0 ∧
    (s.refState r = 3 → s.get Reg.REFTIME_HOLDOFF = 0 → t.refState r = 1 ∧ t.get (Reg.REF_CAUSE r) = 1 ∧
      (s.evt.inReset = false → t.evtStat 17 = true)) ∧
    (s.refState r = 3 → s.get Reg.REFTIME_HOLDOFF ≠ 0 → t.refState r = 4 ∧ t.get (Reg.REF_CAUSE r) = 1) ∧
    (s.refState r = 2 → t.refState r = 1 ∧ t.get (Reg.REF_CAUSE r) = 1) ∧
    Only [.refs, .clk, .fum, .vent] (17 :: refEvts) ([Reg.REF_PRESENT r, Reg.REF_OFFSET r, Reg.REF_STATE r, Reg.REF_CAUSE r] ++ refFlds)
      s t) ∧
  (∀ (r : Fin 6) (d b : BitVec 32) (s : State), s.bit (Reg.REF_PRESENT r) = false →
    exec (.refEdgeMissing r d b) s = .next { s with free := s.free + 1 }) ∧
  (∀ (offs : List (BitVec 32)) (p : BitVec 3) (ph st mean : BitVec 32) (far : Bool) (d b : BitVec 32) (s : State),
    ∃ t, exec (.refIntervalEnd offs p ph st mean far d b) s = .next t ∧ t.get Reg.REFPHERR_PHERR = ph.toNat ∧
      (∀ r : Fin 6, t.bit (Reg.REF_PRESENT r) = s.presentNow r p.toNat ∧
        t.get (Reg.REF_OFFSET r) = if s.presentNow r p.toNat then (offs.getD r 0).toNat else 0) ∧
      (∀ r : Fin 6, s.refState r = 1 → s.presentNow r p.toNat = true →
        (signed32 (offs.getD r 0).toNat).natAbs ≤ s.windowPpb → s.get (Reg.REF_QL r) ≠ 15 → t.refState r = 2) ∧
      (∀ r : Fin 6, s.refState r = 0 → t.refState r = (s.bit (Reg.REF_EN r)).toNat) ∧
      Only [.refs, .clk, .fum, .vent] ([17, 18, 30] ++ refEvts) (Reg.REFPHERR_PHERR :: (List.range 6).flatMap (fun r =>
        [Reg.REF_PRESENT r, Reg.REF_OFFSET r, Reg.REF_STATE r, Reg.REF_CAUSE r, Reg.REF_DWELL_CNT r]) ++ refFlds) s t) ∧
  (∀ (b : BitVec 32) (s : State), s.switchSettled = true → s.bit Reg.REFSTAT_FALLBACK = false → s.refs.target < 6 →
    s.refState s.refs.target = 3 → s.refs.ctl = none → s.bit Reg.REFCTL_FORCE_EN = false → s.bit Reg.REFCFG_REVERT = false →
    s.evt.inReset = false → ∃ t, exec (.refSwitchDone b) s = .next t ∧ t.bit Reg.REFSTAT_SWITCHING = false ∧
      t.get Reg.REFSTAT_SEL = s.refs.target ∧ t.bit Reg.REFSTAT_HOLDOVER = false ∧ t.evtStat 20 = true ∧
      (s.refs.target ≠ 0 → t.get Reg.REFBO_BO = b.toNat) ∧ (s.refs.target = 0 → t.get Reg.REFBO_BO = s.get Reg.REFBO_BO) ∧
      Only [.refs] [20] [Reg.REFSTAT_SWITCHING, Reg.REFSTAT_SEL, Reg.REFSTAT_HOLDOVER, Reg.REFBO_BO, Reg.REFSTAT_BUILTOUT] s t) ∧
  (∀ (b : BitVec 32) (s : State), s.switchSettled = true → s.evt.inReset = false → ∃ t, exec (.refSwitchDone b) s = .next t ∧
    t.evtStat 20 = true ∧ t.refs.ctl = none ∧ t.mem = s.mem ∧ t.clk = s.clk) ∧
  (∀ (r : Fin 6) (d b : BitVec 32) (s : State),
    ((s.refState r ≠ 2 ∨ s.refTimer r ≠ 0) → exec (.refWtrExpired r d b) s = .next { s with free := s.free + 1 }) ∧
    ((s.refState r ≠ 4 ∨ s.refTimer r ≠ 0) → exec (.refHoldoffExpired r d b) s = .next { s with free := s.free + 1 })) ∧
  (∀ (b : BitVec 32) (s : State), s.switchSettled = false → exec (.refSwitchDone b) s = .next { s with free := s.free + 1 }) ∧
  (∀ (r : Fin 6) (d b : BitVec 32) (s : State), s.refState r = 2 → s.refTimer r = 0 → s.evt.inReset = false →
    ∃ t, exec (.refWtrExpired r d b) s = .next t ∧ t.refState r = 3 ∧ t.evtStat 16 = true ∧
      Only [.refs, .clk, .fum, .vent] (16 :: refEvts) (Reg.REF_STATE r :: refFlds) s t) ∧
  (∀ (r : Fin 6) (d b : BitVec 32) (s : State), s.refState r = 4 → s.refTimer r = 0 → s.evt.inReset = false →
    ∃ t, exec (.refHoldoffExpired r d b) s = .next t ∧ t.refState r = 1 ∧ t.evtStat 17 = true ∧
      Only [.refs, .clk, .fum, .vent] (17 :: refEvts) (Reg.REF_STATE r :: refFlds) s t)
  ) ∧
  (
  (∀ s : State, s.bit Reg.REFSTAT_SWITCHING = false → s.bit Reg.REFSTAT_HOLDOVER = false → s.bit Reg.REFSTAT_FALLBACK = false →
    s.bit Reg.REFCFG_MODE = false → s.get Reg.REFSTAT_SEL ≠ 0 → s.get Reg.REFSTAT_SEL ≠ 7 → s.loop = 5 →
    ∃ t, exec .realign s = .next t ∧ t.bit Reg.REFSTAT_REALIGNING = true ∧ t.refs.slewAt = s.frame ∧
      OnlyRegs [Reg.REFSTAT_REALIGNING] { s with refs := { s.refs with slewAt := t.refs.slewAt, slewBy := t.refs.slewBy } } t) ∧
  (∀ s : State, s.bit Reg.REFSTAT_SWITCHING = true ∨ s.bit Reg.REFSTAT_HOLDOVER = true ∨ s.bit Reg.REFSTAT_FALLBACK = true ∨
    s.bit Reg.REFCFG_MODE = true ∨ s.get Reg.REFSTAT_SEL = 0 ∨ s.get Reg.REFSTAT_SEL = 7 ∨ s.loop ≠ 5 → s.evt.inReset = false →
    ∃ t, exec .realign s = .next t ∧ Raises [29] [Reg.REFSTAT_CMD_REFUSED] s t ∧ t.bit Reg.REFSTAT_CMD_REFUSED = true) ∧
  (∀ s : State, (s.bit Reg.REFSTAT_REALIGNING = false ∨ s.slewReached = false) → exec .realignDone s = .next { s with free := s.free + 1 }) ∧
  (∀ s : State, s.bit Reg.REFSTAT_REALIGNING = true → s.slewReached = true → s.evt.inReset = false → ∃ t, exec .realignDone s = .next t ∧
    Raises [25] [Reg.REFSTAT_REALIGNING, Reg.REFBO_BO, Reg.REFSTAT_BUILTOUT, Reg.OUTCFG_DOM, Reg.CORESTAT_PHASE] s t ∧
    t.bit Reg.REFSTAT_REALIGNING = false ∧ t.get Reg.REFBO_BO = 0 ∧ t.bit Reg.REFSTAT_BUILTOUT = false ∧
    t.get Reg.CORESTAT_PHASE = 1 ∧ t.bit Reg.OUTCFG_DOM = s.bit Reg.OUTCFG_DOM_PEND) ∧
  (∀ (v : BitVec 32) (s : State), s.bit Reg.REFCFG_MODE = true → ∃ t, exec (.refsteerWrite v) s = .next t ∧
    OnlyRegs [Reg.REFSTEER_STEER] { s with refs := { s.refs with swAt := s.frame } } t ∧
    signed32 (t.get Reg.REFSTEER_STEER) = max (-4294967) (min 4294967 v.toInt)) ∧
  (∀ (v : BitVec 32) (s : State), s.bit Reg.REFCFG_MODE = false → exec (.refsteerWrite v) s = .next { s with free := s.free + 1 }) ∧
  (∀ s : State, (s.bit Reg.REFCFG_MODE = false ∨ s.frame < s.refs.swAt + 16 * Nat.max 1 (s.get Reg.REFFB_SW_TO) ∨
    s.bit Reg.REFSTAT_SW_STALE = true) → exec .swSteerStale s = .next { s with free := s.free + 1 }) ∧
  (∀ s : State, s.bit Reg.REFCFG_MODE = true → s.refs.swAt + 16 * Nat.max 1 (s.get Reg.REFFB_SW_TO) ≤ s.frame →
    s.bit Reg.REFSTAT_SW_STALE = false → s.evt.inReset = false → ∃ t, exec .swSteerStale s = .next t ∧
    Raises [28] [Reg.REFSTAT_SW_STALE] s t ∧ t.bit Reg.REFSTAT_SW_STALE = true)
  )

/-- R492 to R496: a write of TCd_INC_NS commits both parts of the increment, at least 1 ns; a read of TCd_NS captures the whole time;
SET loads the time and ADJ steps it, with carry into the seconds, each with E26; a nanosecond field of 1 s or more is refused. -/
def Obligations.TimeDomains : Prop :=
  (∀ (d : Fin 2) (n : BitVec 8) (s : State), ∃ t, exec (.tcIncWrite d n) s = .next t ∧
    OnlyRegs [Reg.TC_INC_NS_NS d] { s with refs := t.refs } t ∧
    t.domain d = { s.domain d with incNs := Nat.max 1 n.toNat, incFrac := s.get (Reg.TC_INC_FRAC_FRAC d) % 2 ^ 32 } ∧
    (∀ e : Fin 2, e ≠ d → t.domain e = s.domain e) ∧ t.refs.since = s.refs.since) ∧
  (∀ (d : Fin 2) (s : State), (s.domain d).legal → ∃ t, exec (.tcNsRead d) s = .next t ∧
    OnlyRegs [Reg.TC_NS_NS d, Reg.TC_SEC_LO_SEC d, Reg.TC_SEC_HI_SEC_HI d, Reg.TC_FRAC_FRAC d] s t ∧
    t.get (Reg.TC_NS_NS d) = (s.domain d).ns ∧ t.get (Reg.TC_FRAC_FRAC d) = (s.domain d).frac ∧
    t.get (Reg.TC_SEC_LO_SEC d) + 2 ^ 32 * t.get (Reg.TC_SEC_HI_SEC_HI d) = (s.domain d).sec) ∧
  (∀ (d : Fin 2) (b : BitVec 32) (s : State), s.get (Reg.TC_SET_NS_NS d) < 1000000000 → s.evt.inReset = false →
    ∃ t, exec (.tcSet d b) s = .next t ∧ t.domain d = { s.domain d with
        ns := s.get (Reg.TC_SET_NS_NS d)
        frac := 0
        sec := (s.get (Reg.TC_SET_SEC_LO_SEC d) + 2 ^ 32 * s.get (Reg.TC_SET_SEC_HI_SEC_HI d)) % 2 ^ 48 } ∧
      (∀ e : Fin 2, e ≠ d → t.domain e = s.domain e) ∧ t.evtStat 26 = true ∧
      Only [.refs] [26] [Reg.REFBO_BO, Reg.REFSTAT_BUILTOUT] s t) ∧
  (∀ (d : Fin 2) (b : BitVec 32) (s : State), 1000000000 ≤ s.get (Reg.TC_SET_NS_NS d) → s.evt.inReset = false →
    ∃ t, exec (.tcSet d b) s = .next t ∧ Raises [29] [Reg.REFSTAT_CMD_REFUSED] s t ∧ t.bit Reg.REFSTAT_CMD_REFUSED = true) ∧
  (∀ (d : Fin 2) (b : BitVec 32) (s : State), (s.domain d).legal → s.evt.inReset = false → ∃ t, exec (.tcAdj d b) s = .next t ∧
    (t.domain d).legal ∧ (t.domain d).frac = (s.domain d).frac ∧ (t.domain d).incNs = (s.domain d).incNs ∧
    (((t.domain d).sec * 1000000000 + (t.domain d).ns : Nat) : Int) =
      (((s.domain d).sec * 1000000000 + (s.domain d).ns : Nat) + signed32 (s.get (Reg.TC_ADJ_ADJ d))) % (2 ^ 48 * 1000000000) ∧
    (∀ e : Fin 2, e ≠ d → t.domain e = s.domain e) ∧ t.evtStat 26 = true ∧
    Only [.refs] [26] [Reg.REFBO_BO, Reg.REFSTAT_BUILTOUT] s t) ∧
  (∀ s : State, ∃ t, exec .tcLatchGo s = .next t ∧ OnlyRegs [Reg.TCLATCHCTL_PENDING] s t ∧ t.bit Reg.TCLATCHCTL_PENDING = true)

/-- R330 to R335: NETCFG is taken while the port is disabled, after which only EN and PAUSE_IGN change; the link comes up with E32 and
goes down with E33 and every waiting stream packet dropped; in a local fault a port signals remote fault and starts no frame; a pause
ends; a counter word clears; a frame with a wrong FCS or length is dropped with E36; a PAUSE frame holds the sender with E35, or is
only counted with PAUSE_IGN; another MAC Control frame is counted.  A port that is off, stopped or without a link takes no frame.

R339 to R345, R364: software moves TAIL of the receive and HEAD of the transmit queue in steps of 16 bytes; a transmit record is
sent, with what R345 inserts and with its FCS, TAIL moves past it, and with TS_REQ its stamp is queued with E38; a bad one is skipped
with TXQ_BAD and E39; a read of NETTXTS_TAG takes the oldest stamp; the oldest stream packet is sent at a frame boundary, but by a
standby it is dropped.  A port that is not free, or has nothing to send, sends nothing. -/
def Obligations.NetworkPortsAndQueues : Prop :=
  (
  let cfg (n : Nat) : List Fld := [Reg.NETCFG_EN n, Reg.NETCFG_PAUSE_IGN n, Reg.NETCFG_SPEED n, Reg.NETCFG_FEC n, Reg.NETCFG_BC_EN n,
    Reg.NETCFG_MC_ALL n, Reg.NETCFG_UC_ALL n, Reg.NETCFG_MAXLEN n]
  let drops : List Fld := [Reg.STMFAULT_STREAM, Reg.STMFAULT_DIR, Reg.STMFAULT_KIND]
  (∀ (n : Fin 4) (v : BitVec 32) (s : State), s.bit (Reg.NETCFG_EN n) = false → ∃ t, exec (.netEnable n v) s = .next t ∧
    OnlyRegs (cfg n) s t ∧ t.bit (Reg.NETCFG_EN n) = v.getLsbD 0 ∧ t.bit (Reg.NETCFG_SPEED n) = v.getLsbD 1 ∧
    t.bit (Reg.NETCFG_FEC n) = v.getLsbD 2 ∧ t.bit (Reg.NETCFG_PAUSE_IGN n) = v.getLsbD 3 ∧ t.bit (Reg.NETCFG_BC_EN n) = v.getLsbD 4 ∧
    t.bit (Reg.NETCFG_MC_ALL n) = v.getLsbD 5 ∧ t.bit (Reg.NETCFG_UC_ALL n) = v.getLsbD 6) ∧
  (∀ (n : Fin 4) (v : BitVec 32) (s : State), s.bit (Reg.NETCFG_EN n) = true → v.getLsbD 0 = true →
    ∃ t, exec (.netEnable n v) s = .next t ∧ OnlyRegs [Reg.NETCFG_EN n, Reg.NETCFG_PAUSE_IGN n] s t ∧
      t.bit (Reg.NETCFG_EN n) = true ∧ t.bit (Reg.NETCFG_PAUSE_IGN n) = v.getLsbD 3) ∧
  (∀ (n : Fin 4) (v : BitVec 32) (s : State), s.bit (Reg.NETCFG_EN n) = true → v.getLsbD 0 = false →
    ∃ t, exec (.netEnable n v) s = .next t ∧ t.bit (Reg.NETCFG_EN n) = false ∧ t.bit (Reg.NETSTAT_BLOCK_LOCK n) = false ∧
      (s.bit (Reg.NETSTAT_LINK n) = true → t.bit (Reg.NETSTAT_LINK n) = false ∧ (s.evt.inReset = false → t.evtStat 33 = true)) ∧
      Only [.net] [33, 56] ([Reg.NETCFG_EN n, Reg.NETCFG_PAUSE_IGN n, Reg.NETSTAT_LINK n, Reg.NETSTAT_BLOCK_LOCK n, Reg.NETSTAT_FEC_LOCK n,
        Reg.PINDIFF_NET_INV] ++ drops ++ (s.netPort n).queue.map (fun e => Reg.STTX_DROPS e.1)) s t) ∧
  (∀ (n : Fin 4) (r : Bool) (s : State), s.islandStopped (islNet n) = false → s.bit (Reg.NETCFG_EN n) = true →
    s.bit (Reg.NETSTAT_LINK n) = false → s.evt.inReset = false → ∃ t, exec (.netLinkUp n r) s = .next t ∧
    Raises [32] [Reg.NETSTAT_LINK n, Reg.NETSTAT_BLOCK_LOCK n, Reg.NETSTAT_FEC_LOCK n, Reg.NETSTAT_LOCAL_FAULT n,
      Reg.NETSTAT_REMOTE_FAULT n] s t ∧ t.bit (Reg.NETSTAT_LINK n) = true ∧ t.bit (Reg.NETSTAT_BLOCK_LOCK n) = true ∧
    t.bit (Reg.NETSTAT_FEC_LOCK n) = s.netFec n ∧ t.bit (Reg.NETSTAT_LOCAL_FAULT n) = false ∧ t.bit (Reg.NETSTAT_REMOTE_FAULT n) = r) ∧
  (∀ (n : Fin 4) (r : Bool) (s : State), (s.islandStopped (islNet n) = true ∨ s.bit (Reg.NETCFG_EN n) = false ∨
    s.bit (Reg.NETSTAT_LINK n) = true) → exec (.netLinkUp n r) s = .next { s with free := s.free + 1 }) ∧
  (∀ (n : Fin 4) (s : State), s.netSignalsFault n = true → s.netFree n = false) ∧
  (∀ (n : Fin 4) (lock fec fault r : Bool) (s : State), s.bit (Reg.NETCFG_EN n) = true → s.bit (Reg.NETSTAT_LINK n) = true →
    (lock = false ∨ (s.netFec n = true ∧ fec = false) ∨ fault = true) → s.evt.inReset = false → ∃ t, exec (.netLinkDown n lock fec fault r) s = .next t ∧
    t.bit (Reg.NETSTAT_LINK n) = false ∧ t.bit (Reg.NETSTAT_BLOCK_LOCK n) = lock ∧
    t.bit (Reg.NETSTAT_FEC_LOCK n) = (fec && s.netFec n) ∧ t.bit (Reg.NETSTAT_LOCAL_FAULT n) = fault ∧ t.netSignalsFault n = fault ∧
    t.bit (Reg.NETSTAT_REMOTE_FAULT n) = r ∧ (t.netPort n).queue = [] ∧ t.evtStat 33 = true ∧
    Only [.net] [33, 56] ([Reg.NETSTAT_LINK n, Reg.NETSTAT_BLOCK_LOCK n, Reg.NETSTAT_FEC_LOCK n, Reg.NETSTAT_LOCAL_FAULT n,
      Reg.NETSTAT_REMOTE_FAULT n] ++ drops ++ (s.netPort n).queue.map (fun e => Reg.STTX_DROPS e.1)) s t) ∧
  (∀ (n : Fin 4) (lock fec fault r : Bool) (s : State), s.bit (Reg.NETCFG_EN n) = true → s.bit (Reg.NETSTAT_LINK n) = false →
    (lock = false ∨ (s.netFec n = true ∧ fec = false) ∨ fault = true) → ∃ t, exec (.netLinkDown n lock fec fault r) s = .next t ∧
    OnlyRegs [Reg.NETSTAT_BLOCK_LOCK n, Reg.NETSTAT_FEC_LOCK n, Reg.NETSTAT_LOCAL_FAULT n, Reg.NETSTAT_REMOTE_FAULT n] s t ∧
    t.bit (Reg.NETSTAT_BLOCK_LOCK n) = lock ∧ t.netSignalsFault n = fault) ∧
  (∀ (n : Fin 4) (lock fec fault r : Bool) (s : State), (s.bit (Reg.NETCFG_EN n) = false ∨
    (lock = true ∧ (s.netFec n = false ∨ fec = true) ∧ fault = false)) →
    exec (.netLinkDown n lock fec fault r) s = .next { s with free := s.free + 1 }) ∧
  (∀ (n : Fin 4) (s : State), s.bit (Reg.NETSTAT_PAUSED n) = false → exec (.netPauseEnd n) s = .next { s with free := s.free + 1 }) ∧
  (∀ (n : Fin 4) (s : State), s.bit (Reg.NETSTAT_PAUSED n) = true → ∃ t, exec (.netPauseEnd n) s = .next t ∧
    OnlyRegs [Reg.NETSTAT_PAUSED n] { s with net := t.net } t ∧ t.bit (Reg.NETSTAT_PAUSED n) = false ∧
    t.netPort n = { s.netPort n with quanta := 0 }) ∧
  (∀ (n : Fin 4) (i : Fin 3) (s : State), ∃ t, exec (.netcntClear n i) s = .next t ∧
    OnlyRegs (if i = 0 then [Reg.NETCNT0_FCS n, Reg.NETCNT0_LEN n] else if i = 1 then [Reg.NETCNT1_PAUSE n, Reg.NETCNT1_MACCTL n]
      else [Reg.NETCNT2_FEC_UNC n, Reg.NETCNT2_RXQ_DROP n]) s t ∧
    (i = 0 → t.get (Reg.NETCNT0_FCS n) = 0 ∧ t.get (Reg.NETCNT0_LEN n) = 0) ∧
    (i = 1 → t.get (Reg.NETCNT1_PAUSE n) = 0 ∧ t.get (Reg.NETCNT1_MACCTL n) = 0) ∧
    (i = 2 → t.get (Reg.NETCNT2_FEC_UNC n) = 0 ∧ t.get (Reg.NETCNT2_RXQ_DROP n) = 0)) ∧
  (∀ (n : Fin 4) (bs : List (BitVec 8)) (u : BitVec 8) (age : BitVec 32) (s : State), s.islandStopped (islNet n) = false →
    s.bit (Reg.NETCFG_EN n) = true → s.bit (Reg.NETSTAT_LINK n) = true → s.netFec n = false → 60 ≤ bs.length →
    bs.length + 4 ≤ s.netMaxLen n → s.evt.inReset = false → s.evt.once.contains 36 = false →
    ∃ t, exec (.netFrameRx n bs false u age) s = .next t ∧ t.bit (Reg.NETSTAT_RX_DROP n) = true ∧ t.evtStat 36 = true ∧
      t.get (Reg.NETCNT0_FCS n) = Nat.min (s.get (Reg.NETCNT0_FCS n) + 1) 65535 ∧
      Only [] [36] [Reg.NETCNT0_FCS n, Reg.NETSTAT_RX_DROP n] s t) ∧
  (∀ (n : Fin 4) (bs : List (BitVec 8)) (u : BitVec 8) (age : BitVec 32) (s : State), s.islandStopped (islNet n) = false →
    s.bit (Reg.NETCFG_EN n) = true → s.bit (Reg.NETSTAT_LINK n) = true → s.netFec n = false → 60 ≤ bs.length →
    bs.length + 4 ≤ s.netMaxLen n → s.bit (Reg.NETCFG_PAUSE_IGN n) = false → s.evt.inReset = false →
    field (bs.map BitVec.toNat) 12 2 = 0x8808 → field (bs.map BitVec.toNat) 14 2 = 1 →
    ∃ t, exec (.netFrameRx n bs true u age) s = .next t ∧
      t.bit (Reg.NETSTAT_PAUSED n) = decide (field (bs.map BitVec.toNat) 16 2 ≠ 0) ∧
      (t.netPort n).quanta = field (bs.map BitVec.toNat) 16 2 ∧ t.evtStat 35 = true ∧
      t.get (Reg.NETCNT1_PAUSE n) = Nat.min (s.get (Reg.NETCNT1_PAUSE n) + 1) 65535 ∧
      Only [.net] [35] [Reg.NETCNT1_PAUSE n, Reg.NETSTAT_PAUSED n] s t) ∧
  (∀ (n : Fin 4) (bs : List (BitVec 8)) (u : BitVec 8) (age : BitVec 32) (s : State), s.islandStopped (islNet n) = false →
    s.bit (Reg.NETCFG_EN n) = true → s.bit (Reg.NETSTAT_LINK n) = true → s.netFec n = false →
    (bs.length < 60 ∨ s.netMaxLen n < bs.length + 4) → s.evt.inReset = false → s.evt.once.contains 36 = false →
    ∃ t, exec (.netFrameRx n bs true u age) s = .next t ∧ t.bit (Reg.NETSTAT_RX_DROP n) = true ∧ t.evtStat 36 = true ∧
      t.get (Reg.NETCNT0_LEN n) = Nat.min (s.get (Reg.NETCNT0_LEN n) + 1) 65535 ∧
      Only [] [36] [Reg.NETCNT0_LEN n, Reg.NETSTAT_RX_DROP n] s t) ∧
  (∀ (n : Fin 4) (bs : List (BitVec 8)) (u : BitVec 8) (age : BitVec 32) (s : State), s.islandStopped (islNet n) = false →
    s.bit (Reg.NETCFG_EN n) = true → s.bit (Reg.NETSTAT_LINK n) = true → s.netFec n = false → 60 ≤ bs.length →
    bs.length + 4 ≤ s.netMaxLen n → field (bs.map BitVec.toNat) 12 2 = 0x8808 →
    (field (bs.map BitVec.toNat) 14 2 = 1 → s.bit (Reg.NETCFG_PAUSE_IGN n) = true) →
    ∃ t, exec (.netFrameRx n bs true u age) s = .next t ∧
      OnlyRegs [if field (bs.map BitVec.toNat) 14 2 = 1 then Reg.NETCNT1_PAUSE n else Reg.NETCNT1_MACCTL n] s t) ∧
  (∀ (n : Fin 4) (bs : List (BitVec 8)) (c : Bool) (u : BitVec 8) (age : BitVec 32) (s : State),
    (s.islandStopped (islNet n) = true ∨ s.bit (Reg.NETCFG_EN n) = false ∨ s.bit (Reg.NETSTAT_LINK n) = false) →
    exec (.netFrameRx n bs c u age) s = .next { s with free := s.free + 1 })
  ) ∧
  (
  (∀ (n : Fin 4) (v : BitVec 17) (s : State), ∃ t, exec (.netrxqTailWrite n v) s = .next t ∧ OnlyRegs [Reg.NETRXQ_TAIL_PTR n] s t ∧
    t.get (Reg.NETRXQ_TAIL_PTR n) = v.toNat / 16 * 16) ∧
  (∀ (n : Fin 4) (v : BitVec 17) (s : State), ∃ t, exec (.nettxqHeadWrite n v) s = .next t ∧ OnlyRegs [Reg.NETTXQ_HEAD_PTR n] s t ∧
    t.get (Reg.NETTXQ_HEAD_PTR n) = v.toNat / 16 * 16) ∧
  (∀ (n : Fin 4) (x : BitVec 32) (s : State), s.islandStopped (islNet n) = false → s.netFree n = true →
    s.get (Reg.NETTXQ_HEAD_PTR n) ≠ s.get (Reg.NETTXQ_TAIL_PTR n) → (s.netPort n).queue = [] →
    let tail := s.get (Reg.NETTXQ_TAIL_PTR n)
    let w (i : Nat) : Nat := s.ringWord (txRing n) (tail + 4 * i)
    let len := w 0 % 2 ^ 14
    let bs := (List.range len).map (fun i => s.ringByte (txRing n) (tail + 16 + i))
    let sent := wireFrame (insertTime (w 0) (w 1) (w 2) (s.netInstant n (if (w 0).testBit 17 then 1 else 0) true x.toNat) bs)
    (s.txBad n (w 0) (w 1) (w 3) = false → (w 0).testBit 14 = false → ∃ t, exec (.netTxRecord n x) s = .next t ∧ OnlyRegs [Reg.NETTXQ_TAIL_PTR n] { s with net := t.net } t ∧
        t.get (Reg.NETTXQ_TAIL_PTR n) = (tail + 16 + (len + 15) / 16 * 16) % 0x20000 ∧
        t.netPort n = { s.netPort n with sent := sent } ∧ ∀ m : Fin 4, m ≠ n → t.netPort m = s.netPort m) ∧
    (s.txBad n (w 0) (w 1) (w 3) = false → (w 0).testBit 14 = true → (s.netPort n).stamps.length < 16 → s.evt.inReset = false →
      ∃ t d, exec (.netTxRecord n x) s = .next t ∧ Raises [38] [Reg.NETTXQ_TAIL_PTR n] { s with net := t.net } t ∧
        t.netPort n = { s.netPort n with sent := sent, stamps := (s.netPort n).stamps ++
          [(stampOf (s.netInstant n d true x.toNat), w 3 % 65536, d)] } ∧ d = (if (w 0).testBit 17 then 1 else 0)) ∧
    ((w 0).testBit 15 = false → (w 0).testBit 16 = false → (w 0).testBit 18 = false → sent = wireFrame bs) ∧
    (s.txBad n (w 0) (w 1) (w 3) = true → s.evt.inReset = false → ∃ t, exec (.netTxRecord n x) s = .next t ∧
      Raises [39] [Reg.NETTXQ_TAIL_PTR n, Reg.NETSTAT_TXQ_BAD n] s t ∧ t.bit (Reg.NETSTAT_TXQ_BAD n) = true ∧
      t.get (Reg.NETTXQ_TAIL_PTR n) = (tail + 16 + (len + 15) / 16 * 16) % 0x20000)) ∧
  (∀ (n : Fin 4) (x : BitVec 32) (s : State), (s.islandStopped (islNet n) = true ∨ s.netFree n = false ∨
    s.get (Reg.NETTXQ_HEAD_PTR n) = s.get (Reg.NETTXQ_TAIL_PTR n) ∨ (s.netPort n).queue ≠ []) →
    exec (.netTxRecord n x) s = .next { s with free := s.free + 1 }) ∧
  (∀ (n : Fin 4) (s : State), ∃ t, exec (.nettxtsPop n) s = .next t ∧ t = { s with free := s.free + 1, net := { s.net with ports := t.net.ports } } ∧
    t.netPort n = { s.netPort n with stamps := (s.netPort n).stamps.tail } ∧ ∀ m : Fin 4, m ≠ n → t.netPort m = s.netPort m) ∧
  (∀ (n : Fin 4) (e : Nat × List Nat) (rest : List (Nat × List Nat)) (s : State), (s.netPort n).queue = e :: rest →
    s.netFree n = true → s.islandStopped (islNet n) = false → let standby := s.pairMode && !s.bit Reg.PAIRSTAT_ACTIVE
    ∃ t, exec (.streamPacketSend n) s = .next t ∧
    t = { s with free := s.free + 1, net := { s.net with ports := t.net.ports } } ∧
    t.netPort n = { s.netPort n with queue := rest, sent := if standby then (s.netPort n).sent else wireFrame e.2 } ∧
    ∀ m : Fin 4, m ≠ n → t.netPort m = s.netPort m) ∧
  (∀ (n : Fin 4) (s : State), ((s.netPort n).queue = [] ∨ s.netFree n = false ∨ s.islandStopped (islNet n) = true) → exec (.streamPacketSend n) s = .next { s with free := s.free + 1 })
  )

/-- R346, R349, R354, R357: EN = 1 takes a stream's settings and checks them: a stream that passes runs or waits, one that fails is
CFG_BAD with E55; EN = 0 stops it; a receive stream without packets for 8 packet times is STALE with E49; a stream with SYNC = 0
presents a sample frame that is due, and none before that; the counters clear. -/
def Obligations.Streams : Prop :=
  let tot : List Fld := [Reg.STMSTAT_RX_BUF_USED, Reg.STMSTAT_TX_CH_USED]
  let flt : List Fld := [Reg.STMFAULT_STREAM, Reg.STMFAULT_DIR, Reg.STMFAULT_KIND]
  (∀ (n : Fin 128) (v : BitVec 32) (s : State), s.bit (Reg.STTX_EN n) = false → ∃ t, exec (.streamEnable true n v) s = .next t ∧
    t.bit (Reg.STTX_EN n) = true ∧ t.get (Reg.STTX_NCH n) = v.toNat / 2 ^ 9 % 2 ^ 7 ∧ t.get (Reg.STTX_PORT n) = v.toNat / 2 ^ 7 % 4 ∧
    (t.txCheck n = true → t.get (Reg.STTX_STATE n) = 1) ∧ (t.txCheck n = false → t.get (Reg.STTX_STATE n) = 2 ∧
      t.get Reg.STMFAULT_STREAM = n ∧ t.bit Reg.STMFAULT_DIR = true ∧ t.get Reg.STMFAULT_KIND = 0 ∧
      (s.evt.inReset = false → s.evt.once.contains 55 = false → t.evtStat 55 = true)) ∧
    Only [] [55] ([Reg.STTX_EN n, Reg.STTX_RATEK n, Reg.STTX_FMT n, Reg.STTX_PTIME n, Reg.STTX_VLAN n, Reg.STTX_UDPCS n, Reg.STTX_PORT n,
      Reg.STTX_NCH n, Reg.STTX_STATE n] ++ tot ++ flt) s t) ∧
  (∀ (n : Fin 128) (v : BitVec 32) (s : State), s.bit (Reg.STRX_EN n) = false → ∃ t, exec (.streamEnable false n v) s = .next t ∧
    t.bit (Reg.STRX_EN n) = true ∧ t.get (Reg.STRX_RATE n) = v.toNat / 4 % 8 ∧ t.get (Reg.STRX_NCH n) = v.toNat / 2 ^ 10 % 2 ^ 7 ∧
    (t.rxCheck n = true → t.get (Reg.STRX_STATE n) = 1 ∧ t.streamRx n = StreamRx.reset) ∧
    (t.rxCheck n = false → t.get (Reg.STRX_STATE n) = 4 ∧ t.get Reg.STMFAULT_STREAM = n ∧ t.bit Reg.STMFAULT_DIR = false ∧
      t.get Reg.STMFAULT_KIND = 0 ∧ (s.evt.inReset = false → s.evt.once.contains 55 = false → t.evtStat 55 = true)) ∧
    (v.getLsbD 1 = true → t.net.present = s.net.present) ∧
    Only [.net] [55] ([Reg.STRX_EN n, Reg.STRX_SYNC n, Reg.STRX_RATE n, Reg.STRX_FMT n, Reg.STRX_PTIME n, Reg.STRX_MISS n,
      Reg.STRX_PORT n, Reg.STRX_NCH n, Reg.STRX_BUF n, Reg.STRX_STATE n] ++ tot ++ flt) s t) ∧
  (∀ (n : Fin 128) (v : BitVec 32) (s : State), (s.bit (Reg.STTX_EN n) = true →
      exec (.streamEnable true n v) s = .next { s with free := s.free + 1 }) ∧
    (s.bit (Reg.STRX_EN n) = true → exec (.streamEnable false n v) s = .next { s with free := s.free + 1 })) ∧
  (∀ (tx : Bool) (n : Fin 128) (s : State), ∃ t, exec (.streamDisable tx n) s = .next t ∧
    (if tx then t.bit (Reg.STTX_EN n) = false ∧ t.get (Reg.STTX_STATE n) = 0 ∧ t.net.tx.look none n = none
      else t.bit (Reg.STRX_EN n) = false ∧ t.get (Reg.STRX_STATE n) = 0 ∧ t.streamRx n = StreamRx.reset) ∧
    Only [.net] [] ((if tx then [Reg.STTX_EN n, Reg.STTX_STATE n] else [Reg.STRX_EN n, Reg.STRX_STATE n]) ++ tot) s t) ∧
  (∀ (r : Fin 128) (s : State), s.get (Reg.STRX_STATE r) = 2 → s.evt.inReset = false →
    8 * (if s.bit (Reg.STRX_PTIME r) then 6 else 48) * s.baseRate * s.mult ≤
      (s.frame - (s.streamRx r).lastAt) * (if 3 ≤ s.get (Reg.STRX_RATE r) then 44100 else 48000) →
    ∃ t, exec (.stmRxStale r) s = .next t ∧ t.get (Reg.STRX_STATE r) = 3 ∧ t.evtStat 49 = true ∧
      t.streamRx r = { s.streamRx r with next := none, begun := false } ∧
      (s.bit (Reg.STRX_SYNC r) = true → t.cnv = s.cnv ∧ t.net.present = s.net.present) ∧
      (s.bit (Reg.STRX_SYNC r) = false → ∀ u ∈ s.streamUnits r, s.cnvState u = 3 → t.cnvState u = 4 ∧ t.get (Reg.CNVSTAT_CAUSE u) = 0) ∧
      Only [.net, .cnv] [49, 90] (Reg.STRX_STATE r :: (List.range 32).flatMap (fun u =>
        [Reg.CNVSTAT_STATE u, Reg.CNVSTAT_CAUSE u, Reg.CNVRATIO_RATIO u])) s t) ∧
  (∀ (r : Fin 128) (x : Nat) (s : State), s.islandStopped islStream = false → s.bit (Reg.STRX_SYNC r) = false →
    s.get (Reg.STRX_STATE r) = 2 → (s.streamRx r).begun = true → (s.streamRx r).next = some x →
    s.sampleDue ≤ (s.streamRx r).due →
    (∀ c, c < s.nNet → (s.valueAt (0x1A2000 + c) s.frame) = Sinter.zero) →
    ∃ t, exec (.streamPresentEdge r) s = .next t ∧ (t.streamRx r).next = some ((x + 1) % 2 ^ 32) ∧
      (t.streamRx r).due = (s.streamRx r).due - s.sampleDue ∧ t.cnv = s.cnv ∧ Only [.net] [] [] s t) ∧
  (∀ (r : Fin 128) (s : State), (s.islandStopped islStream = true ∨ s.bit (Reg.STRX_SYNC r) = true ∨ s.get (Reg.STRX_STATE r) ≠ 2 ∨
    (s.streamRx r).begun = false ∨ (s.streamRx r).due < s.sampleDue ∨ (s.streamRx r).next = none) →
    exec (.streamPresentEdge r) s = .next { s with free := s.free + 1 }) ∧
  (∀ (r : Fin 128) (s : State), s.get (Reg.STRX_STATE r) ≠ 2 → exec (.stmRxStale r) s = .next { s with free := s.free + 1 }) ∧
  (∀ (n : Fin 128) (s : State), ∃ t, exec (.sttxDropsClear n) s = .next t ∧ OnlyRegs [Reg.STTX_DROPS n] s t ∧
    t.get (Reg.STTX_DROPS n) = 0) ∧
  (∀ (r : Fin 128) (i : Fin 3) (s : State), ∃ t, exec (.strxcntClear r i) s = .next t ∧
    OnlyRegs (if i = 0 then [Reg.STRXCNT_PKTS r, Reg.STRXCNT_LOST r] else if i = 1 then [Reg.STRXCNT_LATE r, Reg.STRXCNT_EARLY r]
      else [Reg.STRXCNT_MALFORMED r, Reg.STRXCNT_MISSING r]) s t ∧
    (i = 0 → t.get (Reg.STRXCNT_PKTS r) = 0 ∧ t.get (Reg.STRXCNT_LOST r) = 0) ∧
    (i = 1 → t.get (Reg.STRXCNT_LATE r) = 0 ∧ t.get (Reg.STRXCNT_EARLY r) = 0) ∧
    (i = 2 → t.get (Reg.STRXCNT_MALFORMED r) = 0 ∧ t.get (Reg.STRXCNT_MISSING r) = 0))

/-- R369 to R386: a link is enabled, trains, and comes up with E120, with what it has corrected in LANE_SWAP and POL, unless its round
trip is too long, its peer is the chip itself or its lanes would need a repair that AUTOFIX forbids; it goes down with E121; a frame of
one audio word delivers it to its ingress channel, or poison where the frame failed; heartbeats mark a chip reached, the master's
count is adopted, messages seen before are dropped, and a chip that is silent for 4 periods is lost with E125.  A link that is not in
the state a command needs does nothing; a frame's blocks pass the CRC that they carry. -/
def Obligations.Links : Prop :=
  let down (n : Nat) : List Fld := [Reg.LNKSTAT_STATE n, Reg.LNKCASCSTAT_UP_ALT, Reg.PAIRSTAT_ELIGIBLE]
  (∀ (n : Fin 4) (v : BitVec 2) (s : State), v.getLsbD 0 = true → ∃ t, exec (.linkEnable n v) s = .next t ∧
    OnlyRegs [Reg.LNKCFG_EN n, Reg.LNKCFG_AUTOFIX n] s t ∧ t.bit (Reg.LNKCFG_EN n) = true ∧
    t.bit (Reg.LNKCFG_AUTOFIX n) = v.getLsbD 1) ∧
  (∀ (n : Fin 4) (v : BitVec 2) (s : State), v.getLsbD 0 = false → ∃ t, exec (.linkEnable n v) s = .next t ∧
    t.bit (Reg.LNKCFG_EN n) = false ∧ t.linkState n = 0 ∧ t.lnk.out.look [] n = [] ∧
    Only [.lnk] [121] ([Reg.LNKCFG_EN n, Reg.LNKCFG_AUTOFIX n] ++ down n) s t) ∧
  (∀ (n : Fin 4) (s : State), s.islandStopped (islLink n) = false → s.bit (Reg.LNKCFG_EN n) = true → s.linkState n = 0 →
    ∃ t, exec (.linkTrain n) s = .next t ∧ OnlyRegs [Reg.LNKSTAT_STATE n] s t ∧ t.linkState n = 1) ∧
  (∀ (n : Fin 4) (s : State), (s.islandStopped (islLink n) = true ∨ s.bit (Reg.LNKCFG_EN n) = false ∨ s.linkState n ≠ 0) →
    exec (.linkTrain n) s = .next { s with free := s.free + 1 }) ∧
  (∀ (n : Fin 4) (p : BitVec 3) (rtt : BitVec 16) (sw p0 p1 : Bool) (s : State), s.islandStopped (islLink n) = false → s.linkState n = 1 →
    s.rttLong rtt.toNat = false → p.toNat ≠ s.cascadeId → ((sw || p0 || p1) = true → s.bit (Reg.LNKCFG_AUTOFIX n) = true) →
    s.evt.inReset = false → ∃ t, exec (.linkUp n p rtt sw p0 p1) s = .next t ∧ t.linkState n = 2 ∧
      t.bit (Reg.LNKSTAT_LANE_SWAP n) = sw ∧ t.bit (Reg.LNKSTAT_POL0 n) = p0 ∧ t.bit (Reg.LNKSTAT_POL1 n) = p1 ∧
      ((sw || p0 || p1) = true → t.evtStat 123 = true) ∧ t.get (Reg.LNKSTAT_PEER_ID n) = p.toNat ∧
      t.get (Reg.LNKSTAT_RTT n) = rtt.toNat ∧ t.evtStat 120 = true ∧ (s.isMaster = false → t.lnk = s.lnk) ∧
      Only [.lnk] (if sw || p0 || p1 then [120, 123] else [120]) [Reg.LNKSTAT_PEER_ID n, Reg.LNKSTAT_RTT n, Reg.LNKSTAT_STATE n,
        Reg.LNKSTAT_LANE_SWAP n, Reg.LNKSTAT_POL0 n, Reg.LNKSTAT_POL1 n, Reg.PAIRSTAT_ELIGIBLE] s t) ∧
  (∀ (n : Fin 4) (p : BitVec 3) (rtt : BitVec 16) (sw p0 p1 : Bool) (s : State),
    (s.islandStopped (islLink n) = true ∨ s.linkState n ≠ 1) → exec (.linkUp n p rtt sw p0 p1) s = .next { s with free := s.free + 1 }) ∧
  (∀ (n : Fin 4) (p : BitVec 3) (rtt : BitVec 16) (sw p0 p1 : Bool) (s : State), s.islandStopped (islLink n) = false → s.linkState n = 1 →
    (s.rttLong rtt.toNat = true ∨ p.toNat = s.cascadeId ∨ ((sw || p0 || p1) = true ∧ s.bit (Reg.LNKCFG_AUTOFIX n) = false)) →
    ∃ t, exec (.linkUp n p rtt sw p0 p1) s = .next t ∧ t.linkState n = 1 ∧
      (s.bit (Reg.LNKCFG_AUTOFIX n) = false → t.bit (Reg.LNKSTAT_LANE_SWAP n) = false ∧ t.bit (Reg.LNKSTAT_POL0 n) = false ∧
        t.bit (Reg.LNKSTAT_POL1 n) = false) ∧
      Only [] [123] [Reg.LNKSTAT_PEER_ID n, Reg.LNKSTAT_RTT n, Reg.LNKSTAT_LANE_SWAP n, Reg.LNKSTAT_POL0 n, Reg.LNKSTAT_POL1 n] s t) ∧
  (∀ (n : Fin 4) (lost : Bool) (s : State), s.linkState n = 2 → (lost = true ∨ 4 ≤ s.lnk.crc.look 0 n) → s.evt.inReset = false →
    ∃ t, exec (.linkDown n lost) s = .next t ∧ t.linkState n = 0 ∧ t.evtStat 121 = true ∧ t.lnk.out.look [] n = [] ∧
      Only [.lnk] [121] (down n) s t) ∧
  (∀ (n : Fin 4) (lost : Bool) (s : State), (s.linkState n ≠ 2 ∨ (lost = false ∧ s.lnk.crc.look 0 n < 4)) →
    exec (.linkDown n lost) s = .next { s with free := s.free + 1 }) ∧
  (∀ f : LinkFrame, linkCrcOk f.blocks = true) ∧
  (∀ (n : Fin 4) (h : LinkHead) (ph : BitVec 13) (c : Bool) (w : LinkWords) (p : Option PairRecord) (s : State),
    (s.islandStopped (islLink n) = true ∨ s.linkState n ≠ 2) → exec (.linkFrameRx n h ph c w p) s = .next { s with free := s.free + 1 }) ∧
  (∀ (n : Fin 4) (s : State), ∃ t, exec (.lnkcntClear n) s = .next t ∧ OnlyRegs [Reg.LNKCNT_CRC n, Reg.LNKCNT_RESIDUE n] s t ∧
    t.get (Reg.LNKCNT_CRC n) = 0 ∧ t.get (Reg.LNKCNT_RESIDUE n) = 0) ∧
  (∀ (n : Fin 4) (h : LinkHead) (ph : BitVec 13) (c : Fin 256) (x : Sinter) (s : State), s.islandStopped (islLink n) = false →
    s.linkState n = 2 → s.cascMode = 0 → s.lnk.fcBad = false → s.boundTo (0x800 + 256 * n.val + c.val) = [] →
    (x.faulty = false → ∃ t, exec (.linkFrameRx n h ph true ⟨[(c, [x])], [], []⟩ none) s = .next t ∧
      t.ingressAt (0x800 + 256 * n.val + c.val) (s.frame - s.linkAge n ph.toNat + 14) = x ∧
      (∀ k, k ≠ slotKey (s.frame - s.linkAge n ph.toNat + 14 + 64) (0x800 + 256 * n.val + c.val) → t.eng.ingress.look none k = s.eng.ingress.look none k) ∧
      t.lnk.crc.look 0 n = 0 ∧ Only [.lnk, .eng] [] [Reg.LNKCNT_RESIDUE n] s t) ∧
    (s.lnk.crc.look 0 n < 3 → ∃ t, exec (.linkFrameRx n h ph false ⟨[(c, [x])], [], []⟩ none) s = .next t ∧
      (t.ingressAt (0x800 + 256 * n.val + c.val) (s.frame - s.linkAge n ph.toNat + 14)).isPoison = true ∧ t.linkState n = 2 ∧
      t.lnk.crc.look 0 n = s.lnk.crc.look 0 n + 1 ∧ t.bit (Reg.LNKSTAT_RX_FAULT n) = true ∧
      Only [.lnk, .eng] [122] [Reg.LNKCNT_CRC n, Reg.LNKSTAT_RX_FAULT n] s t) ∧
    (3 ≤ s.lnk.crc.look 0 n → ∃ t, exec (.linkFrameRx n h ph false ⟨[(c, [x])], [], []⟩ none) s = .next t ∧ t.linkState n = 0)) ∧
  (∀ (n : Fin 4) (o : Fin 8) (q chip : Nat) (ph : BitVec 13) (s : State), s.islandStopped (islLink n) = false → s.linkState n = 2 →
    o.val ≠ s.cascadeId → s.lnk.seen.contains (o.val, q) = false → chip < 8 →
    ∃ t, exec (.controlMessageRx n o q (.heartbeat chip) ph) s = .next t ∧
      (∀ i, i < 8 → (t.get Reg.LNKCASCSTAT_REACH).testBit i = ((s.get Reg.LNKCASCSTAT_REACH).testBit i || i == chip)) ∧
      t.lnk.heard.look 0 chip = s.frame ∧ t.lnk.seen.head? = some (o.val, q) ∧ Only [.lnk] [] [Reg.LNKCASCSTAT_REACH] s t) ∧
  (∀ (n : Fin 4) (o : Fin 8) (q f : Nat) (ph : BitVec 13) (s : State), s.islandStopped (islLink n) = false → s.linkState n = 2 →
    o.val ≠ s.cascadeId → s.lnk.seen.contains (o.val, q) = false → s.isMaster = false → s.bit Reg.LNKCASCSTAT_FC_SYNC = false →
    (s.get Reg.PWRSTAT_STATE = 1 ∨ s.lnk.started = 0) → ∃ t, exec (.controlMessageRx n o q (.count f) ph) s = .next t ∧
      t.frame = (f + s.linkAge n ph.toNat) % 2 ^ 64 ∧ t.bit Reg.LNKCASCSTAT_FC_SYNC = true ∧ t.lnk.fcBad = false ∧
      Only [.lnk, .frame] [] [Reg.LNKCASCSTAT_FC_SYNC] s t) ∧
  (∀ (n : Fin 4) (o : Fin 8) (q : Nat) (m : CtrlMsg) (ph : BitVec 13) (s : State),
    (s.islandStopped (islLink n) = true ∨ s.linkState n ≠ 2 ∨ o.val = s.cascadeId ∨ s.lnk.seen.contains (o.val, q) = true) →
    exec (.controlMessageRx n o q m ph) s = .next { s with free := s.free + 1 }) ∧
  (∀ (c : Fin 8) (s : State), ((s.get Reg.LNKCASCSTAT_REACH).testBit c = false ∨ s.frame < s.lnk.heard.look 0 c + 64) →
    exec (.cascChipLost c) s = .next { s with free := s.free + 1 }) ∧
  (∀ (c : Fin 8) (s : State), (s.get Reg.LNKCASCSTAT_REACH).testBit c = true → s.lnk.heard.look 0 c + 64 ≤ s.frame →
    c.val ≤ s.get Reg.LNKCASC_NCHIPS → s.evt.inReset = false → ∃ t, exec (.cascChipLost c) s = .next t ∧
    Raises [125] [Reg.LNKCASCSTAT_REACH] s t ∧
    ∀ i, i < 8 → (t.get Reg.LNKCASCSTAT_REACH).testBit i = ((s.get Reg.LNKCASCSTAT_REACH).testBit i && i != c.val))

/-- R394 to R397: a self-test, in the first window after a takeover, that passes starts the hold-off; one that fails in the cell retires
it with E116; one that fails in the cluster degrades it with E115; a cell that is retired is not tested back; after a clean hold-off
the spare returns to patrol with E114, and not before; the patrol counters clear.

R404 to R408: the active chip of a pair yields, at its next edge, to an ELIGIBLE peer, and to no other; an ELIGIBLE standby drives
ACT_OUT at the fall of ACT_IN, unless it is muted, and a healthy chip once it has been low long enough; REVERT brings the preferred
chip back with E126. -/
def Obligations.SpareCellsAndPairs : Prop :=
  (
  (∀ (cl : Fin 32) (r : Fin 4) (s : State), s.spareState cl = 2 → s.get (Reg.SPARESTAT_SELFTEST cl) = 0 →
    s.lnk.hold.look 0 cl = s.window → (s.get (Reg.SPARESTAT_RETIRED cl)).testBit (s.carryK cl) = true → r = 1 ∨ r = 2 →
    ∃ t, exec (.clusterSelftest cl r) s = .next t ∧ OnlyRegs [Reg.SPARESTAT_SELFTEST cl] s t ∧
      t.get (Reg.SPARESTAT_SELFTEST cl) = r.val) ∧
  (∀ (cl : Fin 32) (s : State), s.spareState cl = 2 → s.get (Reg.SPARESTAT_SELFTEST cl) = 0 → s.lnk.hold.look 0 cl = s.window →
    (s.get (Reg.SPARESTAT_RETIRED cl)).testBit (s.carryK cl) = false →
    (∃ t, exec (.clusterSelftest cl 1) s = .next t ∧
      OnlyRegs [Reg.SPARESTAT_SELFTEST cl, Reg.SPARESTAT_STATE cl, Reg.HOLDREMAIN_REMAIN cl] { s with lnk := t.lnk } t ∧
      t.spareState cl = 3 ∧ t.get (Reg.SPARESTAT_SELFTEST cl) = 1 ∧ t.lnk = { s.lnk with hold := t.lnk.hold } ∧
      t.get (Reg.HOLDREMAIN_REMAIN cl) = Nat.max 1 (s.get (Reg.REVERT_HOLDOFF_PERIODS cl)) % 2 ^ 32 ∧
      t.lnk.hold.look 0 cl = s.window + 1) ∧
    (s.evt.inReset = false → ∃ t, exec (.clusterSelftest cl 2) s = .next t ∧
      Raises [116] [Reg.SPARESTAT_SELFTEST cl, Reg.SPARESTAT_RETIRED cl] s t ∧ t.spareState cl = 2 ∧
      (s.carryK cl < 8 → (t.get (Reg.SPARESTAT_RETIRED cl)).testBit (s.carryK cl) = true)) ∧
    (s.evt.inReset = false → s.eng.degraded.contains cl.val = false → ∃ t, exec (.clusterSelftest cl 3) s = .next t ∧
      Only [.cells, .eng] [115] [Reg.SPARESTAT_SELFTEST cl] s t ∧
      t.eng = { s.eng with degraded := cl.val :: s.eng.degraded } ∧ t.get (Reg.SPARESTAT_SELFTEST cl) = 3 ∧
      ∀ k, k < 8 → s.window ∈ (t.cell (9 * cl + k)).spoiled)) ∧
  (∀ (cl : Fin 32) (r : Fin 4) (s : State), (s.spareState cl ≠ 2 ∨ s.get (Reg.SPARESTAT_SELFTEST cl) ≠ 0 ∨
    s.lnk.hold.look 0 cl ≠ s.window ∨ r = 0) → exec (.clusterSelftest cl r) s = .next { s with free := s.free + 1 }) ∧
  (∀ (cl : Fin 32) (s : State), s.spareState cl = 3 → s.get (Reg.HOLDREMAIN_REMAIN cl) = 0 → s.evt.inReset = false →
    ∃ t, exec (.spareReverted cl) s = .next t ∧ t.spareState cl = 0 ∧ t.carryK cl = 15 ∧ t.get (Reg.SPARESTAT_SELFTEST cl) = 0 ∧
      t.lnk.reverted = (9 * cl.val + s.carryK cl) :: s.lnk.reverted ∧
      Raises [114] [Reg.SPARESTAT_STATE cl, Reg.SPARESTAT_CARRY_K cl, Reg.SPARESTAT_SELFTEST cl] { s with lnk := t.lnk } t) ∧
  (∀ (cl : Fin 32) (s : State), (s.spareState cl ≠ 3 ∨ s.get (Reg.HOLDREMAIN_REMAIN cl) ≠ 0) →
    exec (.spareReverted cl) s = .next { s with free := s.free + 1 }) ∧
  (∀ (cl : Fin 32) (s : State), ∃ t, exec (.patrolcntClear cl) s = .next t ∧
    OnlyRegs [Reg.PATROLCNT_CHECKS cl, Reg.PATROLCNT_MISMATCHES cl] s t ∧ t.get (Reg.PATROLCNT_CHECKS cl) = 0 ∧
    t.get (Reg.PATROLCNT_MISMATCHES cl) = 0)
  ) ∧
  (
  (∀ s : State, s.pairMode = true → s.bit Reg.PAIRSTAT_ACTIVE = true → s.peerElig = true →
    exec .pairYield s = .next { s with free := s.free + 1, lnk := { s.lnk with yield := true } }) ∧
  (∀ s : State, s.pairMode = false ∨ s.bit Reg.PAIRSTAT_ACTIVE = false ∨ s.peerElig = false →
    exec .pairYield s = .next { s with free := s.free + 1 }) ∧
  (∀ s : State, s.pairMode = true → s.bit Reg.PAIRSTAT_PEER_ACT = true → s.bit Reg.PAIRSTAT_ELIGIBLE = true →
    s.bit Reg.PAIRSTAT_ACTIVE = false → s.bit Reg.FUMSTAT_MUTE_ALL = false → s.fum.resetDue = false → s.evt.inReset = false →
    ∃ t, exec .actInFall s = .next t ∧
    t.bit Reg.PAIRSTAT_ACTIVE = true ∧ t.bit Reg.PAIRSTAT_PEER_ACT = false ∧ t.lnk = { s.lnk with actLow := 0, acted := true } ∧
    Raises [119] [Reg.PAIRSTAT_PEER_ACT, Reg.PAIRSTAT_ACTIVE] { s with lnk := t.lnk } t) ∧
  (∀ s : State, (s.pairMode = false ∨ s.bit Reg.PAIRSTAT_ELIGIBLE = false ∨ s.bit Reg.PAIRSTAT_PEER_ACT = false ∨
    s.bit Reg.PAIRSTAT_ACTIVE = true ∨ s.bit Reg.FUMSTAT_MUTE_ALL = true ∨ s.fum.resetDue = true) → ∃ t, exec .actInFall s = .next t ∧
    OnlyRegs [Reg.PAIRSTAT_PEER_ACT] { s with lnk := { s.lnk with actLow := 0 } } t ∧ t.bit Reg.PAIRSTAT_PEER_ACT = false) ∧
  (∀ s : State, s.pairMode = true → s.lnk.started ≠ 0 → s.bit Reg.PAIRSTAT_ACTIVE = false → s.bit Reg.PAIRSTAT_PEER_ACT = false →
    (if s.cascadeId = s.get Reg.PAIRCFG_PREFER then 16 ≤ s.lnk.actLow else 64 ≤ s.lnk.actLow ∧ s.lnk.started + 63 ≤ s.frame) →
    s.bit Reg.FUMSTAT_MUTE_ALL = false → s.fum.resetDue = false → s.lastHealth = true → s.evt.inReset = false →
    ∃ t, exec .pairAssertAct s = .next t ∧ Raises [119] [Reg.PAIRSTAT_ACTIVE] { s with lnk := { s.lnk with acted := true } } t ∧ t.bit Reg.PAIRSTAT_ACTIVE = true) ∧
  (∀ s : State, s.bit Reg.FUMSTAT_MUTE_ALL = true ∨ s.bit Reg.PAIRSTAT_PEER_ACT = true ∨ s.lastHealth = false ∨ s.fum.resetDue = true ∨
    s.pairMode = false ∨ s.bit Reg.PAIRSTAT_ACTIVE = true ∨ s.lnk.started = 0 ∨ s.lnk.actLow < 16 →
    exec .pairAssertAct s = .next { s with free := s.free + 1 }) ∧
  (∀ s : State, s.pairMode = true → s.bit Reg.PAIRCFG_REVERT_EN = true → s.bit Reg.PAIRSTAT_ACTIVE = true →
    s.cascadeId ≠ s.get Reg.PAIRCFG_PREFER → Nat.max 1 (s.get Reg.PAIRHOLD_HOLDOFF) ≤ s.lnk.peerRun → s.peerElig = true →
    s.evt.inReset = false → ∃ t, exec .pairReverted s = .next t ∧ Raises [126] [] { s with lnk := { s.lnk with yield := true } } t) ∧
  (∀ s : State, s.pairMode = true → s.bit Reg.PAIRCFG_REVERT_EN = true → s.bit Reg.PAIRSTAT_ACTIVE = false →
    s.cascadeId = s.get Reg.PAIRCFG_PREFER → Nat.max 1 (s.get Reg.PAIRHOLD_HOLDOFF) ≤ s.lnk.eligRun → s.evt.inReset = false →
    ∃ t, exec .pairReverted s = .next t ∧ Raises [126] [] s t) ∧
  (∀ s : State, s.pairMode = false ∨ s.bit Reg.PAIRCFG_REVERT_EN = false ∨
    (s.bit Reg.PAIRSTAT_ACTIVE = true ∧ (s.cascadeId = s.get Reg.PAIRCFG_PREFER ∨ s.lnk.peerRun < Nat.max 1 (s.get Reg.PAIRHOLD_HOLDOFF))) ∨
    (s.bit Reg.PAIRSTAT_ACTIVE = false ∧ (s.cascadeId ≠ s.get Reg.PAIRCFG_PREFER ∨ s.lnk.eligRun < Nat.max 1 (s.get Reg.PAIRHOLD_HOLDOFF))) →
    exec .pairReverted s = .next { s with free := s.free + 1 })
  )

/-- R500 to R506, R526, R527: a transaction that the fabric answers before it reaches an arbiter performs no beat: its response and
FABERR say why, a read returns poison, and no memory changes; any other joins the requests, last; while the fabric is stopped, or the
master's port resets, nothing is issued. -/
def Obligations.FabricIssue : Prop :=
  let err : List Fld := [Reg.FABERR_LO_ADDR, Reg.FABERR_HI_ADDR_HI, Reg.FABERR_HI_MASTER, Reg.FABERR_HI_ID, Reg.FABERR_HI_CODE,
    Reg.FABSTAT_BURST, Reg.FABSTAT_DECODE, Reg.FABSTAT_PARITY]
  (∀ (m : Fin 8) (id : BitVec 4) (a : BitVec 40) (n : BitVec 5) (d : Option (BitVec 32)) (p : Bool) (s : State),
    s.portIssues m = true →
    (s.answeredAtOnce a.toNat n.toNat true p = none → exec (.fabricRead m id a n d p) s = .next { s with
      free := s.free + 1
      fab := { s.fab with reqs := s.fab.reqs ++ [s.request m id.toNat .read a.toNat n.toNat [] d] } }) ∧
    (∀ c, s.answeredAtOnce a.toNat n.toNat true p = some c → ∃ t r, exec (.fabricRead m id a n d p) s = .next t ∧
      t.fab.resps.head? = some r ∧ r.master = m ∧ r.id = id.toNat ∧ r.code = c ∧ r.done = 0 ∧ r.words.length = n.toNat ∧
      (∀ x ∈ r.words, x.isPoison = true) ∧ t.fab.reqs = s.fab.reqs ∧ t.get Reg.FABERR_HI_CODE = c ∧
      t.get Reg.FABERR_LO_ADDR = a.toNat % 2 ^ 32 ∧ Only [.fab] [176, 177, 187, 189] err s t)) ∧
  (∀ (m : Fin 8) (id : BitVec 4) (a : BitVec 40) (ws : List Sinter) (full : Bool) (d : Option (BitVec 32)) (p : Bool) (s : State),
    s.portIssues m = true →
    (s.answeredAtOnce a.toNat ws.length full p = none → exec (.fabricWrite m id a ws full d p) s = .next { s with
      free := s.free + 1
      fab := { s.fab with reqs := s.fab.reqs ++ [s.request m id.toNat .write a.toNat ws.length ws d] } }) ∧
    (∀ c, s.answeredAtOnce a.toNat ws.length full p = some c → ∃ t r, exec (.fabricWrite m id a ws full d p) s = .next t ∧
      t.fab.resps.head? = some r ∧ r.master = m ∧ r.id = id.toNat ∧ r.code = c ∧ r.done = 0 ∧ r.words = [] ∧
      t.fab.reqs = s.fab.reqs ∧ t.get Reg.FABERR_HI_CODE = c ∧ Only [.fab] [176, 177, 187, 189] err s t)) ∧
  (∀ (m : Fin 8) (id : BitVec 4) (a : BitVec 40) (n : BitVec 5) (ws : List Sinter) (f : Bool) (d : Option (BitVec 32)) (p : Bool)
    (s : State), s.portIssues m = false → exec (.fabricRead m id a n d p) s = .next { s with free := s.free + 1 } ∧
      exec (.fabricWrite m id a ws f d p) s = .next { s with free := s.free + 1 })

/-- R51, R503, R510, R511: a port with one request present grants it: a read of an on-chip word answers OK with the word, a write
stores it there and nowhere else, and the request is done; a port without a request grants nothing, nor does a stopped fabric. -/
def Obligations.ArbiterGrants : Prop :=
  (∀ (port : Fin 54) (r : FabReq) (k : Nat) (s : State), s.fabRuns = true → s.fab.reqs = [r] → r.port = port → r.present = true →
    r.granted = false → r.got = 0 → r.quiet = false → r.beats = 1 → inDram r.addr = false → s.place r.addr = .sram k →
    s.bit Reg.FABLOCK_M0_OPEN = false → s.bit Reg.FABLOCK_M4_OPEN = false → timeBefore (s.dueOf r) s.fabTime = false →
    (r.op = .read → r.words = [] → ∃ t, exec (.arbiterGrant port none) s = .next t ∧
      t.fab.resps.head? = some ⟨r.master, r.id, 0, 1, [s.ram k], r.tag, r.addr⟩ ∧ t.fab.reqs = [] ∧
      Only [.fab] [] [Reg.FABMST_RESET r.master] s t) ∧
    (∀ x, r.op = .write → r.words = [x] → ∃ t, exec (.arbiterGrant port none) s = .next t ∧
      t.fab.resps.head? = some ⟨r.master, r.id, 0, 1, [], r.tag, r.addr⟩ ∧ t.fab.reqs = [] ∧
      (∀ j, t.ram j = if j = k then x else s.ram j) ∧ t.mem.dram = s.mem.dram ∧
      Only [.fab, .mem] [] [Reg.FABMST_RESET r.master] s t)) ∧
  (∀ (port : Fin 54) (st : Option (Fin 16)) (s : State), s.fabRuns = true → (∀ r ∈ s.fab.reqs, r.port ≠ port.val) →
    exec (.arbiterGrant port st) s = .next { s with free := s.free + 1 }) ∧
  (∀ (port : Fin 54) (st : Option (Fin 16)) (s : State), s.fabRuns = false →
    exec (.arbiterGrant port st) s = .next { s with free := s.free + 1 })

/-- R508, R509, R512, R513, R517 to R525: a back-off ends; a budget is taken; FABCNT clears; a lock that stays open for 4,096 cycles is
broken with E178; a master's reset withdraws what it has waiting with E181 and ends at the latest after 4,096 cycles; the watchdog
abandons, at its limit and not before, a transaction with E182, and reports a path that stays blocked as a deadlock with E183; REMAP is written by M0 and M4, takes effect once nothing from
before it is left, and only then is the write that changed it answered. -/
def Obligations.FabricControl : Prop :=
  let brk : List Fld := [Reg.FABLOCK_M0_OPEN, Reg.FABLOCK_M0_PORT, Reg.FABLOCK_M4_OPEN, Reg.FABLOCK_M4_PORT, Reg.FABLOCKBRK_OWNER,
    Reg.FABLOCKBRK_PORT, Reg.FABLOCKBRK_CAUSE, Reg.FABSTAT_LOCK_BROKEN]
  let part : List Fld := [Reg.FABPART_LO_ADDR, Reg.FABPART_HI_ADDR_HI, Reg.FABPART_HI_MASTER, Reg.FABPART_HI_DONE, Reg.FABPART_HI_LEN,
    Reg.FABPART_HI_WHY, Reg.FABCNT_ABANDONED, Reg.FABSTAT_PARTIAL]
  (∀ (m : Fin 8) (id : BitVec 4) (port : Fin 54) (fclk : BitVec 32) (s : State), ∃ t, exec (.backoffExpired m id ⟨port, fclk⟩) s = .next t ∧
    t = { s with free := s.free + 1, fab := { s.fab with reqs := t.fab.reqs } } ∧ t.fab.reqs = s.fab.reqs.map (fun r =>
      if r.master = m.val ∧ r.id = id.toNat ∧ r.port = port.val ∧ Nat.min (2 ^ (r.losses - 1)) 256 ≤ fclk.toNat then { r with present := true } else r)) ∧
  (∀ (m : Fin 6) (b : BitVec 16) (s : State), ∃ t, exec (.fabqosWrite m b) s = .next t ∧ OnlyRegs [Reg.FABQOS_BUDGET m] s t ∧
    t.get (Reg.FABQOS_BUDGET m) = b.toNat) ∧
  (∀ s : State, ∃ t, exec .fabcntClear s = .next t ∧ OnlyRegs [Reg.FABCNT_MISSED, Reg.FABCNT_ABANDONED] s t ∧
    t.get Reg.FABCNT_MISSED = 0 ∧ t.get Reg.FABCNT_ABANDONED = 0) ∧
  (∀ (m4 : Bool) (p : Nat) (s : State), s.lockedPort (if m4 then 4 else 0) = some p →
    4096 ≤ s.fclkSince (s.fab.lockAt.look (0, 0) (if m4 then 4 else 0)) → s.evt.inReset = false →
    ∃ t, exec (.lockTimeout m4) s = .next t ∧ t.lockedPort (if m4 then 4 else 0) = none ∧
      t.lockedPort (if m4 then 0 else 4) = s.lockedPort (if m4 then 0 else 4) ∧ t.get Reg.FABLOCKBRK_CAUSE = 1 ∧
      t.get Reg.FABLOCKBRK_OWNER = (if m4 then 4 else 0) ∧ t.bit Reg.FABSTAT_LOCK_BROKEN = true ∧
      t.fab.broken = ((if m4 then 4 else 0), p) :: s.fab.broken ∧ t.evtStat 178 = true ∧ Only [.fab] [178] brk s t) ∧
  (∀ (m4 : Bool) (s : State), (s.lockedPort (if m4 then 4 else 0) = none ∨
      s.fclkSince (s.fab.lockAt.look (0, 0) (if m4 then 4 else 0)) < 4096) →
    exec (.lockTimeout m4) s = .next { s with free := s.free + 1 }) ∧
  (∀ (m : Fin 6) (s : State), s.evt.inReset = false → ∃ t, exec (.masterResetHandshake m) s = .next t ∧ t.evtStat 181 = true ∧
    t.lockedPort m = none ∧
    ((∀ r ∈ s.fab.reqs, r.master = m.val → r.granted = false) → t.fab.reqs = s.fab.reqs.filter (fun r => r.master != m.val) ∧
      t.bit (Reg.FABMST_RESET m) = false) ∧
    ((∀ r ∈ s.fab.reqs, r.master = m.val → r.granted = true → inDram r.addr = false) →
      Only [.fab] [178, 180, 181] (Reg.FABMST_RESET m :: brk ++ part) s t)) ∧
  (∀ (m : Fin 6) (s : State), (s.bit (Reg.FABMST_RESET m) = false ∨ s.fclkSince (s.fab.resetAt.look (0, 0) m) < 4096) →
    exec (.handshakeTimeout m) s = .next { s with free := s.free + 1 }) ∧
  (∀ (m : Fin 6) (s : State), s.bit (Reg.FABMST_RESET m) = true → 4096 ≤ s.fclkSince (s.fab.resetAt.look (0, 0) m) →
    ∃ t, exec (.handshakeTimeout m) s = .next t ∧
    t.bit (Reg.FABMST_RESET m) = false ∧ t.fab.reqs = s.fab.reqs.filter (fun r => r.master != m.val) ∧
    Only [.fab] [] [Reg.FABMST_RESET m] s t) ∧
  (∀ (port : Fin 54) (r : FabReq) (fclk : BitVec 32) (s : State), s.fab.reqs = [r] → r.port = port → r.quiet = false → r.op = .read →
    (if r.granted then 16 else 256) * Nat.max 1 (s.get Reg.FABWD_LIMIT) ≤ fclk.toNat → s.tripsAgain port = false → s.lockedPort r.master = none → s.evt.inReset = false →
    ∃ t x, exec (.fabTimeout ⟨port, fclk⟩) s = .next t ∧ t.fab.resps.head? = some x ∧ x.code = 5 ∧ x.done = r.got ∧ x.master = r.master ∧
      t.fab.reqs = [] ∧ t.fab.tripped.contains port.val = true ∧ t.tripsAgain port = true ∧ t.bit Reg.FABSTAT_TIMEOUT = true ∧ t.evtStat 182 = true ∧
      Only [.fab] [182] [Reg.FABSTAT_TIMEOUT, Reg.FABERR_LO_ADDR, Reg.FABERR_HI_ADDR_HI, Reg.FABERR_HI_MASTER, Reg.FABERR_HI_ID,
        Reg.FABERR_HI_CODE, Reg.FABMST_RESET r.master] s t) ∧
  (∀ (port : Fin 54) (r : FabReq) (fclk : BitVec 32) (s : State), s.fab.reqs = [r] → r.port = port → r.quiet = false → r.op = .read →
    256 * Nat.max 1 (s.get Reg.FABWD_LIMIT) ≤ fclk.toNat → s.tripsAgain port = true → s.evt.inReset = false →
    ∃ t, exec (.fabTimeout ⟨port, fclk⟩) s = .next t ∧ t.fab.reqs = [] ∧ t.bit Reg.FABSTAT_DEADLOCK = true ∧
      t.bit Reg.FABSTAT_TIMEOUT = true ∧ t.evtStat 182 = true ∧ t.evtStat 183 = true) ∧
  (∀ (port : Fin 54) (fclk : BitVec 32) (s : State), (∀ r ∈ s.fab.reqs, r.port = port.val →
      fclk.toNat < (if r.granted then 16 else 256) * Nat.max 1 (s.get Reg.FABWD_LIMIT)) →
    exec (.fabTimeout ⟨port, fclk⟩) s = .next { s with free := s.free + 1 }) ∧
  (∀ (port : Fin 54) (fclk : BitVec 32) (s : State), s.fab.tripped.contains port.val = true →
    16 * Nat.max 1 (s.get Reg.FABWD_LIMIT) ≤ fclk.toNat → s.evt.inReset = false → ∃ t, exec (.fabDeadlock ⟨port, fclk⟩) s = .next t ∧ t.bit Reg.FABSTAT_DEADLOCK = true ∧ t.evtStat 183 = true ∧
      (s.get Reg.FUMCFG_FABRIC_ACT ≠ 0 → s.fumHas 7 = false → Mutes 7 s t) ∧
      (2 ≤ s.get Reg.FUMCFG_FABRIC_ACT → t.fum.resetDue = true) ∧
      Only [.fum, .vent] (183 :: muteEvts) (Reg.FABSTAT_DEADLOCK :: muteFlds) s t) ∧
  (∀ (port : Fin 54) (fclk : BitVec 32) (s : State), (s.fab.tripped.contains port.val = false ∨
    fclk.toNat < 16 * Nat.max 1 (s.get Reg.FABWD_LIMIT)) → exec (.fabDeadlock ⟨port, fclk⟩) s = .next { s with free := s.free + 1 }) ∧
  (∀ (m : Fin 8) (v : Bool) (s : State), m = 0 ∨ m = 4 → v ≠ s.bit Reg.FABCFG_REMAP_NOW → ∃ t, exec (.remapWrite m v) s = .next t ∧
    OnlyRegs [Reg.FABCFG_REMAP] { s with fab := t.fab } t ∧ t.bit Reg.FABCFG_REMAP = v ∧ t.fab = { s.fab with remap := m.val + 1 }) ∧
  (∀ (m : Fin 8) (s : State), m = 0 ∨ m = 4 → (∀ r ∈ s.fab.reqs, r.port ≠ portHeld) →
    ∃ t, exec (.remapWrite m (s.bit Reg.FABCFG_REMAP_NOW)) s = .next t ∧ OnlyRegs [Reg.FABCFG_REMAP] { s with fab := t.fab } t ∧
    t.bit Reg.FABCFG_REMAP = s.bit Reg.FABCFG_REMAP_NOW ∧
    t.fab = { s.fab with remap := 0, reqs := redecode (s.bit Reg.FABCFG_REMAP_NOW) s.fab.reqs }) ∧
  (∀ (m : Fin 8) (v : Bool) (s : State), m ≠ 0 → m ≠ 4 → exec (.remapWrite m v) s = .next { s with free := s.free + 1 }) ∧
  (∀ s : State, s.fab.remap ≠ 0 → (∀ r ∈ s.fab.reqs, inRemap r.addr = true → r.port = portWait) →
    (∀ r ∈ s.fab.reqs, r.port ≠ portHeld) → s.evt.inReset = false →
    ∃ t, exec .fabRemapDone s = .next t ∧ t.bit Reg.FABCFG_REMAP_NOW = s.bit Reg.FABCFG_REMAP ∧ t.fab.remap = 0 ∧
      (∀ r ∈ t.fab.reqs, inRemap r.addr = true → portOf (s.bit Reg.FABCFG_REMAP) r.addr = some r.port) ∧
      Raises [188] [Reg.FABCFG_REMAP_NOW] { s with fab := t.fab } t) ∧
  (∀ (port : Fin 54) (r : FabReq) (x : Sinter) (s : State), s.fabRuns = true → s.fab.reqs = [r] → r.port = port → r.present = true →
    r.granted = false → r.got = 0 → r.op = .write → r.addr = 0x80030000 → r.beats = 1 → r.words = [x] → r.master = 0 ∨ r.master = 4 →
    x.data.toNat.testBit 0 ≠ s.bit Reg.FABCFG_REMAP_NOW → s.bit Reg.FABLOCK_M0_OPEN = false → s.bit Reg.FABLOCK_M4_OPEN = false →
    timeBefore (s.dueOf r) s.fabTime = false → ∃ t, exec (.arbiterGrant port none) s = .next t ∧ t.fab.resps = s.fab.resps ∧
      t.fab.reqs = [{ r with port := portHeld, granted := true, present := false, got := 1 }] ∧ t.fab.remap = r.master + 1 ∧
      OnlyRegs [Reg.FABCFG_REMAP] { s with fab := t.fab } t) ∧
  (∀ (r : FabReq) (s : State), s.fab.remap ≠ 0 → s.fab.reqs = [r] → r.port = portHeld → inRemap r.addr = false → r.quiet = false →
    s.evt.inReset = false → ∃ t, exec .fabRemapDone s = .next t ∧ t.fab.reqs = [] ∧
      t.fab.resps.head? = some ⟨r.master, r.id, 0, r.got, [], r.tag, r.addr⟩ ∧
      t.bit Reg.FABCFG_REMAP_NOW = s.bit Reg.FABCFG_REMAP)

/-- R531, R532, R536: a request for a cell, cluster, region or engine reset that is refused sets REFUSED and raises E218, at most once a
period; one while a reset is in progress sets IGNORED; any other makes RSTSTAT.BUSY 1 and begins, and what the cells in scope have
written in this window is poison.  What waits at a held island past IDLE_TO is answered, and not before; the release of a cell reset
starts that cell anew and no other, with E217, and it comes only once nothing is outstanding there and the islands can have been
held for 16 FCLK cycles. -/
def Obligations.ScopedResets : Prop :=
  let cmd (m : Fin 8) (sc : Fin 4) (tg : BitVec 9) : Instr := if sc = 0 then .cellResetReq m tg else if sc = 1 then .clusterResetReq m tg
    else if sc = 2 then .regionResetReq m tg else .engineResetReq m
  let tgt (sc : Fin 4) (tg : BitVec 9) : Nat := if sc = 3 then 0 else tg.toNat
  let ops : List Fld := [Reg.RSTREQ_SCOPE, Reg.RSTREQ_TARGET]
  (∀ (m : Fin 8) (sc : Fin 4) (tg : BitVec 9) (s : State), s.rstRefused m sc (tgt sc tg) = true →
    ∃ t, exec (cmd m sc tg) s = .next t ∧ t.bit Reg.RSTSTAT_REFUSED = true ∧
      (s.evt.inReset = false → s.evt.once.contains 218 = false → t.evtStat 218 = true) ∧
      Only [] [218] (Reg.RSTSTAT_REFUSED :: ops) s t) ∧
  (∀ (m : Fin 8) (sc : Fin 4) (tg : BitVec 9) (s : State), s.rstRefused m sc (tgt sc tg) = false → s.bit Reg.RSTSTAT_BUSY = true →
    ∃ t, exec (cmd m sc tg) s = .next t ∧ OnlyRegs (Reg.RSTSTAT_IGNORED :: ops) s t ∧ t.bit Reg.RSTSTAT_IGNORED = true) ∧
  (∀ (m : Fin 8) (sc : Fin 4) (tg : BitVec 9) (s : State), s.rstRefused m sc (tgt sc tg) = false → s.bit Reg.RSTSTAT_BUSY = false →
    s.pwr.chip = 0 → ∃ t, exec (cmd m sc tg) s = .next t ∧
      (let p : Pwr := { s.pwr with rst := some (sc.val, tgt sc tg), idleAt := s.now }
       OnlyRegs (Reg.RSTSTAT_BUSY :: ops) { s with pwr := p, cells := t.cells } t) ∧
      (∀ e, e < 288 → inScope sc.val (tgt sc tg) e = true → s.window ∈ (t.cell e).spoiled) ∧
      (∀ e, e < 288 → inScope sc.val (tgt sc tg) e = false → t.cell e = s.cell e) ∧ t.bit Reg.RSTSTAT_BUSY = true ∧ t.get Reg.RSTREQ_SCOPE = sc) ∧
  (∀ s : State, ((s.pwr.rst = none ∧ s.pwr.safe = false) ∨ s.fclkSince s.pwr.idleAt < s.idleTimeout) →
    exec .resetIdleTimeout s = .next { s with free := s.free + 1 }) ∧
  (∀ (r : FabReq) (s : State), s.pwr.rst.isSome = true → s.idleTimeout ≤ s.fclkSince s.pwr.idleAt → s.fab.reqs = [r] → (targetIslands r.addr).any s.resetHolds = true →
    r.granted = false → r.op = .read → r.words = [] → r.quiet = false → ∃ t x, exec .resetIdleTimeout s = .next t ∧ t.fab.reqs = [] ∧
      t.fab.resps.head? = some x ∧ x.code = 3 ∧ x.master = r.master ∧ (∀ w ∈ x.words, w.isPoison = true) ∧
      Only [.fab] [189] [Reg.FABERR_LO_ADDR, Reg.FABERR_HI_ADDR_HI, Reg.FABERR_HI_MASTER, Reg.FABERR_HI_ID, Reg.FABERR_HI_CODE,
        Reg.FABMST_RESET r.master] s t) ∧
  (∀ (e : Fin 288) (s : State), s.pwr.chip = 0 → s.pwr.safe = false → s.pwr.rst = some (0, e.val) → s.releasable = true →
    s.evt.inReset = false →
    ∃ t, exec .resetRelease s = .next t ∧ t.pwr = { s.pwr with rst := none } ∧ t.bit Reg.RSTSTAT_BUSY = false ∧
      t.get Reg.RSTSTAT_LAST_SCOPE = 0 ∧ t.evtStat 217 = true ∧
      t.cell e = { Cell.reset with tables := (s.cell e).tables, spoiled := s.window :: (s.cell e).spoiled } ∧
      (∀ i, i ≠ e.val → t.cell i = s.cell i) ∧ t.clk.join.look 0 e = s.window + 2 ∧ t.mem = s.mem ∧ t.eng = s.eng ∧ t.fum = s.fum ∧
      t.vent = s.vent ∧ t.stw = s.stw ∧ t.gys = s.gys ∧ t.frame = s.frame) ∧
  (∀ s : State, (s.pwr.chip ≠ 0 ∨ s.releasable = false ∨ (s.pwr.safe = false ∧ s.pwr.rst = none)) →
    exec .resetRelease s = .next { s with free := s.free + 1 })

/-- R427, R529 to R535, R538, R539: a warm chip reset clears the on-chip memories and keeps the frame count, the time domains and the
contents of DRAM; a chip reset, RESET_N and POR take the frame count to 0; while a chip-scope reset holds, the event controller is in
reset; its release takes the ball levels, shows the cause and starts the islands, with E216 where the power state was another; a
management-island reset leaves the engine alone; a safe reset, or a warm chip reset where the last was too short a time ago, follows
an action of 2 at C = 0, and ends with E222 and the steward at PC 0. -/
def Obligations.ChipResets : Prop :=
  (∀ s : State, s.pwr.chip = 0 → ∃ t, exec (.warmChipResetReq 5) s = .next t ∧ t.pwr.chip = 1 ∧ t.pwr.cause = 5 ∧ t.frame = s.frame ∧
    t.refs = s.refs ∧ t.mem.sram = [] ∧ t.mem.dram = s.mem.dram ∧ t.mem.dramGen = s.mem.dramGen ∧ t.evt.inReset = true ∧
    t.stw = Steward.reset ∧ t.cells = [] ∧ t.pending = s.pending ∧ t.fum.ang = s.fum.ang ∧ t.bit Reg.MGSTAT_CHIP_IN_RESET = true) ∧
  (∀ s : State, s.pwr.chip < 2 → ∃ t, exec (.chipResetReq 5) s = .next t ∧ t.pwr.chip = 2 ∧ t.pwr.cause = 2 ∧ t.frame = 0 ∧
    t.refs = Refs.reset ∧ t.mem.sram = [] ∧ t.mem.dram = [] ∧ t.evt.inReset = true ∧ t.stw = Steward.reset ∧ t.cells = [] ∧
    t.pending = s.pending ∧ t.bit Reg.MGSTAT_CHIP_IN_RESET = true ∧ t.bit Reg.MGSTAT_FCLK_OK = false) ∧
  (∀ (m : Fin 8) (s : State), m ≠ 5 → ∀ c ∈ [Instr.warmChipResetReq m, .chipResetReq m, .mgmtResetReq m],
    ∃ t, exec c s = .next t ∧ t.bit Reg.RSTSTAT_REFUSED = true ∧
      Only [] [218] [Reg.RSTREQ_SCOPE, Reg.RSTREQ_TARGET, Reg.RSTSTAT_REFUSED] s t) ∧
  (∀ s : State, ∃ t, exec (.mgmtResetReq 5) s = .next t ∧ t.get Reg.RSTSTAT_LAST_SCOPE = 6 ∧ t = { s with
      free := s.free + 1
      regs := t.regs
      mgmt := Mgmt.reset
      fum := { s.fum with seq := 0 }
      fuses := { s.fuses with prog := none } }) ∧
  (∀ s : State, exec .por s = .next { State.reset with
      pending := s.pending
      free := s.free + 1
      mem := { Mem.reset with dramGen := s.mem.dramGen + 1 }
      pins := { Pins.reset with gpio := s.pins.gpio }
      fuses := { s.fuses with prog := none } }) ∧
  (∀ s : State, s.pwr.chip ≠ 3 → ∃ t, exec .resetNLow s = .next t ∧ t.pwr.chip = 2 ∧ t.pwr.cause = 1 ∧ t.frame = 0 ∧
    t.bit Reg.MGSTAT_RESET_N = false ∧ t.evt.inReset = true ∧ t.mem.sram = [] ∧ t.pending = s.pending) ∧
  (∀ s : State, s.pwr.chip = 3 → ∃ t, exec .resetNLow s = .next t ∧ OnlyRegs [Reg.MGSTAT_RESET_N] s t ∧ t.bit Reg.MGSTAT_RESET_N = false) ∧
  (∀ (mo ca : BitVec 3) (gp : BitVec 8) (s : State), s.pwr.chip ≠ 0 → s.tooHot = false → s.pwr.cause < 16 → ∃ t, exec (.chipResetRelease mo ca gp) s = .next t ∧
    t.pwr.chip = 0 ∧ t.evt.inReset = false ∧ t.get Reg.BOOTSTAT_MODE = mo.toNat ∧ t.get Reg.LNKCASCSTAT_ID = ca.toNat ∧
    t.get Reg.RSTCAUSE_CAUSE = s.pwr.cause ∧ t.get Reg.PWRSTAT_STATE = 0 ∧ t.bit Reg.MGSTAT_CHIP_IN_RESET = false ∧
    t.bit Reg.MGSTAT_RESET_N = true ∧ t.bit Reg.BOOTSTAT_DONE = false ∧ t.bit Reg.PINSTAT_HELD_HIZ = gp.getLsbD 7 ∧ t.frame = s.frame ∧ t.pending = s.pending ∧
    (s.get Reg.PWRSTAT_STATE ≠ 0 → t.evtStat 216 = true) ∧ t.mem = { s.mem with training := t.mem.training } ∧ t.cells = s.cells ∧ t.gys = s.gys) ∧
  (∀ (mo ca : BitVec 3) (gp : BitVec 8) (s : State), (s.pwr.chip = 0 ∨ s.tooHot = true) → exec (.chipResetRelease mo ca gp) s = .next { s with free := s.free + 1 }) ∧
  (∀ s : State, s.fum.resetDue = true → s.cZero = true → s.pwr.safe = false → s.pwr.chip = 0 → s.pwr.safeAt = 0 → s.evt.inReset = false →
    (∀ r ∈ s.fab.reqs, r.granted = true → inDram r.addr = false) →
    ∃ t, exec .fumSafeReset s = .next t ∧ t.bit Reg.FUMSTAT_SAFE_RESET = true ∧ t.pwr = { s.pwr with safe := true, rst := none, idleAt := s.now } ∧
      t.bit Reg.RSTSTAT_BUSY = true ∧ t.fum.resetDue = false ∧ t.evtStat 203 = true ∧ t.evtStat 181 = true ∧ t.frame = s.frame ∧
      t.mem = s.mem ∧ t.gys = s.gys ∧ t.stw = s.stw) ∧
  (∀ s : State, s.fum.resetDue = true → s.cZero = true → s.pwr.safe = false → s.pwr.chip = 0 → s.pwr.safeAt ≠ 0 →
    s.period < s.pwr.safeAt - 1 + 65536 → ∃ t, exec .fumSafeReset s = .next t ∧ t.pwr.chip = 1 ∧ t.pwr.cause = 6 ∧ t.pwr.safe = false ∧
      t.frame = s.frame ∧ t.mem.dram = s.mem.dram) ∧
  (∀ s : State, s.fum.resetDue = false ∨ s.cZero = false → exec .fumSafeReset s = .next { s with free := s.free + 1 }) ∧
  (∀ s : State, s.pwr.chip = 0 → s.pwr.safe = true → s.releasable = true → s.evt.inReset = false → ∃ t, exec .resetRelease s = .next t ∧
    t.pwr.safe = false ∧ t.pwr.rst = none ∧ t.pwr.safeAt = s.period + 1 ∧ t.bit Reg.RSTSTAT_BUSY = false ∧ t.evtStat 222 = true ∧
    t.stw = { Steward.reset with running := true } ∧ t.gys = Gys.reset ∧ t.fab = { Fab.reset with remap := s.fab.remap } ∧ t.frame = s.frame ∧ t.mem.dram = s.mem.dram)

/-- R541 to R548: a power request for the present state does nothing; between RUN and QUIESCE the change waits for a period boundary
with BUSY set; HOLD begins with the CLOCK cause, and ends at the floor with E216; one during a transition waits; while a reading of
135 °C stands only HOLD is accepted; PWRRATE is changed in QUIESCE only. -/
def Obligations.PowerStates : Prop :=
  let cmd (q : Fin 3) : Instr := if q = 0 then .pwrReqRun else if q = 1 then .pwrReqQuiesce else .pwrReqHold
  (∀ (q : Fin 3) (s : State), (q = 2 ∨ s.pwr.hot = false) → s.bit Reg.PWRSTAT_BUSY = false → s.get Reg.PWRSTAT_STATE = q.val →
    ∃ t, exec (cmd q) s = .next t ∧ OnlyRegs [Reg.PWRCTL_REQ] { s with pwr := { s.pwr with want := 0 } } t ∧ t.get Reg.PWRCTL_REQ = q) ∧
  (∀ (q : Fin 3) (s : State), (q = 2 ∨ s.pwr.hot = false) → s.bit Reg.PWRSTAT_BUSY = true → ∃ t, exec (cmd q) s = .next t ∧
    OnlyRegs [Reg.PWRCTL_REQ] { s with pwr := { s.pwr with want := q.val + 1 } } t) ∧
  (∀ (q : Fin 3) (s : State), s.pwr.hot = true → q ≠ 2 → ∃ t, exec (cmd q) s = .next t ∧ t.bit Reg.PWRSTAT_REFUSED = true ∧
    Only [] [218] [Reg.PWRCTL_REQ, Reg.PWRSTAT_REFUSED] s t) ∧
  (∀ (q : Fin 3) (s : State), q ≠ 2 → s.pwr.hot = false → s.bit Reg.PWRSTAT_BUSY = false → s.get Reg.PWRSTAT_STATE + q.val = 1 →
    ∃ t, exec (cmd q) s = .next t ∧ OnlyRegs [Reg.PWRCTL_REQ, Reg.PWRSTAT_BUSY]
      { s with pwr := { s.pwr with want := 0, goal := q.val + 1, step := 0 } } t ∧ t.bit Reg.PWRSTAT_BUSY = true) ∧
  (∀ s : State, s.bit Reg.PWRSTAT_BUSY = false → s.get Reg.PWRSTAT_STATE ≠ 2 → s.loopAtRest = true →
    ∃ t, exec .pwrReqHold s = .next t ∧ t.bit Reg.PWRSTAT_BUSY = true ∧ t.fumHas 2 = true ∧
      t.pwr = { s.pwr with want := 0, goal := 3, step := 1 } ∧ t.get Reg.PWRSTAT_STATE = s.get Reg.PWRSTAT_STATE ∧
      Only [.pwr, .clk, .fum, .vent] muteEvts ([Reg.PWRCTL_REQ, Reg.PWRSTAT_BUSY] ++ muteFlds) s t) ∧
  (∀ s : State, s.bit Reg.PWRSTAT_BUSY = false → s.get Reg.PWRSTAT_STATE ≠ 2 → s.loopAtRest = false →
    ∃ t, exec .pwrReqHold s = .next t ∧ OnlyRegs [Reg.PWRCTL_REQ] { s with pwr := { s.pwr with want := 3 } } t) ∧
  (∀ (q : Fin 3) (s : State), q ≠ 2 → s.pwr.hot = false → s.bit Reg.PWRSTAT_BUSY = false → s.get Reg.PWRSTAT_STATE = 2 →
    ∃ t, exec (cmd q) s = .next t ∧ t.bit Reg.PWRSTAT_BUSY = true ∧ t.loop = 1 ∧ t.pwr.goal = q.val + 1 ∧ t.pwr.step = 3 ∧ t.get Reg.PWRSTAT_STATE = 2) ∧
  (∀ s : State, s.pwr.step = 2 → s.loop = 7 → s.pwr.want = 0 → s.evt.inReset = false → ∃ t, exec .holdEntered s = .next t ∧
    t.get Reg.PWRSTAT_STATE = 2 ∧ t.bit Reg.PWRSTAT_BUSY = false ∧ t.bit Reg.CORESTAT_COAST = true ∧ t.evtStat 216 = true ∧
    t.pwr = { s.pwr with goal := 0, step := 0, want := 0 } ∧ t.clk.ramp = true ∧
    Only [.pwr, .clk, .fum, .vent] ([6, 216] ++ muteEvts) ([Reg.PWRSTAT_STATE, Reg.PWRSTAT_BUSY, Reg.CORESTAT_COAST] ++ muteFlds) s t) ∧
  (∀ s : State, s.pwr.step ≠ 2 ∨ s.loop ≠ 7 → exec .holdEntered s = .next { s with free := s.free + 1 }) ∧
  (∀ s : State, s.Inv → s.pwr.step = 4 → s.mem.training = false → s.evt.inReset = false → ∃ t, exec .holdExitDone s = .next t ∧
    t.pwr = { s.pwr with step := 5 } ∧ t.evtStat 217 = true ∧ (∀ i ∈ holdIslands, t.clk.gated.contains i = false) ∧ t.frame = s.frame ∧
    t.gys = s.gys ∧ t.stw = s.stw ∧ t.get Reg.PWRSTAT_STATE = s.get Reg.PWRSTAT_STATE) ∧
  (∀ s : State, s.pwr.step ≠ 4 ∨ s.mem.training = true → exec .holdExitDone s = .next { s with free := s.free + 1 }) ∧
  (∀ (f : Bool) (m : BitVec 2) (s : State), m ≠ 3 → (s.get Reg.PWRSTAT_STATE = 1 ∨
    (s.get Reg.PWRRATE_FAMILY = f.toNat ∧ s.get Reg.PWRRATE_MULT = m.toNat)) → ∃ t, exec (.pwrrateWrite f m) s = .next t ∧
    OnlyRegs [Reg.PWRRATE_FAMILY, Reg.PWRRATE_MULT] s t ∧ t.bit Reg.PWRRATE_FAMILY = f ∧ t.get Reg.PWRRATE_MULT = m.toNat) ∧
  (∀ (f : Bool) (m : BitVec 2) (s : State), m = 3 ∨ (s.get Reg.PWRSTAT_STATE ≠ 1 ∧
    (s.get Reg.PWRRATE_FAMILY ≠ f.toNat ∨ s.get Reg.PWRRATE_MULT ≠ m.toNat)) → ∃ t, exec (.pwrrateWrite f m) s = .next t ∧ t.bit Reg.PWRSTAT_REFUSED = true ∧ Only [] [218] [Reg.PWRSTAT_REFUSED] s t)

/-- R549 to R555: a rail below its warning threshold is shown with E208; its recovery opens the precautionary window with E209 and E205;
a crossing of a reset threshold mutes with SUPPLY and, at C = 0, resets the chip with cause 3, or is a power-on reset for rails 2 and 9;
a reading is taken, is flagged BAD outside -60 °C to 160 °C, and raises E211 at 115 °C; TEMPMAX takes the highest valid reading. -/
def Obligations.SupplyAndTemperature : Prop :=
  (∀ (r : Fin 10) (s : State), s.evt.inReset = false → s.evt.once.contains 208 = false → ∃ t, exec (.supplyWarn r) s = .next t ∧
    (∀ i, i < 10 → (t.get Reg.SUPSTAT_BELOW_WARN).testBit i = ((s.get Reg.SUPSTAT_BELOW_WARN).testBit i || i == r.val)) ∧
    t.get Reg.SUPFAULT_RAIL = r ∧ t.get Reg.SUPFAULT_KIND = 0 ∧ t.evtStat 208 = true ∧
    Only [] [208] [Reg.SUPSTAT_BELOW_WARN, Reg.SUPFAULT_RAIL, Reg.SUPFAULT_KIND] s t) ∧
  (∀ (r : Fin 10) (s : State), (s.get Reg.SUPSTAT_BELOW_WARN).testBit r = true → s.pwr.supply ≠ r.val + 1 → s.evt.inReset = false →
    ∃ t, exec (.supplyDip r) s = .next t ∧ (t.get Reg.SUPSTAT_BELOW_WARN).testBit r = false ∧ (t.get Reg.SUPSTAT_DIP).testBit r = true ∧
      t.get Reg.SUPFAULT_KIND = 1 ∧ t.bit Reg.FUMSTAT_PRECAUT = true ∧ t.mem = { s.mem with passSince := false } ∧
      t.evtStat 209 = true ∧ t.evtStat 205 = true ∧ Only [.mem, .fum] [209, 205] ([Reg.SUPSTAT_BELOW_WARN, Reg.SUPSTAT_DIP,
        Reg.SUPFAULT_RAIL, Reg.SUPFAULT_KIND, Reg.FUMSTAT_PRECAUT] ++ recFlds) s t) ∧
  (∀ (r : Fin 10) (s : State), (s.get Reg.SUPSTAT_BELOW_WARN).testBit r = false →
    exec (.supplyDip r) s = .next { s with free := s.free + 1 }) ∧
  (∀ (r : Fin 10) (o : Bool) (s : State), r ≠ 2 → r ≠ 9 → ∃ t, exec (.supplyResetThreshold r o) s = .next t ∧ t.fumHas 4 = true ∧
    t.pwr = { s.pwr with supply := r.val + 1, supplyAt := if s.pwr.supply = 0 then s.now else s.pwr.supplyAt } ∧ t.get Reg.SUPFAULT_RAIL = r ∧ t.get Reg.SUPFAULT_KIND = (if o then 3 else 2) ∧
    (s.fumHas 4 = false → Mutes 4 s t) ∧
    Only [.pwr, .fum, .vent] muteEvts ([Reg.SUPFAULT_RAIL, Reg.SUPFAULT_KIND] ++ muteFlds) s t) ∧
  (∀ (r : Fin 10) (o : Bool) (s : State), r = 2 ∨ r = 9 → ∃ t, exec (.supplyResetThreshold r o) s = .next t ∧
    exec .por s = .next t) ∧
  (∀ (r : Nat) (s : State), s.pwr.supply = r + 1 → s.supplyWaits = false → s.pwr.chip < 2 → ∃ t, exec .supplyChipReset s = .next t ∧ t.pwr.chip = 2 ∧
    t.pwr.cause = 3 ∧ t.pwr.rail = r ∧ t.frame = 0 ∧ t.evt.inReset = true) ∧
  (∀ s : State, (s.pwr.supply = 0 ∨ s.supplyWaits = true) → exec .supplyChipReset s = .next { s with free := s.free + 1 }) ∧
  (∀ (i : Fin 8) (v : BitVec 13) (s : State), -60 * 16 ≤ v.toInt → v.toInt < 110 * 16 → s.pwr.hot = false →
    (∀ j : Fin 8, s.bit (Reg.TEMP_BAD j) = false ∧ (s.bit (Reg.TEMP_VALID j) = true → tempOf (s.get (Reg.TEMP_TEMP j)) < 110 * 16)) →
    ∃ t, exec (.tempConversion i v) s = .next t ∧ t.get (Reg.TEMP_TEMP i) = v.toNat ∧ t.bit (Reg.TEMP_VALID i) = true ∧
      t.bit (Reg.TEMP_BAD i) = false ∧ tempOf (t.get Reg.TEMPMAX_MAX) = max (tempOf (s.get Reg.TEMPMAX_MAX)) v.toInt ∧
      t.pwr = { s.pwr with warned := false } ∧
      OnlyRegs [Reg.TEMP_TEMP i, Reg.TEMP_VALID i, Reg.TEMP_BAD i, Reg.TEMPMAX_MAX] { s with pwr := t.pwr } t) ∧
  (∀ (i : Fin 8) (v : BitVec 13) (s : State), 115 * 16 ≤ v.toInt → v.toInt < 135 * 16 → s.pwr.hot = false → s.pwr.warned = false →
    s.evt.inReset = false → (∀ j : Fin 8, s.bit (Reg.TEMP_BAD j) = false ∧ s.bit (Reg.TEMP_VALID j) = false) →
    ∃ t, exec (.tempConversion i v) s = .next t ∧ t.evtStat 211 = true ∧ t.pwr = { s.pwr with warned := true } ∧
      Only [.pwr] [211] [Reg.TEMP_TEMP i, Reg.TEMP_VALID i, Reg.TEMP_BAD i, Reg.TEMPMAX_MAX] s t) ∧
  (∀ (i : Fin 8) (s : State), s.evt.inReset = false → s.evt.once.contains 215 = false → s.pwr.hot = false →
    (∀ j : Fin 8, s.bit (Reg.TEMP_BAD j) = false ∧ s.bit (Reg.TEMP_VALID j) = false) →
    ∃ t, exec (.tempSensorTimeout i) s = .next t ∧ t.bit (Reg.TEMP_VALID i) = false ∧ t.bit (Reg.TEMP_BAD i) = true ∧
      t.evtStat 215 = true ∧ t.pwr = { s.pwr with warned := false } ∧ Only [.pwr] [215] [Reg.TEMP_VALID i, Reg.TEMP_BAD i] s t) ∧
  (∀ s : State, ∃ t, exec .tempmaxWrite s = .next t ∧ OnlyRegs [Reg.TEMPMAX_MAX] s t ∧
    (∀ i : Fin 8, s.bit (Reg.TEMP_VALID i) = true → s.get (Reg.TEMP_TEMP i) < 2 ^ 13 →
      tempOf (s.get (Reg.TEMP_TEMP i)) ≤ tempOf (t.get Reg.TEMPMAX_MAX)))

/-- R556 to R565: the boot ROM.  It starts once the loop is LOCKED and waits for an image, or stops on a reserved mode; BOOTDOOR hands
an image over; an image whose checks pass goes on to its sections; a section that passes its checks is written, a REGS section kept for
its writes, which follow in order; the hand-off sets DONE with E221, maps the steward's memory at 0 and sends the steward there. -/
def Obligations.Boot : Prop :=
  (∀ s : State, s.boot.started = false → s.pwr.chip = 0 → s.loop = 5 → s.get Reg.BOOTSTAT_MODE < 4 → ∃ t, exec .bootStart s = .next t ∧
    OnlyRegs [Reg.BOOTSTAT_STAGE] { s with stw := t.stw, boot := { s.boot with started := true } } t ∧
    t.stw = { Steward.reset with running := true } ∧ t.get Reg.BOOTSTAT_STAGE = (if s.bootFlash then 3 else 2)) ∧
  (∀ s : State, s.boot.started = false → s.pwr.chip = 0 → s.loop = 5 → 4 ≤ s.get Reg.BOOTSTAT_MODE → ∃ t, exec .bootStart s = .next t ∧
    t.get Reg.BOOTSTAT_STAGE = 6 ∧ t.get Reg.BOOTSTAT_ERR = 10 ∧
    OnlyRegs [Reg.BOOTSTAT_STAGE, Reg.BOOTSTAT_ERR] { s with stw := t.stw, boot := { s.boot with started := true } } t) ∧
  (∀ s : State, s.boot.started = true ∨ s.pwr.chip ≠ 0 ∨ s.loop ≠ 5 → exec .bootStart s = .next { s with free := s.free + 1 }) ∧
  (∀ (m : Fin 8) (s : State), (m = 1 ∧ (s.get Reg.BOOTSTAT_MODE = 0 ∨ s.bit Reg.BOOTSTAT_FALLBACK = true)) ∨
    (m = 5 ∧ s.get Reg.BOOTSTAT_MODE = 2) → s.bootBusy = false →
    exec (.bootdoorGo m) s = .next { s with free := s.free + 1, boot := { s.boot with handed := true } }) ∧
  (∀ (m : Fin 8) (s : State), m ≠ 1 → m ≠ 5 → exec (.bootdoorGo m) s = .next { s with free := s.free + 1 }) ∧
  (∀ (fl : List (BitVec 8)) (j : Nat) (s : State), s.bootMayCheck = true → j < 4 →
    let head := s.imageBytes fl 0 (keyAt (Nat.min 64 (leWord (s.imageBytes fl 0 32) 8)) + 128)
    s.bootChecks head = .good j → ∃ t, exec (.bootCheck fl) s = .next t ∧
      OnlyRegs [Reg.BOOTSTAT_KEYSLOT, Reg.BOOTSTAT_STAGE, Reg.BOOTSTAT_SECT] { s with boot := t.boot } t ∧
      t.get Reg.BOOTSTAT_KEYSLOT = j ∧ t.get Reg.BOOTSTAT_STAGE = 4 ∧ t.get Reg.BOOTSTAT_SECT = 0 ∧
      t.boot.image = (if s.bootFlash then fl else head)) ∧
  (∀ (fl : List (BitVec 8)) (s : State), s.bootMayCheck = false → exec (.bootCheck fl) s = .next { s with free := s.free + 1 }) ∧
  (∀ (b1 b2 : Bool) (s : State), s.bootMayLoad = true → s.bootFlash = false →
    let x := sectionAt s.boot.image s.boot.sect
    let bs := s.imageBytes s.boot.image x.off x.len
    (Digest.crc32c bs).toNat = x.crc → Digest.digestNat (Digest.sha256 bs) = x.digest →
    (x.ty = 8 → exec (.bootSectionLoad b1 b2) s = .next { s with free := s.free + 1, boot := { s.boot with regs := true } }) ∧
    (∀ k, x.ty = 1 → x.len = 4 → inDram x.dest = false → s.place x.dest = .sram k → s.answeredAtOnce x.dest 1 true true = none →
      s.boot.sect < 64 → ∃ t, exec (.bootSectionLoad b1 b2) s = .next t ∧ t.boot.sect = s.boot.sect + 1 ∧
        (∀ i, t.ram i = if i = k then Sinter.ofData (BitVec.ofNat 32 (leWord bs 0)) else s.ram i) ∧
        Only [.mem, .boot] [] [Reg.BOOTSTAT_SECT] s t)) ∧
  (∀ (b1 b2 : Bool) (s : State), s.bootMayLoad = false → exec (.bootSectionLoad b1 b2) s = .next { s with free := s.free + 1 }) ∧
  (∀ (a v : BitVec 32) (s : State), s.boot.regs = true →
    let x := sectionAt s.boot.image s.boot.sect
    leWords (s.imageBytes s.boot.image x.off x.len) = [a, v] → a.toNat % 4 = 0 → 0x80000000 ≤ a.toNat → a.toNat < 0x80110000 →
    let r := s.romWrite a.toNat [Sinter.ofData v]
    r.2 = 0 → ∃ t, exec .bootRegsWrite s = .next t ∧ t.boot = { r.1.boot with sect := r.1.boot.sect + 1, regs := false } ∧
      OnlyRegs [Reg.BOOTSTAT_SECT] { r.1 with boot := t.boot } t) ∧
  (∀ s : State, s.boot.regs = false → exec .bootRegsWrite s = .next { s with free := s.free + 1 }) ∧
  (∀ s : State, s.get Reg.BOOTSTAT_STAGE ≠ 4 ∨ s.boot.sect < s.bootSections ∨ s.remapFree = false →
    exec .bootHandoff s = .next { s with free := s.free + 1 }) ∧
  (∀ s : State, s.get Reg.BOOTSTAT_STAGE = 4 → s.bootSections ≤ s.boot.sect → s.remapFree = true →
    (∀ r ∈ s.fab.reqs, r.port ≠ portHeld) → s.evt.inReset = false →
    ∃ t, exec .bootHandoff s = .next t ∧ t.bit Reg.BOOTSTAT_DONE = true ∧ t.get Reg.BOOTSTAT_STAGE = 5 ∧ t.evtStat 221 = true ∧
      t.get Reg.BOOTVER_IMAGE_VER = leWord s.boot.image 16 ∧ t.bit Reg.FABCFG_REMAP_NOW = true ∧ t.stw.core.npc = 32768 ∧
      t.stw.ie = false ∧ (s.bit Reg.FABCFG_REMAP_NOW = false → t.evtStat 188 = true) ∧
      (∀ k, t.ram k = if k = 0x1003FFF8 then Sinter.ofData 0 else if k = 0x1003FFFC then Sinter.ofData 0xF4000000 else s.ram k) ∧
      Only [.mem, .fab, .boot, .stw] [221, 188] [Reg.BOOTSTAT_DONE, Reg.BOOTSTAT_STAGE, Reg.BOOTVER_IMAGE_VER, Reg.FABCFG_REMAP,
        Reg.FABCFG_REMAP_NOW] s t)

/-- R6, R566 to R569, R572, R575: a write to EVTEN, EVTROUTE or EVTSTAT, the last clearing the bits written 1 but those of a data-side
source that stays active (which ones do, log 195); after the first and the last every MSI-X condition that is 1 has its message due,
after a route only those that have risen; EVTSWSET raises its events.  A due message
is sent, or sets the pending bit of a masked vector, or is dropped while messages are off; the end of a mask sends what is pending.
While the event controller is in reset its registers do not change (the model's choice, log 180). -/
def Obligations.EventCommands : Prop :=
  let seen (t : State) (d : Nat) (s : State) : Prop := t.evt = { s.evt with due := s.evt.due ||| d, seen := t.msixCond }
  (∀ (w : Fin 8) (v : BitVec 32) (s : State), s.evt.inReset = false → ∃ t, exec (.evtenWrite w v) s = .next t ∧
    Only [.evt] [] [Reg.EVTEN_EN w] s t ∧ t.get (Reg.EVTEN_EN w) = v.toNat ∧ seen t t.msixCond s) ∧
  (∀ (w : Fin 8) (v : BitVec 32) (s : State), s.evt.inReset = false → ∃ t, exec (.evtstatClear w v) s = .next t ∧
    Only [.evt] [] [Reg.EVTSTAT_STAT w] s t ∧ seen t t.msixCond s ∧
    ∀ i, i < 32 → (t.get (Reg.EVTSTAT_STAT w)).testBit i =
      ((s.get (Reg.EVTSTAT_STAT w)).testBit i && (!v.getLsbD i || s.standing.contains (32 * w.val + i)))) ∧
  (∀ (e : Fin 256) (v : BitVec 15) (s : State), s.evt.inReset = false → ∃ t, exec (.evtrouteWrite e v) s = .next t ∧
    Only [.evt] [] [Reg.EVTROUTE_SVEC e, Reg.EVTROUTE_SEN e, Reg.EVTROUTE_MSIX e, Reg.EVTROUTE_MEN e, Reg.EVTROUTE_OUT e] s t ∧
    t.get (Reg.EVTROUTE_SVEC e) = (v.extractLsb' 0 5).toNat ∧ t.bit (Reg.EVTROUTE_SEN e) = v.getLsbD 5 ∧
    t.get (Reg.EVTROUTE_MSIX e) = (v.extractLsb' 6 4).toNat ∧ t.bit (Reg.EVTROUTE_MEN e) = v.getLsbD 10 ∧
    t.get (Reg.EVTROUTE_OUT e) = (v.extractLsb' 11 4).toNat ∧ seen t (t.msixCond ^^^ (t.msixCond &&& s.evt.seen)) s) ∧
  (∀ (v : BitVec 16) (s : State), s.evt.inReset = false → ∃ t, exec (.evtswset v) s = .next t ∧
    Raises (((List.range 16).filter v.getLsbD).map (240 + ·)) [] s t) ∧
  (∀ (w : Fin 8) (e : Fin 256) (v : BitVec 32) (r : BitVec 15) (x : BitVec 16) (s : State), s.evt.inReset = true →
    ∀ c ∈ [Instr.evtenWrite w v, .evtstatClear w v, .evtrouteWrite e r, .evtswset x], exec c s = .next { s with free := s.free + 1 }) ∧
  (∀ (x : Fin 16) (s : State),
    let e := { s.evt with due := s.evt.due ^^^ 2 ^ x.val }
    let goes (e : Evt) : Host.Outcome State Fault Refusal := .next { s with free := s.free + 1, evt := e }
    (s.evt.due.testBit x = false → exec (.msixSend x) s = goes s.evt) ∧
    (s.evt.due.testBit x = true → exec (.msixSend x) s =
      if s.bit Reg.HSTSTAT_MSIX_EN && s.bit Reg.HSTSTAT_BME then
        (if s.pcie.fmask || s.evt.vmask.testBit x then goes { e with pba := s.evt.pba ||| 2 ^ x.val }
         else goes { e with sent := s.evt.sent ++ [x.val] })
      else goes e)) ∧
  (∀ (x : Fin 16) (s : State), ∃ t, exec (.msixUnmask (some x)) s = .next t ∧
    (∀ i, i < 16 → t.evt.vmask.testBit i = (s.evt.vmask.testBit i && i != x.val)) ∧
    t = { s with free := s.free + 1, evt := { s.evt with vmask := t.evt.vmask, pba := t.evt.pba, sent := t.evt.sent } } ∧
    (if s.evt.pba.testBit x && !s.pcie.fmask && s.bit Reg.HSTSTAT_MSIX_EN && s.bit Reg.HSTSTAT_BME
     then t.evt.sent = s.evt.sent ++ [x.val] ∧ t.evt.pba = s.evt.pba ^^^ 2 ^ x.val
     else t.evt.sent = s.evt.sent ∧ t.evt.pba = s.evt.pba)) ∧
  (∀ s : State, ∃ t, exec (.msixUnmask none) s = .next t ∧
    t = { s with free := s.free + 1, pcie := { s.pcie with fmask := false }, evt := { s.evt with pba := t.evt.pba, sent := t.evt.sent } } ∧
    let on := s.bit Reg.HSTSTAT_MSIX_EN && s.bit Reg.HSTSTAT_BME
    t.evt.sent = s.evt.sent ++ (List.range 16).filter (fun x => on && s.evt.pba.testBit x && !s.evt.vmask.testBit x) ∧
    ∀ i, i < 16 → t.evt.pba.testBit i = (s.evt.pba.testBit i && !(on && !s.evt.vmask.testBit i)))

/-- R577 to R580: a request of one word from the host reaches the fabric as M1; a read returns the data bits of the word, and records a
word that is poison or mismatched; an error response or an unmapped offset is recorded in HSTERR with E226 and completes as
Unsupported Request or Completer Abort; a write with partial byte enables is discarded and reported through AER; the pending bit array reads as it stands. -/
def Obligations.HostAccesses : Prop :=
  (∀ (bar : Fin 3) (o : BitVec 32) (a : Nat) (b : Beats) (s : State), s.hostUp = true → o.toNat % 4 = 0 →
    inMsixTable bar o.toNat = false → inMsixPba bar o.toNat = false → s.barAddr bar o.toNat = some a →
    s.access 1 0 .read a 1 [] true = some b →
    (∀ x, b.code = 0 → b.words = [x] → x.isPoison = false → x.ok = true → exec (.pcieMemRead bar o 1) s = .next { b.s with
      free := b.s.free + 1
      pcie := { b.s.pcie with cpl := some (0, [x.data], false) } }) ∧
    (∀ x, b.code = 0 → b.words = [x] → x.isPoison = true → ∃ t, exec (.pcieMemRead bar o 1) s = .next t ∧
      t.pcie.cpl = some (0, [x.data], b.s.bit Reg.HSTCFG_POISON_EP) ∧ t.bit Reg.HSTSTAT_RD_POISON = true ∧
      t.get Reg.HSTERR_HI_KIND = 1 ∧ (b.s.evt.inReset = false → b.s.evt.once.contains 227 = false → t.evtStat 227 = true) ∧
      Only [.pcie] [227] [Reg.HSTSTAT_RD_POISON, Reg.HSTERR_LO_ADDR, Reg.HSTERR_HI_ADDR_HI, Reg.HSTERR_HI_CODE,
        Reg.HSTERR_HI_KIND] b.s t) ∧
    (∀ x, b.code = 0 → b.words = [x] → x.isPoison = false → x.ok = false → ∃ t, exec (.pcieMemRead bar o 1) s = .next t ∧
      t.pcie.cpl = some (0, [x.data], b.s.bit Reg.HSTCFG_POISON_EP) ∧ t.bit Reg.HSTSTAT_RD_MISMATCH = true ∧
      t.get Reg.HSTERR_HI_KIND = 2 ∧ (b.s.evt.inReset = false → b.s.evt.once.contains 227 = false → t.evtStat 227 = true) ∧
      Only [.pcie] [227] [Reg.HSTSTAT_RD_MISMATCH, Reg.HSTERR_LO_ADDR, Reg.HSTERR_HI_ADDR_HI, Reg.HSTERR_HI_CODE,
        Reg.HSTERR_HI_KIND] b.s t) ∧
    (0 < b.code → b.code < 8 → ∃ t, exec (.pcieMemRead bar o 1) s = .next t ∧
      t.pcie.cpl = some (if b.code = 2 then 1 else 2, [], false) ∧ t.bit Reg.HSTSTAT_ACC_ERR = true ∧
      t.get Reg.HSTERR_HI_CODE = b.code ∧ (b.s.evt.inReset = false → b.s.evt.once.contains 226 = false → t.evtStat 226 = true) ∧
      Only [.pcie] [226] [Reg.HSTSTAT_ACC_ERR, Reg.HSTERR_LO_ADDR, Reg.HSTERR_HI_ADDR_HI, Reg.HSTERR_HI_CODE,
        Reg.HSTERR_HI_KIND] b.s t)) ∧
  (∀ (bar : Fin 3) (o : BitVec 32) (a k : Nat) (v : BitVec 32) (s : State), s.hostUp = true → o.toNat % 4 = 0 →
    s.barAddr bar o.toNat = some a → s.portIssues 1 = true → s.answeredAtOnce a 1 true true = none →
    s.portFree 1 (s.portFor a) = true → inDram a = false → s.place a = .sram k →
    inMsixTable bar o.toNat = false → inMsixPba bar o.toNat = false →
    ((s.ram k).isPoison = false → (s.ram k).ok = true → exec (.pcieMemRead bar o 1) s = .next { s with
      free := s.free + 1
      pcie := { s.pcie with cpl := some (0, [(s.ram k).data], false) } }) ∧
    ∃ t, exec (.pcieMemWrite bar o [v] true) s = .next t ∧ Stores k (Sinter.ofData v) { s with free := s.free + 1 } t) ∧
  (∀ (bar : Fin 3) (o : BitVec 32) (s : State), s.hostUp = true → o.toNat % 4 = 0 → inMsixTable bar o.toNat = false →
    inMsixPba bar o.toNat = false → s.barAddr bar o.toNat = none → ∃ t, exec (.pcieMemRead bar o 1) s = .next t ∧
      t.pcie.cpl = some (1, [], false) ∧ t.bit Reg.HSTSTAT_ACC_ERR = true) ∧
  (∀ (bar : Fin 3) (o : BitVec 32) (ws : List (BitVec 32)) (s : State), s.hostUp = true → ∃ t,
    exec (.pcieMemWrite bar o ws false) s = .next t ∧ t.bit Reg.HSTSTAT_ACC_ERR = true ∧ t.get Reg.HSTERR_HI_CODE = 1 ∧
      t.pcie = { s.pcie with aerCa := true } ∧ Only [.pcie] [226] [Reg.HSTSTAT_ACC_ERR, Reg.HSTERR_LO_ADDR, Reg.HSTERR_HI_ADDR_HI, Reg.HSTERR_HI_CODE, Reg.HSTERR_HI_KIND] s t) ∧
  (∀ s : State, s.hostUp = true → exec (.pcieMemRead 0 0xE1800 1) s = .next { s with
    free := s.free + 1
    pcie := { s.pcie with cpl := some (0, [BitVec.ofNat 32 s.evt.pba], false) } }) ∧
  (∀ (bar : Fin 3) (o : BitVec 32) (n : BitVec 10) (ws : List (BitVec 32)) (f : Bool) (s : State), s.hostUp = false →
    exec (.pcieMemRead bar o n) s = .next { s with free := s.free + 1 } ∧
    exec (.pcieMemWrite bar o ws f) s = .next { s with free := s.free + 1 })

/-- R581: the link comes up with E224, its speed and its width, and goes down with E225 and the reset handshake of M1; a Function Level
Reset runs the handshake too, raises E228 and returns the MSI-X tables and the HST fields but DBGCTL to their reset values. -/
def Obligations.HostLink : Prop :=
  let lock : List Fld := [Reg.FABMST_RESET 1, Reg.FABPART_LO_ADDR, Reg.FABPART_HI_ADDR_HI, Reg.FABPART_HI_MASTER, Reg.FABPART_HI_DONE,
    Reg.FABPART_HI_LEN, Reg.FABPART_HI_WHY, Reg.FABCNT_ABANDONED, Reg.FABSTAT_PARTIAL]
  let link : List Fld := [Reg.HSTSTAT_LINK_UP, Reg.HSTSTAT_SPEED, Reg.HSTSTAT_WIDTH]
  (∀ (sp wd : BitVec 3) (bme msix fm : Bool) (s : State), s.pwr.chip = 0 → s.evt.inReset = false →
    ∃ t, exec (.hostLinkUp sp wd bme msix fm) s = .next t ∧ t.bit Reg.HSTSTAT_LINK_UP = true ∧ t.get Reg.HSTSTAT_SPEED = sp.toNat ∧
      t.get Reg.HSTSTAT_WIDTH = wd.toNat ∧ t.bit Reg.HSTSTAT_BME = bme ∧ t.bit Reg.HSTSTAT_MSIX_EN = msix ∧
      t.pcie = { s.pcie with fmask := fm } ∧ t.evtStat 224 = true ∧
      (fm = true ∨ s.evt.pba = 0 → t.evt.sent = s.evt.sent ∧ t.evt.pba = s.evt.pba) ∧
      Only [.pcie, .evt] [224] ([Reg.HSTSTAT_BME, Reg.HSTSTAT_MSIX_EN, Reg.PINDIFF_PCIE_INV] ++ link) s t) ∧
  (∀ s : State, s.hostUp = true → s.evt.inReset = false → ∃ t, exec .hostLinkDown s = .next t ∧ t.bit Reg.HSTSTAT_LINK_UP = false ∧
    t.get Reg.HSTSTAT_SPEED = 0 ∧ t.get Reg.HSTSTAT_WIDTH = 0 ∧ t.evtStat 225 = true ∧ t.evtStat 181 = true ∧
    (∀ r ∈ t.fab.reqs, r.master = 1 → r.granted = true) ∧ ((∀ r ∈ s.fab.reqs, r.master = 1 → r.granted = false) →
      t.fab.reqs = s.fab.reqs.filter (fun r => r.master != 1)) ∧ Only [.fab] [180, 181, 225] (lock ++ link) s t) ∧
  (∀ s : State, s.Inv → s.hostUp = true → s.evt.inReset = false → ∃ t, exec .hostFlr s = .next t ∧ t.evtStat 225 = true ∧ t.evtStat 228 = true ∧
    t.evtStat 181 = true ∧ t.pcie = Pcie.reset ∧ t.evt.table = [] ∧ t.evt.vmask = 0xFFFF ∧ t.evt.pba = 0 ∧ t.get Reg.HSTWIN_WIN = 0 ∧
    t.bit Reg.HSTSTAT_BME = false ∧ t.bit Reg.HSTSTAT_MSIX_EN = false ∧ t.bit Reg.HSTSTAT_ACC_ERR = false ∧
    (∀ f ∈ link ++ [Reg.DBGCTL_OPEN, Reg.DBGCTL_STW_HALT, Reg.DBGSTAT_OPEN, Reg.DBGSTAT_DBG_DIS], t.get f = s.get f) ∧
    (∀ p : Part, p ≠ .fab → p ≠ .pcie → p ≠ .evt → p.same s t) ∧
    ∀ k, blockOf (k / 64) ≠ 14 → k ∉ lock.map Fld.key → k ∉ [180, 181, 225, 228].map (fun n => (Reg.EVTSTAT_STAT (n / 32)).key) →
      t.regs.look 0 k = s.regs.look 0 k) ∧
  (∀ s : State, s.hostUp = false → exec .hostLinkDown s = .next { s with free := s.free + 1 } ∧
    exec .hostFlr s = .next { s with free := s.free + 1 }) ∧
  (∀ (sp wd : BitVec 3) (bme msix fm : Bool) (s : State), s.pwr.chip ≠ 0 →
    exec (.hostLinkUp sp wd bme msix fm) s = .next { s with free := s.free + 1 })

/-- R583 to R586: the management port.  A malformed transaction sets FRAME_ERR with E229 and performs nothing; a local access of one
word reads or writes its register as master 5, or answers DECODE with E230; a fabric access of one word reads or writes it, and without
FCLK reports NO_CLOCK; EVTSNAPCTL.TAKE copies the event status and the frame count while FCLK is there.

R592, R593: a fuse word is programmed while RESET_N is low, at an address up to 0x20, with no other in progress: its bits are added,
none is cleared, and DONE shows; a word that does not verify shows FAIL, with some of its bits taken (which, the model leaves free, log
16); any other PROG is refused. -/
def Obligations.ManagementPortAndFuses : Prop :=
  (
  (∀ (a : BitVec 40) (n : BitVec 4) (ws : List (BitVec 32)) (st : Bool) (s : State), s.mgmtUp = true →
    ∀ c ∈ [Instr.mgmtLocalRead a n false, .mgmtLocalWrite a ws false, .mgmtFabricRead a n false st, .mgmtFabricWrite a ws false st],
      ∃ t, exec c s = .next t ∧ t.bit Reg.MGSTAT_FRAME_ERR = true ∧ Only [] [229] [Reg.MGSTAT_FRAME_ERR] s t ∧
        (s.evt.inReset = false → s.evt.once.contains 229 = false → t.evtStat 229 = true)) ∧
  (∀ (a : BitVec 40) (n : BitVec 4) (ws : List (BitVec 32)) (g st : Bool) (s : State), s.mgmtUp = false →
    ∀ c ∈ [Instr.mgmtLocalRead a n g, .mgmtLocalWrite a ws g, .mgmtFabricRead a n g st, .mgmtFabricWrite a ws g st],
      exec c s = .next { s with free := s.free + 1 }) ∧
  (∀ (a : BitVec 40) (r : Nat) (v : BitVec 32) (s : State), s.mgmtUp = true → localReg a.toNat = some r →
    exec (.mgmtLocalRead a 0 true) s = .next { s with
      free := s.free + 1
      mgmt := ⟨0, [BitVec.ofNat 32 (s.regView r)], 0, 0⟩ } ∧
    exec (.mgmtLocalWrite a [v] true) s = .next { s.regWrite 5 r v.toNat with
      free := (s.regWrite 5 r v.toNat).free + 1
      mgmt := ⟨0, [], 0, 0⟩ }) ∧
  (∀ (a : BitVec 40) (v : BitVec 32) (s : State), s.mgmtUp = true → localReg a.toNat = none →
    ∃ t u, exec (.mgmtLocalRead a 0 true) s = .next t ∧ t.mgmt = ⟨2, [Config.mgmtWord s.free 0], 0, 0⟩ ∧ Only [.mgmt] [230] [] s t ∧
      exec (.mgmtLocalWrite a [v] true) s = .next u ∧ u.mgmt = ⟨2, [], 0, 0⟩ ∧ Only [.mgmt] [230] [] s u ∧
      (s.evt.inReset = false → s.evt.once.contains 230 = false → t.evtStat 230 = true ∧ u.evtStat 230 = true)) ∧
  (∀ (a : BitVec 40) (k : Nat) (v : BitVec 32) (s : State), s.mgmtUp = true → s.bit Reg.MGSTAT_FCLK_OK = true → s.portIssues 5 = true →
    s.answeredAtOnce a.toNat 1 true true = none → s.portFree 5 (s.portFor a.toNat) = true → inDram a.toNat = false →
    s.place a.toNat = .sram k → (s.ram k).isPoison = false → (s.ram k).faulty = false →
    exec (.mgmtFabricRead a 0 true false) s = .next { s with free := s.free + 1, mgmt := ⟨0, [(s.ram k).data], 0, 0⟩ } ∧
    ∃ t, exec (.mgmtFabricWrite a [v] true false) s = .next t ∧
      Stores k (Sinter.ofData v) { s with free := s.free + 1, mgmt := ⟨0, [], 0, 0⟩ } t) ∧
  (∀ (a : BitVec 40) (n : BitVec 4) (ws : List (BitVec 32)) (st : Bool) (s : State), s.mgmtUp = true → s.bit Reg.MGSTAT_FCLK_OK = false →
    exec (.mgmtFabricRead a n true st) s = .next { s with
      free := s.free + 1
      mgmt := ⟨8, (List.range (n.toNat + 1)).map (Config.mgmtWord s.free), 0, 0⟩ } ∧
    exec (.mgmtFabricWrite a ws true st) s = .next { s with free := s.free + 1, mgmt := ⟨8, [], 0, 0⟩ }) ∧
  (∀ s : State, s.bit Reg.MGSTAT_FCLK_OK = true → ∃ t, exec .evtsnapTake s = .next t ∧ t.bit Reg.EVTSNAPCTL_VALID = true ∧
    t.get Reg.EVTSNAPCTL_KIND = 0 ∧ (∀ w : Fin 8, t.get (Reg.EVTSNAP_STAT w) = s.get (Reg.EVTSTAT_STAT w) % 2 ^ 32) ∧
    t.get Reg.EVTSNAP_FC_LO_FC = s.frame % 2 ^ 32 ∧ t.get Reg.EVTSNAP_FC_HI_FC = s.frame / 2 ^ 32 % 2 ^ 32 ∧
    OnlyRegs ([Reg.EVTSNAPCTL_VALID, Reg.EVTSNAPCTL_KIND, Reg.EVTSNAP_FC_LO_FC, Reg.EVTSNAP_FC_HI_FC] ++
      (List.range 8).map Reg.EVTSNAP_STAT) s t) ∧
  (∀ s : State, s.bit Reg.MGSTAT_FCLK_OK = false → exec .evtsnapTake s = .next { s with free := s.free + 1 })
  ) ∧
  (
  (∀ s : State, s.bit Reg.MGSTAT_RESET_N = false → s.get Reg.FUSEADDR_ADDR ≤ 0x20 → s.bit Reg.FUSESTAT_BUSY = false →
    ∃ t, exec .fuseProg s = .next t ∧ t.bit Reg.FUSESTAT_BUSY = true ∧ OnlyRegs [Reg.FUSESTAT_BUSY]
      { s with fuses := { s.fuses with prog := some (s.get Reg.FUSEADDR_ADDR, s.get Reg.FUSEDATA_DATA) } } t) ∧
  (∀ s : State, s.bit Reg.MGSTAT_RESET_N = true ∨ 0x20 < s.get Reg.FUSEADDR_ADDR ∨ s.bit Reg.FUSESTAT_BUSY = true →
    ∃ t, exec .fuseProg s = .next t ∧ t.bit Reg.FUSESTAT_REFUSED = true ∧ OnlyRegs [Reg.FUSESTAT_REFUSED] s t) ∧
  (∀ (ok : Bool) (a v : Nat) (s : State), s.fuses.prog = some (a, v) → ∃ t m, exec (.fuseProgDone ok) s = .next t ∧
    t.fuses.prog = none ∧ (∀ i, t.fuses.words.look 0 i = if i = a then s.fuses.words.look 0 a ||| (v &&& m) else s.fuses.words.look 0 i) ∧
    (ok = true → v &&& m = v) ∧ t.bit Reg.FUSESTAT_BUSY = false ∧
    t.bit (if ok then Reg.FUSESTAT_DONE else Reg.FUSESTAT_FAIL) = true ∧
    OnlyRegs [Reg.FUSESTAT_BUSY, if ok then Reg.FUSESTAT_DONE else Reg.FUSESTAT_FAIL] { s with fuses := t.fuses } t) ∧
  (∀ (ok : Bool) (s : State), s.fuses.prog = none → exec (.fuseProgDone ok) s = .next { s with free := s.free + 1 })
  )

/-- R587 to R590: each TAP instruction selects its register, EXTEST, CLAMP and HIGHZ acting only while RESET_N is low; a closed debug port performs
nothing and raises E234; an open one reads and writes words as M4 with E232, opens a lock with a locked read and releases it with a closing
write; a DAPDATA capture gives the oldest word read and queues a pushed one. -/
def Obligations.TapAndDebugPort : Prop :=
  (∀ (b : List Bool) (s : State),
    let goes (t : Tap) : Host.Outcome State Fault Refusal := .next { s with free := s.free + 1, tap := t }
    (∀ p ∈ [(Instr.extest, 0), (.clamp, 3), (.highz, 4)], ∃ t, exec p.1 s = .next t ∧
      t = { s with free := s.free + 1, tap := { s.tap with ir := p.2, dr := 0 } } ∧
      t.tapActs = if s.bit Reg.MGSTAT_RESET_N then 0xFF else p.2) ∧
    exec (.samplePreload b) s = goes { s.tap with ir := 1, dr := 0, bsr := b } ∧
    exec .idcode s = goes { s.tap with ir := 2, dr := 0x2CE10A41 } ∧
    exec .tapReset s = goes { s.tap with ir := 2, dr := 0x2CE10A41 } ∧
    (∀ c : BitVec 8, c ∉ [0#8, 1#8, 2#8, 3#8, 4#8, 0x10#8, 0x11#8] → exec (.bypass c) s = goes { s.tap with ir := 0xFF, dr := 0 }) ∧
    (∀ (p : Option (BitVec 32)) (x : Sinter) (xs : List Sinter), s.tap.words = x :: xs → exec (.dapdataCapture p) s = goes { s.tap with
      ir := 0x11
      dr := x.data.toNat + 2 ^ 32 * s.tap.code + 2 ^ 35 * x.isPoison.toNat + 2 ^ 36 * x.faulty.toNat + 2 ^ 37 * s.tap.ready.toNat +
        2 ^ 38 * (!s.bit Reg.DBGSTAT_OPEN).toNat
      words := xs
      queue := s.tap.queue ++ p.toList })) ∧
  (∀ (a : BitVec 40) (n : BitVec 4) (s : State), s.bit Reg.DBGSTAT_OPEN = false →
    ∀ c ∈ [Instr.dapRead a n, .dapWrite a n, .dapLockedRead a n, .dapClosingWrite a n], ∃ t, exec c s = .next t ∧
      t.tap = { s.tap with ir := 0x10 } ∧ Only [.tap] [234] [] s t ∧
      (s.evt.inReset = false → s.evt.once.contains 234 = false → t.evtStat 234 = true)) ∧
  (∀ (a : BitVec 40) (k : Nat) (w : BitVec 32) (ws : List (BitVec 32)) (s : State), s.bit Reg.DBGSTAT_OPEN = true → s.portIssues 4 = true →
    s.answeredAtOnce a.toNat 1 true true = none → s.portFor a.toNat < 54 → inDram a.toNat = false → s.place a.toNat = .sram k →
    let gave (r : Sinter) : Tap := { s.tap with ir := 0x10, words := [r], code := 0, ready := true }
    let took : Tap := { s.tap with ir := 0x10, queue := ws, words := [], code := 0, ready := true }
    let dbg (t : State) : Prop := s.evt.inReset = false → s.evt.once.contains 232 = false → t.evtStat 232 = true
    let lock : List Fld := [Reg.FABLOCK_M4_OPEN, Reg.FABLOCK_M4_PORT]
    (∃ t, exec (.dapRead a 0) s = .next t ∧ t.tap = gave (s.ram k) ∧ Only [.tap] [232] [] s t ∧ dbg t) ∧
    (s.lockBad 4 (s.portFor a.toNat) = false → ∃ t, exec (.dapLockedRead a 0) s = .next t ∧ t.tap = gave (s.ram k) ∧
      t.lockedPort 4 = some (s.portFor a.toNat) ∧ Only [.tap, .fab] [232] lock s t ∧ dbg t) ∧
    (s.tap.queue = w :: ws → ∃ t, exec (.dapWrite a 0) s = .next t ∧ t.tap = took ∧
      (∀ j, t.ram j = if j = k then Sinter.ofData w else s.ram j) ∧ t.mem.dram = s.mem.dram ∧ Only [.tap, .mem] [232] [] s t ∧ dbg t) ∧
    (s.tap.queue = w :: ws → s.lockedPort 4 = some (s.portFor a.toNat) → ∃ t, exec (.dapClosingWrite a 0) s = .next t ∧ t.tap = took ∧
      t.lockedPort 4 = none ∧ (∀ j, t.ram j = if j = k then Sinter.ofData w else s.ram j) ∧ t.mem.dram = s.mem.dram ∧
      Only [.tap, .mem] [232] lock s t ∧ dbg t))

/-- R491, R595, R606 to R612, R620: a driven output over the short-circuit threshold goes to high impedance and shows in PINSHORT until a
retry, after its wait, finds it clear; the numbers of the port outputs name their balls; eight probes in a row that an input follows show it open, one it does not follow clears it; the receive polarity of a
NET port inverts; a missing leg, a stuck FAULT_N and the pulse are shown; GPIO registers reach the balls at once. -/
def Obligations.PinMonitors : Prop :=
  let isOpen (s : State) (p : Nat) : Bool := (s.get (Reg.PINOPEN_OPEN (p / 32))).testBit (p % 32)
  let sum : List Fld := [Reg.PINSTAT_SHORT_NOW, Reg.PINSTAT_OPEN_NOW]
  (∀ (p : Fin 177) (s : State), s.bit Reg.PINCFG_SHORT_EN = true → s.pinDrives p = true → ∃ t, exec (.pinShortDetect p) s = .next t ∧
    t.pinHiz p = true ∧ (∀ q : Fin 177, q ≠ p → t.pinHiz q = s.pinHiz q) ∧ t.bit Reg.PINSTAT_SHORT_SEEN = true ∧
    t.bit Reg.PINSTAT_SHORT_NOW = true ∧
    ((s.get Reg.SUPSTAT_BELOW_WARN).testBit 3 = false → ∀ q, q < 256 → 10 * (q / 16) + 2 + q % 16 / 2 = p.val → t.portBall q = none) ∧
    OnlyRegs ([Reg.PINSHORT_SHORT (p.val / 32), Reg.PINSTAT_SHORT_SEEN] ++ sum) s t) ∧
  (∀ (p : Fin 177) (s : State), s.bit Reg.PINCFG_SHORT_EN = false ∨ s.pinDrives p = false →
    exec (.pinShortDetect p) s = .next { s with free := s.free + 1 }) ∧
  (∀ (p : Fin 177) (i : BitVec 32) (s : State), s.pinHiz p = true → 1024 * Nat.max 1 (s.get Reg.PINCFG_RETRY) ≤ i.toNat →
    ∃ t, exec (.pinShortRetry p ⟨false, i⟩) s = .next t ∧ t.pinHiz p = false ∧
    (∀ q : Fin 177, q ≠ p → t.pinHiz q = s.pinHiz q) ∧ OnlyRegs (Reg.PINSHORT_SHORT (p.val / 32) :: sum) s t) ∧
  (∀ (p : Fin 177) (b : Bool) (i : BitVec 32) (s : State), s.pinHiz p = false ∨ b = true ∨
    i.toNat < 1024 * Nat.max 1 (s.get Reg.PINCFG_RETRY) → exec (.pinShortRetry p ⟨b, i⟩) s = .next { s with free := s.free + 1 }) ∧
  (∀ s : State, s.bit Reg.FUMSTAT_FAULTN = true → ∃ t, exec .faultnStuck s = .next t ∧ OnlyRegs [Reg.PINSTAT_FAULTN_STUCK] s t ∧
    t.bit Reg.PINSTAT_FAULTN_STUCK = true) ∧
  (∀ s : State, s.bit Reg.FUMSTAT_FAULTN = false → exec .faultnStuck s = .next { s with free := s.free + 1 }) ∧
  (∀ (p : Fin 172) (b : Bool) (s : State), s.pinProbed p = true → ∃ t, exec (.pinProbe p b) s = .next t ∧
    t.pins = { s.pins with probe := t.pins.probe } ∧ (∀ q, t.pins.probe.look 0 q = if q = p.val then
      (if b then Nat.min 8 (s.pins.probe.look 0 p + 1) else 0) else s.pins.probe.look 0 q) ∧
    isOpen t p = (b && (isOpen s p || decide (7 ≤ s.pins.probe.look 0 p))) ∧ (∀ q : Fin 172, q ≠ p → isOpen t q = isOpen s q) ∧
    OnlyRegs (Reg.PINOPEN_OPEN (p.val / 32) :: sum) { s with pins := t.pins } t) ∧
  (∀ (p : Fin 172) (b : Bool) (s : State), s.pinProbed p = false → exec (.pinProbe p b) s = .next { s with free := s.free + 1 }) ∧
  (∀ (n : Fin 4) (s : State), s.bit (Reg.NETCFG_EN n) = true → ∃ t, exec (.netRxPolarityInvert n) s = .next t ∧
    OnlyRegs [Reg.PINDIFF_NET_INV] s t ∧ ∀ i, i < 4 →
      (t.get Reg.PINDIFF_NET_INV).testBit i = ((s.get Reg.PINDIFF_NET_INV).testBit i != (i == n.val))) ∧
  (∀ (n : Fin 4) (s : State), s.bit (Reg.NETCFG_EN n) = false →
    exec (.netRxPolarityInvert n) s = .next { s with free := s.free + 1 }) ∧
  (∀ (r : Fin 3) (s : State),
    let f := if r = 0 then Reg.PINDIFF_HREF_LEG else if r = 1 then Reg.PINDIFF_SDREF_LEG else Reg.PINDIFF_PCIE_REFCLK_LEG
    ∃ t, exec (.refLegMissing r) s = .next t ∧ OnlyRegs [f] s t ∧ t.bit f = true) ∧
  (∀ (v : BitVec 16) (s : State), ∃ t u, exec (.gpioWrite true v) s = .next t ∧ t.get Reg.GPIOOUT_OUT = (v.extractLsb' 0 8).toNat ∧
    OnlyRegs [Reg.GPIOOUT_OUT] s t ∧ exec (.gpioWrite false v) s = .next u ∧
    u.get Reg.GPIOCFG_DIR = (v.extractLsb' 0 8).toNat ∧ u.get Reg.GPIOCFG_OD = (v.extractLsb' 8 8).toNat ∧
    OnlyRegs [Reg.GPIOCFG_DIR, Reg.GPIOCFG_OD] s u ∧
    ∀ g, g < 8 → (t.regView 0x80020168).testBit g = t.gpioLevel g ∧ (s.gpioDrives g = true → s.pairMode = false →
      (s.get Reg.GPIOCFG_OD).testBit g = false → t.gpioLevel g = v.getLsbD g)) ∧
  (∀ (ms : BitVec 10) (s : State),
    let w := Nat.min 500 (Nat.max 1 (s.get Reg.OUTCFG_WIDTH))
    exec (.ppsOutPulse ⟨true, ms⟩) s = .next { s with free := s.free + 1, pins := { s.pins with pps := s.bit Reg.OUTCFG_PPS_EN } } ∧
    exec (.ppsOutPulse ⟨false, ms⟩) s = .next { s with
      free := s.free + 1
      pins := { s.pins with pps := s.pins.pps && decide (ms.toNat < w) } }) ∧
  (∀ p : Fin 160, ballUse (portPinBall p).1 (portPinBall p).2 = if p.val % 10 = 0 then .bclk (p / 10) else
    if p.val % 10 = 1 then .ws (p / 10) else .dout (p / 10) (p % 10 - 2))

/-- R14, R15, R438, R506: a write to a word of the Caldera, Vent or Fumarole blocks whose registers have no command of their own acts on
each of its fields by its type and on nothing else; one where no register lies changes nothing; while the safety lock is closed a write
to VNTCFG, FUMCFG or FUMCFG2, whose fields are RWL, is reported with E206 and changes none of them.  Writes that are commands of their own have the effect of their rows. -/
def Obligations.RegisterWrites : Prop :=
  let plain (a : Nat) : Prop := (blockOf a = 6 ∧ a % 65536 ≠ 0x20) ∨ (blockOf a = 9 ∧ a % 65536 ≠ 4) ∨
    (blockOf a = 13 ∧ a % 65536 ∉ [0, 8, 0xC, 0x2C, 0x40])
  (∀ (m : Fin 8) (a : BitVec 40) (v : BitVec 32) (r : WordRow) (s : State), plain a.toNat → rowAt a.toNat = some r →
    (s.locked = false ∨ ∀ f ∈ r.flds, f.ty ≠ .rwl) → ∃ t, exec (.registerWrite m a v) s = .next t ∧
      (∀ f ∈ r.flds,
        let g := fldAt a.toNat f
        let x := v.toNat / 2 ^ f.lo % 2 ^ f.w
        (f.ty = .rw ∨ f.ty = .rwl → t.get g = x) ∧ (f.ty = .rwp → t.lastWritten g = x) ∧
        (f.ty = .w1c → s.get g < 2 ^ f.w → t.get g = s.get g ^^^ (s.get g &&& x)) ∧
        (f.ty = .ro ∨ f.ty = .wo ∨ f.ty = .rwp → t.get g = s.get g)) ∧
      t = { s with free := s.free + 1, regs := t.regs, staged := t.staged } ∧
      ∀ k, (∀ f ∈ r.flds, k ≠ (fldAt a.toNat f).key) → t.regs.look 0 k = s.regs.look 0 k ∧ t.staged.look none k = s.staged.look none k) ∧
  (∀ (m : Fin 8) (a : BitVec 40) (v : BitVec 32) (s : State), plain a.toNat → rowAt a.toNat = none →
    exec (.registerWrite m a v) s = .next { s with free := s.free + 1 }) ∧
  (∀ (m : Fin 8) (a : BitVec 40) (v : BitVec 32) (s : State), s.locked = true → s.evt.inReset = false →
    s.evt.once.contains 206 = false →
    a = 0x80090000 ∨ a = 0x800D0004 ∨ (a = 0x800D0000 ∧ s.fumWantsFallback = s.bit Reg.FUMSTAT_FALLBACK) →
    ∃ t, exec (.registerWrite m a v) s = .next t ∧ t.bit Reg.FUMSTAT_LOCK_WR = true ∧
      t.get Reg.FUMLWADDR_LO_ADDR = a.toNat ∧ t.get Reg.FUMLWADDR_HI_ADDR_HI = 0 ∧ t.evtStat 206 = true ∧
      Only [.fum] [206] ([Reg.FUMSTAT_LOCK_WR, Reg.FUMLWADDR_LO_ADDR, Reg.FUMLWADDR_HI_ADDR_HI] ++ recFlds) s t) ∧
  (∀ (m : Fin 8) (v : BitVec 32) (s : State),
    exec (.registerWrite m 0x80020050 v) s = exec .tempmaxWrite s ∧
    exec (.registerWrite m 0x80030000 v) s = exec (.remapWrite m (v.getLsbD 0)) s ∧
    exec (.registerWrite m 0x80030070 v) s = exec .fabcntClear s ∧
    exec (.registerWrite m 0x80040044 v) s = exec (.evtswset (v.extractLsb' 0 16)) s ∧
    exec (.registerWrite m 0x80020164 v) s = exec (.gpioWrite true (v.extractLsb' 0 16)) s ∧
    (v.getLsbD 31 = true → v.extractLsb' 0 2 = 2#2 → exec (.registerWrite m 0x80020000 v) s = exec .pwrReqHold s) ∧
    (∀ w : Fin 8, exec (.registerWrite m (0x80040000 + 4 * BitVec.ofNat 40 w) v) s = exec (.evtstatClear w v) s ∧
      exec (.registerWrite m (0x80040020 + 4 * BitVec.ofNat 40 w) v) s = exec (.evtenWrite w v) s))
end

