-- ==== Sys2Proof/Laws/Assoc.lean ====
section
/-! SUPPORT. The laws of sparse maps: a read after a write, reads elsewhere, and the canonical form. -/

namespace Sys2Proof

theorem Assoc.look_above {α : Type} (d : α) (k j : Nat) (m : Assoc α) :
    (Assoc.above k m).look d j = if k < j then m.look d j else d := by
  induction m with
  | nil => simp [Assoc.above, Assoc.look]
  | cons e m ih =>
    obtain ⟨k', v⟩ := e
    simp only [Assoc.above]
    split
    · rw [ih]; split
      · simp only [Assoc.look]; rw [if_neg (by omega), if_neg (by omega)]
      · rfl
    · simp only [Assoc.look]
      split
      · rw [if_pos (by omega)]
      · split
        · split <;> rfl
        · rw [if_pos (by omega)]

theorem Assoc.look_upd {α : Type} [DecidableEq α] (d : α) (m : Assoc α) (k j : Nat) (v : α) :
    (m.upd d k v).look d j = if j = k then v else m.look d j := by
  induction m with
  | nil =>
    simp only [Assoc.upd]
    by_cases hv : v = d
    · simp [hv, Assoc.look]
    · simp [hv, Assoc.look]
  | cons e m ih =>
    obtain ⟨k', v'⟩ := e
    simp only [Assoc.upd]
    by_cases h1 : k < k'
    · rw [if_pos h1]
      by_cases hv : v = d
      · rw [if_pos hv]
        by_cases hj : j = k
        · simp only [Assoc.look, hj]; rw [if_neg (by omega), if_pos h1]; simp [hv]
        · simp [hj]
      · rw [if_neg hv]; simp only [Assoc.look]
        by_cases hj : j = k
        · simp [hj]
        · simp only [hj, if_false]
          by_cases h2 : j < k
          · rw [if_pos h2, if_neg (by omega), if_pos (by omega)]
          · rw [if_neg h2]
    · rw [if_neg h1]
      by_cases h2 : k = k'
      · subst h2
        rw [if_pos rfl]
        by_cases hv : v = d
        · rw [if_pos hv, Assoc.look_above]; simp only [Assoc.look]
          by_cases hj : j = k
          · simp [hj, hv]
          · simp only [hj, if_false]
            by_cases h3 : j < k
            · rw [if_neg (by omega), if_pos h3]
            · rw [if_pos (by omega), if_neg h3]
        · rw [if_neg hv]; simp only [Assoc.look, Assoc.look_above]
          by_cases hj : j = k
          · simp [hj]
          · simp only [hj, if_false]
            by_cases h3 : j < k
            · simp [h3]
            · rw [if_neg h3, if_neg h3, if_pos (by omega)]
      · rw [if_neg h2]; simp only [Assoc.look]
        by_cases hj : j = k'
        · subst hj; simp [Ne.symm h2]
        · simp only [hj, if_false]
          by_cases h3 : j < k'
          · simp only [h3, if_true]; rw [if_neg (by omega)]
          · simp only [h3, if_false]; exact ih

@[simp] theorem Assoc.look_upd_same {α : Type} [DecidableEq α] (d : α) (m : Assoc α) (k : Nat) (v : α) :
    (m.upd d k v).look d k = v := by simp [Assoc.look_upd]

theorem Assoc.look_upd_ne {α : Type} [DecidableEq α] (d : α) (m : Assoc α) {k j : Nat} (v : α) (h : j ≠ k) :
    (m.upd d k v).look d j = m.look d j := by simp [Assoc.look_upd, h]

theorem Assoc.wfFrom_mono {α : Type} [DecidableEq α] {d : α} {m : Assoc α} {lo lo' : Nat} (h : lo' ≤ lo)
    (w : m.wfFrom d lo = true) : m.wfFrom d lo' = true := by
  cases m with
  | nil => rfl
  | cons e m =>
    simp only [Assoc.wfFrom, Bool.and_eq_true, decide_eq_true_eq] at w ⊢
    exact ⟨⟨by omega, w.1.2⟩, w.2⟩

theorem Assoc.above_wf {α : Type} [DecidableEq α] {d : α} {m : Assoc α} {lo k : Nat}
    (w : m.wfFrom d lo = true) : (Assoc.above k m).wfFrom d (k + 1) = true := by
  induction m generalizing lo with
  | nil => rfl
  | cons e m ih =>
    simp only [Assoc.wfFrom, Bool.and_eq_true, decide_eq_true_eq] at w
    simp only [Assoc.above]
    split
    · exact ih w.2
    · simp only [Assoc.wfFrom, Bool.and_eq_true, decide_eq_true_eq]
      exact ⟨⟨by omega, w.1.2⟩, w.2⟩

theorem Assoc.upd_wfFrom {α : Type} [DecidableEq α] {d : α} {m : Assoc α} {lo k : Nat} {v : α}
    (hk : lo ≤ k) (w : m.wfFrom d lo = true) : (m.upd d k v).wfFrom d lo = true := by
  induction m generalizing lo with
  | nil => simp only [Assoc.upd]; split <;> simp_all [Assoc.wfFrom]
  | cons e m ih =>
    have w' := w
    simp only [Assoc.wfFrom, Bool.and_eq_true, decide_eq_true_eq] at w
    simp only [Assoc.upd]
    split
    · split
      · exact w'
      · rename_i hv
        simp only [Assoc.wfFrom, Bool.and_eq_true, decide_eq_true_eq]
        exact ⟨⟨hk, hv⟩, ⟨by omega, w.1.2⟩, w.2⟩
    · split
      · split
        · exact Assoc.wfFrom_mono (by omega) (Assoc.above_wf w.2)
        · rename_i hv
          simp only [Assoc.wfFrom, Bool.and_eq_true, decide_eq_true_eq]
          exact ⟨⟨hk, hv⟩, Assoc.above_wf w.2⟩
      · simp only [Assoc.wfFrom, Bool.and_eq_true, decide_eq_true_eq]
        exact ⟨w.1, ih (by omega) w.2⟩

/-- A write keeps the canonical form. -/
theorem Assoc.upd_wf {α : Type} [DecidableEq α] {d : α} {m : Assoc α} (k : Nat) (v : α)
    (w : m.wf d = true) : (m.upd d k v).wf d = true := Assoc.upd_wfFrom (Nat.zero_le k) w

theorem Assoc.filter_wfFrom {α : Type} [DecidableEq α] {d : α} {m : Assoc α} {lo : Nat} (p : Nat × α → Bool)
    (w : m.wfFrom d lo = true) : Assoc.wfFrom d lo (m.filter p) = true := by
  induction m generalizing lo with
  | nil => rfl
  | cons e m ih =>
    simp only [Assoc.wfFrom, Bool.and_eq_true, decide_eq_true_eq] at w
    rw [List.filter_cons]
    split
    · simp only [Assoc.wfFrom, Bool.and_eq_true, decide_eq_true_eq]
      exact ⟨w.1, ih w.2⟩
    · exact Assoc.wfFrom_mono (by omega) (ih w.2)

/-- Leaving entries out keeps the canonical form. -/
theorem Assoc.filter_wf {α : Type} [DecidableEq α] {d : α} {m : Assoc α} (p : Nat × α → Bool)
    (w : m.wf d = true) : Assoc.wf d (m.filter p) = true := Assoc.filter_wfFrom p w

theorem Assoc.mem_above {α : Type} {k : Nat} {m : Assoc α} {e : Nat × α} (h : e ∈ Assoc.above k m) : e ∈ m := by
  induction m with
  | nil => exact h
  | cons x m ih =>
    simp only [Assoc.above] at h
    split at h
    · exact List.mem_cons_of_mem _ (ih h)
    · exact h

/-- What a map lists after a write: the new entry, or what it listed. -/
theorem Assoc.mem_upd {α : Type} [DecidableEq α] {d : α} {m : Assoc α} {k : Nat} {v : α} {e : Nat × α}
    (h : e ∈ m.upd d k v) : e = (k, v) ∨ e ∈ m := by
  induction m with
  | nil =>
    simp only [Assoc.upd] at h
    split at h <;> simp_all
  | cons x m ih =>
    simp only [Assoc.upd] at h
    split at h
    · split at h <;> simp_all
    · split at h
      · split at h
        · exact .inr (List.mem_cons_of_mem _ (Assoc.mem_above h))
        · rcases List.mem_cons.1 h with h | h
          · exact .inl h
          · exact .inr (List.mem_cons_of_mem _ (Assoc.mem_above h))
      · rcases List.mem_cons.1 h with h | h
        · exact .inr (h ▸ List.mem_cons_self ..)
        · rcases ih h with h | h
          · exact .inl h
          · exact .inr (List.mem_cons_of_mem _ h)

/-- What a map reads as is the default or listed. -/
theorem Assoc.look_mem {α : Type} (d : α) (m : Assoc α) (k : Nat) : m.look d k = d ∨ (k, m.look d k) ∈ m := by
  induction m with
  | nil => exact .inl rfl
  | cons x m ih =>
    simp only [Assoc.look]
    split
    · rename_i h; exact .inr (by rw [h]; exact List.mem_cons_self ..)
    · split
      · exact .inl rfl
      · rcases ih with h | h
        · exact .inl h
        · exact .inr (List.mem_cons_of_mem _ h)

end Sys2Proof
end

