-- ==== Sys2Proof/Laws/Held.lean ====
section
/-! SUPPORT. The invariant and the waiting queue through the primitive operations every meaning is made of. -/

namespace Sys2Proof.Machine

open Sys2Proof

/-- A frame count of 0, as a chip reset leaves it (R22), satisfies `fr`. -/
class CountsZero (fr : Nat → Prop) : Prop where
  zero : fr 0

variable {q : List Instr} {fr : Nat → Prop} {s : State}

/-- A state that differs from one with the invariant only where the invariant does not look. -/
theorem State.Held.same {A : State} (h : A.Held q fr) {free : Nat} {staged : Assoc (Option Nat)} {mem : Mem} {eng : Eng}
    {stw : Steward} {evt : Evt} {cal : Cal} {gys : Gys} {fum : Fum} {vent : Vent} {lnk : Lnk} {cnv : Cnv} {mtr : Mtr}
    {ports : Ports} {clk : Clk} {refs : Refs} {net : Net} {fab : Fab} {pwr : Pwr} {boot : Boot} {pcie : Pcie} {mgmt : Mgmt}
    {tap : Tap} {fuses : Fuses} {pins : Pins} (h1 : mem.sram = A.mem.sram) (h2 : mem.dram = A.mem.dram)
    (h3 : stw.core = A.stw.core) (h4 : refs.a = A.refs.a) (h5 : refs.b = A.refs.b) (h6 : fum.ang = A.fum.ang)
    (h7 : vent.ang = A.vent.ang) :
    State.Held q fr ⟨A.pending, free, A.frame, A.regs, staged, mem, eng, A.cells, stw, evt, cal, gys, fum, vent, lnk, cnv, mtr,
      ports, clk, refs, net, fab, pwr, boot, pcie, mgmt, tap, fuses, pins⟩ := by
  obtain ⟨hq, hn, hr, hs, hd, hc, ht, ha, hb, hf, hv⟩ := h
  exact ⟨hq, hn, hr, h1 ▸ hs, h2 ▸ hd, hc, h3 ▸ ht, h4 ▸ ha, h5 ▸ hb, h6 ▸ hf, h7 ▸ hv⟩

/-- The same as a rewrite. -/
theorem State.held_same {A : State} {free : Nat} {staged : Assoc (Option Nat)} {mem : Mem} {eng : Eng}
    {stw : Steward} {evt : Evt} {cal : Cal} {gys : Gys} {fum : Fum} {vent : Vent} {lnk : Lnk} {cnv : Cnv} {mtr : Mtr}
    {ports : Ports} {clk : Clk} {refs : Refs} {net : Net} {fab : Fab} {pwr : Pwr} {boot : Boot} {pcie : Pcie} {mgmt : Mgmt}
    {tap : Tap} {fuses : Fuses} {pins : Pins} (h1 : mem.sram = A.mem.sram) (h2 : mem.dram = A.mem.dram)
    (h3 : stw.core = A.stw.core) (h4 : refs.a = A.refs.a) (h5 : refs.b = A.refs.b) (h6 : fum.ang = A.fum.ang)
    (h7 : vent.ang = A.vent.ang) :
    State.Held q fr ⟨A.pending, free, A.frame, A.regs, staged, mem, eng, A.cells, stw, evt, cal, gys, fum, vent, lnk, cnv, mtr,
      ports, clk, refs, net, fab, pwr, boot, pcie, mgmt, tap, fuses, pins⟩ ↔ State.Held q fr A :=
  ⟨fun h => State.Held.same (A := ⟨A.pending, free, A.frame, A.regs, staged, mem, eng, A.cells, stw, evt, cal, gys, fum, vent,
      lnk, cnv, mtr, ports, clk, refs, net, fab, pwr, boot, pcie, mgmt, tap, fuses, pins⟩) h h1.symm h2.symm h3.symm h4.symm
      h5.symm h6.symm h7.symm,
    fun h => State.Held.same h h1 h2 h3 h4 h5 h6 h7⟩

theorem State.Held.ite {c : Prop} [Decidable c] {x y : State} (h1 : c → x.Held q fr) (h2 : ¬c → y.Held q fr) :
    (if c then x else y).Held q fr := by split <;> simp_all

theorem State.Held.foldl {α : Type} {f : State → α → State} (h : s.Held q fr) (l : List α)
    (hf : ∀ s x, s.Held q fr → (f s x).Held q fr) : (l.foldl f s).Held q fr := by
  induction l generalizing s with
  | nil => exact h
  | cons x l ih => exact ih (hf _ _ h)

/-- The registers are rewritten in canonical form. -/
theorem State.Held.regs {r : Assoc Nat} (h : s.Held q fr) (w : r.wf 0 = true) : ({ s with regs := r } : State).Held q fr := by
  obtain ⟨hq, hn, hr, hs, hd, hc, ht, ha, hb, hf, hv⟩ := h
  exact ⟨hq, hn, w, hs, hd, hc, ht, ha, hb, hf, hv⟩

theorem State.put_held (h : s.Held q fr) (f : Fld) (v : Nat) : (s.put f v).Held q fr :=
  h.regs (Assoc.upd_wf _ _ h.2.2.regs)

theorem State.setCell_held (h : s.Held q fr) (e : Nat) (c : Cell) (hc : c.core.shallow) : (s.setCell e c).Held q fr := by
  obtain ⟨hq, hn, hr, hs, hd, hl, ht, ha, hb, hf, hv⟩ := h
  refine ⟨hq, hn, hr, hs, hd, fun x hx => ?_, ht, ha, hb, hf, hv⟩
  rcases Assoc.mem_upd hx with rfl | hx
  · exact hc
  · exact hl x hx

theorem Core.reset_shallow : Core.reset.shallow := by simp [Core.shallow]

theorem State.Held.cell (h : s.Held q fr) (e : Nat) : (s.cell e).core.shallow := by
  rcases Assoc.look_mem Cell.reset s.cells e with hx | hx
  · rw [State.cell, hx]; exact Core.reset_shallow
  · exact h.2.2.cells _ hx

theorem State.Held.core (h : s.Held q fr) (u : Exe) : (s.core u).shallow := by
  unfold State.core
  split
  · exact h.2.2.stw
  · split
    · exact h.cell _
    · exact Core.reset_shallow

theorem State.Held.stw (h : s.Held q fr) : s.stw.core.shallow := h.2.2.stw

theorem State.setCore_held (h : s.Held q fr) (u : Exe) (c : Core) (hc : c.shallow) : (s.setCore u c).Held q fr := by
  unfold State.setCore
  split
  · obtain ⟨hq, hn, hr, hs, hd, hl, ht, ha, hb, hf, hv⟩ := h
    exact ⟨hq, hn, hr, hs, hd, hl, hc, ha, hb, hf, hv⟩
  · split
    · exact State.setCell_held h _ _ hc
    · exact h

/-- A core with the stack and loops of a shallow one is shallow. -/
theorem Core.shallow.same {A : Core} (h : A.shallow) {g : Assoc (Option Sinter)} {a am : Assoc Acc}
    {c : Assoc (Option (BitVec 16))} {entry : Nat} {st stRead : BitVec 32} {pc npc : Nat} {lbuf : Option Loop}
    {fly : List InFlight} {count : Nat} {live : Bool} {bundle : BitVec 64} {amo : Option (Nat × Nat × Nat)} :
    (Core.mk g a am c entry st stRead pc npc A.loops lbuf A.stack fly count live bundle amo).shallow := h

theorem Core.shallow_same {A : Core} {g : Assoc (Option Sinter)} {a am : Assoc Acc}
    {c : Assoc (Option (BitVec 16))} {entry : Nat} {st stRead : BitVec 32} {pc npc : Nat} {lbuf : Option Loop}
    {fly : List InFlight} {count : Nat} {live : Bool} {bundle : BitVec 64} {amo : Option (Nat × Nat × Nat)} :
    (Core.mk g a am c entry st stRead pc npc A.loops lbuf A.stack fly count live bundle amo).shallow ↔ A.shallow := Iff.rfl

theorem Core.shallow.ite {c : Prop} [Decidable c] {x y : Core} (h1 : c → x.shallow) (h2 : ¬c → y.shallow) :
    (if c then x else y).shallow := by split <;> simp_all

theorem Core.shallow.foldl {α : Type} {f : Core → α → Core} {c : Core} (h : c.shallow) (l : List α)
    (hf : ∀ c x, c.shallow → (f c x).shallow) : (l.foldl f c).shallow := by
  induction l generalizing c with
  | nil => exact h
  | cons x l ih => exact ih (hf _ _ h)

/-- An outcome whose next state holds the invariant and the queue. -/
def OutHeld (q : List Instr) (fr : Nat → Prop) (o : Host.Outcome State Fault Refusal) : Prop := ∀ t, o = .next t → t.Held q fr

theorem done_held (h : s.Held q fr) : OutHeld q fr (done s) := by
  intro t ht
  simp only [done, Host.Outcome.next.injEq] at ht
  subst ht
  exact h.same rfl rfl rfl rfl rfl rfl rfl

end Sys2Proof.Machine
end

