-- ==== Sys2Proof/Laws/Held1.lean ====
section
/-! SUPPORT. The invariant, the waiting queue and the frame count through the shared operations of
Ops, Operands, Guard, Locks, Cell, Alu, Mac, Memory, Clocks, Events, Flow and Spare:
a meaning that calls one of them cites its lemma. -/

namespace Sys2Proof.Machine

open Sys2Proof

variable {q : List Instr} {fr : Nat → Prop}

theorem State.msixRise_held {s : State} {n : Nat} (hs : s.Held q fr) :
    State.Held q fr (State.msixRise s n) := by
  unfold State.msixRise
  repeat' first
    | with_reducible first
        | assumption
    | simp only [State.held_same] | intro _ | split

theorem State.setStat_held {s : State} {n : Nat} (hs : s.Held q fr) :
    State.Held q fr (State.setStat s n) := by
  unfold State.setStat
  repeat' first
    | with_reducible first
        | assumption | apply State.put_held

theorem State.raise_held {s : State} {n : Nat} (hs : s.Held q fr) :
    State.Held q fr (State.raise s n) := by
  unfold State.raise
  repeat' first
    | with_reducible first
        | assumption | apply State.msixRise_held | apply State.setStat_held
    | simp only [State.held_same] | intro _ | split

theorem State.raiseOnce_held {s : State} {n : Nat} {key : Nat} (hs : s.Held q fr) :
    State.Held q fr (State.raiseOnce s n key) := by
  unfold State.raiseOnce
  repeat' first
    | with_reducible first
        | assumption | apply State.raise_held
    | simp only [State.held_same] | intro _ | split

theorem State.putBit_held {s : State} {f : Fld} {b : Bool} (hs : s.Held q fr) :
    State.Held q fr (State.putBit s f b) := by
  unfold State.putBit
  repeat' first
    | with_reducible first
        | assumption | apply State.put_held

theorem State.bump_held {s : State} {f : Fld} (hs : s.Held q fr) :
    State.Held q fr (State.bump s f) := by
  unfold State.bump
  repeat' first
    | with_reducible first
        | assumption | apply State.put_held

theorem State.stage_held {s : State} {f : Fld} {v : Nat} (hs : s.Held q fr) :
    State.Held q fr (State.stage s f v) := by
  unfold State.stage
  repeat' first
    | with_reducible first
        | assumption
    | simp only [State.held_same]

theorem State.bumpBy_held {s : State} {f : Fld} {n : Nat} (hs : s.Held q fr) :
    State.Held q fr (State.bumpBy s f n) := by
  unfold State.bumpBy
  repeat' first
    | with_reducible first
        | assumption | apply State.put_held

theorem Core.stBit_shallow {c : Core} {b : Nat} (hc : c.shallow) :
    Core.shallow (Core.stBit c b) := by
  unfold Core.stBit
  repeat' first
    | with_reducible first
        | assumption
    | simp only [Core.shallow_same]

theorem Core.notePoison_shallow {c : Core} {x : Sinter} (hc : c.shallow) :
    Core.shallow (Core.notePoison c x) := by
  unfold Core.notePoison
  repeat' first
    | with_reducible first
        | assumption | apply Core.stBit_shallow
    | split

theorem Core.send_shallow {c : Core} {lat : Nat} {d : Dst} {v : Val} (hc : c.shallow) :
    Core.shallow (Core.send c lat d v) := by
  unfold Core.send
  repeat' first
    | with_reducible first
        | assumption
    | simp only [Core.shallow_same]

theorem Core.sendG_shallow {c : Core} {lat : Nat} {r : Nat} {x : Sinter} (hc : c.shallow) :
    Core.shallow (Core.sendG c lat r x) := by
  unfold Core.sendG
  repeat' first
    | with_reducible first
        | assumption | apply Core.notePoison_shallow | apply Core.send_shallow
    | split

theorem Core.post_shallow {c : Core} {n : Nat} {m : Modifier} (hc : c.shallow) :
    Core.shallow (Core.post c n m) := by
  unfold Core.post
  repeat' first
    | with_reducible first
        | assumption | apply Core.send_shallow

theorem Core.sendA_shallow {c : Core} {n : Nat} {x : Acc} (hc : c.shallow) :
    Core.shallow (Core.sendA c n x) := by
  unfold Core.sendA
  repeat' first
    | with_reducible first
        | assumption | apply Core.send_shallow

theorem Core.land1_shallow {c : Core} {e : InFlight} (hc : c.shallow) :
    Core.shallow (Core.land1 c e) := by
  unfold Core.land1
  repeat' first
    | with_reducible first
        | assumption
    | simp only [Core.shallow_same] | split

theorem Core.land_shallow {c : Core} {n : Nat} (hc : c.shallow) :
    Core.shallow (Core.land c n) := by
  unfold Core.land
  repeat' first
    | with_reducible first
        | assumption | apply Core.land1_shallow | apply Core.shallow.foldl
    | simp only [Core.shallow_same]

theorem State.faultN_held {s : State} (hs : s.Held q fr) :
    State.Held q fr (State.faultN s) := by
  unfold State.faultN
  repeat' first
    | with_reducible first
        | assumption | apply State.putBit_held

theorem State.fumEntry_held {s : State} {n : Nat} {cls : Nat} {detail : Nat} (hs : s.Held q fr) :
    State.Held q fr (State.fumEntry s n cls detail) := by
  unfold State.fumEntry
  repeat' first
    | with_reducible first
        | assumption | apply State.bump_held | apply State.putBit_held | apply State.put_held
    | simp only [State.held_same] | intro _ | split

theorem State.fumRecord_held {s : State} {n : Nat} {cls : Nat} {detail : Nat} (hs : s.Held q fr) :
    State.Held q fr (State.fumRecord s n cls detail) := by
  unfold State.fumRecord
  repeat' first
    | with_reducible first
        | assumption | apply State.faultN_held | apply State.fumEntry_held | apply State.putBit_held
    | intro _ | split

theorem State.fumEvent_held {s : State} {n : Nat} {detail : Nat} (hs : s.Held q fr) :
    State.Held q fr (State.fumEvent s n detail) := by
  unfold State.fumEvent
  repeat' first
    | with_reducible first
        | assumption | apply State.fumRecord_held | apply State.raise_held

theorem State.pairDrop_held {s : State} (hs : s.Held q fr) :
    State.Held q fr (State.pairDrop s) := by
  unfold State.pairDrop
  repeat' first
    | with_reducible first
        | assumption | apply State.putBit_held
    | intro _ | split

theorem State.vntCause_held {s : State} {f : Fld} (hs : s.Held q fr) :
    State.Held q fr (State.vntCause s f) := by
  unfold State.vntCause
  repeat' first
    | with_reducible first
        | assumption | apply State.putBit_held | apply State.raise_held
    | simp only [State.held_same] | intro _ | split

theorem State.vntClear_held {s : State} {f : Fld} (hs : s.Held q fr) : (State.vntClear s f).Held q fr := by
  unfold State.vntClear
  dsimp only
  split
  · refine State.putBit_held ?_
    obtain ⟨hq, hn, hr, hs, hd, hl, ht, ha, hb, hf, hv⟩ := State.putBit_held (f := f) (b := false) hs
    exact ⟨hq, hn, hr, hs, hd, hl, ht, ha, hb, hf, Nat.le_refl _⟩
  · exact State.putBit_held hs

theorem State.fumFallback_held {s : State} (hs : s.Held q fr) :
    State.Held q fr (State.fumFallback s) := by
  unfold State.fumFallback
  repeat' first
    | with_reducible first
        | assumption | apply State.fumEvent_held | apply State.putBit_held | apply State.vntCause_held
        | apply State.vntClear_held
    | intro _ | split

theorem State.fumCause_held {s : State} {c : Nat} (hs : s.Held q fr) :
    State.Held q fr (State.fumCause s c) := by
  unfold State.fumCause
  repeat' first
    | with_reducible first
        | assumption | apply State.faultN_held | apply State.fumEvent_held | apply State.fumFallback_held
        | apply State.pairDrop_held | apply State.putBit_held | apply State.put_held
    | simp only [State.held_same] | intro _ | split

theorem State.fumAct_held {s : State} {act : Fld} {c : Nat} {evt : Nat} (hs : s.Held q fr) :
    State.Held q fr (State.fumAct s act c evt) := by
  unfold State.fumAct
  repeat' first
    | with_reducible first
        | assumption | apply State.faultN_held | apply State.fumCause_held | apply State.fumEntry_held
        | apply State.putBit_held
    | simp only [State.held_same] | intro _ | split

theorem State.fumEventOnce_held {s : State} {n : Nat} {detail : Nat} (hs : s.Held q fr) :
    State.Held q fr (State.fumEventOnce s n detail) := by
  unfold State.fumEventOnce
  repeat' first
    | with_reducible first
        | assumption | apply State.fumRecord_held | apply State.raiseOnce_held
    | intro _ | split

theorem State.fumLockWrite_held {s : State} {a : Nat} (hs : s.Held q fr) :
    State.Held q fr (State.fumLockWrite s a) := by
  unfold State.fumLockWrite
  repeat' first
    | with_reducible first
        | assumption | apply State.fumEventOnce_held | apply State.putBit_held | apply State.put_held

theorem State.guardTake_held {s : State} {i : Nat} {f : Nat} {x : Sinter} (hs : s.Held q fr) :
    State.Held q fr (State.guardTake s i f x) := by
  unfold State.guardTake
  repeat' first
    | with_reducible first
        | assumption
    | simp only [State.held_same] | intro _ | split

theorem State.setOut_held {s : State} {a1 : Nat} {x : List (BitVec 32)} (hs : s.Held q fr) :
    State.Held q fr (State.setOut s a1 x) := by
  unfold State.setOut
  repeat' first
    | with_reducible first
        | assumption
    | simp only [State.held_same]

theorem State.lowChan_held {s : State} {a1 : Nat} (hs : s.Held q fr) :
    State.Held q fr (State.lowChan s a1) := by
  unfold State.lowChan
  repeat' first
    | with_reducible first
        | assumption | apply State.setOut_held

theorem State.portsLow_held {s : State} (hs : s.Held q fr) :
    State.Held q fr (State.portsLow s) := by
  unfold State.portsLow
  repeat' first
    | with_reducible first
        | assumption | apply State.lowChan_held | apply State.Held.foldl

theorem State.fumClear_held {s : State} {c : Nat} (hs : s.Held q fr) :
    State.Held q fr (State.fumClear s c) := by
  unfold State.fumClear
  repeat' first
    | with_reducible first
        | assumption | apply State.faultN_held | apply State.fumEvent_held | apply State.fumFallback_held
        | apply State.putBit_held | apply State.put_held
    | intro _ | split

theorem State.fumPassDone_held {s : State} {clean : Bool} (hs : s.Held q fr) :
    State.Held q fr (State.fumPassDone s clean) := by
  unfold State.fumPassDone
  repeat' first
    | with_reducible first
        | assumption | apply State.putBit_held
    | intro _ | split

theorem State.fumPrecaution_held {s : State} (hs : s.Held q fr) :
    State.Held q fr (State.fumPrecaution s) := by
  unfold State.fumPrecaution
  repeat' first
    | with_reducible first
        | assumption | apply State.fumEvent_held | apply State.putBit_held
    | simp only [State.held_same]

theorem State.lockFree_held {s : State} {m : Nat} (hs : s.Held q fr) :
    State.Held q fr (State.lockFree s m) := by
  unfold State.lockFree
  repeat' first
    | with_reducible first
        | assumption | apply State.putBit_held | apply State.put_held
    | intro _ | split

theorem State.lockBreak_held {s : State} {m : Nat} {cause : Nat} (hs : s.Held q fr) :
    State.Held q fr (State.lockBreak s m cause) := by
  unfold State.lockBreak
  repeat' first
    | with_reducible first
        | assumption | apply State.lockFree_held | apply State.putBit_held | apply State.put_held | apply State.raise_held
    | simp only [State.held_same] | split

theorem State.stewardHalt_held {s : State} (hs : s.Held q fr) : (State.stewardHalt s).Held q fr := by
  unfold State.stewardHalt
  refine State.fumAct_held (State.fumEvent_held (State.lockBreak_held ?_))
  obtain ⟨hq, hn, hr, hs, hd, hl, ht, ha, hb, hf, hv⟩ := hs
  exact ⟨hq, hn, hr, hs, hd, hl, ht, ha, hb, hf, hv⟩

theorem State.noteFault_held {s : State} {e : Nat} (hs : s.Held q fr) :
    State.Held q fr (State.noteFault s e) := by
  unfold State.noteFault
  repeat' first
    | with_reducible first
        | assumption | apply State.setCell_held | apply State.Held.cell
    | intro _ | split

theorem State.cellFault_held {s : State} {e : Nat} {cause : Nat} {addr : Nat} (hs : s.Held q fr) :
    State.Held q fr (State.cellFault s e cause addr) := by
  unfold State.cellFault
  repeat' first
    | with_reducible first
        | assumption | apply State.put_held

theorem State.cellStop_held {s : State} {e : Nat} {cause : Nat} {addr : Nat} {c : Core} (hs : s.Held q fr) (hc : c.shallow) :
    State.Held q fr (State.cellStop s e cause addr c) := by
  unfold State.cellStop
  repeat' first
    | with_reducible first
        | assumption | apply State.cellFault_held | apply State.noteFault_held | apply State.putBit_held
        | apply State.raise_held | apply State.setCell_held

theorem Core.abort_shallow {c : Core} (hc : c.shallow) :
    Core.shallow (Core.abort c) := by
  unfold Core.abort
  repeat' first
    | with_reducible first
        | assumption
    | simp only [Core.shallow_same]

theorem State.cellTrap_held {s : State} {e : Nat} {cause : Nat} {addr : Nat} (hs : s.Held q fr) :
    State.Held q fr (State.cellTrap s e cause addr) := by
  unfold State.cellTrap
  repeat' first
    | with_reducible first
        | assumption | apply Core.abort_shallow | apply State.cellStop_held | apply State.Held.cell

theorem State.stwException_held {s : State} {a b c : Nat} (hs : s.Held q fr) :
    (State.stwException s a b c).Held q fr := by
  unfold State.stwException
  split
  · exact State.stewardHalt_held hs
  · obtain ⟨hq, hn, hr, hs, hd, hl, ht, ha, hb, hf, hv⟩ := hs
    exact ⟨hq, hn, hr, hs, hd, hl, ht, ha, hb, hf, hv⟩

theorem State.trap_held {s : State} {u : Exe} {cause : Nat} (hs : s.Held q fr) :
    State.Held q fr (State.trap s u cause) := by
  unfold State.trap
  repeat' first
    | with_reducible first
        | assumption | apply Core.abort_shallow | apply State.cellTrap_held | apply State.setCore_held
        | apply State.stwException_held | apply State.Held.stw
    | split

theorem State.raiseCellOnce_held {s : State} {e : Nat} {n : Nat} (hs : s.Held q fr) :
    State.Held q fr (State.raiseCellOnce s e n) := by
  unfold State.raiseCellOnce
  repeat' first
    | with_reducible first
        | assumption | apply State.raise_held | apply State.setCell_held | apply State.Held.cell
    | intro _ | split

theorem State.softFault_held {s : State} {u : Exe} {cause : Nat} (hs : s.Held q fr) :
    State.Held q fr (State.softFault s u cause) := by
  unfold State.softFault
  repeat' first
    | with_reducible first
        | assumption | apply Core.stBit_shallow | apply State.cellFault_held | apply State.noteFault_held
        | apply State.raise_held | apply State.setCore_held | apply State.stwException_held | apply State.Held.core
    | split

theorem State.commit_held {s : State} {u : Exe} {c : Core} {a3 : Note} (hs : s.Held q fr) (hc : c.shallow) :
    State.Held q fr (State.commit s u c a3) := by
  unfold State.commit
  repeat' first
    | with_reducible first
        | assumption | apply State.setCore_held | apply State.softFault_held | apply State.trap_held
    | split

theorem State.compute_held {s : State} {u : Exe} {f : Core → Sinter → Core × Note} (hs : s.Held q fr) (hf : ∀ x0 x1, x0.shallow → Core.shallow (f x0 x1).1) :
    State.Held q fr (State.compute s u f) := by
  unfold State.compute
  repeat' first
    | with_reducible first
        | assumption | apply hf | apply State.commit_held | apply State.Held.core
    | intro _ | split

theorem Core.enter_shallow {c : Core} {t : Task} {gen : Nat} : (Core.enter c t gen).shallow := by
  simp [Core.enter, Core.shallow]

theorem Core.dupResult_shallow {c : Core} {gd : Nat} {lat : Nat} {x : BitVec 32} {f : Option (BitVec 32 → Flags)} {dup : Bool} {pz : Sinter} (hc : c.shallow) :
    Core.shallow (Core.dupResult c gd lat x f dup pz).1 := by
  unfold Core.dupResult
  repeat' first
    | with_reducible first
        | assumption | apply Core.sendG_shallow
    | simp only [Core.shallow_same] | split

theorem Core.result_shallow {c : Core} {gd : Nat} {x : Sinter} {f : Option Flags} {sat : Bool} (hc : c.shallow) :
    Core.shallow (Core.result c gd x f sat) := by
  unfold Core.result
  repeat' first
    | with_reducible first
        | assumption | apply Core.sendG_shallow | apply Core.stBit_shallow
    | simp only [Core.shallow_same] | split

theorem Core.poisoned_shallow {c : Core} {gd : Nat} {pz : Sinter} (hc : c.shallow) :
    Core.shallow (Core.poisoned c gd pz) := by
  unfold Core.poisoned
  repeat' first
    | with_reducible first
        | assumption | apply Core.result_shallow

theorem Core.shift_shallow {c : Core} {k : ShiftKind} {gd : Nat} {a : Sinter} {t : Nat} {dup : Bool} {pz : Sinter} (hc : c.shallow) :
    Core.shallow (Core.shift c k gd a t dup pz).1 := by
  unfold Core.shift
  repeat' first
    | with_reducible first
        | assumption | apply Core.dupResult_shallow | apply Core.result_shallow
    | split

theorem Core.shiftImm_shallow {c : Core} {k : ShiftKind} {gd : Nat} {ga : Nat} {t : Nat} {dup : Bool} {pz : Sinter} (hc : c.shallow) :
    Core.shallow (Core.shiftImm c k gd ga t dup pz).1 := by
  unfold Core.shiftImm
  repeat' first
    | with_reducible first
        | assumption | apply Core.poisoned_shallow | apply Core.shift_shallow
    | split

theorem Core.addSub_shallow {c : Core} {gd : Nat} {ga : Nat} {gb : Nat} {minus : Bool} {always : Bool} {pz : Sinter} (hc : c.shallow) :
    Core.shallow (Core.addSub c gd ga gb minus always pz).1 := by
  unfold Core.addSub
  repeat' first
    | with_reducible first
        | assumption | apply Core.poisoned_shallow | apply Core.result_shallow
    | simp only | split

theorem Core.clipTo_shallow {c : Core} {gd : Nat} {ga : Nat} {gb : Nat} {pz : Sinter} (hc : c.shallow) :
    Core.shallow (Core.clipTo c gd ga gb pz).1 := by
  unfold Core.clipTo
  repeat' first
    | with_reducible first
        | assumption | apply Core.poisoned_shallow | apply Core.result_shallow
    | simp only | split

theorem Core.bitwise_shallow {c : Core} {gd : Nat} {ga : Nat} {gb : Nat} {op : BitVec 32 → BitVec 32 → BitVec 32} {dup : Bool} {pz : Sinter} (hc : c.shallow) :
    Core.shallow (Core.bitwise c gd ga gb op dup pz).1 := by
  unfold Core.bitwise
  repeat' first
    | with_reducible first
        | assumption | apply Core.dupResult_shallow | apply Core.poisoned_shallow
    | split

theorem Core.shiftReg_shallow {c : Core} {k : ShiftKind} {gd : Nat} {ga : Nat} {gb : Nat} {dup : Bool} {pz : Sinter} (hc : c.shallow) :
    Core.shallow (Core.shiftReg c k gd ga gb dup pz).1 := by
  unfold Core.shiftReg
  repeat' first
    | with_reducible first
        | assumption | apply Core.poisoned_shallow | apply Core.shift_shallow
    | split

theorem Core.compare_shallow {c : Core} {ga : Nat} {gb : Nat} (hc : c.shallow) :
    Core.shallow (Core.compare c ga gb).1 := by
  unfold Core.compare
  repeat' first
    | with_reducible first
        | assumption
    | simp only [Core.shallow_same] | split

theorem Core.mfc_shallow {c : Core} {gd : Nat} {creg : BitVec 6} {prd : BitVec 32} {dup : Bool} {pz : Sinter} (hc : c.shallow) :
    Core.shallow (Core.mfc c gd creg prd dup pz).1 := by
  unfold Core.mfc
  repeat' first
    | with_reducible first
        | assumption | apply Core.dupResult_shallow
    | split

theorem Core.mtc_shallow {c : Core} {creg : BitVec 6} {gs : Nat} (hc : c.shallow) :
    Core.shallow (Core.mtc c creg gs).1 := by
  unfold Core.mtc
  repeat' first
    | with_reducible first
        | assumption | apply Core.send_shallow
    | simp only [Core.shallow_same] | split

theorem Core.absolute_shallow {c : Core} {gd : Nat} {ga : Nat} {pz : Sinter} (hc : c.shallow) :
    Core.shallow (Core.absolute c gd ga pz).1 := by
  unfold Core.absolute
  repeat' first
    | with_reducible first
        | assumption | apply Core.poisoned_shallow | apply Core.result_shallow
    | simp only | split

theorem Core.select_shallow {c : Core} {cond : SelCond} {gd : Nat} {ga : Nat} {gb : Nat} {pz : Sinter} (hc : c.shallow) :
    Core.shallow (Core.select c cond gd ga gb pz).1 := by
  unfold Core.select
  repeat' first
    | with_reducible first
        | assumption | apply Core.result_shallow
    | split

theorem Core.minMax_shallow {c : Core} {gd : Nat} {ga : Nat} {gb : Nat} {larger : Bool} {pz : Sinter} (hc : c.shallow) :
    Core.shallow (Core.minMax c gd ga gb larger pz).1 := by
  unfold Core.minMax
  repeat' first
    | with_reducible first
        | assumption | apply Core.result_shallow
    | simp only | split

theorem Core.accResult_shallow {c : Core} {n : Nat} {x : Acc} {ovf : Bool} (hc : c.shallow) :
    Core.shallow (Core.accResult c n x ovf) := by
  unfold Core.accResult
  repeat' first
    | with_reducible first
        | assumption | apply Core.sendA_shallow | apply Core.stBit_shallow
    | split

theorem Core.accAdd_shallow {c : Core} {ad : Nat} {a2 : Nat} {minus : Bool} (hc : c.shallow) :
    Core.shallow (Core.accAdd c ad a2 minus) := by
  unfold Core.accAdd
  repeat' first
    | with_reducible first
        | assumption | apply Core.accResult_shallow
    | simp only | split

theorem Core.staFlags_shallow {c : Core} {o : StaOut} (hc : c.shallow) :
    Core.shallow (Core.staFlags c o) := by
  unfold Core.staFlags
  repeat' first
    | with_reducible first
        | assumption | apply Core.stBit_shallow
    | split

theorem Core.lane_shallow {c : Core} {op : LaneOp} {n : Nat} {a : Sinter} {b : Sinter} (hc : c.shallow) :
    Core.shallow (Core.lane c op n a b) := by
  unfold Core.lane
  repeat' first
    | with_reducible first
        | assumption | apply Core.accResult_shallow
    | simp only | split

theorem Core.staG_shallow {c : Core} {gd : Nat} {n : Nat} {sh : BitVec 5} {pair : Bool} {pz : Sinter} (hc : c.shallow) :
    Core.shallow (Core.staG c gd n sh pair pz).1 := by
  unfold Core.staG
  repeat' first
    | with_reducible first
        | assumption | apply Core.sendG_shallow | apply Core.staFlags_shallow
    | split

theorem State.memFault_held {s : State} {cl : Nat} {target : Nat} {req : Nat} {kind : Nat} {word : Nat} {evt : Nat} (hs : s.Held q fr) :
    State.Held q fr (State.memFault s cl target req kind word evt) := by
  unfold State.memFault
  repeat' first
    | with_reducible first
        | assumption | apply State.put_held | apply State.raise_held

theorem State.setRam_held {s : State} {k : Nat} {x : Sinter} (hs : s.Held q fr) : (State.setRam s k x).Held q fr := by
  obtain ⟨hq, hn, hr, hs, hd, hl, ht, ha, hb, hf, hv⟩ := hs
  exact ⟨hq, hn, hr, Assoc.upd_wf _ _ hs, hd, hl, ht, ha, hb, hf, hv⟩

theorem State.dramFault_held {s : State} {a : Nat} {kind : Nat} (hs : s.Held q fr) :
    State.Held q fr (State.dramFault s a kind) := by
  unfold State.dramFault
  repeat' first
    | with_reducible first
        | assumption | apply State.put_held

theorem State.dramRangeError_held {s : State} {a : Nat} (hs : s.Held q fr) :
    State.Held q fr (State.dramRangeError s a) := by
  unfold State.dramRangeError
  repeat' first
    | with_reducible first
        | assumption | apply State.dramFault_held | apply State.raise_held

theorem State.dramRefuses_held {s : State} {a : Nat} (hs : s.Held q fr) :
    ∀ t, State.dramRefuses s a = some t → t.Held q fr := by
  intro t ht
  unfold State.dramRefuses at ht
  split at ht
  · cases ht; exact State.dramRangeError_held hs
  · split at ht
    · cases ht; exact hs
    · cases ht

theorem State.checkLine_held {s : State} {line : Nat} (hs : s.Held q fr) :
    State.Held q fr (State.checkLine s line) := by
  unfold State.checkLine
  repeat' first
    | with_reducible first
        | assumption | apply State.dramFault_held | apply State.raise_held
    | split

theorem State.fetchLine_held {s : State} {line : Nat} {crc1 : Bool} {crc2 : Bool} (hs : s.Held q fr) :
    State.Held q fr (State.fetchLine s line crc1 crc2).2 := by
  unfold State.fetchLine
  repeat' first
    | with_reducible first
        | assumption | apply State.bump_held | apply State.checkLine_held | apply State.dramFault_held
        | apply State.raise_held
    | split

theorem State.takeLine_held {s : State} {line : Nat} (hs : s.Held q fr) :
    State.Held q fr (State.takeLine s line).2 := by
  unfold State.takeLine
  repeat' first
    | with_reducible first
        | assumption | apply State.fetchLine_held
    | simp only [State.held_same] | split

theorem State.dramLoad_held : ∀ (fuel a n : Nat) {s : State}, s.Held q fr →
    (State.dramLoad fuel a n s).1.Held q fr
  | 0, _, _, s, h => h
  | fuel + 1, a, n, s, h => by
    unfold State.dramLoad
    split
    · exact h
    · exact State.dramLoad_held fuel _ _ (State.takeLine_held h)

theorem State.setDram_held {s : State} {k : Nat} {x : Sinter} (hs : s.Held q fr) : (State.setDram s k x).Held q fr := by
  obtain ⟨hq, hn, hr, hs, hd, hl, ht, ha, hb, hf, hv⟩ := hs
  exact ⟨hq, hn, hr, hs, Assoc.upd_wf _ _ hd, hl, ht, ha, hb, hf, hv⟩

theorem State.putLine_held {s : State} {line : Nat} {ws : List (Nat × Sinter)} (hs : s.Held q fr) :
    State.Held q fr (State.putLine s line ws) := by
  unfold State.putLine
  repeat' first
    | with_reducible first
        | assumption | apply State.setDram_held | apply State.Held.foldl
    | intro _

theorem State.mergeLine_held {s : State} {line : Nat} {ws : List (Nat × Sinter)} {fetch : State → List Sinter × State}
    (hs : s.Held q fr) (hfetch : ∀ x0, x0.Held q fr → State.Held q fr (fetch x0).2) : State.Held q fr (State.mergeLine s line ws fetch) := by
  unfold State.mergeLine
  split
  · exact State.putLine_held hs
  · exact State.putLine_held (State.putLine_held (hfetch _ hs))

theorem State.dramStore_held : ∀ (fuel a : Nat) (ws : List Sinter) {s : State}, s.Held q fr →
    (State.dramStore fuel a ws s).Held q fr
  | 0, _, _, s, h => h
  | fuel + 1, a, ws, s, h => by
    unfold State.dramStore
    split
    · exact h
    · exact State.dramStore_held fuel _ _ (State.mergeLine_held h (fun _ hx => State.takeLine_held hx))

theorem State.drcWrite_held {s : State} {v : Nat} (hs : s.Held q fr) : (State.drcWrite s v).Held q fr := by
  unfold State.drcWrite
  extract_lets s1
  have h1 : s1.Held q fr := State.Held.ite (fun _ => hs) (fun _ =>
    State.put_held (State.put_held (State.put_held (State.put_held hs _ _) _ _) _ _) _ _)
  clear_value s1
  split
  · split
    · exact h1
    · exact (State.putBit_held (State.putBit_held (State.putBit_held h1))).same rfl rfl rfl rfl rfl rfl rfl
  · split
    · exact (State.putBit_held (State.putBit_held h1)).same rfl rfl rfl rfl rfl rfl rfl
    · exact h1

theorem State.bankWrite_held {s : State} {cl b v : Nat} (hs : s.Held q fr) : (State.bankWrite s cl b v).Held q fr := by
  unfold State.bankWrite
  exact (State.putBit_held hs).same rfl rfl rfl rfl rfl rfl rfl

theorem State.setPostponed_held {s : State} {ch : Nat} {n : Nat} (hs : s.Held q fr) :
    State.Held q fr (State.setPostponed s ch n) := by
  unfold State.setPostponed
  repeat' first
    | with_reducible first
        | assumption | apply State.put_held
    | simp only [State.held_same]

theorem State.writeLine_held {s : State} {line : Nat} {ws : List (Nat × Sinter)} {crc1 : Bool} {crc2 : Bool} (hs : s.Held q fr) :
    State.Held q fr (State.writeLine s line ws crc1 crc2) := by
  unfold State.writeLine
  repeat' first
    | with_reducible first
        | assumption | apply State.fetchLine_held | apply State.mergeLine_held
    | intro _ | split

theorem State.sscStop_held {s : State} (hs : s.Held q fr) :
    State.Held q fr (State.sscStop s) := by
  unfold State.sscStop
  repeat' first
    | with_reducible first
        | assumption | apply State.putBit_held | apply State.raise_held
    | intro _ | split

theorem State.clkRefuse_held {s : State} {kind : Nat} (hs : s.Held q fr) :
    State.Held q fr (State.clkRefuse s kind) := by
  unfold State.clkRefuse
  repeat' first
    | with_reducible first
        | assumption | apply State.put_held | apply State.raise_held

theorem State.sscApply_held {s : State} (hs : s.Held q fr) :
    State.Held q fr (State.sscApply s) := by
  unfold State.sscApply
  repeat' first
    | with_reducible first
        | assumption | apply State.clkRefuse_held | apply State.fumCause_held | apply State.putBit_held
        | apply State.raise_held | apply State.sscStop_held
    | simp only | intro _ | split

theorem State.lockNote_held {s : State} (hs : s.Held q fr) :
    State.Held q fr (State.lockNote s) := by
  unfold State.lockNote
  repeat' first
    | with_reducible first
        | assumption
    | simp only [State.held_same]

theorem State.setLoop_held {s : State} {st : Nat} (hs : s.Held q fr) :
    State.Held q fr (State.setLoop s st) := by
  unfold State.setLoop
  repeat' first
    | with_reducible first
        | assumption | apply State.fumCause_held | apply State.lockNote_held | apply State.putBit_held
        | apply State.put_held | apply State.raise_held | apply State.sscApply_held | apply State.sscStop_held
    | simp only [State.held_same] | intro _ | split

theorem State.rampEnter_held {s : State} (hs : s.Held q fr) :
    State.Held q fr (State.rampEnter s) := by
  unfold State.rampEnter
  repeat' first
    | with_reducible first
        | assumption | apply State.raise_held | apply State.setLoop_held
    | simp only [State.held_same]

theorem State.quiesceField_held {s : State} {f : Fld} {v : Nat} (hs : s.Held q fr) :
    State.Held q fr (State.quiesceField s f v) := by
  unfold State.quiesceField
  repeat' first
    | with_reducible first
        | assumption | apply State.clkRefuse_held | apply State.put_held
    | intro _ | split

theorem State.nfracWrite_held {s : State} {v : Nat} (hs : s.Held q fr) :
    State.Held q fr (State.nfracWrite s v) := by
  unfold State.nfracWrite
  repeat' first
    | with_reducible first
        | assumption | apply State.clkRefuse_held | apply State.quiesceField_held
    | intro _ | split

theorem State.loopToCal_held {s : State} (hs : s.Held q fr) :
    State.Held q fr (State.loopToCal s) := by
  unfold State.loopToCal
  repeat' first
    | with_reducible first
        | assumption | apply State.putBit_held | apply State.put_held | apply State.raise_held | apply State.setLoop_held
    | simp only [State.held_same] | intro _ | split

theorem State.rampDone_held {s : State} (hs : s.Held q fr) :
    State.Held q fr (State.rampDone s) := by
  unfold State.rampDone
  repeat' first
    | with_reducible first
        | assumption | apply State.raise_held | apply State.setLoop_held
    | simp only [State.held_same]

theorem State.rampSettle_held {s : State} (hs : s.Held q fr) :
    State.Held q fr (State.rampSettle s) := by
  unfold State.rampSettle
  repeat' first
    | with_reducible first
        | assumption | apply State.rampDone_held
    | intro _ | split

theorem State.rampStep_held {s : State} (hs : s.Held q fr) :
    State.Held q fr (State.rampStep s) := by
  unfold State.rampStep
  repeat' first
    | with_reducible first
        | assumption
    | simp only [State.held_same] | intro _ | split

theorem State.sscWrite_held {s : State} {v : Nat} (hs : s.Held q fr) :
    State.Held q fr (State.sscWrite s v) := by
  unfold State.sscWrite
  repeat' first
    | with_reducible first
        | assumption | apply State.clkRefuse_held | apply State.lockNote_held | apply State.put_held
        | apply State.sscApply_held
    | intro _ | split

theorem State.nintWrite_held {s : State} {v : Nat} (hs : s.Held q fr) :
    State.Held q fr (State.nintWrite s v) := by
  unfold State.nintWrite
  repeat' first
    | with_reducible first
        | assumption | apply State.clkRefuse_held | apply State.quiesceField_held
    | intro _ | split

theorem State.islandClose_held {s : State} {i : Nat} {forced : Bool} (hs : s.Held q fr) :
    State.Held q fr (State.islandClose s i forced) := by
  unfold State.islandClose
  repeat' first
    | with_reducible first
        | assumption | apply State.putBit_held | apply State.raise_held
    | simp only [State.held_same] | intro _ | split

theorem State.islandCmd_held {s : State} {isl : Nat} {op : Nat} (hs : s.Held q fr) :
    State.Held q fr (State.islandCmd s isl op) := by
  unfold State.islandCmd
  repeat' first
    | with_reducible first
        | assumption | apply State.clkRefuse_held | apply State.islandClose_held | apply State.putBit_held
        | apply State.put_held
    | simp only [State.held_same] | intro _ | split

theorem State.loopStart_held {s : State} (hs : s.Held q fr) :
    State.Held q fr (State.loopStart s) := by
  unfold State.loopStart
  repeat' first
    | with_reducible first
        | assumption | apply State.putBit_held
    | simp only [State.held_same] | intro _ | split

theorem State.loopinitGo_held {s : State} (hs : s.Held q fr) :
    State.Held q fr (State.loopinitGo s) := by
  unfold State.loopinitGo
  repeat' first
    | with_reducible first
        | assumption | apply State.loopStart_held
    | intro _ | split

theorem State.loopCapture_held {s : State} {dev : Nat} (hs : s.Held q fr) :
    State.Held q fr (State.loopCapture s dev) := by
  unfold State.loopCapture
  repeat' first
    | with_reducible first
        | assumption | apply State.loopToCal_held | apply State.putBit_held | apply State.put_held
        | apply State.raise_held | apply State.setLoop_held
    | simp only [State.held_same] | intro _ | split

theorem State.inselTo_held {s : State} {i : Nat} {dev : Nat} (hs : s.Held q fr) :
    State.Held q fr (State.inselTo s i dev) := by
  unfold State.inselTo
  repeat' first
    | with_reducible first
        | assumption | apply State.loopCapture_held | apply State.loopToCal_held | apply State.put_held
    | intro _ | split

theorem State.firstLock_held {s : State} (hs : s.Held q fr) :
    State.Held q fr (State.firstLock s) := by
  unfold State.firstLock
  repeat' first
    | with_reducible first
        | assumption | apply State.put_held
    | simp only [State.held_same] | split

theorem State.refscaleWrite_held {s : State} {v : Nat} (hs : s.Held q fr) :
    State.Held q fr (State.refscaleWrite s v) := by
  unfold State.refscaleWrite
  repeat' first
    | with_reducible first
        | assumption | apply State.clkRefuse_held | apply State.quiesceField_held
    | simp only | intro _ | split

theorem State.loopRelock_held {s : State} (hs : s.Held q fr) :
    State.Held q fr (State.loopRelock s) := by
  unfold State.loopRelock
  repeat' first
    | with_reducible first
        | assumption | apply State.loopToCal_held
    | intro _ | split

theorem State.msixResend_held {s : State} (hs : s.Held q fr) :
    State.Held q fr (State.msixResend s) := by
  unfold State.msixResend
  repeat' first
    | with_reducible first
        | assumption
    | simp only [State.held_same]

theorem State.evtenWrite_held {s : State} {w : Nat} {v : Nat} (hs : s.Held q fr) :
    State.Held q fr (State.evtenWrite s w v) := by
  unfold State.evtenWrite
  repeat' first
    | with_reducible first
        | assumption | apply State.msixResend_held | apply State.put_held
    | intro _ | split

theorem State.msixPending_held {s : State} {x : Nat} (hs : s.Held q fr) :
    State.Held q fr (State.msixPending s x) := by
  unfold State.msixPending
  repeat' first
    | with_reducible first
        | assumption
    | simp only [State.held_same] | intro _ | split

theorem State.msixUnmask_held {s : State} {x : Option Nat} (hs : s.Held q fr) :
    State.Held q fr (State.msixUnmask s x) := by
  unfold State.msixUnmask
  repeat' first
    | with_reducible first
        | assumption | apply State.msixPending_held | apply State.Held.foldl
    | simp only [State.held_same] | split

theorem State.evtswset_held {s : State} {v : Nat} (hs : s.Held q fr) :
    State.Held q fr (State.evtswset s v) := by
  unfold State.evtswset
  repeat' first
    | with_reducible first
        | assumption | apply State.raise_held | apply State.Held.foldl
    | intro _ | split

theorem State.evtstatClear_held {s : State} {w : Nat} {v : Nat} (hs : s.Held q fr) :
    State.Held q fr (State.evtstatClear s w v) := by
  unfold State.evtstatClear
  repeat' first
    | with_reducible first
        | assumption | apply State.msixResend_held | apply State.put_held | apply State.setStat_held | apply State.Held.foldl
    | intro _ | split

theorem State.msixSend_held {s : State} {x : Nat} (hs : s.Held q fr) :
    State.Held q fr (State.msixSend s x) := by
  unfold State.msixSend
  repeat' first
    | with_reducible first
        | assumption
    | simp only [State.held_same] | intro _ | split

theorem State.msixFollow_held {s : State} (hs : s.Held q fr) :
    State.Held q fr (State.msixFollow s) := by
  unfold State.msixFollow
  repeat' first
    | with_reducible first
        | assumption
    | simp only [State.held_same]

theorem State.evtrouteWrite_held {s : State} {e : Nat} {v : Nat} (hs : s.Held q fr) :
    State.Held q fr (State.evtrouteWrite s e v) := by
  unfold State.evtrouteWrite
  repeat' first
    | with_reducible first
        | assumption | apply State.msixFollow_held | apply State.put_held
    | intro _ | split

theorem State.taskEndStatus_held {s : State} {e : Nat} (hs : s.Held q fr) :
    State.Held q fr (State.taskEndStatus s e) := by
  unfold State.taskEndStatus
  repeat' first
    | with_reducible first
        | assumption | apply State.putBit_held | apply State.raiseCellOnce_held
    | simp only | intro _ | split

theorem Cell.enter_shallow {c : Cell} {t : Option Task} {gen : Nat} (h : c.core.shallow) : (c.enter t gen).core.shallow := by
  unfold Cell.enter
  split
  · exact Core.enter_shallow
  · exact h

theorem State.endTask_held {s : State} {e : Nat} (hs : s.Held q fr) : (State.endTask s e).Held q fr := by
  unfold State.endTask
  exact State.setCell_held (State.taskEndStatus_held hs) _ _ (Cell.enter_shallow ((State.taskEndStatus_held hs).cell e))

theorem State.cycles_held {s : State} {u : Exe} {n : Nat} (hs : s.Held q fr) :
    State.Held q fr (State.cycles s u n) := by
  unfold State.cycles
  repeat' first
    | with_reducible first
        | assumption | apply State.setCell_held | apply State.Held.cell
    | split

theorem State.flow_held {s : State} {u : Exe} {f : Core → Core × Bool × Note} (hs : s.Held q fr) (hf : ∀ x0, x0.shallow → Core.shallow (f x0).1) :
    State.Held q fr (State.flow s u f) := by
  unfold State.flow
  repeat' first
    | with_reducible first
        | assumption | apply hf | apply State.commit_held | apply State.cycles_held | apply State.setCore_held
        | apply State.trap_held | apply State.Held.core
    | simp only | intro _ | split

theorem Core.startLoop_shallow {c : Core} {u : Exe} {form : LoopForm} (hc : c.shallow) : (c.startLoop u form).1.shallow := by
  unfold Core.startLoop
  dsimp only
  split
  · exact hc
  · split
    · exact hc
    · split
      · exact hc
      · split
        · exact hc
        · refine ⟨hc.1, ?_⟩
          simp only [List.length_append, List.length_cons, List.length_nil]; omega

theorem Core.backEdge_shallow : ∀ (n : Nat) {c : Core}, c.shallow → (Core.backEdge n c).1.shallow
  | 0, c, h => h
  | n + 1, c, h => by
    unfold Core.backEdge
    split
    · exact h
    · split
      · exact h
      · split
        · refine Core.backEdge_shallow n ⟨h.1, ?_⟩
          have := h.2
          simp only [List.length_dropLast]; omega
        · exact h

theorem Core.branch_shallow {c : Core} {t : Nat} (hc : c.shallow) : (c.branch t).shallow :=
  ⟨hc.1, Nat.le_trans (List.IsPrefix.length_le (List.takeWhile_prefix _)) hc.2⟩

theorem State.patrolShow_held {s : State} {cl : Nat} {w : Nat} (hs : s.Held q fr) :
    State.Held q fr (State.patrolShow s cl w) := by
  unfold State.patrolShow
  repeat' first
    | with_reducible first
        | assumption | apply State.put_held

theorem State.cellRetire_held {s : State} {cl : Nat} {k : Nat} (hs : s.Held q fr) :
    State.Held q fr (State.cellRetire s cl k) := by
  unfold State.cellRetire
  repeat' first
    | with_reducible first
        | assumption | apply State.put_held | apply State.raise_held

theorem State.holdoffWindow_held {s : State} {cl : Nat} {w : Nat} {r : Option PatrolResult} (hs : s.Held q fr) :
    State.Held q fr (State.holdoffWindow s cl w r) := by
  unfold State.holdoffWindow
  repeat' first
    | with_reducible first
        | assumption | apply State.cellRetire_held | apply State.put_held
    | simp only | intro _ | split

theorem State.spareRetire_held {s : State} {cl : Nat} (hs : s.Held q fr) :
    State.Held q fr (State.spareRetire s cl) := by
  unfold State.spareRetire
  repeat' first
    | with_reducible first
        | assumption | apply State.put_held | apply State.raise_held

theorem State.spoil_held {s : State} {e : Nat} {w : Nat} (hs : s.Held q fr) :
    State.Held q fr (State.spoil s e w) := by
  unfold State.spoil
  repeat' first
    | with_reducible first
        | assumption | apply State.setCell_held | apply State.Held.cell

theorem State.degrade_held {s : State} {cl : Nat} (hs : s.Held q fr) :
    State.Held q fr (State.degrade s cl) := by
  unfold State.degrade
  repeat' first
    | with_reducible first
        | assumption | apply State.raise_held | apply State.spoil_held | apply State.Held.foldl
    | simp only [State.held_same] | intro _ | split

theorem State.clearFault_held {s : State} {e : Nat} (hs : s.Held q fr) :
    State.Held q fr (State.clearFault s e) := by
  unfold State.clearFault
  repeat' first
    | with_reducible first
        | assumption | apply State.setCell_held | apply State.Held.cell

theorem State.takeover_held {s : State} {cl : Nat} {k : Nat} {w : Nat} (hs : s.Held q fr) :
    State.Held q fr (State.takeover s cl k w) := by
  unfold State.takeover
  repeat' first
    | with_reducible first
        | assumption | apply State.cellRetire_held | apply State.clearFault_held | apply State.put_held
        | apply State.raise_held | apply State.spoil_held
    | simp only [State.held_same] | intro _ | split

theorem State.confirmed_held {s : State} {cl : Nat} {k : Nat} {w : Nat} (hs : s.Held q fr) :
    State.Held q fr (State.confirmed s cl k w) := by
  unfold State.confirmed
  repeat' first
    | with_reducible first
        | assumption | apply State.clearFault_held | apply State.degrade_held | apply State.spareRetire_held
        | apply State.takeover_held
    | intro _ | split

theorem State.patrolVerdict_held {s : State} {cl : Nat} {k : Nat} {w : Nat} {r : Option PatrolResult} (hs : s.Held q fr) :
    State.Held q fr (State.patrolVerdict s cl k w r) := by
  unfold State.patrolVerdict
  repeat' first
    | with_reducible first
        | assumption | apply State.bump_held | apply State.confirmed_held | apply State.put_held
        | apply State.raise_held | apply State.spareRetire_held | apply State.spoil_held
    | simp only | intro _ | split

theorem State.spareWindow_held {w : Nat} {rs : List PatrolResult} {s : State} {cl : Nat} (hs : s.Held q fr) :
    State.Held q fr (State.spareWindow w rs s cl) := by
  unfold State.spareWindow
  repeat' first
    | with_reducible first
        | assumption | apply State.confirmed_held | apply State.holdoffWindow_held | apply State.patrolVerdict_held
        | apply State.put_held | apply State.Held.foldl
    | intro _ | split

theorem State.patrolcntClear_held {s : State} {cl : Nat} (hs : s.Held q fr) :
    State.Held q fr (State.patrolcntClear s cl) := by
  unfold State.patrolcntClear
  repeat' first
    | with_reducible first
        | assumption | apply State.put_held

end Sys2Proof.Machine
end

