-- ==== Sys2Proof/Laws/Held2.lean ====
section
/-! SUPPORT. The invariant, the waiting queue and the frame count through the shared operations of
Slots, Tables, Arbiter, Crosspoint, Routes, ZSlot, Geyser, Caldera and Convert:
a meaning that calls one of them cites its lemma. -/

namespace Sys2Proof.Machine

open Sys2Proof

variable {q : List Instr} {fr : Nat → Prop}

theorem State.slot_held {s : State} {u : Exe} {f : State → Core → State} (hs : s.Held q fr) (hf : ∀ x0 x1, x0.Held q fr → x1.shallow → State.Held q fr (f x0 x1)) :
    State.Held q fr (State.slot s u f) := by
  unfold State.slot
  repeat' first
    | with_reducible first
        | assumption | apply hf | apply State.Held.core
    | intro _ | split

theorem State.storeNote_held {s : State} {u : Exe} {bad : Bool} (hs : s.Held q fr) :
    State.Held q fr (State.storeNote s u bad) := by
  unfold State.storeNote
  repeat' first
    | with_reducible first
        | assumption | apply State.softFault_held
    | intro _ | split

theorem State.storeXY_held {s : State} {u : Exe} {y : Bool} {gs : Nat} {pn : Nat} {m : Modifier} {c : Core} (hs : s.Held q fr) (hc : c.shallow) :
    State.Held q fr (State.storeXY s u y gs pn m c) := by
  unfold State.storeXY
  repeat' first
    | with_reducible first
        | assumption | apply Core.post_shallow | apply State.setCore_held | apply State.setRam_held
        | apply State.storeNote_held

theorem State.refuseXY_held {s : State} {u : Exe} {y : Bool} {gd : Nat} {pn : Nat} {m : Modifier} {c : Core} (hs : s.Held q fr) (hc : c.shallow) :
    State.Held q fr (State.refuseXY s u y gd pn m c) := by
  unfold State.refuseXY
  repeat' first
    | with_reducible first
        | assumption | apply Core.post_shallow | apply Core.sendG_shallow | apply State.memFault_held
        | apply State.setCore_held | apply State.trap_held
    | intro _ | split

theorem State.staXY_held {s : State} {u : Exe} {y : Bool} {an : Nat} {sh : BitVec 5} {pn : Nat} {c : Core} (hs : s.Held q fr) (hc : c.shallow) :
    State.Held q fr (State.staXY s u y an sh pn c) := by
  unfold State.staXY
  repeat' first
    | with_reducible first
        | assumption | apply Core.notePoison_shallow | apply Core.post_shallow | apply Core.staFlags_shallow
        | apply State.setCore_held | apply State.setRam_held | apply State.storeNote_held | apply State.trap_held
    | intro _ | split

theorem State.soutTo_held {s : State} {e : Nat} {s3 : Bool} {k : Nat} {j : Nat} {x : Sinter} (hs : s.Held q fr) :
    State.Held q fr (State.soutTo s e s3 k j x) := by
  unfold State.soutTo
  repeat' first
    | with_reducible first
        | assumption | apply State.raise_held
    | simp only [State.held_same] | intro _ | split

theorem State.sout_held {s : State} {u : Exe} {pn : Nat} {m : Modifier} {gs : Nat} {c : Core} (hs : s.Held q fr) (hc : c.shallow) :
    State.Held q fr (State.sout s u pn m gs c) := by
  unfold State.sout
  repeat' first
    | with_reducible first
        | assumption | apply Core.post_shallow | apply State.raiseCellOnce_held | apply State.setCore_held
        | apply State.soutTo_held | apply State.storeNote_held | apply State.trap_held
    | intro _ | split

theorem State.loadXY_held {s : State} {u : Exe} {y : Bool} {gd : Nat} {pn : Nat} {m : Modifier} {c : Core} (hs : s.Held q fr) (hc : c.shallow) :
    State.Held q fr (State.loadXY s u y gd pn m c) := by
  unfold State.loadXY
  repeat' first
    | with_reducible first
        | assumption | apply Core.post_shallow | apply Core.sendG_shallow | apply State.setCore_held
    | intro _ | split

theorem State.tableAdopt_held {p : Nat} {s : State} {w : Nat} (hs : s.Held q fr) :
    State.Held q fr (State.tableAdopt p s w) := by
  unfold State.tableAdopt
  repeat' first
    | with_reducible first
        | assumption | apply State.putBit_held | apply State.raise_held | apply State.setCell_held | apply State.Held.cell
    | simp only | intro _ | split

theorem State.tablesAdopt_held {s : State} {p : Nat} (hs : s.Held q fr) :
    State.Held q fr (State.tablesAdopt s p) := by
  unfold State.tablesAdopt
  repeat' first
    | with_reducible first
        | assumption | apply State.tableAdopt_held | apply State.Held.foldl

theorem Cell.shallow_ite {p : Prop} [Decidable p] {x y : Cell} (h1 : x.core.shallow) (h2 : y.core.shallow) :
    (if p then x else y).core.shallow := by split <;> assumption

theorem State.cellEdge_held {w : Nat} {s : State} {v : Nat} (hs : s.Held q fr) : (State.cellEdge w s v).Held q fr := by
  unfold State.cellEdge
  dsimp only
  refine State.setCell_held ?_ _ _ ?_
  · split
    · exact State.raise_held (State.putBit_held (State.put_held (State.put_held hs _ _) _ _))
    · split
      · exact State.put_held (State.put_held hs _ _) _ _
      · exact State.putBit_held (State.put_held (State.put_held hs _ _) _ _)
  · refine Cell.shallow_ite (Cell.enter_shallow ?_) ?_ <;> exact hs.cell (physOf v)

theorem State.cellsEdge_held {s : State} {w : Nat} (hs : s.Held q fr) :
    State.Held q fr (State.cellsEdge s w) := by
  unfold State.cellsEdge
  repeat' first
    | with_reducible first
        | assumption | apply State.cellEdge_held | apply State.Held.foldl

theorem State.tableRecheck_held {s : State} {w : Nat} (hs : s.Held q fr) :
    State.Held q fr (State.tableRecheck s w) := by
  unfold State.tableRecheck
  repeat' first
    | with_reducible first
        | assumption | apply State.putBit_held | apply State.raise_held | apply State.setCell_held | apply State.Held.cell
    | intro _ | split

theorem State.cellSeal_held {before : State} {s : State} {v : Nat} (hs : s.Held q fr) :
    State.Held q fr (State.cellSeal before s v) := by
  unfold State.cellSeal
  repeat' first
    | with_reducible first
        | assumption | apply State.setCell_held | apply State.Held.cell
    | simp only | intro _ | split

theorem State.ttApply_held {s : State} {cl : Nat} {k : Nat} (hs : s.Held q fr) :
    State.Held q fr (State.ttApply s cl k) := by
  unfold State.ttApply
  repeat' first
    | with_reducible first
        | assumption | apply State.putBit_held

theorem State.cellctlWrite_held {s : State} {cl : Nat} {k : Nat} {v : Nat} (hs : s.Held q fr) :
    State.Held q fr (State.cellctlWrite s cl k v) := by
  unfold State.cellctlWrite
  repeat' first
    | with_reducible first
        | assumption | apply State.putBit_held | apply State.ttApply_held
    | intro _ | split

theorem State.cellpeakClr_held {s : State} {cl : Nat} {k : Nat} (hs : s.Held q fr) :
    State.Held q fr (State.cellpeakClr s cl k) := by
  unfold State.cellpeakClr
  repeat' first
    | with_reducible first
        | assumption | apply State.put_held

theorem State.cellDeadline_held {w : Nat} {s : State} {v : Nat} (hs : s.Held q fr) :
    State.Held q fr (State.cellDeadline w s v) := by
  unfold State.cellDeadline
  repeat' first
    | with_reducible first
        | assumption | apply State.putBit_held | apply State.raise_held | apply State.setCell_held
        | apply State.spoil_held | apply State.Held.cell
    | simp only [Core.shallow_same] | intro _ | split

theorem State.fabErrEvent_held {s : State} {code : Nat} (hs : s.Held q fr) :
    State.Held q fr (State.fabErrEvent s code) := by
  unfold State.fabErrEvent
  repeat' first
    | with_reducible first
        | assumption | apply State.putBit_held | apply State.raiseOnce_held | apply State.raise_held
    | intro _ | split

theorem State.fabErr_held {s : State} {m : Nat} {id : Nat} {addr : Nat} {code : Nat} (hs : s.Held q fr) :
    State.Held q fr (State.fabErr s m id addr code) := by
  unfold State.fabErr
  repeat' first
    | with_reducible first
        | assumption | apply State.put_held

theorem State.fabFail_held {s : State} {m : Nat} {id : Nat} {addr : Nat} {code : Nat} (hs : s.Held q fr) :
    State.Held q fr (State.fabFail s m id addr code) := by
  unfold State.fabFail
  repeat' first
    | with_reducible first
        | assumption | apply State.fabErrEvent_held | apply State.fabErr_held
    | intro _ | split

theorem State.fabSettle_held {s : State} {m : Nat} (hs : s.Held q fr) :
    State.Held q fr (State.fabSettle s m) := by
  unfold State.fabSettle
  repeat' first
    | with_reducible first
        | assumption | apply State.putBit_held
    | intro _ | split

theorem State.fabRemove_held {s : State} {r : FabReq} (hs : s.Held q fr) :
    State.Held q fr (State.fabRemove s r) := by
  unfold State.fabRemove
  repeat' first
    | with_reducible first
        | assumption
    | simp only [State.held_same]

theorem State.fabPart_held {s : State} {m : Nat} {addr : Nat} {len : Nat} {got : Nat} {why : Nat} (hs : s.Held q fr) :
    State.Held q fr (State.fabPart s m addr len got why) := by
  unfold State.fabPart
  repeat' first
    | with_reducible first
        | assumption | apply State.bump_held | apply State.putBit_held | apply State.put_held | apply State.raise_held

theorem State.fabDelivered_held {s : State} {r : FabReq} (hs : s.Held q fr) : (State.fabDelivered s r).Held q fr := by
  unfold State.fabDelivered
  split
  · split
    · exact State.dramRefuses_held hs _ ‹_›
    · exact State.dramStore_held _ _ _ hs
  · exact hs

theorem State.fabEnd_held {s : State} {r : FabReq} {why : Nat} (hs : s.Held q fr) : (State.fabEnd s r why).Held q fr := by
  unfold State.fabEnd
  split
  · exact State.fabPart_held (State.fabDelivered_held hs)
  · exact hs

theorem State.fabCut_held {why : Nat} {s : State} {r : FabReq} (hs : s.Held q fr) :
    State.Held q fr (State.fabCut why s r) := by
  unfold State.fabCut
  repeat' first
    | with_reducible first
        | assumption | apply State.fabEnd_held | apply State.fabRemove_held
    | simp only [State.held_same] | intro _ | split

theorem State.masterReset_held {s : State} {m : Nat} (hs : s.Held q fr) :
    State.Held q fr (State.masterReset s m) := by
  unfold State.masterReset
  repeat' first
    | with_reducible first
        | assumption | apply State.fabCut_held | apply State.fabSettle_held | apply State.lockBreak_held
        | apply State.putBit_held | apply State.raise_held | apply State.Held.foldl
    | simp only [State.held_same]

theorem State.fabAnswer_held {s : State} {r : FabReq} {code : Nat} {got : Nat} {words : List Sinter} (hs : s.Held q fr) :
    State.Held q fr (State.fabAnswer s r code got words) := by
  unfold State.fabAnswer
  repeat' first
    | with_reducible first
        | assumption | apply State.fabFail_held
    | simp only [State.held_same] | intro _ | split

theorem State.fabcntClear_held {s : State} (hs : s.Held q fr) :
    State.Held q fr (State.fabcntClear s) := by
  unfold State.fabcntClear
  repeat' first
    | with_reducible first
        | assumption | apply State.put_held

theorem State.lateReply_held {s : State} {r : FabReq} (hs : s.Held q fr) :
    State.Held q fr (State.lateReply s r) := by
  unfold State.lateReply
  repeat' first
    | with_reducible first
        | assumption | apply State.fabAnswer_held | apply State.fabRemove_held | apply State.fabSettle_held

theorem State.remapAnswer_held {s : State} (hs : s.Held q fr) :
    State.Held q fr (State.remapAnswer s) := by
  unfold State.remapAnswer
  repeat' first
    | with_reducible first
        | assumption | apply State.lateReply_held | apply State.Held.foldl

theorem State.remapWrite_held {s : State} {m : Nat} {v : Bool} (hs : s.Held q fr) :
    State.Held q fr (State.remapWrite s m v) := by
  unfold State.remapWrite
  repeat' first
    | with_reducible first
        | assumption | apply State.putBit_held | apply State.remapAnswer_held
    | simp only [State.held_same] | intro _ | split

theorem State.fabLose_held {s : State} {r : FabReq} (hs : s.Held q fr) :
    State.Held q fr (State.fabLose s r) := by
  unfold State.fabLose
  repeat' first
    | with_reducible first
        | assumption | apply State.putBit_held | apply State.raiseOnce_held
    | simp only [State.held_same] | intro _ | split

theorem State.lockRefuse_held {s : State} (hs : s.Held q fr) :
    State.Held q fr (State.lockRefuse s) := by
  unfold State.lockRefuse
  repeat' first
    | with_reducible first
        | assumption | apply State.putBit_held | apply State.raise_held

theorem State.lockOpen_held {s : State} {m : Nat} {port : Nat} (hs : s.Held q fr) :
    State.Held q fr (State.lockOpen s m port) := by
  unfold State.lockOpen
  repeat' first
    | with_reducible first
        | assumption | apply State.putBit_held | apply State.put_held
    | simp only [State.held_same] | intro _ | split

theorem State.fabDeadlock_held {s : State} (hs : s.Held q fr) :
    State.Held q fr (State.fabDeadlock s) := by
  unfold State.fabDeadlock
  repeat' first
    | with_reducible first
        | assumption | apply State.fumAct_held | apply State.putBit_held | apply State.raise_held

theorem State.fabAbandon_held {s : State} {r : FabReq} (hs : s.Held q fr) :
    State.Held q fr (State.fabAbandon s r) := by
  unfold State.fabAbandon
  repeat' first
    | with_reducible first
        | assumption | apply State.fabAnswer_held | apply State.fabEnd_held | apply State.fabRemove_held
        | apply State.fabSettle_held | apply State.lockBreak_held | apply State.putBit_held | apply State.raise_held
    | intro _ | split

theorem State.remapDone_held {s : State} (hs : s.Held q fr) :
    State.Held q fr (State.remapDone s) := by
  unfold State.remapDone
  repeat' first
    | with_reducible first
        | assumption | apply State.putBit_held | apply State.raise_held | apply State.remapAnswer_held
    | simp only [State.held_same] | intro _ | split

theorem State.xpPush_held {s : State} {xp : Nat} {x : XpChange} (hs : s.Held q fr) :
    State.Held q fr (State.xpPush s xp x) := by
  unfold State.xpPush
  repeat' first
    | with_reducible first
        | assumption
    | simp only [State.held_same]

theorem State.xpReport_held {s : State} {xp : Nat} {kind : Nat} (hs : s.Held q fr) :
    State.Held q fr (State.xpReport s xp kind) := by
  unfold State.xpReport
  repeat' first
    | with_reducible first
        | assumption | apply State.put_held

theorem State.xpArrive_held {s : State} {xp : Nat} {x : Sinter} {law : Nat} (hs : s.Held q fr) :
    State.Held q fr (State.xpArrive s xp x law) := by
  unfold State.xpArrive
  repeat' first
    | with_reducible first
        | assumption | apply State.putBit_held | apply State.raiseOnce_held | apply State.xpReport_held
    | intro _ | split

theorem State.xpStart_held {s : State} {xp : Nat} {x : Sinter} {law : Nat} {len : Nat} {f : Nat} {owner : Nat} (hs : s.Held q fr) :
    State.Held q fr (State.xpStart s xp x law len f owner) := by
  unfold State.xpStart
  repeat' first
    | with_reducible first
        | assumption | apply State.xpArrive_held | apply State.xpPush_held
    | intro _ | split

theorem State.xpRebuildAt_held {s : State} {xp : Nat} {x : Sinter} {f : Nat} (hs : s.Held q fr) :
    State.Held q fr (State.xpRebuildAt s xp x f) := by
  unfold State.xpRebuildAt
  repeat' first
    | with_reducible first
        | assumption | apply State.xpPush_held

theorem State.vntInert_held {s : State} {v : Nat} (hs : s.Held q fr) :
    State.Held q fr (State.vntInert s v) := by
  unfold State.vntInert
  repeat' first
    | with_reducible first
        | assumption | apply State.putBit_held | apply State.raise_held
    | simp only | intro _ | split

theorem State.vntTake_held {s : State} {i : Nat} {f : Nat} {x : Sinter} (hs : s.Held q fr) :
    State.Held q fr (State.vntTake s i f x) := by
  unfold State.vntTake
  repeat' first
    | with_reducible first
        | assumption | apply State.putBit_held | apply State.vntInert_held
    | simp only [State.held_same] | intro _ | split

theorem State.vntInertAll_held {s : State} (hs : s.Held q fr) :
    State.Held q fr (State.vntInertAll s) := by
  unfold State.vntInertAll
  repeat' first
    | with_reducible first
        | assumption | apply State.vntInert_held | apply State.Held.foldl

theorem State.bankRefused_held {s : State} {e : Nat} {b : Nat} {w : Nat} {kind : Nat} (hs : s.Held q fr) :
    State.Held q fr (State.bankRefused s e b w kind) := by
  unfold State.bankRefused
  repeat' first
    | with_reducible first
        | assumption | apply State.memFault_held

theorem State.loadZ_held {s : State} {u : Exe} {gd : Nat} {b : Nat} {pn : Nat} {m : Modifier} {c : Core} {e : Nat} (hs : s.Held q fr) (hc : c.shallow) :
    State.Held q fr (State.loadZ s u gd b pn m c e) := by
  unfold State.loadZ
  repeat' first
    | with_reducible first
        | assumption | apply Core.post_shallow | apply Core.sendG_shallow | apply State.bankRefused_held
        | apply State.setCore_held
    | simp only | intro _ | split

theorem State.zslot_held {s : State} {u : Exe} {f : State → Core → Nat → State} (hs : s.Held q fr) (hf : ∀ x0 x1 x2, x0.Held q fr → x1.shallow → State.Held q fr (f x0 x1 x2)) :
    State.Held q fr (State.zslot s u f) := by
  unfold State.zslot
  repeat' first
    | with_reducible first
        | assumption | apply hf | apply State.slot_held | apply State.trap_held
    | intro _ | split

theorem State.amo_held {s : State} {u : Exe} {g : Nat} {b : Nat} {pn : Nat} {new : Sinter → Sinter → Sinter} {dup : Bool} {c : Core} {e : Nat} (hs : s.Held q fr) (hc : c.shallow) :
    State.Held q fr (State.amo s u g b pn new dup c e) := by
  unfold State.amo
  repeat' first
    | with_reducible first
        | assumption | apply Core.notePoison_shallow | apply Core.sendG_shallow | apply State.bankRefused_held
        | apply State.setCore_held | apply State.setRam_held | apply State.storeNote_held
    | simp only [Core.shallow_same] | split

theorem State.loadUZ_held {s : State} {u : Exe} {gd : Nat} {b : Nat} {pn : Nat} {dup : Bool} {c : Core} {e : Nat} (hs : s.Held q fr) (hc : c.shallow) :
    State.Held q fr (State.loadUZ s u gd b pn dup c e) := by
  unfold State.loadUZ
  repeat' first
    | with_reducible first
        | assumption | apply Core.sendG_shallow | apply State.bankRefused_held | apply State.setCore_held
        | apply State.softFault_held
    | simp only | intro _ | split

theorem State.storeZ_held {s : State} {u : Exe} {gs : Nat} {b : Nat} {pn : Nat} {m : Modifier} {c : Core} {e : Nat} (hs : s.Held q fr) (hc : c.shallow) :
    State.Held q fr (State.storeZ s u gs b pn m c e) := by
  unfold State.storeZ
  repeat' first
    | with_reducible first
        | assumption | apply Core.post_shallow | apply State.bankRefused_held | apply State.setCore_held
        | apply State.setRam_held | apply State.storeNote_held
    | simp only | split

theorem State.cascTake_held {s : State} {chip : Nat} {code : Nat} (hs : s.Held q fr) :
    State.Held q fr (State.cascTake s chip code) := by
  unfold State.cascTake
  repeat' first
    | with_reducible first
        | assumption | apply State.put_held
    | simp only [State.held_same] | intro _ | split

theorem State.sendCtl_held {s : State} {m : CtrlMsg} (hs : s.Held q fr) :
    State.Held q fr (State.sendCtl s m) := by
  unfold State.sendCtl
  repeat' first
    | with_reducible first
        | assumption
    | simp only [State.held_same]

theorem State.cascReport_held {s : State} {n : Nat} {code : Nat} (hs : s.Held q fr) :
    State.Held q fr (State.cascReport s n code) := by
  unfold State.cascReport
  repeat' first
    | with_reducible first
        | assumption | apply State.cascTake_held | apply State.sendCtl_held
    | intro _ | split

theorem State.unlockOvl_held {s : State} {n : Nat} (hs : s.Held q fr) :
    State.Held q fr (State.unlockOvl s n) := by
  unfold State.unlockOvl
  repeat' first
    | with_reducible first
        | assumption | apply State.putBit_held
    | simp only [State.held_same]

theorem State.setCommit_held {s : State} {n : Nat} {c : Commit} (hs : s.Held q fr) :
    State.Held q fr (State.setCommit s n c) := by
  unfold State.setCommit
  repeat' first
    | with_reducible first
        | assumption
    | simp only [State.held_same]

theorem State.cmtEnd_held {s : State} {n : Nat} {st : Nat} {res : Nat} (hs : s.Held q fr) :
    State.Held q fr (State.cmtEnd s n st res) := by
  unfold State.cmtEnd
  repeat' first
    | with_reducible first
        | assumption | apply State.put_held | apply State.setCommit_held | apply State.unlockOvl_held
        | apply State.Held.foldl
    | simp only [State.held_same]

theorem State.setF_held {s : State} {n : Nat} {f : Nat} (hs : s.Held q fr) :
    State.Held q fr (State.setF s n f) := by
  unfold State.setF
  repeat' first
    | with_reducible first
        | assumption | apply State.put_held

theorem State.setFreeRamps_held {s : State} {n : Nat} (hs : s.Held q fr) :
    State.Held q fr (State.setFreeRamps s n) := by
  unfold State.setFreeRamps
  repeat' first
    | with_reducible first
        | assumption | apply State.put_held | apply State.raiseOnce_held
    | intro _ | split

theorem State.commitPrepareDone_held {s : State} {n : Nat} (hs : s.Held q fr) :
    State.Held q fr (State.commitPrepareDone s n) := by
  unfold State.commitPrepareDone
  repeat' first
    | with_reducible first
        | assumption | apply State.cascReport_held | apply State.cmtEnd_held | apply State.fumLockWrite_held
        | apply State.putBit_held | apply State.put_held | apply State.raise_held | apply State.setCommit_held
        | apply State.setF_held | apply State.setFreeRamps_held
    | simp only [State.held_same] | intro _ | split

theorem State.lockOvl_held {s : State} {n : Nat} (hs : s.Held q fr) :
    State.Held q fr (State.lockOvl s n) := by
  unfold State.lockOvl
  repeat' first
    | with_reducible first
        | assumption | apply State.putBit_held
    | simp only [State.held_same]

theorem State.cmtStart_held {s : State} {n : Nat} {t : Nat} {novl : Nat} {ovla : Nat} {ovlb : Nat} {casc : Bool} (hs : s.Held q fr) :
    State.Held q fr (State.cmtStart s n t novl ovla ovlb casc) := by
  unfold State.cmtStart
  repeat' first
    | with_reducible first
        | assumption | apply State.lockOvl_held | apply State.putBit_held | apply State.put_held
        | apply State.setCommit_held | apply State.Held.foldl
    | simp only [State.held_same]

theorem State.foldEnd_held {s : State} {n : Nat} (hs : s.Held q fr) :
    State.Held q fr (State.foldEnd s n) := by
  unfold State.foldEnd
  repeat' first
    | with_reducible first
        | assumption | apply State.setCommit_held | apply State.setRam_held | apply State.Held.foldl
    | simp only [State.held_same] | intro _ | split

theorem State.gysQuiesce_held {s : State} (hs : s.Held q fr) :
    State.Held q fr (State.gysQuiesce s) := by
  unfold State.gysQuiesce
  repeat' first
    | with_reducible first
        | assumption | apply State.cmtEnd_held | apply State.foldEnd_held | apply State.put_held
        | apply State.setCommit_held | apply State.unlockOvl_held | apply State.Held.foldl
    | simp only [State.held_same] | intro _ | split

theorem State.ownerTake_held {s : State} {pid : Nat} {x : Sinter} {law : Nat} {len : Nat} {f : Nat} {owner : Nat} (hs : s.Held q fr) :
    State.Held q fr (State.ownerTake s pid x law len f owner) := by
  unfold State.ownerTake
  repeat' first
    | with_reducible first
        | assumption | apply State.guardTake_held | apply State.vntTake_held | apply State.xpStart_held
    | intro _ | split

theorem State.gysEffect_held {s : State} {pid : Nat} {x : Sinter} {law : Nat} {len : Nat} {f : Nat} {cls : Nat} {owner : Nat} (hs : s.Held q fr) :
    State.Held q fr (State.gysEffect s pid x law len f cls owner) := by
  unfold State.gysEffect
  repeat' first
    | with_reducible first
        | assumption | apply State.ownerTake_held
    | simp only [State.held_same] | intro _ | split

theorem State.dwApply_held {s : State} {d : DirectWrite} (hs : s.Held q fr) :
    State.Held q fr (State.dwApply s d) := by
  unfold State.dwApply
  repeat' first
    | with_reducible first
        | assumption | apply State.gysEffect_held | apply State.setRam_held
    | intro _ | split

theorem State.dwApplyAll_held {s : State} (hs : s.Held q fr) :
    State.Held q fr (State.dwApplyAll s) := by
  unfold State.dwApplyAll
  repeat' first
    | with_reducible first
        | assumption | apply State.dwApply_held | apply State.Held.foldl
    | simp only [State.held_same]

theorem State.gysFaultStep_held {s : State} {pid : Nat} (hs : s.Held q fr) :
    State.Held q fr (State.gysFaultStep s pid) := by
  unfold State.gysFaultStep
  repeat' first
    | with_reducible first
        | assumption | apply State.ownerTake_held | apply State.xpRebuildAt_held
    | simp only [State.held_same] | intro _ | split

theorem State.gysFaultSteps_held {s : State} (hs : s.Held q fr) :
    State.Held q fr (State.gysFaultSteps s) := by
  unfold State.gysFaultSteps
  repeat' first
    | with_reducible first
        | assumption | apply State.gysFaultStep_held | apply State.Held.foldl
    | simp only [State.held_same]

theorem State.gysReport_held {s : State} {pid : Nat} {kind : Nat} (hs : s.Held q fr) :
    State.Held q fr (State.gysReport s pid kind) := by
  unfold State.gysReport
  repeat' first
    | with_reducible first
        | assumption | apply State.put_held

theorem State.gysStateFault_held {s : State} {pid : Nat} (hs : s.Held q fr) :
    State.Held q fr (State.gysStateFault s pid) := by
  unfold State.gysStateFault
  repeat' first
    | with_reducible first
        | assumption | apply State.fumAct_held | apply State.gysReport_held | apply State.putBit_held
        | apply State.raise_held
    | simp only [State.held_same] | intro _ | split

theorem State.rampRelease_held {s : State} (hs : s.Held q fr) :
    State.Held q fr (State.rampRelease s) := by
  unfold State.rampRelease
  repeat' first
    | with_reducible first
        | assumption | apply State.setFreeRamps_held
    | simp only [State.held_same] | intro _ | split

theorem State.cascAbort_held {s : State} {n : Nat} (hs : s.Held q fr) :
    State.Held q fr (State.cascAbort s n) := by
  unfold State.cascAbort
  repeat' first
    | with_reducible first
        | assumption | apply State.cmtEnd_held | apply State.raise_held

theorem State.cascAbortAll_held {s : State} {n : Nat} (hs : s.Held q fr) :
    State.Held q fr (State.cascAbortAll s n) := by
  unfold State.cascAbortAll
  repeat' first
    | with_reducible first
        | assumption | apply State.cascAbort_held | apply State.sendCtl_held | apply State.setCommit_held

theorem State.commitGo_held {s : State} {n : Nat} (hs : s.Held q fr) :
    State.Held q fr (State.commitGo s n) := by
  unfold State.commitGo
  repeat' first
    | with_reducible first
        | assumption | apply State.cascAbortAll_held | apply State.cmtStart_held | apply State.putBit_held
        | apply State.put_held | apply State.raise_held | apply State.sendCtl_held
    | simp only [State.held_same] | intro _ | split

theorem State.commitCancel_held {s : State} {n : Nat} (hs : s.Held q fr) :
    State.Held q fr (State.commitCancel s n) := by
  unfold State.commitCancel
  repeat' first
    | with_reducible first
        | assumption | apply State.cmtEnd_held
    | intro _ | split

theorem State.gainReport_held {s : State} {pid : Nat} {cls : Nat} {x : Sinter} (hs : s.Held q fr) :
    State.Held q fr (State.gainReport s pid cls x) := by
  unfold State.gainReport
  repeat' first
    | with_reducible first
        | assumption | apply State.gysReport_held | apply State.putBit_held | apply State.raiseOnce_held
    | intro _ | split

theorem State.applyEntry_held {n : Nat} {f : Nat} {s : State} {e : Entry} (hs : s.Held q fr) :
    State.Held q fr (State.applyEntry n f s e) := by
  unfold State.applyEntry
  repeat' first
    | with_reducible first
        | assumption | apply State.gainReport_held | apply State.gysEffect_held | apply State.gysReport_held
        | apply State.putBit_held | apply State.raiseOnce_held | apply State.setCommit_held
    | simp only [State.held_same] | intro _ | split

theorem State.commitApply_held {s : State} {n : Nat} (hs : s.Held q fr) :
    State.Held q fr (State.commitApply s n) := by
  unfold State.commitApply
  repeat' first
    | with_reducible first
        | assumption | apply State.applyEntry_held | apply State.cascAbort_held | apply State.cmtEnd_held
        | apply State.put_held | apply State.raise_held | apply State.setCommit_held | apply State.Held.foldl
    | simp only [State.held_same] | intro _ | split

theorem State.ovlDrop_held {s : State} {n : Nat} (hs : s.Held q fr) :
    State.Held q fr (State.ovlDrop s n) := by
  unfold State.ovlDrop
  repeat' first
    | with_reducible first
        | assumption | apply State.put_held
    | simp only [State.held_same] | intro _ | split

theorem State.ovlLoad_held {s : State} {n : Nat} (hs : s.Held q fr) :
    State.Held q fr (State.ovlLoad s n) := by
  unfold State.ovlLoad
  repeat' first
    | with_reducible first
        | assumption | apply State.put_held
    | simp only [State.held_same] | intro _ | split

theorem State.dwAccept_held {s : State} {pid : Nat} {x : Sinter} (hs : s.Held q fr) :
    State.Held q fr (State.dwAccept s pid x) := by
  unfold State.dwAccept
  repeat' first
    | with_reducible first
        | assumption | apply State.gainReport_held
    | simp only [State.held_same]

theorem State.directWriteHeldAccept_held {s : State} (hs : s.Held q fr) :
    State.Held q fr (State.directWriteHeldAccept s) := by
  unfold State.directWriteHeldAccept
  repeat' first
    | with_reducible first
        | assumption | apply State.dwAccept_held
    | simp only [State.held_same] | intro _ | split

theorem Core.pgetPost_shallow {c : Core} {pn : Nat} {hold : Bool} (hc : c.shallow) :
    Core.shallow (Core.pgetPost c pn hold) := by
  unfold Core.pgetPost
  repeat' first
    | with_reducible first
        | assumption | apply Core.post_shallow
    | split

theorem State.paramRampEnd_held {s : State} {pid : Nat} (hs : s.Held q fr) :
    State.Held q fr (State.paramRampEnd s pid) := by
  unfold State.paramRampEnd
  repeat' first
    | with_reducible first
        | assumption
    | simp only [State.held_same] | intro _ | split

theorem State.ovlStore_held {s : State} {off : Nat} {x : Sinter} (hs : s.Held q fr) :
    State.Held q fr (State.ovlStore s off x) := by
  unfold State.ovlStore
  repeat' first
    | with_reducible first
        | assumption | apply State.setRam_held
    | intro _ | split

theorem State.ovlFetch_held {s : State} {a : Nat} {bad : Bool} (hs : s.Held q fr) :
    State.Held q fr (State.ovlFetch s a bad).2 := by
  unfold State.ovlFetch
  dsimp only
  split
  · exact hs
  · split
    · exact State.dramRefuses_held hs _ ‹_›
    · split
      · exact State.fetchLine_held hs
      · exact State.takeLine_held hs

theorem State.ovlCopy_held {o : OvlLatch} {bad : List Nat} : ∀ (fuel i : Nat) {s : State}, s.Held q fr →
    (State.ovlCopy o bad fuel i s).Held q fr
  | 0, _, s, h => h
  | fuel + 1, i, s, h => by
    unfold State.ovlCopy
    split
    · exact h
    · exact State.ovlCopy_held fuel _ (State.Held.foldl (State.ovlFetch_held h) _ (fun _ _ hx => State.ovlStore_held hx))

theorem State.ovlLoadDone_held {s : State} {n : Nat} {bad : List Nat} (hs : s.Held q fr) :
    State.Held q fr (State.ovlLoadDone s n bad) := by
  unfold State.ovlLoadDone
  repeat' first
    | with_reducible first
        | assumption | apply State.ovlCopy_held | apply State.put_held | apply State.raise_held
    | simp only [State.held_same] | intro _ | split

theorem State.ovlTouched_held {s : State} {off : Nat} (hs : s.Held q fr) :
    State.Held q fr (State.ovlTouched s off) := by
  unfold State.ovlTouched
  repeat' first
    | with_reducible first
        | assumption | apply State.put_held | apply State.raise_held | apply State.Held.foldl
    | simp only [State.held_same] | intro _ | split

theorem State.foldStart_held {s : State} {n : Nat} (hs : s.Held q fr) :
    State.Held q fr (State.foldStart s n) := by
  unfold State.foldStart
  repeat' first
    | with_reducible first
        | assumption | apply State.setCommit_held
    | simp only | intro _ | split

theorem State.ovlWriteRefused_held {s : State} {n : Nat} (hs : s.Held q fr) :
    State.Held q fr (State.ovlWriteRefused s n) := by
  unfold State.ovlWriteRefused
  repeat' first
    | with_reducible first
        | assumption | apply State.gysReport_held | apply State.raise_held

theorem State.commitDone_held {s : State} {n : Nat} (hs : s.Held q fr) :
    State.Held q fr (State.commitDone s n) := by
  unfold State.commitDone
  repeat' first
    | with_reducible first
        | assumption | apply State.cmtEnd_held | apply State.raise_held
    | simp only | intro _ | split

theorem State.directWrite_held {s : State} {pid : Nat} {x : Sinter} (hs : s.Held q fr) :
    State.Held q fr (State.directWrite s pid x) := by
  unfold State.directWrite
  repeat' first
    | with_reducible first
        | assumption | apply State.dwAccept_held | apply State.fumLockWrite_held | apply State.putBit_held
        | apply State.raiseOnce_held
    | simp only [State.held_same] | intro _ | split

theorem State.calActive_held {s : State} (hs : s.Held q fr) :
    State.Held q fr (State.calActive s) := by
  unfold State.calActive
  repeat' first
    | with_reducible first
        | assumption | apply State.put_held | apply State.Held.foldl
    | simp only [State.held_same] | intro _

theorem State.sliceReload_held {s : State} {r : Nat} (hs : s.Held q fr) :
    State.Held q fr (State.sliceReload s r) := by
  unfold State.sliceReload
  repeat' first
    | with_reducible first
        | assumption | apply State.put_held
    | simp only [State.held_same]

theorem State.xpRebuildIn_held {s : State} {xp : Nat} {f : Nat} (hs : s.Held q fr) :
    State.Held q fr (State.xpRebuildIn s xp f) := by
  unfold State.xpRebuildIn
  repeat' first
    | with_reducible first
        | assumption
    | simp only [State.held_same]

theorem State.putWide_held {s : State} {key : Nat} {b : Nat} {hi : Sinter} {lo : Sinter} (hs : s.Held q fr) :
    State.Held q fr (State.putWide s key b hi lo) := by
  unfold State.putWide
  repeat' first
    | with_reducible first
        | assumption
    | simp only [State.held_same]

theorem State.putBus_held {s : State} {key : Nat} {b : Nat} {x : Sinter} (hs : s.Held q fr) :
    State.Held q fr (State.putBus s key b x) := by
  unfold State.putBus
  repeat' first
    | with_reducible first
        | assumption
    | simp only [State.held_same]

theorem State.calReport_held {s : State} {b : Nat} {j : Nat} {kind : Nat} (hs : s.Held q fr) :
    State.Held q fr (State.calReport s b j kind) := by
  unfold State.calReport
  repeat' first
    | with_reducible first
        | assumption | apply State.put_held

theorem State.calResidue_held {s : State} {b : Nat} {j : Nat} {kind : Nat} (hs : s.Held q fr) :
    State.Held q fr (State.calResidue s b j kind) := by
  unfold State.calResidue
  repeat' first
    | with_reducible first
        | assumption | apply State.calReport_held | apply State.putBit_held | apply State.put_held
        | apply State.raiseOnce_held
    | simp only [State.held_same] | intro _ | split

theorem State.busOut_held {s : State} {key : Nat} {n : Nat} {b : Nat} {j : Nat} {a : Acc} (hs : s.Held q fr) :
    State.Held q fr (State.busOut s key n b j a) := by
  unfold State.busOut
  repeat' first
    | with_reducible first
        | assumption | apply State.bump_held | apply State.calResidue_held | apply State.putBit_held
        | apply State.putBus_held | apply State.putWide_held | apply State.put_held | apply State.raiseOnce_held
    | simp only | intro _ | split

theorem State.frameSpoil_held {b : Nat} {s : State} {j : Nat} (hs : s.Held q fr) :
    State.Held q fr (State.frameSpoil b s j) := by
  unfold State.frameSpoil
  repeat' first
    | with_reducible first
        | assumption | apply State.busOut_held
    | simp only [State.held_same] | intro _ | split

theorem State.busWorked_held {m : MatrixFrame} {hit : Option Nat} {dup : Option Nat} {s : State} {b : Nat} (hs : s.Held q fr) :
    State.Held q fr (State.busWorked m hit dup s b) := by
  unfold State.busWorked
  repeat' first
    | with_reducible first
        | assumption | apply State.busOut_held | apply State.calReport_held | apply State.calResidue_held
        | apply State.putBit_held | apply State.raiseOnce_held
    | simp only [State.held_same] | intro _ | split

theorem State.busFrame_held {m : MatrixFrame} {hit : Option Nat} {dup : Option Nat} {s : State} {b : Nat} (hs : s.Held q fr) :
    State.Held q fr (State.busFrame m hit dup s b) := by
  unfold State.busFrame
  repeat' first
    | with_reducible first
        | assumption | apply State.busOut_held | apply State.busWorked_held
    | simp only [State.held_same] | intro _ | split

theorem State.matrixFrame_held {s : State} {j : Nat} {dup : Option Nat} {gysBad : Option Nat} {hit : Option Nat} (hs : s.Held q fr) :
    State.Held q fr (State.matrixFrame s j dup gysBad hit) := by
  unfold State.matrixFrame
  repeat' first
    | with_reducible first
        | assumption | apply State.busFrame_held | apply State.gysStateFault_held | apply State.putBit_held
        | apply State.raiseOnce_held | apply State.Held.foldl
    | simp only [State.held_same] | intro _ | split

theorem State.setChan_held {s : State} {v : Nat} {c : CnvChan} (hs : s.Held q fr) :
    State.Held q fr (State.setChan s v c) := by
  unfold State.setChan
  repeat' first
    | with_reducible first
        | assumption
    | simp only [State.held_same]

theorem State.cnvDup_held {s : State} {v : Nat} (hs : s.Held q fr) :
    State.Held q fr (State.cnvDup s v) := by
  unfold State.cnvDup
  repeat' first
    | with_reducible first
        | assumption | apply State.put_held | apply State.raiseOnce_held

theorem State.cnvPoisonIn_held {s : State} {v : Nat} (hs : s.Held q fr) :
    State.Held q fr (State.cnvPoisonIn s v) := by
  unfold State.cnvPoisonIn
  repeat' first
    | with_reducible first
        | assumption | apply State.put_held

theorem State.convAdvance_held {s : State} {v : Nat} (hs : s.Held q fr) :
    State.Held q fr (State.convAdvance s v) := by
  unfold State.convAdvance
  repeat' first
    | with_reducible first
        | assumption | apply State.setChan_held

theorem State.setUnit_held {s : State} {u : Nat} {c : CnvUnit} (hs : s.Held q fr) :
    State.Held q fr (State.setUnit s u c) := by
  unfold State.setUnit
  repeat' first
    | with_reducible first
        | assumption
    | simp only [State.held_same]

theorem State.cnvSwitch_held {s : State} {fresh : Bool} {u : Nat} {a3 : Nat} (hs : s.Held q fr) :
    State.Held q fr (State.cnvSwitch s fresh u a3) := by
  unfold State.cnvSwitch
  repeat' first
    | with_reducible first
        | assumption | apply State.setChan_held | apply State.setUnit_held | apply State.Held.foldl
    | simp only | intro _ | split

theorem State.cnvShow_held {s : State} {fresh : Bool} {u : Nat} {a3 : Nat} (hs : s.Held q fr) :
    State.Held q fr (State.cnvShow s fresh u a3) := by
  unfold State.cnvShow
  repeat' first
    | with_reducible first
        | assumption | apply State.putBit_held | apply State.put_held | apply State.raiseOnce_held | apply State.setUnit_held
    | simp only | intro _ | split

theorem State.cnvStart_held {s : State} {u : Nat} (hs : s.Held q fr) :
    State.Held q fr (State.cnvStart s u) := by
  unfold State.cnvStart
  repeat' first
    | with_reducible first
        | assumption | apply State.cnvShow_held | apply State.cnvSwitch_held

theorem State.cnvCtlWrite_held {s : State} {u : Nat} {en : Bool} {mode : Nat} {pre : Nat} (hs : s.Held q fr) :
    State.Held q fr (State.cnvCtlWrite s u en mode pre) := by
  unfold State.cnvCtlWrite
  repeat' first
    | with_reducible first
        | assumption | apply State.cnvStart_held | apply State.putBit_held | apply State.put_held
        | apply State.setChan_held | apply State.setUnit_held | apply State.Held.foldl
    | simp only | intro _ | split

theorem State.cnvLock_held {s : State} {u : Nat} (hs : s.Held q fr) :
    State.Held q fr (State.cnvLock s u) := by
  unfold State.cnvLock
  repeat' first
    | with_reducible first
        | assumption | apply State.putBit_held | apply State.raise_held
    | simp only | intro _ | split

theorem State.cnvDetect_held {s : State} {v : Nat} (hs : s.Held q fr) :
    State.Held q fr (State.cnvDetect s v) := by
  unfold State.cnvDetect
  repeat' first
    | with_reducible first
        | assumption | apply State.put_held

theorem State.cnvBoundary_held {s : State} (hs : s.Held q fr) :
    State.Held q fr (State.cnvBoundary s) := by
  unfold State.cnvBoundary
  repeat' first
    | with_reducible first
        | assumption | apply State.cnvDetect_held | apply State.cnvLock_held | apply State.cnvShow_held
        | apply State.cnvSwitch_held | apply State.Held.foldl
    | intro _ | split

theorem State.cnvFeed_held {s : State} {a1 : Nat} {x : Sinter} (hs : s.Held q fr) :
    State.Held q fr (State.cnvFeed s a1 x) := by
  unfold State.cnvFeed
  repeat' first
    | with_reducible first
        | assumption | apply State.cnvPoisonIn_held | apply State.setChan_held | apply State.Held.foldl
    | intro _ | split

theorem State.cnvSlip_held {f : Nat} {s : State} {u : Nat} (hs : s.Held q fr) :
    State.Held q fr (State.cnvSlip f s u) := by
  unfold State.cnvSlip
  repeat' first
    | with_reducible first
        | assumption | apply State.putBit_held | apply State.raiseOnce_held | apply State.setUnit_held
    | simp only | intro _ | split

theorem State.cnvEgressPeriod_held {s : State} {a1 : Nat} (hs : s.Held q fr) :
    State.Held q fr (State.cnvEgressPeriod s a1) := by
  unfold State.cnvEgressPeriod
  repeat' first
    | with_reducible first
        | assumption | apply State.cnvSwitch_held | apply State.Held.foldl
    | intro _

theorem State.cnvLose_held {s : State} {u : Nat} {cause : Nat} (hs : s.Held q fr) :
    State.Held q fr (State.cnvLose s u cause) := by
  unfold State.cnvLose
  repeat' first
    | with_reducible first
        | assumption | apply State.put_held | apply State.raiseOnce_held | apply State.setUnit_held
    | intro _ | split

theorem State.cnvTrack_held {s : State} {u : Nat} {i : Nat} {settled : Bool} {rp : Option Nat} (hs : s.Held q fr) :
    State.Held q fr (State.cnvTrack s u i settled rp) := by
  unfold State.cnvTrack
  repeat' first
    | with_reducible first
        | assumption | apply State.cnvLose_held | apply State.put_held | apply State.setUnit_held
    | simp only | intro _ | split

theorem State.cnvBreak_held {s : State} {u : Nat} {cause : Nat} (hs : s.Held q fr) :
    State.Held q fr (State.cnvBreak s u cause) := by
  unfold State.cnvBreak
  repeat' first
    | with_reducible first
        | assumption | apply State.cnvLose_held | apply State.put_held | apply State.setUnit_held
    | intro _ | split

theorem State.cnvSearch_held {s : State} {u : Nat} {i : Nat} (hs : s.Held q fr) :
    State.Held q fr (State.cnvSearch s u i) := by
  unfold State.cnvSearch
  repeat' first
    | with_reducible first
        | assumption | apply State.cnvBreak_held | apply State.cnvStart_held | apply State.put_held
        | apply State.raise_held | apply State.setUnit_held
    | simp only | intro _ | split

theorem State.cnvClr_held {s : State} {v : Nat} (hs : s.Held q fr) :
    State.Held q fr (State.cnvClr s v) := by
  unfold State.cnvClr
  repeat' first
    | with_reducible first
        | assumption | apply State.put_held | apply State.setChan_held

end Sys2Proof.Machine
end

