-- ==== Sys2Proof/Laws/Held3.lean ====
section
/-! SUPPORT. The invariant, the waiting queue and the frame count through the shared operations of
Ingress, Meter, Ports, Fumarole, Links, References and Network:
a meaning that calls one of them cites its lemma. -/

namespace Sys2Proof.Machine

open Sys2Proof

variable {q : List Instr} {fr : Nat → Prop}

theorem State.ingressPut_held {s : State} {c : Nat} {f : Nat} {x : Sinter} (hs : s.Held q fr) :
    State.Held q fr (State.ingressPut s c f x) := by
  unfold State.ingressPut
  repeat' first
    | with_reducible first
        | assumption
    | simp only [State.held_same]

theorem State.s0Poison_held {s : State} {key : Nat} (hs : s.Held q fr) :
    State.Held q fr (State.s0Poison s key) := by
  unfold State.s0Poison
  repeat' first
    | with_reducible first
        | assumption | apply State.setRam_held
    | simp only | split

theorem State.s0CloseCl_held {p : Nat} {s : State} {cl : Nat} (hs : s.Held q fr) :
    State.Held q fr (State.s0CloseCl p s cl) := by
  unfold State.s0CloseCl
  repeat' first
    | with_reducible first
        | assumption | apply State.putBit_held | apply State.put_held | apply State.raise_held
        | apply State.s0Poison_held | apply State.Held.foldl
    | simp only [State.held_same] | intro _ | split

theorem State.s0Close_held {s : State} {p : Nat} (hs : s.Held q fr) :
    State.Held q fr (State.s0Close s p) := by
  unfold State.s0Close
  repeat' first
    | with_reducible first
        | assumption | apply State.s0CloseCl_held | apply State.Held.foldl
    | simp only [State.held_same]

theorem State.directSlots_held {s : State} {f : Nat} (hs : s.Held q fr) :
    State.Held q fr (State.directSlots s f) := by
  unfold State.directSlots
  repeat' first
    | with_reducible first
        | assumption | apply State.raiseOnce_held | apply State.Held.foldl
    | simp only [State.held_same] | intro _ | split

theorem State.stagedEvents_held {s : State} {c : Nat} (hs : s.Held q fr) :
    State.Held q fr (State.stagedEvents s c) := by
  unfold State.stagedEvents
  repeat' first
    | with_reducible first
        | assumption | apply State.raiseOnce_held
    | intro _ | split

theorem State.setPoint_held {s : State} {m : Nat} {p : Point} (hs : s.Held q fr) :
    State.Held q fr (State.setPoint s m p) := by
  unfold State.setPoint
  repeat' first
    | with_reducible first
        | assumption
    | simp only [State.held_same]

theorem State.measure_held {s : State} {a1 : Nat} {m : Nat} (hs : s.Held q fr) :
    State.Held q fr (State.measure s a1 m) := by
  unfold State.measure
  repeat' first
    | with_reducible first
        | assumption | apply State.putBit_held | apply State.raiseOnce_held | apply State.setPoint_held
        | apply State.Held.ite
    | intro _

theorem State.setGroup_held {s : State} {g : Nat} {p : Group} (hs : s.Held q fr) :
    State.Held q fr (State.setGroup s g p) := by
  unfold State.setGroup
  repeat' first
    | with_reducible first
        | assumption
    | simp only [State.held_same]

theorem State.loudness_held {before : State} {a1 : Nat} {s : State} {g : Nat} (hs : s.Held q fr) :
    State.Held q fr (State.loudness before a1 s g) := by
  unfold State.loudness
  repeat' first
    | with_reducible first
        | assumption | apply State.setGroup_held
    | simp only | intro _ | split

theorem State.snapSkip_held {s : State} (hs : s.Held q fr) :
    State.Held q fr (State.snapSkip s) := by
  unfold State.snapSkip
  repeat' first
    | with_reducible first
        | assumption | apply State.putBit_held | apply State.raiseOnce_held

theorem State.snapWrite_held {s : State} {a : Nat} {dram : Bool} (hs : s.Held q fr) :
    State.Held q fr (State.snapWrite s a dram) := by
  unfold State.snapWrite
  repeat' first
    | with_reducible first
        | assumption | apply State.dramStore_held | apply State.put_held | apply State.raiseOnce_held
        | apply State.Held.foldl
    | simp only [State.held_same] | intro _ | split

theorem State.snapshot_held {s : State} {a : Nat} (hs : s.Held q fr) : (State.snapshot s a).Held q fr := by
  have out {t : State} (ht : t.Held q fr) : ({ t with mtr := { t.mtr with points := t.mtr.points.map (fun e =>
      (e.1, { e.2 with peak := 0, tpeak := 0, miss := 0 })) } } : State).Held q fr := by
    simp only [State.held_same]; exact ht
  unfold State.snapshot
  dsimp only
  split
  · exact hs
  · refine out (State.Held.ite (fun _ => State.snapSkip_held hs) (fun _ => State.Held.ite (fun _ => ?_) (fun _ =>
      State.Held.ite (fun _ => State.snapWrite_held hs) (fun _ => State.snapSkip_held hs))))
    split
    · exact State.snapSkip_held hs
    · split
      · exact State.snapSkip_held (State.dramRefuses_held hs _ ‹_›)
      · exact State.snapWrite_held hs

theorem State.meterLatch_held {s : State} {a1 : Nat} (hs : s.Held q fr) :
    State.Held q fr (State.meterLatch s a1) := by
  unfold State.meterLatch
  repeat' first
    | with_reducible first
        | assumption | apply State.loudness_held | apply State.measure_held | apply State.snapshot_held
        | apply State.Held.foldl
    | simp only [State.held_same] | intro _

theorem State.mtrClips_held {s : State} {m : Nat} (hs : s.Held q fr) :
    State.Held q fr (State.mtrClips s m) := by
  unfold State.mtrClips
  repeat' first
    | with_reducible first
        | assumption | apply State.setPoint_held

theorem State.mtrHold_held {s : State} {m : Nat} (hs : s.Held q fr) :
    State.Held q fr (State.mtrHold s m) := by
  unfold State.mtrHold
  repeat' first
    | with_reducible first
        | assumption | apply State.setPoint_held

theorem State.laneForget_held {s : State} {n : Nat} {l : Nat} (hs : s.Held q fr) :
    State.Held q fr (State.laneForget s n l) := by
  unfold State.laneForget
  repeat' first
    | with_reducible first
        | assumption
    | simp only [State.held_same]

theorem State.maskEdge_held {s : State} {n : Nat} (hs : s.Held q fr) :
    State.Held q fr (State.maskEdge s n) := by
  unfold State.maskEdge
  repeat' first
    | with_reducible first
        | assumption
    | simp only [State.held_same] | split

theorem State.maskEdgeOwn_held {s : State} {n : Nat} (hs : s.Held q fr) :
    State.Held q fr (State.maskEdgeOwn s n) := by
  unfold State.maskEdgeOwn
  repeat' first
    | with_reducible first
        | assumption | apply State.maskEdge_held | apply State.Held.foldl
    | simp only [State.held_same] | intro _ | split

theorem State.portClock_held {s : State} {n : Nat} (hs : s.Held q fr) :
    State.Held q fr (State.portClock s n) := by
  unfold State.portClock
  repeat' first
    | with_reducible first
        | assumption
    | simp only [State.held_same] | intro _ | split

theorem State.portStopAt_held {s : State} {n : Nat} (hs : s.Held q fr) :
    State.Held q fr (State.portStopAt s n) := by
  unfold State.portStopAt
  repeat' first
    | with_reducible first
        | assumption | apply State.portClock_held | apply State.put_held
    | simp only [State.held_same] | intro _ | split

theorem State.portStop_held {s : State} (hs : s.Held q fr) :
    State.Held q fr (State.portStop s) := by
  unfold State.portStop
  repeat' first
    | with_reducible first
        | assumption | apply State.portStopAt_held | apply State.Held.foldl
    | simp only [State.held_same] | intro _

theorem State.mapBad_held {s : State} {n : Nat} (hs : s.Held q fr) :
    State.Held q fr (State.mapBad s n) := by
  unfold State.mapBad
  repeat' first
    | with_reducible first
        | assumption | apply State.putBit_held | apply State.raiseOnce_held

theorem State.vntForceWrite_held {s : State} {on : Bool} (hs : s.Held q fr) :
    State.Held q fr (State.vntForceWrite s on) := by
  unfold State.vntForceWrite
  repeat' first
    | with_reducible first
        | assumption | apply State.fumLockWrite_held | apply State.putBit_held | apply State.vntCause_held
        | apply State.vntClear_held
    | intro _ | split

theorem State.setTs_held {s : State} {ts : Nat} (hs : s.Held q fr) :
    State.Held q fr (State.setTs s ts) := by
  unfold State.setTs
  repeat' first
    | with_reducible first
        | assumption | apply State.putBit_held | apply State.put_held | apply State.raise_held
    | simp only [State.held_same] | intro _ | split

theorem State.setTsHere_held {s : State} {ts : Nat} (hs : s.Held q fr) :
    State.Held q fr (State.setTsHere s ts) := by
  unfold State.setTsHere
  repeat' first
    | with_reducible first
        | assumption | apply State.sendCtl_held | apply State.setTs_held
    | intro _ | split

theorem State.portCtlWrite_held {s : State} {n : Nat} {en : Bool} {arm : Bool} (hs : s.Held q fr) :
    State.Held q fr (State.portCtlWrite s n en arm) := by
  unfold State.portCtlWrite
  repeat' first
    | with_reducible first
        | assumption | apply State.portClock_held | apply State.putBit_held | apply State.put_held
        | apply State.vntInertAll_held
    | simp only [State.held_same] | intro _ | split

theorem State.lockClose_held {s : State} (hs : s.Held q fr) :
    State.Held q fr (State.lockClose s) := by
  unfold State.lockClose
  repeat' first
    | with_reducible first
        | assumption | apply State.putBit_held

theorem State.cnvUnfeed_held {s : State} {a1 : Nat} (hs : s.Held q fr) :
    State.Held q fr (State.cnvUnfeed s a1) := by
  unfold State.cnvUnfeed
  repeat' first
    | with_reducible first
        | assumption | apply State.setChan_held | apply State.Held.foldl
    | intro _

theorem State.codedLane_held {s : State} {n : Nat} {l : Nat} {pf : Nat} {w0 : BitVec 32} {w1 : BitVec 32} (hs : s.Held q fr) :
    State.Held q fr (State.codedLane s n l pf w0 w1) := by
  unfold State.codedLane
  repeat' first
    | with_reducible first
        | assumption | apply State.cnvUnfeed_held | apply State.ingressPut_held | apply State.laneForget_held
        | apply State.put_held | apply State.raise_held | apply State.Held.foldl
    | simp only [State.held_same] | intro _ | split

theorem State.portGlitch_held {s : State} {n : Nat} {bits : Nat} (hs : s.Held q fr) :
    State.Held q fr (State.portGlitch s n bits) := by
  unfold State.portGlitch
  repeat' first
    | with_reducible first
        | assumption | apply State.cnvBreak_held | apply State.putBit_held | apply State.put_held
        | apply State.raiseOnce_held | apply State.Held.foldl
    | intro _

theorem State.portDeliver_held {s : State} {n : Nat} {a2 : Nat} {x : Sinter} (hs : s.Held q fr) :
    State.Held q fr (State.portDeliver s n a2 x) := by
  unfold State.portDeliver
  repeat' first
    | with_reducible first
        | assumption | apply State.cnvFeed_held | apply State.ingressPut_held | apply State.mapBad_held
    | simp only [State.held_same] | intro _ | split

theorem State.portFrame_held {s : State} {n : Nat} {lanes : List (BitVec 65)} {bits : Nat} {mistimed : Bool} (hs : s.Held q fr) :
    State.Held q fr (State.portFrame s n lanes bits mistimed) := by
  unfold State.portFrame
  repeat' first
    | with_reducible first
        | assumption | apply State.codedLane_held | apply State.maskEdgeOwn_held | apply State.maskEdge_held
        | apply State.portDeliver_held | apply State.portGlitch_held | apply State.portStopAt_held
        | apply State.putBit_held | apply State.Held.foldl
    | simp only [State.held_same] | intro _ | split

theorem State.apGo_held {s : State} (hs : s.Held q fr) :
    State.Held q fr (State.apGo s) := by
  unfold State.apGo
  repeat' first
    | with_reducible first
        | assumption | apply State.setTsHere_held
    | intro _ | split

theorem State.lanemaskWrite_held {s : State} {n : Nat} {v : Nat} (hs : s.Held q fr) :
    State.Held q fr (State.lanemaskWrite s n v) := by
  unfold State.lanemaskWrite
  repeat' first
    | with_reducible first
        | assumption | apply State.put_held
    | simp only [State.held_same]

theorem State.pairStart_held {s0 : State} (hs0 : s0.Held q fr) :
    State.Held q fr (State.pairStart s0) := by
  unfold State.pairStart
  repeat' first
    | with_reducible first
        | assumption | apply State.putBit_held
    | simp only [State.held_same] | intro _ | split

theorem State.fumTick_held {s : State} (hs : s.Held q fr) :
    State.Held q fr (State.fumTick s) := by
  unfold State.fumTick
  repeat' first
    | with_reducible first
        | assumption | apply State.put_held

theorem State.setFumSlot_held {s : State} {o : Nat} {x : FumSlot} (hs : s.Held q fr) :
    State.Held q fr (State.setFumSlot s o x) := by
  unfold State.setFumSlot
  repeat' first
    | with_reducible first
        | assumption
    | simp only [State.held_same]

theorem State.fumLook_held {o : Nat} {s : State} {a2 : Nat} (hs : s.Held q fr) :
    State.Held q fr (State.fumLook o s a2) := by
  unfold State.fumLook
  repeat' first
    | with_reducible first
        | assumption | apply State.fumEventOnce_held | apply State.setFumSlot_held | apply State.Held.ite
    | simp only [State.held_same] | intro _ | split

theorem State.fumCodedMute_held {s : State} {o : Nat} {a2 : Nat} {d : Nat} (hs : s.Held q fr) :
    State.Held q fr (State.fumCodedMute s o a2 d) := by
  unfold State.fumCodedMute
  repeat' first
    | with_reducible first
        | assumption | apply State.fumEventOnce_held | apply State.setFumSlot_held

theorem State.fumCoded_held {o : Nat} {s : State} {a2 : Nat} (hs : s.Held q fr) :
    State.Held q fr (State.fumCoded o s a2) := by
  unfold State.fumCoded
  repeat' first
    | with_reducible first
        | assumption | apply State.fumCodedMute_held
    | intro _ | split

theorem State.fumCheck_held {s : State} {a1 : Nat} (hs : s.Held q fr) :
    State.Held q fr (State.fumCheck s a1) := by
  unfold State.fumCheck
  repeat' first
    | with_reducible first
        | assumption | apply State.fumCoded_held | apply State.fumEventOnce_held | apply State.fumLook_held
        | apply State.Held.foldl
    | intro _ | split

theorem State.fumHandSlot_held {f : Nat} {s : State} {o : Nat} (hs : s.Held q fr) :
    State.Held q fr (State.fumHandSlot f s o) := by
  unfold State.fumHandSlot
  repeat' first
    | with_reducible first
        | assumption | apply State.bump_held | apply State.fumEventOnce_held | apply State.setFumSlot_held
    | simp only [State.held_same] | intro _ | split

theorem nextAngle_le {a : Nat} {d : Option Nat} (h : a ≤ 144) : nextAngle a d ≤ 144 := by
  unfold nextAngle
  split
  · exact Nat.min_le_left _ _
  · exact Nat.le_trans (Nat.sub_le _ _) h

theorem State.fumWeight_held {s : State} {f : Nat} (hs : s.Held q fr) : (State.fumWeight s f).Held q fr := by
  obtain ⟨hq, hn, hr, hs, hd, hl, ht, ha, hb, hf, hv⟩ := hs
  exact ⟨hq, hn, hr, hs, hd, hl, ht, ha, hb, nextAngle_le hf, hv⟩

theorem State.fumHand_held {s : State} {f : Nat} (hs : s.Held q fr) :
    State.Held q fr (State.fumHand s f) := by
  unfold State.fumHand
  repeat' first
    | with_reducible first
        | assumption | apply State.fumHandSlot_held | apply State.fumWeight_held | apply State.Held.foldl

theorem State.fumrecAck_held {s : State} (hs : s.Held q fr) :
    State.Held q fr (State.fumrecAck s) := by
  unfold State.fumrecAck
  repeat' first
    | with_reducible first
        | assumption | apply State.faultN_held | apply State.putBit_held

theorem State.fumrecClr_held {s : State} {mgmt : Bool} (hs : s.Held q fr) :
    State.Held q fr (State.fumrecClr s mgmt) := by
  unfold State.fumrecClr
  repeat' first
    | with_reducible first
        | assumption | apply State.fumrecAck_held | apply State.putBit_held | apply State.put_held | apply State.Held.foldl
    | simp only [State.held_same] | intro _ | split

theorem State.slotMuteClear_held {s : State} {o : Nat} {cause : Nat} (hs : s.Held q fr) :
    State.Held q fr (State.slotMuteClear s o cause) := by
  unfold State.slotMuteClear
  repeat' first
    | with_reducible first
        | assumption | apply State.setFumSlot_held

theorem State.fumMuteReq_held {s : State} {on : Bool} {mgmt : Bool} (hs : s.Held q fr) :
    State.Held q fr (State.fumMuteReq s on mgmt) := by
  unfold State.fumMuteReq
  repeat' first
    | with_reducible first
        | assumption | apply State.fumCause_held | apply State.fumClear_held | apply State.putBit_held
    | intro _ | split

theorem State.fumcntClear_held {s : State} (hs : s.Held q fr) :
    State.Held q fr (State.fumcntClear s) := by
  unfold State.fumcntClear
  repeat' first
    | with_reducible first
        | assumption | apply State.put_held

theorem State.lnkcntClear_held {s : State} {n : Nat} (hs : s.Held q fr) :
    State.Held q fr (State.lnkcntClear s n) := by
  unfold State.lnkcntClear
  repeat' first
    | with_reducible first
        | assumption | apply State.put_held

theorem State.pairGone_held {s : State} (hs : s.Held q fr) :
    State.Held q fr (State.pairGone s) := by
  unfold State.pairGone
  repeat' first
    | with_reducible first
        | assumption | apply State.raise_held
    | simp only [State.held_same] | intro _ | split

theorem State.pairTake_held {s : State} (hs : s.Held q fr) :
    State.Held q fr (State.pairTake s) := by
  unfold State.pairTake
  repeat' first
    | with_reducible first
        | assumption | apply State.putBit_held | apply State.raise_held
    | simp only [State.held_same]

theorem State.actFall_held {s : State} (hs : s.Held q fr) :
    State.Held q fr (State.actFall s) := by
  unfold State.actFall
  repeat' first
    | with_reducible first
        | assumption | apply State.pairTake_held | apply State.putBit_held
    | simp only [State.held_same] | intro _ | split

theorem State.actLevel_held {s : State} {high : Bool} (hs : s.Held q fr) :
    State.Held q fr (State.actLevel s high) := by
  unfold State.actLevel
  repeat' first
    | with_reducible first
        | assumption | apply State.actFall_held | apply State.pairGone_held | apply State.putBit_held
    | simp only [State.held_same] | intro _ | split

theorem State.pairRelease_held {s : State} (hs : s.Held q fr) :
    State.Held q fr (State.pairRelease s) := by
  unfold State.pairRelease
  repeat' first
    | with_reducible first
        | assumption | apply State.putBit_held
    | simp only [State.held_same] | intro _ | split

theorem State.heartbeat_held {s : State} (hs : s.Held q fr) :
    State.Held q fr (State.heartbeat s) := by
  unfold State.heartbeat
  repeat' first
    | with_reducible first
        | assumption | apply State.sendCtl_held
    | simp only [State.held_same] | intro _ | split

theorem State.linkFeed_held {s : State} {f : Nat} (hs : s.Held q fr) :
    State.Held q fr (State.linkFeed s f) := by
  unfold State.linkFeed
  repeat' first
    | with_reducible first
        | assumption | apply State.cnvFeed_held | apply State.raiseOnce_held | apply State.Held.foldl
    | intro _ | split

theorem State.pairYield_held {s : State} (hs : s.Held q fr) :
    State.Held q fr (State.pairYield s) := by
  unfold State.pairYield
  repeat' first
    | with_reducible first
        | assumption
    | simp only [State.held_same] | intro _ | split

theorem State.pairElig_held {s : State} (hs : s.Held q fr) :
    State.Held q fr (State.pairElig s) := by
  unfold State.pairElig
  repeat' first
    | with_reducible first
        | assumption | apply State.putBit_held

theorem State.pairCompare_held {s : State} {a1 : Nat} (hs : s.Held q fr) :
    State.Held q fr (State.pairCompare s a1) := by
  unfold State.pairCompare
  repeat' first
    | with_reducible first
        | assumption | apply State.bump_held | apply State.pairElig_held | apply State.pairYield_held
        | apply State.putBit_held | apply State.raise_held
    | simp only [State.held_same] | intro _ | split

theorem State.linkTx_held {s : State} {e : Nat} (hs : s.Held q fr) :
    State.Held q fr (State.linkTx s e) := by
  unfold State.linkTx
  repeat' first
    | with_reducible first
        | assumption | apply State.raiseOnce_held | apply State.Held.foldl
    | simp only [State.held_same] | intro _ | split

theorem State.linkWide_held {s : State} {n : Nat} {e : Nat} {crc : Bool} {w : LinkWords} (hs : s.Held q fr) :
    State.Held q fr (State.linkWide s n e crc w) := by
  unfold State.linkWide
  repeat' first
    | with_reducible first
        | assumption | apply State.Held.foldl
    | simp only [State.held_same] | intro _ | split

theorem State.linkDrop_held {s : State} {n : Nat} (hs : s.Held q fr) :
    State.Held q fr (State.linkDrop s n) := by
  unfold State.linkDrop
  repeat' first
    | with_reducible first
        | assumption | apply State.pairElig_held | apply State.putBit_held | apply State.put_held | apply State.raise_held
    | simp only [State.held_same] | intro _ | split

theorem State.lnkcascWrite_held {s0 : State} {v : Nat} (hs0 : s0.Held q fr) :
    State.Held q fr (State.lnkcascWrite s0 v) := by
  unfold State.lnkcascWrite
  repeat' first
    | with_reducible first
        | assumption | apply State.putBit_held | apply State.put_held
    | simp only | intro _ | split

theorem State.linkCount_held {s : State} {n : Nat} {e : Nat} {fc : Nat} (hs : s.Held q fr) :
    State.Held q fr (State.linkCount s n e fc) := by
  unfold State.linkCount
  repeat' first
    | with_reducible first
        | assumption | apply State.putBit_held | apply State.raise_held
    | simp only [State.held_same] | intro _ | split

theorem State.pairRecord_held {s : State} {r : PairRecord} (hs : s.Held q fr) :
    State.Held q fr (State.pairRecord s r) := by
  unfold State.pairRecord
  repeat' first
    | with_reducible first
        | assumption
    | simp only [State.held_same]

theorem State.lnkcfgWrite_held {s : State} {n : Nat} {v : Nat} (hs : s.Held q fr) :
    State.Held q fr (State.lnkcfgWrite s n v) := by
  unfold State.lnkcfgWrite
  repeat' first
    | with_reducible first
        | assumption | apply State.linkDrop_held | apply State.put_held
    | intro _ | split

theorem State.linkSource_held {s : State} {c : Nat} {per : Nat} {xs : List Sinter} (hs : s.Held q fr) :
    State.Held q fr (State.linkSource s c per xs) := by
  unfold State.linkSource
  repeat' first
    | with_reducible first
        | assumption | apply State.ingressPut_held | apply State.Held.foldl
    | simp only [State.held_same] | intro _

theorem State.linkGive_held {s : State} {c : Nat} {f : Nat} {x : Sinter} (hs : s.Held q fr) :
    State.Held q fr (State.linkGive s c f x) := by
  unfold State.linkGive
  repeat' first
    | with_reducible first
        | assumption | apply State.ingressPut_held
    | simp only [State.held_same] | intro _ | split

theorem State.linkAudio_held {s : State} {n : Nat} {e : Nat} {crc : Bool} {w : LinkWords} (hs : s.Held q fr) :
    State.Held q fr (State.linkAudio s n e crc w) := by
  unfold State.linkAudio
  repeat' first
    | with_reducible first
        | assumption | apply State.linkGive_held | apply State.linkSource_held | apply State.Held.foldl
    | intro _ | split

theorem State.forward_held {s : State} {n : Nat} {origin : Nat} {seq : Nat} {m : CtrlMsg} (hs : s.Held q fr) :
    State.Held q fr (State.forward s n origin seq m) := by
  unfold State.forward
  repeat' first
    | with_reducible first
        | assumption
    | simp only [State.held_same]

theorem State.adoptCount_held {s : State} {f : Nat} (hs : s.Held q fr) (hn : fr (f % 2 ^ 64)) :
    (State.adoptCount s f).Held q fr := by
  unfold State.adoptCount
  split
  · obtain ⟨hq, -, hr, hs, hd, hl, ht, ha, hb, hf, hv⟩ := State.putBit_held (f := Reg.LNKCASCSTAT_FC_SYNC) (b := true) hs
    exact ⟨hq, hn, hr, hs, hd, hl, ht, ha, hb, hf, hv⟩
  · exact hs

theorem State.refRefuse_held {s : State} (hs : s.Held q fr) :
    State.Held q fr (State.refRefuse s) := by
  unfold State.refRefuse
  repeat' first
    | with_reducible first
        | assumption | apply State.putBit_held | apply State.raise_held

theorem State.slewStart_held {s : State} (hs : s.Held q fr) :
    State.Held q fr (State.slewStart s) := by
  unfold State.slewStart
  repeat' first
    | with_reducible first
        | assumption
    | simp only [State.held_same]

theorem State.realign_held {s : State} (hs : s.Held q fr) :
    State.Held q fr (State.realign s) := by
  unfold State.realign
  repeat' first
    | with_reducible first
        | assumption | apply State.putBit_held | apply State.refRefuse_held | apply State.slewStart_held
    | intro _ | split

theorem State.tcLatch_held {s : State} (hs : s.Held q fr) :
    State.Held q fr (State.tcLatch s) := by
  unfold State.tcLatch
  repeat' first
    | with_reducible first
        | assumption | apply State.putBit_held | apply State.put_held | apply State.raise_held
    | intro _ | split

theorem State.setBo_held {s : State} {bo : Nat} (hs : s.Held q fr) :
    State.Held q fr (State.setBo s bo) := by
  unfold State.setBo
  repeat' first
    | with_reducible first
        | assumption | apply State.putBit_held | apply State.put_held

theorem State.refsteerWrite_held {s : State} {v : BitVec 32} (hs : s.Held q fr) :
    (State.refsteerWrite s v).Held q fr := by
  unfold State.refsteerWrite
  split
  · exact (State.put_held hs _ _).same rfl rfl rfl rfl rfl rfl rfl
  · exact hs

theorem State.holdAt_held {s : State} {steer : Nat} (hs : s.Held q fr) :
    State.Held q fr (State.holdAt s steer) := by
  unfold State.holdAt
  repeat' first
    | with_reducible first
        | assumption | apply State.putBit_held | apply State.put_held | apply State.raise_held
    | intro _ | split

theorem State.holdEnter_held {s : State} (hs : s.Held q fr) :
    State.Held q fr (State.holdEnter s) := by
  unfold State.holdEnter
  repeat' first
    | with_reducible first
        | assumption | apply State.holdAt_held
    | intro _ | split

theorem State.refctlApply_held {s : State} (hs : s.Held q fr) : (State.refctlApply s).Held q fr := by
  unfold State.refctlApply
  split
  · exact hs
  · exact (State.put_held (State.putBit_held hs) _ _).same rfl rfl rfl rfl rfl rfl rfl

theorem State.switchFail_held {s : State} (hs : s.Held q fr) :
    State.Held q fr (State.switchFail s) := by
  unfold State.switchFail
  repeat' first
    | with_reducible first
        | assumption | apply State.holdAt_held | apply State.putBit_held | apply State.put_held | apply State.raise_held
        | apply State.refctlApply_held
    | simp only [State.held_same]

theorem State.inputFollow_held {s : State} (hs : s.Held q fr) :
    State.Held q fr (State.inputFollow s) := by
  unfold State.inputFollow
  repeat' first
    | with_reducible first
        | assumption | apply State.holdEnter_held | apply State.putBit_held | apply State.put_held
        | apply State.switchFail_held
    | simp only [State.held_same] | intro _ | split

theorem State.refRecord_held {offs : List (BitVec 32)} {m : Nat} {s : State} {r : Nat} (hs : s.Held q fr) :
    State.Held q fr (State.refRecord offs m s r) := by
  unfold State.refRecord
  repeat' first
    | with_reducible first
        | assumption | apply State.putBit_held | apply State.put_held

theorem State.setRef_held {s : State} {r : Nat} {st : Nat} (hs : s.Held q fr) :
    State.Held q fr (State.setRef s r st) := by
  unfold State.setRef
  repeat' first
    | with_reducible first
        | assumption | apply State.put_held
    | simp only [State.held_same]

theorem State.switchStart_held {s : State} {b : Nat} {bo : Nat} (hs : s.Held q fr) :
    State.Held q fr (State.switchStart s b bo) := by
  unfold State.switchStart
  repeat' first
    | with_reducible first
        | assumption | apply State.putBit_held | apply State.raise_held | apply State.setBo_held
    | simp only [State.held_same] | intro _ | split

theorem State.refSelect_held {s : State} {bo : Nat} (hs : s.Held q fr) :
    State.Held q fr (State.refSelect s bo) := by
  unfold State.refSelect
  repeat' first
    | with_reducible first
        | assumption | apply State.holdEnter_held | apply State.put_held | apply State.switchStart_held
    | intro _ | split

theorem State.loopFallback_held {s : State} {dev : Nat} (hs : s.Held q fr) :
    State.Held q fr (State.loopFallback s dev) := by
  unfold State.loopFallback
  repeat' first
    | with_reducible first
        | assumption | apply State.inputFollow_held | apply State.inselTo_held | apply State.raise_held
    | intro _ | split

theorem State.loopToHold_held {s : State} (hs : s.Held q fr) :
    State.Held q fr (State.loopToHold s) := by
  unfold State.loopToHold
  repeat' first
    | with_reducible first
        | assumption | apply State.putBit_held | apply State.setLoop_held
    | simp only [State.held_same]

theorem State.fallbackCheck_held {s : State} {dev : Nat} (hs : s.Held q fr) :
    State.Held q fr (State.fallbackCheck s dev) := by
  unfold State.fallbackCheck
  repeat' first
    | with_reducible first
        | assumption | apply State.loopFallback_held | apply State.loopToHold_held
    | simp only | intro _ | split

theorem State.refChanged_held {s : State} {dev : Nat} {bo : Nat} (hs : s.Held q fr) :
    State.Held q fr (State.refChanged s dev bo) := by
  unfold State.refChanged
  repeat' first
    | with_reducible first
        | assumption | apply State.fallbackCheck_held | apply State.loopFallback_held | apply State.refSelect_held
        | apply State.switchFail_held
    | intro _ | split

theorem State.hrefReturn_held {s : State} {dev : Nat} (hs : s.Held q fr) :
    State.Held q fr (State.hrefReturn s dev) := by
  unfold State.hrefReturn
  repeat' first
    | with_reducible first
        | assumption | apply State.inputFollow_held | apply State.inselTo_held | apply State.raise_held
    | intro _ | split

theorem State.tcNsRead_held {s : State} {d : Nat} (hs : s.Held q fr) :
    State.Held q fr (State.tcNsRead s d) := by
  unfold State.tcNsRead
  repeat' first
    | with_reducible first
        | assumption | apply State.put_held

theorem State.refDwell_held {s : State} {r : Nat} (hs : s.Held q fr) :
    State.Held q fr (State.refDwell s r) := by
  unfold State.refDwell
  repeat' first
    | with_reducible first
        | assumption | apply State.bump_held | apply State.put_held
    | intro _ | split

theorem State.Held.domain {q : List Instr} {fr : Nat → Prop} {s : State} (hs : s.Held q fr) (d : Nat) : (s.domain d).legal := by
  unfold State.domain
  split
  · exact hs.2.2.timeA
  · exact hs.2.2.timeB

theorem State.setDomain_held {s : State} {d : Nat} {x : Domain} (hs : s.Held q fr) (hx : x.legal) :
    (State.setDomain s d x).Held q fr := by
  obtain ⟨hq, hn, hr, hs, hd, hl, ht, ha, hb, hf, hv⟩ := hs
  unfold State.setDomain
  split
  · exact ⟨hq, hn, hr, hs, hd, hl, ht, hx, hb, hf, hv⟩
  · exact ⟨hq, hn, hr, hs, hd, hl, ht, ha, hx, hf, hv⟩

theorem State.tcIncWrite_held {s : State} {d ns : Nat} (hs : s.Held q fr) : (State.tcIncWrite s d ns).Held q fr := by
  unfold State.tcIncWrite
  have h1 := State.put_held hs (Reg.TC_INC_NS_NS d) ns
  obtain ⟨a1, a2, a3, a4, a5, a6⟩ := h1.domain d
  refine State.setDomain_held h1 ⟨a1, a2, a3, ?_, ?_, ?_⟩
  · exact Nat.le_max_left _ _
  · exact Nat.max_lt.2 ⟨by decide, Nat.mod_lt _ (by decide)⟩
  · exact Nat.mod_lt _ (by decide)

theorem State.refFail_held {s : State} {r : Nat} {c : Nat} (hs : s.Held q fr) :
    State.Held q fr (State.refFail s r c) := by
  unfold State.refFail
  repeat' first
    | with_reducible first
        | assumption | apply State.put_held | apply State.raise_held | apply State.setRef_held
    | simp only | intro _ | split

theorem State.refGone_held {s : State} {r : Nat} (hs : s.Held q fr) :
    State.Held q fr (State.refGone s r) := by
  unfold State.refGone
  repeat' first
    | with_reducible first
        | assumption | apply State.putBit_held | apply State.put_held | apply State.refFail_held

theorem State.tcStepped_held {s : State} {d : Nat} {bo : Nat} (hs : s.Held q fr) :
    State.Held q fr (State.tcStepped s d bo) := by
  unfold State.tcStepped
  repeat' first
    | with_reducible first
        | assumption | apply State.raise_held | apply State.setBo_held | apply State.slewStart_held
    | intro _ | split

theorem State.tcAdj_held {s : State} {d bo : Nat} (hs : s.Held q fr) : (State.tcAdj s d bo).Held q fr := by
  unfold State.tcAdj
  obtain ⟨a1, a2, a3, a4, a5, a6⟩ := hs.domain d
  refine State.tcStepped_held (State.setDomain_held hs ⟨?_, ?_, a3, a4, a5, a6⟩) <;> dsimp only <;> omega

theorem State.refDrift_held {s : State} {r : Nat} (hs : s.Held q fr) :
    State.Held q fr (State.refDrift s r) := by
  unfold State.refDrift
  repeat' first
    | with_reducible first
        | assumption | apply State.put_held | apply State.raise_held | apply State.setRef_held

theorem State.refQualify_held {drift : Option Nat} {s : State} {r : Nat} (hs : s.Held q fr) :
    State.Held q fr (State.refQualify drift s r) := by
  unfold State.refQualify
  repeat' first
    | with_reducible first
        | assumption | apply State.refDrift_held | apply State.refFail_held | apply State.setRef_held
    | simp only | intro _ | split

theorem State.boAfresh_held {s : State} (hs : s.Held q fr) :
    State.Held q fr (State.boAfresh s) := by
  unfold State.boAfresh
  repeat' first
    | with_reducible first
        | assumption | apply State.put_held | apply State.setBo_held
    | intro _ | split

theorem State.modeWrite_held {s : State} {m : Bool} (hs : s.Held q fr) : (State.modeWrite s m).Held q fr := by
  unfold State.modeWrite
  dsimp only
  split
  · exact (State.putBit_held (State.putBit_held hs)).same rfl rfl rfl rfl rfl rfl rfl
  · split
    · exact State.refSelect_held (State.boAfresh_held (State.putBit_held hs))
    · exact State.putBit_held hs

theorem State.inputLost_held {s : State} {dev : Nat} (hs : s.Held q fr) :
    State.Held q fr (State.inputLost s dev) := by
  unfold State.inputLost
  repeat' first
    | with_reducible first
        | assumption | apply State.loopFallback_held | apply State.loopToHold_held | apply State.putBit_held
        | apply State.raise_held | apply State.refGone_held | apply State.refSelect_held | apply State.switchFail_held
    | simp only [State.held_same] | intro _ | split

theorem State.refBack_held {s : State} {r : Nat} (hs : s.Held q fr) :
    State.Held q fr (State.refBack s r) := by
  unfold State.refBack
  repeat' first
    | with_reducible first
        | assumption | apply State.setRef_held
    | intro _ | split

theorem State.inputReturn_held {s : State} {dev : Nat} (hs : s.Held q fr) :
    State.Held q fr (State.inputReturn s dev) := by
  unfold State.inputReturn
  repeat' first
    | with_reducible first
        | assumption | apply State.loopCapture_held | apply State.putBit_held | apply State.refBack_held
        | apply State.refChanged_held
    | simp only [State.held_same] | intro _ | split

theorem State.corecfgWrite_held {s : State} {insel : Nat} {refscale : Nat} {dev : Nat} (hs : s.Held q fr) :
    State.Held q fr (State.corecfgWrite s insel refscale dev) := by
  unfold State.corecfgWrite
  repeat' first
    | with_reducible first
        | assumption | apply State.inputFollow_held | apply State.inselTo_held | apply State.refscaleWrite_held
    | intro _ | split

theorem State.refctlWrite_held {s : State} {v : Nat} (hs : s.Held q fr) :
    State.Held q fr (State.refctlWrite s v) := by
  unfold State.refctlWrite
  repeat' first
    | with_reducible first
        | assumption | apply State.realign_held | apply State.refSelect_held | apply State.refctlApply_held
    | simp only [State.held_same] | intro _ | split

theorem State.refWrite_held {s : State} {r : Nat} {en : Bool} {ql : Nat} {prio : Nat} {valid : Bool} (hs : s.Held q fr) :
    State.Held q fr (State.refWrite s r en ql prio valid) := by
  unfold State.refWrite
  repeat' first
    | with_reducible first
        | assumption | apply State.putBit_held | apply State.put_held | apply State.refBack_held
        | apply State.refChanged_held | apply State.refFail_held | apply State.refGone_held | apply State.setRef_held
    | simp only | intro _ | split

theorem State.tcSet_held {s : State} {d bo : Nat} (hs : s.Held q fr) : (State.tcSet s d bo).Held q fr := by
  unfold State.tcSet
  extract_lets ns
  split
  · exact State.refRefuse_held hs
  · obtain ⟨a1, a2, a3, a4, a5, a6⟩ := hs.domain d
    refine State.tcStepped_held (State.setDomain_held hs ⟨Nat.mod_lt _ (by decide), ?_, ?_, a4, a5, a6⟩)
    · show ns < 1000000000
      omega
    · show 0 < 2 ^ 32
      decide

theorem State.txqHeadWrite_held {s : State} {n : Nat} {v : Nat} (hs : s.Held q fr) :
    State.Held q fr (State.txqHeadWrite s n v) := by
  unfold State.txqHeadWrite
  repeat' first
    | with_reducible first
        | assumption | apply State.put_held

theorem State.setStreamRx_held {s : State} {r : Nat} {x : StreamRx} (hs : s.Held q fr) :
    State.Held q fr (State.setStreamRx s r x) := by
  unfold State.setStreamRx
  repeat' first
    | with_reducible first
        | assumption
    | simp only [State.held_same]

theorem State.stmFault_held {s : State} {tx : Bool} {n : Nat} {kind : Nat} (hs : s.Held q fr) :
    State.Held q fr (State.stmFault s tx n kind) := by
  unfold State.stmFault
  repeat' first
    | with_reducible first
        | assumption | apply State.putBit_held | apply State.put_held

theorem State.rxEarly_held {s : State} {r : Nat} (hs : s.Held q fr) :
    State.Held q fr (State.rxEarly s r) := by
  unfold State.rxEarly
  repeat' first
    | with_reducible first
        | assumption | apply State.bump_held | apply State.raiseOnce_held | apply State.stmFault_held

theorem State.rxLate_held {s : State} {r : Nat} (hs : s.Held q fr) :
    State.Held q fr (State.rxLate s r) := by
  unfold State.rxLate
  repeat' first
    | with_reducible first
        | assumption | apply State.bump_held | apply State.raiseOnce_held | apply State.stmFault_held

theorem State.bufWrite_held {s : State} {r : Nat} {bs : List Nat} {k : Nat} {f : Nat} (hs : s.Held q fr) :
    State.Held q fr (State.bufWrite s r bs k f) := by
  unfold State.bufWrite
  repeat' first
    | with_reducible first
        | assumption | apply State.setRam_held | apply State.Held.foldl
    | simp only [State.held_same] | intro _

theorem State.rxAsync_held {s : State} {r : Nat} {bs : List Nat} {ts : Nat} (hs : s.Held q fr) :
    State.Held q fr (State.rxAsync s r bs ts) := by
  unfold State.rxAsync
  repeat' first
    | with_reducible first
        | assumption | apply State.bufWrite_held | apply State.rxEarly_held | apply State.rxLate_held
        | apply State.setStreamRx_held | apply State.Held.foldl
    | simp only | intro _ | split

theorem State.stmTotals_held {s : State} (hs : s.Held q fr) :
    State.Held q fr (State.stmTotals s) := by
  unfold State.stmTotals
  repeat' first
    | with_reducible first
        | assumption | apply State.put_held

theorem State.samplesForget_held {s : State} {r : Nat} (hs : s.Held q fr) :
    State.Held q fr (State.samplesForget s r) := by
  unfold State.samplesForget
  repeat' first
    | with_reducible first
        | assumption
    | simp only [State.held_same]

theorem State.stmStart_held {s : State} {tx : Bool} {n : Nat} (hs : s.Held q fr) :
    State.Held q fr (State.stmStart s tx n) := by
  unfold State.stmStart
  repeat' first
    | with_reducible first
        | assumption | apply State.put_held | apply State.raiseOnce_held | apply State.samplesForget_held
        | apply State.setStreamRx_held | apply State.stmFault_held | apply State.stmTotals_held
    | simp only | intro _ | split

theorem State.streamSteer_held {s : State} {r : Nat} (hs : s.Held q fr) :
    State.Held q fr (State.streamSteer s r) := by
  unfold State.streamSteer
  repeat' first
    | with_reducible first
        | assumption | apply State.setStreamRx_held
    | simp only | intro _ | split

theorem State.netGive_held {s : State} {c : Nat} {f : Nat} {x : Sinter} (hs : s.Held q fr) :
    State.Held q fr (State.netGive s c f x) := by
  unfold State.netGive
  repeat' first
    | with_reducible first
        | assumption | apply State.cnvFeed_held | apply State.ingressPut_held
    | intro _ | split

theorem State.netMismatch_held {s : State} {tx : Bool} {n : Nat} (hs : s.Held q fr) :
    State.Held q fr (State.netMismatch s tx n) := by
  unfold State.netMismatch
  repeat' first
    | with_reducible first
        | assumption | apply State.raiseOnce_held | apply State.stmFault_held

theorem State.netMissing_held {s : State} {r : Nat} (hs : s.Held q fr) :
    State.Held q fr (State.netMissing s r) := by
  unfold State.netMissing
  repeat' first
    | with_reducible first
        | assumption | apply State.bump_held | apply State.raiseOnce_held | apply State.stmFault_held

theorem State.netChannel_held {f : Nat} {p : State × List Nat} {c : Nat} (hp : p.1.Held q fr) :
    State.Held q fr (State.netChannel f p c).1 := by
  unfold State.netChannel
  repeat' first
    | with_reducible first
        | assumption | apply State.netGive_held | apply State.netMismatch_held | apply State.netMissing_held
    | simp only [State.held_same] | intro _ | split

theorem State.clearPresent_held {s : State} {keys : List Nat} (hs : s.Held q fr) :
    State.Held q fr (State.clearPresent s keys) := by
  unfold State.clearPresent
  repeat' first
    | with_reducible first
        | assumption
    | simp only [State.held_same]

theorem State.Held.foldl2 {q : List Instr} {fr : Nat → Prop} {α β : Type} {f : State × β → α → State × β} {p : State × β} (h : p.1.Held q fr)
    (l : List α) (hf : ∀ p x, p.1.Held q fr → (f p x).1.Held q fr) : (l.foldl f p).1.Held q fr := by
  induction l generalizing p with
  | nil => exact h
  | cons x l ih => exact ih (hf _ _ h)

theorem State.netDeposit_held {s : State} {f : Nat} (hs : s.Held q fr) : (State.netDeposit s f).Held q fr := by
  unfold State.netDeposit
  exact State.clearPresent_held (State.Held.foldl2 (State.Held.foldl hs _ (fun _ _ h => State.streamSteer_held h)) _
    (fun _ _ h => State.netChannel_held h))

theorem State.stmDrop_held {s : State} {t : Nat} (hs : s.Held q fr) :
    State.Held q fr (State.stmDrop s t) := by
  unfold State.stmDrop
  repeat' first
    | with_reducible first
        | assumption | apply State.bump_held | apply State.put_held | apply State.raiseOnce_held

theorem State.setNetPort_held {s : State} {n : Nat} {x : NetPort} (hs : s.Held q fr) :
    State.Held q fr (State.setNetPort s n x) := by
  unfold State.setNetPort
  repeat' first
    | with_reducible first
        | assumption
    | simp only [State.held_same]

theorem State.packetQueue_held {s : State} {t : Nat} {bs : List Nat} (hs : s.Held q fr) :
    State.Held q fr (State.packetQueue s t bs) := by
  unfold State.packetQueue
  repeat' first
    | with_reducible first
        | assumption | apply State.setNetPort_held | apply State.stmDrop_held
    | simp only | intro _ | split

theorem State.streamQueue_held {s : State} (hs : s.Held q fr) :
    State.Held q fr (State.streamQueue s) := by
  unfold State.streamQueue
  repeat' first
    | with_reducible first
        | assumption | apply State.packetQueue_held | apply State.put_held | apply State.Held.foldl
    | simp only [State.held_same] | intro _ | split

theorem State.txCollect_held {s : State} {t : Nat} {f : Nat} {x : StreamTx} (hs : s.Held q fr) :
    State.Held q fr (State.txCollect s t f x) := by
  unfold State.txCollect
  repeat' first
    | with_reducible first
        | assumption | apply State.netMismatch_held | apply State.raiseOnce_held | apply State.stmFault_held
    | simp only [State.held_same] | intro _ | split

theorem State.streamCollect_held {s : State} {f : Nat} (hs : s.Held q fr) :
    State.Held q fr (State.streamCollect s f) := by
  unfold State.streamCollect
  repeat' first
    | with_reducible first
        | assumption | apply State.txCollect_held | apply State.Held.foldl
    | simp only | intro _ | split

theorem State.stmStop_held {s : State} {tx : Bool} {n : Nat} (hs : s.Held q fr) :
    State.Held q fr (State.stmStop s tx n) := by
  unfold State.stmStop
  repeat' first
    | with_reducible first
        | assumption | apply State.put_held | apply State.setStreamRx_held | apply State.stmTotals_held
    | simp only [State.held_same] | intro _ | split

theorem State.stmCtlWrite_held {s : State} {tx : Bool} {n : Nat} {v : Nat} (hs : s.Held q fr) :
    State.Held q fr (State.stmCtlWrite s tx n v) := by
  unfold State.stmCtlWrite
  repeat' first
    | with_reducible first
        | assumption | apply State.put_held | apply State.stmStart_held | apply State.stmStop_held
    | intro _ | split

theorem State.strxcntClear_held {s : State} {r : Nat} {i : Nat} (hs : s.Held q fr) :
    State.Held q fr (State.strxcntClear s r i) := by
  unfold State.strxcntClear
  repeat' first
    | with_reducible first
        | assumption | apply State.put_held
    | intro _ | split

theorem State.netcntClear_held {s : State} {n : Nat} {i : Nat} (hs : s.Held q fr) :
    State.Held q fr (State.netcntClear s n i) := by
  unfold State.netcntClear
  repeat' first
    | with_reducible first
        | assumption | apply State.put_held
    | intro _ | split

theorem State.rxSync_held {s : State} {r : Nat} {bs : List Nat} {ts : Nat} (hs : s.Held q fr) :
    State.Held q fr (State.rxSync s r bs ts) := by
  unfold State.rxSync
  repeat' first
    | with_reducible first
        | assumption | apply State.bufWrite_held | apply State.rxEarly_held | apply State.rxLate_held
        | apply State.Held.foldl
    | simp only | intro _ | split

theorem State.ringWrite_held {s : State} {b o : Nat} {ws : List Nat} (hs : s.Held q fr) :
    (State.ringWrite s b o ws).Held q fr := by
  unfold State.ringWrite
  exact State.Held.foldl2 hs _ (fun _ _ h => State.setRam_held h)

theorem State.netQueue_held {s : State} {n : Nat} {bs : List Nat} {age : Nat} (hs : s.Held q fr) :
    State.Held q fr (State.netQueue s n bs age) := by
  unfold State.netQueue
  repeat' first
    | with_reducible first
        | assumption | apply State.bump_held | apply State.putBit_held | apply State.put_held
        | apply State.raiseOnce_held | apply State.ringWrite_held
    | simp only | intro _ | split

theorem State.netDropAll_held {s : State} {n : Nat} (hs : s.Held q fr) :
    State.Held q fr (State.netDropAll s n) := by
  unfold State.netDropAll
  repeat' first
    | with_reducible first
        | assumption | apply State.setNetPort_held | apply State.stmDrop_held | apply State.Held.foldl
    | intro _

theorem State.netDown_held {s : State} {n : Nat} (hs : s.Held q fr) :
    State.Held q fr (State.netDown s n) := by
  unfold State.netDown
  repeat' first
    | with_reducible first
        | assumption | apply State.netDropAll_held | apply State.putBit_held | apply State.raise_held
    | intro _ | split

theorem State.netcfgWrite_held {s : State} {n : Nat} {v : Nat} (hs : s.Held q fr) :
    State.Held q fr (State.netcfgWrite s n v) := by
  unfold State.netcfgWrite
  repeat' first
    | with_reducible first
        | assumption | apply State.netDown_held | apply State.putBit_held | apply State.put_held
    | simp only | intro _ | split

theorem State.rxqTailWrite_held {s : State} {n : Nat} {v : Nat} (hs : s.Held q fr) :
    State.Held q fr (State.rxqTailWrite s n v) := by
  unfold State.rxqTailWrite
  repeat' first
    | with_reducible first
        | assumption | apply State.put_held

theorem State.netSend_held {s : State} {n : Nat} {bs : List Nat} (hs : s.Held q fr) :
    State.Held q fr (State.netSend s n bs) := by
  unfold State.netSend
  repeat' first
    | with_reducible first
        | assumption | apply State.setNetPort_held

theorem State.txStamp_held {s : State} {n : Nat} {stamp : Nat} {tag : Nat} {d : Nat} (hs : s.Held q fr) :
    State.Held q fr (State.txStamp s n stamp tag d) := by
  unfold State.txStamp
  repeat' first
    | with_reducible first
        | assumption | apply State.putBit_held | apply State.raise_held | apply State.setNetPort_held
    | intro _ | split

theorem State.streamTake_held {s : State} {r : Nat} {bs : List Nat} (hs : s.Held q fr) :
    State.Held q fr (State.streamTake s r bs) := by
  unfold State.streamTake
  repeat' first
    | with_reducible first
        | assumption | apply State.bumpBy_held | apply State.bump_held | apply State.put_held
        | apply State.raiseOnce_held | apply State.raise_held | apply State.rxAsync_held | apply State.rxSync_held
        | apply State.setStreamRx_held | apply State.stmFault_held
    | intro _ | split

theorem State.netDeliver_held {s : State} {n : Nat} {bs : List Nat} {age : Nat} (hs : s.Held q fr) :
    State.Held q fr (State.netDeliver s n bs age) := by
  unfold State.netDeliver
  repeat' first
    | with_reducible first
        | assumption | apply State.netQueue_held | apply State.raiseOnce_held | apply State.stmFault_held
        | apply State.streamTake_held
    | simp only | intro _ | split

theorem State.txtsPop_held {s : State} {n : Nat} (hs : s.Held q fr) :
    State.Held q fr (State.txtsPop s n) := by
  unfold State.txtsPop
  repeat' first
    | with_reducible first
        | assumption | apply State.setNetPort_held

theorem State.macControl_held {s : State} {n : Nat} {bs : List Nat} (hs : s.Held q fr) :
    State.Held q fr (State.macControl s n bs) := by
  unfold State.macControl
  repeat' first
    | with_reducible first
        | assumption | apply State.bump_held | apply State.putBit_held | apply State.raise_held | apply State.setNetPort_held
    | intro _ | split

theorem State.presentChannel_held {r : Nat} {ts : Nat} {p : State × List Nat} {c : Nat} (hp : p.1.Held q fr) :
    State.Held q fr (State.presentChannel r ts p c).1 := by
  unfold State.presentChannel
  repeat' first
    | with_reducible first
        | assumption | apply State.cnvFeed_held | apply State.netMissing_held
    | simp only [State.held_same] | intro _ | split

end Sys2Proof.Machine
end

