-- ==== Sys2Proof/Laws/Held4.lean ====
section
/-! SUPPORT. The invariant, the waiting queue and the frame count through the shared operations of
Resets, Power, Pins, Outputs, RegFile and Fabric:
a meaning that calls one of them cites its lemma. -/

namespace Sys2Proof.Machine

open Sys2Proof

variable {q : List Instr} {fr : Nat → Prop}

theorem State.reset_shape : (∀ e ∈ State.reset.cells, e.2.core.shallow) ∧ State.reset.stw.core.shallow ∧ State.reset.refs.a.legal ∧
    State.reset.refs.b.legal ∧ State.reset.fum.ang ≤ 144 ∧ State.reset.vent.ang ≤ 128 := by
  refine ⟨?_, Core.reset_shallow, ?_, ?_, ?_, ?_⟩
  · intro e he; cases he
  · simp [State.reset, Domain.legal]
  · simp [State.reset, Domain.legal]
  · decide
  · decide

theorem State.chipCleared_held [CountsZero fr] {s : State} {regs : Assoc Nat} {warm : Bool} {kind cause rail : Nat}
    (hs : s.Held q fr) (hr : regs.wf 0 = true) : (State.chipCleared s regs warm kind cause rail).Held q fr := by
  obtain ⟨hl, ht, ha, hb, hf, hv⟩ := State.reset_shape
  unfold State.chipCleared
  refine ⟨hs.1, ?_, Assoc.filter_wf _ hr, ?_, ?_, hl, ht, ?_, ?_, ?_, hv⟩
  · dsimp only; split
    · exact hs.2.1
    · exact CountsZero.zero
  · dsimp only; split <;> rfl
  · dsimp only; split
    · exact hs.2.2.dram
    · rfl
  · dsimp only; split
    · exact hs.2.2.timeA
    · exact ha
  · dsimp only; split
    · exact hs.2.2.timeB
    · exact hb
  · show (Fum.chipReset s.fum warm).ang ≤ 144
    unfold Fum.chipReset
    dsimp only
    split
    · exact hs.2.2.fum
    · exact hf

theorem State.evtSnap_held {s : State} {kind : Nat} (hs : s.Held q fr) :
    State.Held q fr (State.evtSnap s kind) := by
  unfold State.evtSnap
  repeat' first
    | with_reducible first
        | assumption | apply State.putBit_held | apply State.put_held | apply State.Held.foldl
    | intro _

theorem State.autoSnap_held {s : State} (hs : s.Held q fr) :
    State.Held q fr (State.autoSnap s) := by
  unfold State.autoSnap
  repeat' first
    | with_reducible first
        | assumption | apply State.evtSnap_held
    | intro _ | split

theorem State.chipAssert_held [CountsZero fr] {s : State} {kind cause rail : Nat} (hs : s.Held q fr) :
    (State.chipAssert s kind cause rail).Held q fr := by
  unfold State.chipAssert
  refine State.faultN_held (State.Held.ite (fun _ => State.put_held ?_ _ _) (fun _ => ?_)) <;>
  · refine State.Held.ite (fun _ => State.Held.ite (fun _ => ?_) (fun _ => ?_)) (fun _ => ?_)
    all_goals
      repeat refine State.putBit_held ?_
      exact State.chipCleared_held hs (State.autoSnap_held hs).2.2.regs

theorem State.chipReset_held [CountsZero fr] {s : State} {kind : Nat} {cause : Nat} {rail : Nat} (hs : s.Held q fr) :
    State.Held q fr (State.chipReset s kind cause rail) := by
  unfold State.chipReset
  repeat' first
    | with_reducible first
        | assumption | apply State.chipAssert_held
    | intro _ | split

theorem State.streamRestart_held {tx : Bool} {s : State} {n : Nat} (hs : s.Held q fr) :
    State.Held q fr (State.streamRestart tx s n) := by
  unfold State.streamRestart
  repeat' first
    | with_reducible first
        | assumption | apply State.stmStart_held
    | intro _ | split

theorem State.keepRegs_held {s : State} {k : Nat → Bool} (hs : s.Held q fr) : (State.keepRegs s k).Held q fr := by
  obtain ⟨hq, hn, hr, hs, hd, hl, ht, ha, hb, hf, hv⟩ := hs
  exact ⟨hq, hn, Assoc.filter_wf _ hr, hs, hd, hl, ht, ha, hb, hf, hv⟩

theorem State.cellReset_held {s : State} {e : Nat} (hs : s.Held q fr) :
    State.Held q fr (State.cellReset s e) := by
  unfold State.cellReset
  repeat' first
    | with_reducible first
        | assumption | apply State.setCell_held | exact Core.reset_shallow

theorem State.clusterReset_held {s : State} {cl : Nat} (hs : s.Held q fr) :
    State.Held q fr (State.clusterReset s cl) := by
  unfold State.clusterReset
  repeat' first
    | with_reducible first
        | assumption
    | simp only [State.held_same]

theorem State.cnvRestart_held {s : State} {u : Nat} (hs : s.Held q fr) :
    State.Held q fr (State.cnvRestart s u) := by
  unfold State.cnvRestart
  repeat' first
    | with_reducible first
        | assumption | apply State.cnvCtlWrite_held | apply State.putBit_held
    | intro _ | split

theorem State.portRestart_held {s : State} {n : Nat} (hs : s.Held q fr) :
    State.Held q fr (State.portRestart s n) := by
  unfold State.portRestart
  repeat' first
    | with_reducible first
        | assumption | apply State.portClock_held | apply State.put_held
    | simp only [State.held_same] | intro _ | split

theorem State.engineUnits_held {s : State} (hs : s.Held q fr) :
    State.Held q fr (State.engineUnits s) := by
  unfold State.engineUnits
  repeat' first
    | with_reducible first
        | assumption | apply State.cnvRestart_held | apply State.portRestart_held | apply State.streamRestart_held
        | apply State.Held.foldl
    | simp only [State.held_same]

theorem State.joinAgain_held {s : State} {scope : Nat} {target : Nat} (hs : s.Held q fr) :
    State.Held q fr (State.joinAgain s scope target) := by
  unfold State.joinAgain
  repeat' first
    | with_reducible first
        | assumption
    | simp only [State.held_same]

theorem State.planeReset_held {s : State} {scope : Nat} {target : Nat} (hs : s.Held q fr) :
    State.Held q fr (State.planeReset s scope target) := by
  unfold State.planeReset
  repeat' first
    | with_reducible first
        | assumption | apply State.cellReset_held | apply State.clusterReset_held | apply State.engineUnits_held
        | apply State.fumClear_held | apply State.joinAgain_held | apply State.keepRegs_held | apply State.putBit_held
        | apply State.Held.foldl
    | simp only [State.held_same] | intro _ | split

theorem State.scopeRelease_held {s : State} {scope : Nat} {target : Nat} (hs : s.Held q fr) :
    State.Held q fr (State.scopeRelease s scope target) := by
  unfold State.scopeRelease
  repeat' first
    | with_reducible first
        | assumption | apply State.planeReset_held | apply State.putBit_held | apply State.put_held | apply State.raise_held
    | simp only [State.held_same]

theorem State.pwrRefuse_held {s : State} {f : Fld} (hs : s.Held q fr) :
    State.Held q fr (State.pwrRefuse s f) := by
  unfold State.pwrRefuse
  repeat' first
    | with_reducible first
        | assumption | apply State.putBit_held | apply State.raiseOnce_held

theorem State.answerIsland_held {why : Nat} {s : State} {r : FabReq} (hs : s.Held q fr) :
    State.Held q fr (State.answerIsland why s r) := by
  unfold State.answerIsland
  repeat' first
    | with_reducible first
        | assumption | apply State.fabAnswer_held | apply State.fabEnd_held | apply State.fabRemove_held
        | apply State.fabSettle_held
    | intro _ | split

theorem State.answerHeld_held {s : State} (hs : s.Held q fr) :
    State.Held q fr (State.answerHeld s) := by
  unfold State.answerHeld
  repeat' first
    | with_reducible first
        | assumption | apply State.answerIsland_held | apply State.Held.foldl

theorem State.cellsHeld_held {s : State} {scope : Nat} {target : Nat} (hs : s.Held q fr) :
    State.Held q fr (State.cellsHeld s scope target) := by
  unfold State.cellsHeld
  repeat' first
    | with_reducible first
        | assumption | apply State.spoil_held | apply State.Held.foldl
    | intro _

theorem State.safeReset_held [CountsZero fr] {s : State} (hs : s.Held q fr) :
    State.Held q fr (State.safeReset s) := by
  unfold State.safeReset
  repeat' first
    | with_reducible first
        | assumption | apply State.autoSnap_held | apply State.cellsHeld_held | apply State.chipReset_held
        | apply State.masterReset_held | apply State.putBit_held
    | simp only [State.held_same] | intro _ | split

theorem State.mgmtReset_held {s : State} (hs : s.Held q fr) :
    State.Held q fr (State.mgmtReset s) := by
  unfold State.mgmtReset
  repeat' first
    | with_reducible first
        | assumption | apply State.faultN_held | apply State.keepRegs_held | apply State.putBit_held | apply State.put_held
    | simp only [State.held_same] | intro _ | split

theorem State.rstReq_held [CountsZero fr] {s : State} {m : Nat} {scope : Nat} {target : Nat} (hs : s.Held q fr) :
    State.Held q fr (State.rstReq s m scope target) := by
  unfold State.rstReq
  repeat' first
    | with_reducible first
        | assumption | apply State.cellsHeld_held | apply State.chipReset_held | apply State.mgmtReset_held
        | apply State.putBit_held | apply State.put_held | apply State.pwrRefuse_held
    | simp only [State.held_same] | intro _ | split

theorem State.fumResetCauses_held {s : State} (hs : s.Held q fr) :
    State.Held q fr (State.fumResetCauses s) := by
  unfold State.fumResetCauses
  repeat' first
    | with_reducible first
        | assumption | apply State.fumClear_held | apply State.putBit_held

theorem State.setStw_held {q : List Instr} {fr : Nat → Prop} {s : State} (hs : s.Held q fr) (w : Steward) (hw : w.core.shallow) :
    ({ s with stw := w } : State).Held q fr := by
  obtain ⟨hq, hn, hr, hs, hd, hl, ht, ha, hb, hf, hv⟩ := hs
  exact ⟨hq, hn, hr, hs, hd, hl, hw, ha, hb, hf, hv⟩

theorem State.stewardStart_held {s : State} (hs : s.Held q fr) : (State.stewardStart s).Held q fr :=
  State.setStw_held hs _ Core.reset_shallow

theorem State.fuseSense_held {s : State} (hs : s.Held q fr) :
    State.Held q fr (State.fuseSense s) := by
  unfold State.fuseSense
  repeat' first
    | with_reducible first
        | assumption | apply State.put_held | apply State.Held.foldl
    | intro _

theorem State.chipRelease_held {s : State} {m c : Nat} (hs : s.Held q fr) : (State.chipRelease s m c).Held q fr := by
  unfold State.chipRelease
  extract_lets kind warm s1 s2 s3 s4 s5 s6 s7 s8 _ _ _ _ s9 late s10 s11 s12
  have h1 : s1.Held q fr := State.Held.ite (fun _ => hs) (fun _ => State.fuseSense_held hs)
  have h2 : s2.Held q fr := State.Held.ite (fun _ => State.putBit_held h1) (fun _ => h1)
  have h3 : s3.Held q fr := State.Held.ite (fun _ => State.putBit_held h2) (fun _ => h2)
  have h4 : s4.Held q fr := State.putBit_held (State.put_held (State.putBit_held (State.putBit_held h3)) _ _)
  have h5 : s5.Held q fr := State.put_held (State.put_held (State.put_held (State.put_held (State.put_held (State.put_held
    (State.put_held h4 _ _) _ _) _ _) _ _) _ _) _ _) _ _
  have h6 : s6.Held q fr := State.putBit_held (State.putBit_held (State.put_held h5 _ _))
  have h7 : s7.Held q fr := State.put_held (State.put_held (State.put_held h6 _ _) _ _) _ _
  have h8 : s8.Held q fr := State.Held.ite (fun _ => State.put_held h7 _ _) (fun _ =>
    State.Held.ite (fun _ => State.put_held h7 _ _) (fun _ => h7))
  have h9 : s9.Held q fr := (State.portsLow_held h8).same rfl rfl rfl rfl rfl rfl rfl
  have hlate : late.Held q fr := State.Held.foldl h9 _ (fun _ _ h => State.raise_held h)
  have h10 : s10.Held q fr := State.Held.ite (fun _ => hlate) (fun _ => State.raise_held hlate)
  have h11 : s11.Held q fr := State.Held.ite (fun _ => State.raise_held h10) (fun _ =>
    State.Held.ite (fun _ => State.raise_held h10) (fun _ => h10))
  have h12 : s12.Held q fr := State.Held.ite (fun _ => State.fumClear_held (State.fumResetCauses_held (State.putBit_held h11)))
    (fun _ => h11)
  exact State.Held.ite (fun _ => State.loopToCal_held h12) (fun _ => h12)

theorem State.fabReset_held {s : State} (hs : s.Held q fr) :
    State.Held q fr (State.fabReset s) := by
  unfold State.fabReset
  repeat' first
    | with_reducible first
        | assumption | apply State.lockFree_held | apply State.putBit_held | apply State.Held.foldl
    | simp only [State.held_same] | intro _

theorem State.gysReset_held {s : State} (hs : s.Held q fr) : (State.gysReset s).Held q fr := by
  unfold State.gysReset
  refine State.Held.foldl ?_ _ (fun _ _ h => State.vntTake_held h)
  exact (State.keepRegs_held hs).same rfl rfl rfl rfl rfl rfl rfl

theorem State.safeRelease_held {s : State} (hs : s.Held q fr) :
    State.Held q fr (State.safeRelease s) := by
  unfold State.safeRelease
  repeat' first
    | with_reducible first
        | assumption | apply State.bump_held | apply State.fabReset_held | apply State.fumResetCauses_held
        | apply State.gysReset_held | apply State.planeReset_held | apply State.putBit_held | apply State.put_held
        | apply State.raise_held | apply State.stewardStart_held
    | simp only [State.held_same] | intro _ | split

theorem State.holdBegin_held {s : State} (hs : s.Held q fr) :
    State.Held q fr (State.holdBegin s) := by
  unfold State.holdBegin
  repeat' first
    | with_reducible first
        | assumption | apply State.fumCause_held | apply State.putBit_held
    | simp only [State.held_same]

theorem State.holdExit_held {s : State} {dest : Nat} (hs : s.Held q fr) :
    State.Held q fr (State.holdExit s dest) := by
  unfold State.holdExit
  repeat' first
    | with_reducible first
        | assumption | apply State.loopToCal_held | apply State.putBit_held
    | simp only [State.held_same]

theorem State.pwrGo_held {s : State} {req : Nat} (hs : s.Held q fr) :
    State.Held q fr (State.pwrGo s req) := by
  unfold State.pwrGo
  repeat' first
    | with_reducible first
        | assumption | apply State.holdBegin_held | apply State.holdExit_held | apply State.putBit_held
    | simp only [State.held_same] | intro _ | split

theorem State.pwrEnter_held {s : State} {st : Nat} (hs : s.Held q fr) :
    State.Held q fr (State.pwrEnter s st) := by
  unfold State.pwrEnter
  repeat' first
    | with_reducible first
        | assumption | apply State.putBit_held | apply State.put_held | apply State.pwrGo_held | apply State.raise_held
    | simp only [State.held_same] | intro _ | split

theorem State.pwrBoundary_held {s : State} (hs : s.Held q fr) :
    State.Held q fr (State.pwrBoundary s) := by
  unfold State.pwrBoundary
  repeat' first
    | with_reducible first
        | assumption | apply State.gysQuiesce_held | apply State.pwrEnter_held
    | intro _ | split

theorem State.rateApply_held {s : State} (hs : s.Held q fr) :
    State.Held q fr (State.rateApply s) := by
  unfold State.rateApply
  repeat' first
    | with_reducible first
        | assumption | apply State.planeReset_held | apply State.putBit_held | apply State.put_held
        | apply State.raise_held | apply State.tableRecheck_held | apply State.Held.foldl
    | intro _ | split

theorem State.rampEdge_held {s : State} (hs : s.Held q fr) :
    State.Held q fr (State.rampEdge s) := by
  unfold State.rampEdge
  repeat' first
    | with_reducible first
        | assumption | apply State.rampEnter_held | apply State.rampSettle_held | apply State.rateApply_held
    | simp only [State.held_same] | intro _ | split

theorem State.holdGate_held {s : State} (hs : s.Held q fr) :
    State.Held q fr (State.holdGate s) := by
  unfold State.holdGate
  repeat' first
    | with_reducible first
        | assumption | apply State.putBit_held | apply State.put_held | apply State.setLoop_held | apply State.Held.foldl
    | simp only [State.held_same] | intro _ | split

theorem State.holdTrain_held {s : State} (hs : s.Held q fr) :
    State.Held q fr (State.holdTrain s) := by
  unfold State.holdTrain
  repeat' first
    | with_reducible first
        | assumption | apply State.putBit_held
    | simp only [State.held_same] | intro _ | split

theorem State.pwrEdge_held {s : State} (hs : s.Held q fr) :
    State.Held q fr (State.pwrEdge s) := by
  unfold State.pwrEdge
  repeat' first
    | with_reducible first
        | assumption | apply State.holdGate_held | apply State.holdTrain_held | apply State.pwrGo_held
        | apply State.setLoop_held
    | simp only [State.held_same] | intro _ | split

theorem State.pwrrateWrite_held {s : State} {fam : Nat} {mult : Nat} (hs : s.Held q fr) :
    State.Held q fr (State.pwrrateWrite s fam mult) := by
  unfold State.pwrrateWrite
  repeat' first
    | with_reducible first
        | assumption | apply State.put_held | apply State.pwrRefuse_held
    | simp only | intro _ | split

theorem State.supplyFault_held {s : State} {rail : Nat} {kind : Nat} (hs : s.Held q fr) :
    State.Held q fr (State.supplyFault s rail kind) := by
  unfold State.supplyFault
  repeat' first
    | with_reducible first
        | assumption | apply State.put_held

theorem State.forceAbandon_held {s : State} {i : Nat} (hs : s.Held q fr) :
    State.Held q fr (State.forceAbandon s i) := by
  unfold State.forceAbandon
  repeat' first
    | with_reducible first
        | assumption | apply State.answerIsland_held | apply State.lockBreak_held | apply State.Held.foldl
    | intro _ | split

theorem State.islandForce_held {s : State} {isl : Nat} (hs : s.Held q fr) :
    State.Held q fr (State.islandForce s isl) := by
  unfold State.islandForce
  repeat' first
    | with_reducible first
        | assumption | apply State.forceAbandon_held | apply State.islandCmd_held
    | simp only | intro _ | split

theorem State.rampGoWrite_held {s : State} (hs : s.Held q fr) :
    State.Held q fr (State.rampGoWrite s) := by
  unfold State.rampGoWrite
  repeat' first
    | with_reducible first
        | assumption | apply State.clkRefuse_held | apply State.fumCause_held
    | simp only [State.held_same] | intro _ | split

theorem State.pwrctlGo_held {s : State} {req : Nat} (hs : s.Held q fr) :
    State.Held q fr (State.pwrctlGo s req) := by
  unfold State.pwrctlGo
  repeat' first
    | with_reducible first
        | assumption | apply State.put_held | apply State.pwrGo_held | apply State.pwrRefuse_held
    | simp only [State.held_same] | intro _ | split

theorem State.tempWarn_held {s : State} {ts : List Int} (hs : s.Held q fr) :
    State.Held q fr (State.tempWarn s ts) := by
  unfold State.tempWarn
  repeat' first
    | with_reducible first
        | assumption | apply State.raise_held
    | simp only [State.held_same] | intro _ | split

theorem State.holdReturn_held {s : State} (hs : s.Held q fr) :
    State.Held q fr (State.holdReturn s) := by
  unfold State.holdReturn
  repeat' first
    | with_reducible first
        | assumption | apply State.fumCause_held
    | simp only [State.held_same]

theorem State.tempHot_held {s : State} (hs : s.Held q fr) :
    State.Held q fr (State.tempHot s) := by
  unfold State.tempHot
  repeat' first
    | with_reducible first
        | assumption | apply State.fumCause_held | apply State.holdReturn_held | apply State.putBit_held
        | apply State.pwrGo_held | apply State.raise_held
    | simp only [State.held_same] | intro _ | split

theorem State.tempCool_held {s : State} (hs : s.Held q fr) :
    State.Held q fr (State.tempCool s) := by
  unfold State.tempCool
  repeat' first
    | with_reducible first
        | assumption | apply State.pwrGo_held | apply State.raise_held
    | simp only [State.held_same] | intro _ | split

theorem State.tempJudge_held [CountsZero fr] {s : State} (hs : s.Held q fr) :
    State.Held q fr (State.tempJudge s) := by
  unfold State.tempJudge
  repeat' first
    | with_reducible first
        | assumption | apply State.chipReset_held | apply State.tempCool_held | apply State.tempHot_held
        | apply State.tempWarn_held
    | simp only | intro _ | split

theorem State.tempMax_held {s : State} {v : Nat} (hs : s.Held q fr) :
    State.Held q fr (State.tempMax s v) := by
  unfold State.tempMax
  repeat' first
    | with_reducible first
        | assumption | apply State.put_held
    | intro _ | split

theorem State.tempmaxWrite_held {s : State} (hs : s.Held q fr) :
    State.Held q fr (State.tempmaxWrite s) := by
  unfold State.tempmaxWrite
  repeat' first
    | with_reducible first
        | assumption | apply State.put_held | apply State.tempMax_held | apply State.Held.foldl
    | intro _ | split

theorem State.gpioDrive_held {s : State} {v : Nat} (hs : s.Held q fr) :
    State.Held q fr (State.gpioDrive s v) := by
  unfold State.gpioDrive
  repeat' first
    | with_reducible first
        | assumption
    | simp only [State.held_same]

theorem State.pinSummary_held {s : State} (hs : s.Held q fr) :
    State.Held q fr (State.pinSummary s) := by
  unfold State.pinSummary
  repeat' first
    | with_reducible first
        | assumption | apply State.putBit_held

theorem State.pinMark_held {s : State} {f : Fld} {b : Nat} {on : Bool} (hs : s.Held q fr) :
    State.Held q fr (State.pinMark s f b on) := by
  unfold State.pinMark
  repeat' first
    | with_reducible first
        | assumption | apply State.pinSummary_held | apply State.put_held
    | intro _ | split

theorem State.gpiooutWrite_held {s : State} {v : Nat} (hs : s.Held q fr) :
    State.Held q fr (State.gpiooutWrite s v) := by
  unfold State.gpiooutWrite
  repeat' first
    | with_reducible first
        | assumption | apply State.put_held

theorem State.gpiocfgWrite_held {s : State} {v : Nat} (hs : s.Held q fr) :
    State.Held q fr (State.gpiocfgWrite s v) := by
  unfold State.gpiocfgWrite
  repeat' first
    | with_reducible first
        | assumption | apply State.put_held

theorem State.vntReturn_held {s : State} (hs : s.Held q fr) :
    State.Held q fr (State.vntReturn s) := by
  unfold State.vntReturn
  repeat' first
    | with_reducible first
        | assumption | apply State.putBit_held | apply State.raise_held
    | simp only [State.held_same] | intro _ | split

theorem State.vntAdvance_held {s : State} (hs : s.Held q fr) : (State.vntAdvance s).Held q fr := by
  unfold State.vntAdvance
  have h := State.vntReturn_held hs
  dsimp only
  generalize s.vntReturn = t at h ⊢
  split
  · exact h.same rfl rfl rfl rfl rfl rfl rfl
  · split
    · obtain ⟨hq, hn, hr, hs, hd, hl, ht, ha, hb, hf, hv⟩ := h
      exact ⟨hq, hn, hr, hs, hd, hl, ht, ha, hb, hf, Nat.le_trans (Nat.sub_le _ _) hv⟩
    · exact h

theorem State.setGuard_held {s : State} {a1 : Nat} {g : ChanGuard} (hs : s.Held q fr) :
    State.Held q fr (State.setGuard s a1 g) := by
  unfold State.setGuard
  repeat' first
    | with_reducible first
        | assumption
    | simp only [State.held_same]

theorem State.finalCheck_held {a0 : Nat} {f : Nat} {s : State} {x : Sinter} (hs : s.Held q fr) :
    State.Held q fr (State.finalCheck a0 f s x).1 := by
  unfold State.finalCheck
  repeat' first
    | with_reducible first
        | assumption | apply State.putBit_held | apply State.raiseOnce_held | apply State.setGuard_held
        | apply State.Held.ite
    | intro _ | split

theorem State.driveChan_held {s : State} {a b : Nat} {d : Option Nat} (hs : s.Held q fr) :
    (State.driveChan s a b d).Held q fr := by
  unfold State.driveChan
  extract_lets n m s1 step r shown
  have h1 : s1.Held q fr := State.Held.ite (fun _ => State.mapBad_held hs) (fun _ => hs)
  have hr : r.1.Held q fr := by
    refine State.Held.foldl2 (by exact h1) _ (fun p x hp => ?_)
    refine State.finalCheck_held (State.Held.foldl ?_ _ (fun _ _ h => State.putBit_held h))
    exact State.Held.ite (fun _ => State.raiseOnce_held (State.putBit_held hp)) (fun _ => hp)
  clear_value r
  exact State.setOut_held (hr.same rfl rfl rfl rfl rfl rfl rfl)

theorem State.idleChan_held {s : State} {a1 : Nat} {e : Nat} (hs : s.Held q fr) :
    State.Held q fr (State.idleChan s a1 e) := by
  unfold State.idleChan
  repeat' first
    | with_reducible first
        | assumption | apply State.lowChan_held | apply State.mapBad_held
    | intro _ | split

theorem State.portOutputs_held {s : State} {e : Nat} {dup : Option Nat} (hs : s.Held q fr) :
    State.Held q fr (State.portOutputs s e dup) := by
  unfold State.portOutputs
  repeat' first
    | with_reducible first
        | assumption | apply State.driveChan_held | apply State.idleChan_held | apply State.maskEdge_held
        | apply State.portClock_held | apply State.portStop_held | apply State.putBit_held | apply State.raiseOnce_held
        | apply State.vntAdvance_held | apply State.vntInert_held | apply State.Held.foldl
    | simp only [State.held_same] | intro _ | split

theorem State.dbgctlWrite_held {s : State} {m : Nat} {v : Nat} (hs : s.Held q fr) :
    State.Held q fr (State.dbgctlWrite s m v) := by
  unfold State.dbgctlWrite
  repeat' first
    | with_reducible first
        | assumption | apply State.putBit_held | apply State.raiseOnce_held
    | simp only [State.held_same] | intro _ | split

theorem State.fieldWrite_held {a : Nat} {v : Nat} {s : State} {f : FldRow} (hs : s.Held q fr) :
    State.Held q fr (State.fieldWrite a v s f) := by
  unfold State.fieldWrite
  repeat' first
    | with_reducible first
        | assumption | apply State.put_held | apply State.stage_held
    | intro _ | split

theorem State.plainWrite_held {s : State} {a : Nat} {v : Nat} (hs : s.Held q fr) :
    State.Held q fr (State.plainWrite s a v) := by
  unfold State.plainWrite
  repeat' first
    | with_reducible first
        | assumption | apply State.fieldWrite_held | apply State.fumLockWrite_held | apply State.Held.foldl
    | intro _ | split

theorem State.hstBlockWrite_held {s : State} {m : Nat} {a : Nat} {v : Nat} (hs : s.Held q fr) :
    State.Held q fr (State.hstBlockWrite s m a v) := by
  unfold State.hstBlockWrite
  repeat' first
    | with_reducible first
        | assumption | apply State.dbgctlWrite_held | apply State.plainWrite_held
    | intro _ | split

theorem State.stmBlockWrite_held {s : State} {a : Nat} {v : Nat} (hs : s.Held q fr) :
    State.Held q fr (State.stmBlockWrite s a v) := by
  unfold State.stmBlockWrite
  repeat' first
    | with_reducible first
        | assumption | apply State.plainWrite_held | apply State.put_held | apply State.stmCtlWrite_held
        | apply State.strxcntClear_held
    | simp only | intro _ | split

theorem State.bootdoorGo_held {s : State} {m : Nat} (hs : s.Held q fr) :
    State.Held q fr (State.bootdoorGo s m) := by
  unfold State.bootdoorGo
  repeat' first
    | with_reducible first
        | assumption
    | simp only [State.held_same] | intro _ | split

theorem State.gysBlockWrite_held {s : State} {a : Nat} {v : Nat} (hs : s.Held q fr) :
    State.Held q fr (State.gysBlockWrite s a v) := by
  unfold State.gysBlockWrite
  repeat' first
    | with_reducible first
        | assumption | apply State.commitCancel_held | apply State.commitGo_held | apply State.ovlDrop_held
        | apply State.ovlLoad_held | apply State.plainWrite_held
    | simp only | intro _ | split

theorem State.lnkBlockWrite_held {s : State} {a : Nat} {v : Nat} (hs : s.Held q fr) :
    State.Held q fr (State.lnkBlockWrite s a v) := by
  unfold State.lnkBlockWrite
  repeat' first
    | with_reducible first
        | assumption | apply State.lnkcascWrite_held | apply State.lnkcfgWrite_held | apply State.lnkcntClear_held
        | apply State.pairElig_held | apply State.pairYield_held | apply State.plainWrite_held
    | simp only | intro _ | split

theorem State.regReadEffect_held {s : State} {a : Nat} (hs : s.Held q fr) :
    State.Held q fr (State.regReadEffect s a) := by
  unfold State.regReadEffect
  repeat' first
    | with_reducible first
        | assumption | apply State.tcNsRead_held | apply State.txtsPop_held
    | simp only | intro _ | split

theorem State.regRead_held {s : State} {a : Nat} (hs : s.Held q fr) :
    State.Held q fr (State.regRead s a).2 := by
  unfold State.regRead
  repeat' first
    | with_reducible first
        | assumption | apply State.regReadEffect_held

theorem State.drcBlockWrite_held {s : State} {a : Nat} {v : Nat} (hs : s.Held q fr) :
    State.Held q fr (State.drcBlockWrite s a v) := by
  unfold State.drcBlockWrite
  repeat' first
    | with_reducible first
        | assumption | apply State.drcWrite_held | apply State.plainWrite_held
    | intro _ | split

theorem State.mtrclrWrite_held {s : State} {v : Nat} (hs : s.Held q fr) :
    State.Held q fr (State.mtrclrWrite s v) := by
  unfold State.mtrclrWrite
  repeat' first
    | with_reducible first
        | assumption | apply State.mtrClips_held | apply State.mtrHold_held | apply State.Held.foldl
    | intro _ | split

theorem State.pwrBlockWrite_held [CountsZero fr] {s : State} {m : Nat} {a : Nat} {v : Nat} (hs : s.Held q fr) :
    State.Held q fr (State.pwrBlockWrite s m a v) := by
  unfold State.pwrBlockWrite
  repeat' first
    | with_reducible first
        | assumption | apply State.bootdoorGo_held | apply State.gpiocfgWrite_held | apply State.gpiooutWrite_held
        | apply State.plainWrite_held | apply State.pwrctlGo_held | apply State.pwrrateWrite_held
        | apply State.rstReq_held | apply State.tempmaxWrite_held
    | intro _ | split

theorem State.evtsnapTake_held {s : State} (hs : s.Held q fr) :
    State.Held q fr (State.evtsnapTake s) := by
  unfold State.evtsnapTake
  repeat' first
    | with_reducible first
        | assumption | apply State.evtSnap_held
    | intro _ | split

theorem State.apBlockWrite_held {s : State} {a : Nat} {v : Nat} (hs : s.Held q fr) :
    State.Held q fr (State.apBlockWrite s a v) := by
  unfold State.apBlockWrite
  repeat' first
    | with_reducible first
        | assumption | apply State.apGo_held | apply State.lanemaskWrite_held | apply State.plainWrite_held
        | apply State.portCtlWrite_held
    | simp only | intro _ | split

theorem State.netBlockWrite_held {s : State} {a : Nat} {v : Nat} (hs : s.Held q fr) :
    State.Held q fr (State.netBlockWrite s a v) := by
  unfold State.netBlockWrite
  repeat' first
    | with_reducible first
        | assumption | apply State.netcfgWrite_held | apply State.netcntClear_held | apply State.plainWrite_held
        | apply State.rxqTailWrite_held | apply State.txqHeadWrite_held
    | split

theorem State.clkWrite_held {s : State} {a : Nat} {v : Nat} (hs : s.Held q fr) :
    State.Held q fr (State.clkWrite s a v) := by
  unfold State.clkWrite
  repeat' first
    | with_reducible first
        | assumption | apply State.putBit_held | apply State.corecfgWrite_held | apply State.islandCmd_held | apply State.islandForce_held
        | apply State.loopRelock_held | apply State.nfracWrite_held | apply State.nintWrite_held
        | apply State.plainWrite_held | apply State.rampGoWrite_held | apply State.sscWrite_held
    | intro _ | split

theorem State.refBlockWrite_held {s : State} {a : Nat} {v : Nat} (hs : s.Held q fr) :
    State.Held q fr (State.refBlockWrite s a v) := by
  unfold State.refBlockWrite
  repeat' first
    | with_reducible first
        | assumption | apply State.modeWrite_held | apply State.plainWrite_held | apply State.putBit_held
        | apply State.refWrite_held | apply State.refctlWrite_held | apply State.refsteerWrite_held
        | apply State.tcAdj_held | apply State.tcIncWrite_held | apply State.tcSet_held
    | simp only | intro _ | split

theorem State.fabBlockWrite_held {s : State} {m : Nat} {a : Nat} {v : Nat} (hs : s.Held q fr) :
    State.Held q fr (State.fabBlockWrite s m a v) := by
  unfold State.fabBlockWrite
  repeat' first
    | with_reducible first
        | assumption | apply State.fabcntClear_held | apply State.plainWrite_held | apply State.remapWrite_held
    | split

theorem State.evtBlockWrite_held {s : State} {a : Nat} {v : Nat} (hs : s.Held q fr) :
    State.Held q fr (State.evtBlockWrite s a v) := by
  unfold State.evtBlockWrite
  repeat' first
    | with_reducible first
        | assumption | apply State.evtenWrite_held | apply State.evtrouteWrite_held | apply State.evtstatClear_held
        | apply State.evtswset_held | apply State.plainWrite_held
    | simp only | intro _ | split

theorem State.cnvBlockWrite_held {s : State} {a : Nat} {v : Nat} (hs : s.Held q fr) :
    State.Held q fr (State.cnvBlockWrite s a v) := by
  unfold State.cnvBlockWrite
  repeat' first
    | with_reducible first
        | assumption | apply State.cnvClr_held | apply State.cnvCtlWrite_held | apply State.mtrclrWrite_held
        | apply State.plainWrite_held
    | simp only | intro _ | split

theorem State.vntBlockWrite_held {s : State} {a : Nat} {v : Nat} (hs : s.Held q fr) :
    State.Held q fr (State.vntBlockWrite s a v) := by
  unfold State.vntBlockWrite
  repeat' first
    | with_reducible first
        | assumption | apply State.plainWrite_held | apply State.vntForceWrite_held
    | intro _ | split

theorem State.fumBlockWrite_held {s : State} {m : Nat} {a : Nat} {v : Nat} (hs : s.Held q fr) :
    State.Held q fr (State.fumBlockWrite s m a v) := by
  unfold State.fumBlockWrite
  repeat' first
    | with_reducible first
        | assumption | apply State.fumFallback_held | apply State.fumMuteReq_held | apply State.fumcntClear_held
        | apply State.fumrecAck_held | apply State.fumrecClr_held | apply State.lockClose_held | apply State.plainWrite_held
    | intro _ | split

theorem State.clusterWrite_held {s : State} {a : Nat} {v : Nat} (hs : s.Held q fr) :
    State.Held q fr (State.clusterWrite s a v) := by
  unfold State.clusterWrite
  repeat' first
    | with_reducible first
        | assumption | apply State.bankWrite_held | apply State.cellctlWrite_held | apply State.cellpeakClr_held
        | apply State.patrolcntClear_held | apply State.plainWrite_held
    | simp only | intro _ | split

theorem State.fuseProg_held {s : State} (hs : s.Held q fr) :
    State.Held q fr (State.fuseProg s) := by
  unfold State.fuseProg
  repeat' first
    | with_reducible first
        | assumption | apply State.putBit_held
    | simp only [State.held_same] | intro _ | split

theorem State.mgmWrite_held {s : State} {a : Nat} {v : Nat} (hs : s.Held q fr) :
    State.Held q fr (State.mgmWrite s a v) := by
  unfold State.mgmWrite
  repeat' first
    | with_reducible first
        | assumption | apply State.evtsnapTake_held | apply State.fuseProg_held | apply State.loopinitGo_held
        | apply State.plainWrite_held
    | intro _ | split

theorem State.regWrite_held [CountsZero fr] {s : State} {m : Nat} {a : Nat} {v : Nat} (hs : s.Held q fr) :
    State.Held q fr (State.regWrite s m a v) := by
  unfold State.regWrite
  repeat' first
    | with_reducible first
        | assumption | apply State.apBlockWrite_held | apply State.clkWrite_held | apply State.clusterWrite_held
        | apply State.cnvBlockWrite_held | apply State.drcBlockWrite_held | apply State.evtBlockWrite_held
        | apply State.fabBlockWrite_held | apply State.fumBlockWrite_held | apply State.gysBlockWrite_held
        | apply State.hstBlockWrite_held | apply State.lnkBlockWrite_held | apply State.mgmWrite_held
        | apply State.netBlockWrite_held | apply State.plainWrite_held | apply State.put_held
        | apply State.pwrBlockWrite_held | apply State.refBlockWrite_held | apply State.stmBlockWrite_held
        | apply State.vntBlockWrite_held
    | intro _ | split

theorem State.dramReadBurst_held {s : State} {a n : Nat} (hs : s.Held q fr) :
    (State.dramReadBurst s a n).s.Held q fr := by
  unfold State.dramReadBurst
  split
  · exact State.dramRefuses_held hs _ ‹_›
  · exact State.dramLoad_held _ _ _ hs

theorem State.bankDenies_held {s : State} {m cl b w : Nat} (hs : s.Held q fr) :
    ∀ t, State.bankDenies s m cl b w = some t → t.Held q fr := by
  intro t ht
  unfold State.bankDenies at ht
  split at ht
  · cases ht; exact State.memFault_held hs
  · split at ht
    · cases ht; exact State.memFault_held hs
    · cases ht

theorem State.refuseBeat_held {s : State} {code : Nat} (hs : s.Held q fr) :
    State.Held q fr (State.refuseBeat s code).s := by
  unfold State.refuseBeat
  repeat' first
    | with_reducible first
        | assumption

theorem State.readBeat_held {s : State} {m a : Nat} (hs : s.Held q fr) : (State.readBeat s m a).s.Held q fr := by
  unfold State.readBeat
  split
  · exact hs
  · exact hs
  · exact hs
  · exact hs
  · exact hs
  · split
    · exact State.refuseBeat_held (State.bankDenies_held hs _ ‹_›)
    · exact hs
  · split
    · exact State.regRead_held hs
    · exact State.refuseBeat_held hs
  · exact State.refuseBeat_held (State.raise_held hs)
  · split
    · exact State.refuseBeat_held (State.dramRefuses_held hs _ ‹_›)
    · exact State.takeLine_held hs
  · exact State.refuseBeat_held hs

theorem State.readBeats_held {m : Nat} : ∀ (n a : Nat) {s : State}, s.Held q fr → (State.readBeats m n a s).s.Held q fr
  | 0, _, s, h => h
  | n + 1, a, s, h => by
    unfold State.readBeats
    dsimp only
    split
    · exact State.readBeat_held h
    · exact State.readBeats_held n _ (State.readBeat_held h)

theorem State.doRead_held {s : State} {m : Nat} {a : Nat} {n : Nat} (hs : s.Held q fr) :
    State.Held q fr (State.doRead s m a n).s := by
  unfold State.doRead
  repeat' first
    | with_reducible first
        | assumption | apply State.dramReadBurst_held | apply State.readBeats_held
    | split

theorem State.readNow_held {s : State} {m : Nat} {id : Nat} {a : Nat} {n : Nat} (hs : s.Held q fr) :
    State.Held q fr (State.readNow s m id a n).1 := by
  unfold State.readNow
  repeat' first
    | with_reducible first
        | assumption | apply State.doRead_held | apply State.fabFail_held
    | split

theorem State.dramBurst_held {s : State} {a : Nat} {ws : List Sinter} (hs : s.Held q fr) :
    (State.dramBurst s a ws).s.Held q fr := by
  unfold State.dramBurst
  split
  · exact State.dramRefuses_held hs _ ‹_›
  · exact State.dramStore_held _ _ _ hs

theorem State.writeBeat_held [CountsZero fr] {s : State} {m a : Nat} {x : Sinter} (hs : s.Held q fr) :
    (State.writeBeat s m a x).s.Held q fr := by
  unfold State.writeBeat
  split
  · exact State.refuseBeat_held hs
  · exact State.setRam_held hs
  · exact State.directWrite_held hs
  · split
    · exact State.refuseBeat_held (State.ovlWriteRefused_held hs)
    · dsimp only; exact State.ovlTouched_held (State.setRam_held hs)
  · split
    · exact State.setRam_held hs
    · exact State.refuseBeat_held (State.memFault_held hs)
  · split
    · exact State.refuseBeat_held (State.bankDenies_held hs _ ‹_›)
    · exact State.setRam_held hs
  · split
    · exact State.regWrite_held hs
    · exact State.refuseBeat_held hs
  · exact State.refuseBeat_held (State.raise_held hs)
  · split
    · exact State.refuseBeat_held (State.dramRefuses_held hs _ ‹_›)
    · exact State.dramStore_held _ _ _ hs
  · exact State.refuseBeat_held hs

theorem State.writeBeats_held [CountsZero fr] {m : Nat} : ∀ (l : List Sinter) (a : Nat) {s : State}, s.Held q fr →
    (State.writeBeats m l a s).s.Held q fr
  | [], _, s, h => h
  | x :: xs, a, s, h => by
    unfold State.writeBeats
    dsimp only
    split
    · exact State.writeBeat_held h
    · exact State.writeBeats_held xs _ (State.writeBeat_held h)

theorem State.doWrite_held [CountsZero fr] {s : State} {m : Nat} {a : Nat} {ws : List Sinter} (hs : s.Held q fr) :
    State.Held q fr (State.doWrite s m a ws).s := by
  unfold State.doWrite
  repeat' first
    | with_reducible first
        | assumption | apply State.dramBurst_held | apply State.writeBeats_held
    | split

theorem State.writeNow_held [CountsZero fr] {s : State} {m : Nat} {id : Nat} {a : Nat} {ws : List Sinter} (hs : s.Held q fr) :
    State.Held q fr (State.writeNow s m id a ws).1 := by
  unfold State.writeNow
  repeat' first
    | with_reducible first
        | assumption | apply State.doWrite_held | apply State.fabFail_held
    | split

theorem State.issue_held {s : State} {r : FabReq} {full : Bool} {parity : Bool} (hs : s.Held q fr) :
    State.Held q fr (State.issue s r full parity) := by
  unfold State.issue
  repeat' first
    | with_reducible first
        | assumption | apply State.fabAnswer_held
    | simp only [State.held_same] | intro _ | split

theorem State.heldMark_held {s : State} {r : FabReq} {t : State} (ht : t.Held q fr) : (State.heldMark s r t).Held q fr := by
  unfold State.heldMark
  split
  · simp only [State.held_same]; exact ht
  · exact ht

theorem State.park_held {s : State} {r : FabReq} {port got : Nat} (hs : s.Held q fr) : (State.park s r port got).Held q fr := by
  simp only [State.park, State.held_same]; exact hs

theorem State.respond_held {s : State} {r : FabReq} {b : Beats} (hb : b.s.Held q fr) :
    State.Held q fr (State.respond s r b) := by
  have h := State.heldMark_held (s := s) (r := r) hb
  unfold State.respond
  dsimp only
  split
  · exact State.park_held hb
  · split
    · exact State.park_held h
    · exact State.fabRemove_held (State.fabAnswer_held hb)

theorem State.heldAnswer_held {s : State} (hs : s.Held q fr) : (State.heldAnswer s).Held q fr := by
  unfold State.heldAnswer
  repeat' first
    | with_reducible first
        | assumption | apply State.lateReply_held | apply State.Held.foldl
    | simp only [State.held_same] | intro _

theorem State.perform_held [CountsZero fr] {s : State} {r : FabReq} (hs : s.Held q fr) :
    State.Held q fr (State.perform s r).s := by
  unfold State.perform
  repeat' first
    | with_reducible first
        | assumption | apply State.doRead_held | apply State.doWrite_held | apply State.lockFree_held
        | apply State.lockOpen_held | apply State.lockRefuse_held
    | simp only [State.held_same] | split

theorem State.finish_held [CountsZero fr] {s : State} {r : FabReq} (hs : s.Held q fr) :
    State.Held q fr (State.finish s r) := by
  unfold State.finish
  repeat' first
    | with_reducible first
        | assumption | apply State.fabSettle_held | apply State.perform_held | apply State.respond_held
    | simp only [State.held_same]

theorem State.lateGrant_held {s : State} {r : FabReq} (hs : s.Held q fr) :
    State.Held q fr (State.lateGrant s r) := by
  unfold State.lateGrant
  repeat' first
    | with_reducible first
        | assumption | apply State.bump_held | apply State.putBit_held | apply State.raiseOnce_held
    | intro _ | split

theorem State.stall_held [CountsZero fr] {s : State} {r : FabReq} {k : Nat} (hs : s.Held q fr) :
    State.Held q fr (State.stall s r k) := by
  unfold State.stall
  repeat' first
    | with_reducible first
        | assumption | apply State.doRead_held | apply State.doWrite_held | apply State.finish_held | apply State.heldMark_held
    | simp only [State.held_same] | intro _ | split

theorem State.runGrant_held [CountsZero fr] {s : State} {r : FabReq} {stall : Option Nat} (hs : s.Held q fr) :
    State.Held q fr (State.runGrant s r stall) := by
  unfold State.runGrant
  repeat' first
    | with_reducible first
        | assumption | apply State.finish_held | apply State.stall_held
    | intro _ | split

theorem State.grant_held [CountsZero fr] {s : State} {port : Nat} {stall : Option Nat} (hs : s.Held q fr) :
    State.Held q fr (State.grant s port stall) := by
  unfold State.grant
  repeat' first
    | with_reducible first
        | assumption | apply State.fabLose_held | apply State.finish_held | apply State.lateGrant_held
        | apply State.runGrant_held | apply State.Held.foldl
    | split

theorem State.access_held [CountsZero fr] {s : State} {m id : Nat} {op : FabOp} {a n : Nat} {ws : List Sinter} {f : Bool}
    (hs : s.Held q fr) : ∀ t, State.access s m id op a n ws f = some t → t.s.Held q fr := by
  intro t ht
  unfold State.access at ht
  split at ht
  · cases ht
  · dsimp only at ht
    split at ht
    · cases ht; exact State.fabFail_held hs
    · split at ht
      · cases ht; exact State.fabFail_held (State.perform_held hs)
      · cases ht

end Sys2Proof.Machine
end

