-- ==== Sys2Proof/Laws/Held5.lean ====
section
/-! SUPPORT. The invariant, the waiting queue and the frame count through the shared operations of
StewardCtl, Boot, Distributor, Engine, Fetch and Host:
a meaning that calls one of them cites its lemma. -/

namespace Sys2Proof.Machine

open Sys2Proof

variable {q : List Instr} {fr : Nat → Prop}

theorem State.ctl_held {s : State} {f : Core → State} (hs : s.Held q fr) (hf : ∀ x0, x0.shallow → State.Held q fr (f x0)) :
    State.Held q fr (State.ctl s f) := by
  unfold State.ctl
  repeat' first
    | with_reducible first
        | assumption | apply hf | apply State.Held.stw
    | intro _ | split

theorem State.ctlValue_held {s : State} {g : Nat} {f : BitVec 32 → State} (hs : s.Held q fr) (hf : ∀ x0, State.Held q fr (f x0)) :
    State.Held q fr (State.ctlValue s g f) := by
  unfold State.ctlValue
  repeat' first
    | with_reducible first
        | assumption | apply hf | apply State.ctl_held | apply State.trap_held
    | intro _ | split

theorem State.stewardIssue_held {s : State} {op : FabOp} {a : Nat} {words : List Sinter} (hs : s.Held q fr) :
    State.Held q fr (State.stewardIssue s op a words) := by
  unfold State.stewardIssue
  repeat' first
    | with_reducible first
        | assumption | apply State.issue_held

theorem State.stewardStore_held {s : State} {closing : Bool} {ga : Nat} {gs : Nat} (hs : s.Held q fr) :
    State.Held q fr (State.stewardStore s closing ga gs) := by
  unfold State.stewardStore
  repeat' first
    | with_reducible first
        | assumption | apply State.ctlValue_held | apply State.softFault_held | apply State.stewardIssue_held
    | simp only [State.held_same] | intro _ | split

theorem State.setStwCore_held {s : State} {c : Core} (hs : s.Held q fr) (hc : c.shallow) :
    State.Held q fr (State.setStwCore s c) := by
  unfold State.setStwCore
  repeat' first
    | with_reducible first
        | assumption | apply State.setCore_held

theorem State.dbgSet_held {s : State} {m : Nat} {on : Bool} (hs : s.Held q fr) :
    State.Held q fr (State.dbgSet s m on) := by
  unfold State.dbgSet
  repeat' first
    | with_reducible first
        | assumption | apply State.dbgctlWrite_held

theorem State.stewardLoad_held {s : State} {op : FabOp} {gd : Nat} {ga : Nat} (hs : s.Held q fr) :
    State.Held q fr (State.stewardLoad s op gd ga) := by
  unfold State.stewardLoad
  repeat' first
    | with_reducible first
        | assumption | apply State.ctlValue_held | apply State.stewardIssue_held
    | simp only [State.held_same] | intro _

theorem State.eret_held {s : State} (hs : s.Held q fr) :
    State.Held q fr (State.eret s) := by
  unfold State.eret
  repeat' first
    | with_reducible first
        | assumption | apply State.flow_held
    | simp only [State.held_same] | simp only [Core.shallow_same] | intro _ | split

theorem State.csrWrite_held {s : State} {csr : Nat} {x : BitVec 32} (hs : s.Held q fr) :
    State.Held q fr (State.csrWrite s csr x) := by
  unfold State.csrWrite
  repeat' first
    | with_reducible first
        | assumption
    | simp only [State.held_same] | split

theorem State.romWrite_held [CountsZero fr] {s : State} {a : Nat} {ws : List Sinter} (hs : s.Held q fr) :
    State.Held q fr (State.romWrite s a ws).1 := by
  unfold State.romWrite
  repeat' first
    | with_reducible first
        | assumption | apply State.writeNow_held

theorem State.regsWrites_held [CountsZero fr] : ∀ (l : List (BitVec 32)) {s : State}, s.Held q fr → (State.regsWrites l s).1.Held q fr
  | [], s, h => h
  | [_], s, h => h
  | a :: v :: rest, s, h => by
    unfold State.regsWrites
    dsimp only
    split
    · exact h
    · split
      · exact State.romWrite_held h
      · exact State.regsWrites_held rest (State.romWrite_held h)

theorem State.romDram_held [CountsZero fr] {s : State} {a : Nat} {ws : List Sinter} (hs : s.Held q fr) :
    State.Held q fr (State.romDram s a ws) := by
  unfold State.romDram
  repeat' first
    | with_reducible first
        | assumption | apply State.doWrite_held | apply State.fabFail_held

theorem State.romWords_held [CountsZero fr] {s : State} {a : Nat} {ws : List (BitVec 32)} (hs : s.Held q fr) :
    State.Held q fr (State.romWords s a ws) := by
  unfold State.romWords
  repeat' first
    | with_reducible first
        | assumption | apply State.romDram_held | apply State.romWrite_held | apply State.Held.foldl
    | intro _ | split

theorem State.romField_held [CountsZero fr] {s : State} {f : Fld} {v : Nat} (hs : s.Held q fr) :
    State.Held q fr (State.romField s f v) := by
  unfold State.romField
  repeat' first
    | with_reducible first
        | assumption | apply State.romWrite_held

theorem State.bootQuiet_held [CountsZero fr] {s : State} (hs : s.Held q fr) :
    State.Held q fr (State.bootQuiet s) := by
  unfold State.bootQuiet
  repeat' first
    | with_reducible first
        | assumption | apply State.romField_held | apply State.Held.foldl
    | intro _

theorem State.bootReject_held [CountsZero fr] {s : State} {err : Nat} {sect : Nat} (hs : s.Held q fr) :
    State.Held q fr (State.bootReject s err sect) := by
  unfold State.bootReject
  repeat' first
    | with_reducible first
        | assumption | apply State.bootQuiet_held | apply State.putBit_held | apply State.put_held | apply State.raise_held
    | simp only [State.held_same] | intro _ | split

theorem State.bootCheck_held [CountsZero fr] {s : State} {flash : List (BitVec 8)} (hs : s.Held q fr) :
    State.Held q fr (State.bootCheck s flash) := by
  unfold State.bootCheck
  repeat' first
    | with_reducible first
        | assumption | apply State.bootReject_held | apply State.put_held
    | simp only [State.held_same] | split

theorem State.bootNext_held {s : State} (hs : s.Held q fr) :
    State.Held q fr (State.bootNext s) := by
  unfold State.bootNext
  repeat' first
    | with_reducible first
        | assumption | apply State.put_held
    | simp only [State.held_same]

theorem State.sectionLoad_held [CountsZero fr] {s : State} {x : Section} {bad1 : Bool} {bad2 : Bool} (hs : s.Held q fr) :
    State.Held q fr (State.sectionLoad s x bad1 bad2) := by
  unfold State.sectionLoad
  repeat' first
    | with_reducible first
        | assumption | apply State.bootNext_held | apply State.bootReject_held | apply State.romWords_held
        | apply State.Held.ite
    | simp only [State.held_same] | intro _

theorem State.bootHandoff_held {s : State} (hs : s.Held q fr) : (State.bootHandoff s).Held q fr := by
  unfold State.bootHandoff
  extract_lets s1 s2 s3 s4 c
  have h4 : s4.Held q fr := State.remapDone_held (State.remapWrite_held (State.setRam_held (State.setRam_held
    (State.raise_held (State.put_held (State.put_held (State.putBit_held hs) _ _) _ _)))))
  have hc : c.shallow := h4.stw
  clear_value c s4
  obtain ⟨hq, hn, hr, hs, hd, hl, ht, ha, hb, hf, hv⟩ := h4
  exact ⟨hq, hn, hr, hs, hd, hl, hc, ha, hb, hf, hv⟩

theorem State.bootStart_held {s : State} (hs : s.Held q fr) :
    State.Held q fr (State.bootStart s) := by
  unfold State.bootStart
  repeat' first
    | with_reducible first
        | assumption | apply State.put_held | apply State.stewardStart_held
    | simp only [State.held_same] | intro _ | split

theorem State.dqStore_held {s : State} {a : Nat} {x : Sinter} (hs : s.Held q fr) :
    State.Held q fr (State.dqStore s a x) := by
  unfold State.dqStore
  repeat' first
    | with_reducible first
        | assumption | apply State.memFault_held | apply State.setRam_held
    | intro _ | split

theorem State.dqRead_held {s : State} {cl : Nat} {a : Nat} {n : Nat} (hs : s.Held q fr) :
    State.Held q fr (State.dqRead s cl a n).1 := by
  unfold State.dqRead
  repeat' first
    | with_reducible first
        | assumption | apply State.readNow_held
    | split

theorem State.dqWrite_held [CountsZero fr] {s : State} {cl : Nat} {a : Nat} {ws : List Sinter} (hs : s.Held q fr) :
    State.Held q fr (State.dqWrite s cl a ws) := by
  unfold State.dqWrite
  repeat' first
    | with_reducible first
        | assumption | apply State.dqStore_held | apply State.writeNow_held | apply State.Held.foldl
    | intro _ | split

theorem State.dqPoison_held [CountsZero fr] {cl : Nat} : ∀ (fuel b n : Nat) {s : State}, s.Held q fr →
    (State.dqPoison cl fuel b n s).Held q fr
  | 0, _, _, s, h => h
  | fuel + 1, b, n, s, h => by
    unfold State.dqPoison
    split
    · exact h
    · exact State.dqPoison_held fuel _ _ (State.dqWrite_held h)

theorem State.setDq_held {s : State} {cl : Nat} {d : Nat} {r : DqRun} (hs : s.Held q fr) :
    State.Held q fr (State.setDq s cl d r) := by
  unfold State.setDq
  repeat' first
    | with_reducible first
        | assumption
    | simp only [State.held_same]

theorem State.dqAbandon_held [CountsZero fr] {s : State} {cl : Nat} {d : Nat} (hs : s.Held q fr) :
    State.Held q fr (State.dqAbandon s cl d) := by
  unfold State.dqAbandon
  repeat' first
    | with_reducible first
        | assumption | apply State.dqPoison_held | apply State.putBit_held | apply State.put_held
        | apply State.raise_held | apply State.setDq_held

theorem State.dqDeadline_held [CountsZero fr] {s : State} {w : Nat} {cl : Nat} {d : Nat} (hs : s.Held q fr) :
    State.Held q fr (State.dqDeadline s w cl d) := by
  unfold State.dqDeadline
  repeat' first
    | with_reducible first
        | assumption | apply State.dqAbandon_held
    | intro _ | split

theorem State.dqBad_held {s : State} {cl : Nat} {d : Nat} (hs : s.Held q fr) :
    State.Held q fr (State.dqBad s cl d) := by
  unfold State.dqBad
  repeat' first
    | with_reducible first
        | assumption | apply State.putBit_held | apply State.put_held | apply State.raise_held | apply State.setDq_held

theorem State.dqRenew_held {w : Nat} {cl : Nat} {s : State} {d : Nat} (hs : s.Held q fr) :
    State.Held q fr (State.dqRenew w cl s d) := by
  unfold State.dqRenew
  repeat' first
    | with_reducible first
        | assumption | apply State.dqBad_held | apply State.setDq_held
    | intro _ | split

theorem State.dqEdge_held [CountsZero fr] {w : Nat} {s : State} {cl : Nat} (hs : s.Held q fr) :
    State.Held q fr (State.dqEdge w s cl) := by
  unfold State.dqEdge
  repeat' first
    | with_reducible first
        | assumption | apply State.dqDeadline_held | apply State.dqRenew_held | apply State.Held.foldl
    | intro _

theorem State.scrubPass_held {s : State} (hs : s.Held q fr) :
    State.Held q fr (State.scrubPass s) := by
  unfold State.scrubPass
  repeat' first
    | with_reducible first
        | assumption | apply State.fumPassDone_held | apply State.putBit_held | apply State.put_held | apply State.raise_held
    | simp only [State.held_same] | intro _ | split

theorem State.dqMove_held [CountsZero fr] {cl : Nat} : ∀ (fuel a b n : Nat) {s : State}, s.Held q fr →
    (State.dqMove cl fuel a b n s).Held q fr
  | 0, _, _, _, s, h => h
  | fuel + 1, a, b, n, s, h => by
    unfold State.dqMove
    split
    · exact h
    · exact State.dqMove_held fuel _ _ _ (State.dqWrite_held (State.dqRead_held h))

theorem State.dqStep_held [CountsZero fr] {s : State} {cl : Nat} {d : Nat} {n : Nat} (hs : s.Held q fr) :
    State.Held q fr (State.dqStep s cl d n) := by
  unfold State.dqStep
  repeat' first
    | with_reducible first
        | assumption | apply State.dqMove_held | apply State.setDq_held
    | simp only | intro _ | split

theorem State.scrubBad_held {s : State} {a : Nat} {key : Nat} (hs : s.Held q fr) :
    State.Held q fr (State.scrubBad s a key) := by
  unfold State.scrubBad
  repeat' first
    | with_reducible first
        | assumption | apply State.degrade_held | apply State.putBit_held | apply State.put_held | apply State.raise_held
    | simp only [State.held_same] | intro _ | split

theorem State.scrubNext_held {s : State} {a : Nat} {key : Nat} {x : Sinter} (hs : s.Held q fr) :
    State.Held q fr (State.scrubNext s a key x) := by
  unfold State.scrubNext
  repeat' first
    | with_reducible first
        | assumption | apply State.scrubBad_held | apply State.scrubPass_held
    | simp only [State.held_same] | intro _ | split

theorem State.cnvNote_held {s : State} {v : Nat} {dup : Option Nat} (hs : s.Held q fr) :
    State.Held q fr (State.cnvNote s v dup) := by
  unfold State.cnvNote
  repeat' first
    | with_reducible first
        | assumption | apply State.cnvDup_held
    | intro _ | split

theorem State.convOutChan_held {f : Nat} {dup : Option Nat} {s : State} {v : Nat} (hs : s.Held q fr) :
    State.Held q fr (State.convOutChan f dup s v) := by
  unfold State.convOutChan
  repeat' first
    | with_reducible first
        | assumption | apply State.cnvNote_held | apply State.cnvPoisonIn_held | apply State.convAdvance_held
        | apply State.setChan_held
    | simp only [State.held_same] | intro _ | split

theorem State.rwpApply_held {s : State} (hs : s.Held q fr) : (State.rwpApply s).Held q fr := by
  have key : ∀ (l : Assoc (Option Nat)) (m : Assoc Nat), m.wf 0 = true → Assoc.wf 0 (l.foldl (fun (m : Assoc Nat) e =>
      match e.2 with | some v => m.upd 0 e.1 v | none => m) m) = true := by
    intro l
    induction l with
    | nil => intro m h; exact h
    | cons e l ih =>
      intro m h
      refine ih _ ?_
      dsimp only
      split
      · exact Assoc.upd_wf _ _ h
      · exact h
  obtain ⟨hq, hn, hr, hs, hd, hl, ht, ha, hb, hf, hv⟩ := hs
  exact ⟨hq, hn, key _ _ hr, hs, hd, hl, ht, ha, hb, hf, hv⟩

theorem State.gysBoundary_held {s : State} (hs : s.Held q fr) :
    State.Held q fr (State.gysBoundary s) := by
  unfold State.gysBoundary
  repeat' first
    | with_reducible first
        | assumption | apply State.dwApplyAll_held | apply State.gysFaultSteps_held
    | intro _ | split

theorem State.periodBoundary_held {s : State} (hs : s.Held q fr) :
    State.Held q fr (State.periodBoundary s) := by
  unfold State.periodBoundary
  repeat' first
    | with_reducible first
        | assumption | apply State.gysBoundary_held | apply State.heartbeat_held | apply State.pwrBoundary_held
        | apply State.rwpApply_held | apply State.tablesAdopt_held
    | simp only [State.held_same] | intro _ | split

theorem State.convIn_held {s : State} {f : Nat} {dup : Option Nat} (hs : s.Held q fr) :
    State.Held q fr (State.convIn s f dup) := by
  unfold State.convIn
  repeat' first
    | with_reducible first
        | assumption | apply State.cnvNote_held | apply State.convAdvance_held | apply State.ingressPut_held
        | apply State.Held.foldl
    | intro _

theorem State.framesIn_held {s : State} {f : Nat} {dup : Option Nat} (hs : s.Held q fr) :
    State.Held q fr (State.framesIn s f dup) := by
  unfold State.framesIn
  repeat' first
    | with_reducible first
        | assumption | apply State.cnvSlip_held | apply State.convIn_held | apply State.linkFeed_held
        | apply State.netDeposit_held | apply State.Held.foldl
    | simp only | intro _ | split

theorem State.cnvPeriod_held {s : State} {f : Nat} (hs : s.Held q fr) :
    State.Held q fr (State.cnvPeriod s f) := by
  unfold State.cnvPeriod
  repeat' first
    | with_reducible first
        | assumption | apply State.cnvBoundary_held
    | intro _ | split

theorem State.gysBadAt_held {s : State} {bad : Option Nat} (hs : s.Held q fr) :
    State.Held q fr (State.gysBadAt s bad) := by
  unfold State.gysBadAt
  repeat' first
    | with_reducible first
        | assumption | apply State.gysStateFault_held
    | simp only [State.held_same] | split

theorem State.sliceJoin_held {s : State} {r : Nat} (hs : s.Held q fr) :
    State.Held q fr (State.sliceJoin s r) := by
  unfold State.sliceJoin
  repeat' first
    | with_reducible first
        | assumption | apply State.sliceReload_held
    | simp only [State.held_same] | intro _ | split

theorem State.planeEdge_held [CountsZero fr] {s : State} {w : Nat} (hs : s.Held q fr) :
    State.Held q fr (State.planeEdge s w) := by
  unfold State.planeEdge
  repeat' first
    | with_reducible first
        | assumption | apply State.calActive_held | apply State.cellsEdge_held | apply State.dqEdge_held
        | apply State.patrolShow_held | apply State.rampRelease_held | apply State.s0Close_held
        | apply State.sliceJoin_held | apply State.Held.foldl
    | intro _ | split

theorem State.stageEdge_held [CountsZero fr] {s : State} (hs : s.Held q fr) :
    State.Held q fr (State.stageEdge s) := by
  unfold State.stageEdge
  repeat' first
    | with_reducible first
        | assumption | apply State.fumCheck_held | apply State.meterLatch_held | apply State.pairCompare_held
        | apply State.planeEdge_held
    | simp only | intro _ | split

theorem State.portsRestart_held {s : State} (hs : s.Held q fr) :
    State.Held q fr (State.portsRestart s) := by
  unfold State.portsRestart
  repeat' first
    | with_reducible first
        | assumption | apply State.put_held | apply State.Held.foldl
    | simp only [State.held_same] | intro _ | split

theorem State.edgeOut_held {s : State} {vntDup : Option Nat} (hs : s.Held q fr) :
    State.Held q fr (State.edgeOut s vntDup) := by
  unfold State.edgeOut
  repeat' first
    | with_reducible first
        | assumption | apply State.portOutputs_held | apply State.portsLow_held | apply State.portsRestart_held
        | apply State.streamQueue_held
    | simp only | intro _ | split

theorem State.convOut_held {s : State} {f : Nat} {dup : Option Nat} (hs : s.Held q fr) :
    State.Held q fr (State.convOut s f dup) := by
  unfold State.convOut
  repeat' first
    | with_reducible first
        | assumption | apply State.convOutChan_held | apply State.Held.foldl

theorem State.framesOut_held {s : State} {f : Nat} {dup : Option Nat} (hs : s.Held q fr) :
    State.Held q fr (State.framesOut s f dup) := by
  unfold State.framesOut
  repeat' first
    | with_reducible first
        | assumption | apply State.cnvEgressPeriod_held | apply State.convOut_held | apply State.fumHand_held
        | apply State.streamCollect_held
    | simp only | intro _ | split

theorem State.prune_held {s : State} (hs : s.Held q fr) :
    State.Held q fr (State.prune s) := by
  unfold State.prune
  repeat' first
    | with_reducible first
        | assumption
    | simp only [State.held_same]

theorem State.edge_held {s : State} {a b c : Option Nat} {g : Nat} (hs : s.Held q fr)
    (h0 : s.frame % 16 = 1 → CountsZero fr) : (State.edge s a b c g).Held q fr := by
  unfold State.edge
  extract_lets f s1 s2 s3 s4 s5 s6 s7 s8
  have h1 : s1.Held q fr := State.actLevel_held (State.pairRelease_held (State.gpioDrive_held hs))
  have h2 : s2.Held q fr := State.Held.ite (fun _ => State.periodBoundary_held h1) (fun _ => h1)
  have h3 : s3.Held q fr := State.framesIn_held (State.cnvPeriod_held (State.gysBadAt_held h2))
  have h4 : s4.Held q fr := State.Held.ite (fun h => have := h0 h; State.stageEdge_held h3) (fun _ => h3)
  have h5 : s5.Held q fr := State.Held.ite (fun _ => State.directSlots_held h4) (fun _ => h4)
  have h6 : s6.Held q fr := State.edgeOut_held h5
  have h7 : s7.Held q fr := State.Held.ite (fun _ => State.framesOut_held h6) (fun _ => h6)
  have h8 : s8.Held q fr := State.prune_held (State.rampEdge_held (State.rampStep_held (State.pwrEdge_held (State.tcLatch_held
    (State.fumTick_held (State.linkTx_held h7))))))
  exact h8.same rfl rfl rfl rfl rfl rfl rfl

theorem State.stallEnds_held {s : State} (hs : s.Held q fr) :
    State.Held q fr (State.stallEnds s) := by
  unfold State.stallEnds
  repeat' first
    | with_reducible first
        | assumption
    | simp only [State.held_same] | intro _ | split

theorem Domain.tick_legal {x : Domain} (h : x.legal) : x.tick.legal := by
  obtain ⟨h1, h2, h3, h4, h5, h6⟩ := h
  unfold Domain.tick
  dsimp only
  split
  · refine ⟨?_, ?_, ?_, h4, h5, h6⟩ <;> simp only [Nat.reducePow, Nat.reduceMul] at * <;> omega
  · refine ⟨h1, ?_, ?_, h4, h5, h6⟩ <;> simp only [Nat.reducePow, Nat.reduceMul] at * <;> omega

theorem State.tick_held {s : State} (hs : s.Held q fr) : (State.tick s).Held q fr := by
  unfold State.tick
  have h1 : ({ s with refs := { s.refs with a := s.refs.a.tick, b := s.refs.b.tick } } : State).Held q fr := by
    obtain ⟨hq, hn, hr, hs, hd, hl, ht, ha, hb, hf, hv⟩ := hs
    exact ⟨hq, hn, hr, hs, hd, hl, ht, Domain.tick_legal ha, Domain.tick_legal hb, hf, hv⟩
  dsimp only
  refine State.Held.ite (fun _ => State.put_held ?_ _ _) (fun _ => ?_) <;> exact State.Held.ite (fun _ => h1) (fun _ => hs)

theorem State.frameEdge_held {s : State} {a b c : Option Nat} {g : Nat} (hs : s.Held q fr)
    (hn : s.dividerRuns = true → fr ((s.frame + 1) % 2 ^ 64)) (h0 : (s.frame + 1) % 2 ^ 64 % 16 = 1 → CountsZero fr) :
    (State.frameEdge s a b c g).Held q fr := by
  unfold State.frameEdge
  split
  · exact hs
  · rename_i hd
    have h1 : ({ s with frame := (s.frame + 1) % 2 ^ 64 } : State).Held q fr := by
      obtain ⟨hq, -, hr, hs, hd', hl, ht, ha, hb, hf, hv⟩ := hs
      exact ⟨hq, hn (by simpa using hd), hr, hs, hd', hl, ht, ha, hb, hf, hv⟩
    exact State.Held.ite (fun _ => h1) (fun _ => State.edge_held h1 h0)

theorem State.egressSeal_held {s : State} {w : Nat} (hs : s.Held q fr) :
    State.Held q fr (State.egressSeal s w) := by
  unfold State.egressSeal
  repeat' first
    | with_reducible first
        | assumption
    | simp only [State.held_same]

theorem State.stageDeadline_held {s : State} {w : Nat} {patrol : List PatrolResult} (hs : s.Held q fr) :
    State.Held q fr (State.stageDeadline s w patrol) := by
  unfold State.stageDeadline
  repeat' first
    | with_reducible first
        | assumption | apply State.cellDeadline_held | apply State.cellSeal_held | apply State.egressSeal_held
        | apply State.spareWindow_held | apply State.stallEnds_held | apply State.Held.foldl
    | simp only [State.held_same] | intro _ | split

theorem State.fetchFails_held {s : State} {code : Nat} (hs : s.Held q fr) :
    State.Held q fr (State.fetchFails s code) := by
  unfold State.fetchFails
  repeat' first
    | with_reducible first
        | assumption | apply State.fabFail_held | apply State.stwException_held
    | simp only [State.held_same]

theorem State.stewardError_held {s : State} {r : FabResp} {closing : Bool} {pc : Nat} (hs : s.Held q fr) :
    State.Held q fr (State.stewardError s r closing pc) := by
  unfold State.stewardError
  repeat' first
    | with_reducible first
        | assumption | apply State.stwException_held
    | simp only [State.held_same]

theorem State.stewardTake.takePosted_held {s : State} {r : FabResp} (hs : s.Held q fr) :
    State.Held q fr (State.stewardTake.takePosted s r) := by
  unfold State.stewardTake.takePosted
  repeat' first
    | with_reducible first
        | assumption | apply State.stewardError_held
    | simp only [State.held_same] | intro _ | split

theorem State.stewardTake_held {s : State} {r : FabResp} (hs : s.Held q fr) : (State.stewardTake s r).Held q fr := by
  unfold State.stewardTake
  extract_lets _ s1
  have h1 : s1.Held q fr := hs.same rfl rfl rfl rfl rfl rfl rfl
  have e1 : s1.stw = s.stw := rfl
  clear_value s1
  split
  · split
    · have h2 : ({ s1 with stw := { s1.stw with wait := none } } : State).Held q fr := h1.same rfl rfl rfl rfl rfl rfl rfl
      split
      · exact State.stewardError_held h2
      · split
        · exact h2
        · obtain ⟨hq, hn, hr, hs, hd, hl, ht, ha, hb, hf, hv⟩ := h1
          exact ⟨hq, hn, hr, hs, hd, hl, Core.sendG_shallow ht, ha, hb, hf, hv⟩
    · exact State.stewardTake.takePosted_held h1
  · exact State.stewardTake.takePosted_held h1

theorem State.runOff_held {s : State} {u : Exe} (hs : s.Held q fr) :
    State.Held q fr (State.runOff s u) := by
  unfold State.runOff
  repeat' first
    | with_reducible first
        | assumption | apply State.cellStop_held | apply State.stwException_held | apply State.Held.core
    | simp only [Core.shallow_same] | split

theorem Core.step_shallow {c : Core} {w : BitVec 64} (hc : c.shallow) :
    Core.shallow (Core.step c w) := by
  unfold Core.step
  repeat' first
    | with_reducible first
        | assumption | apply Core.land_shallow
    | simp only [Core.shallow_same]

theorem State.fetchBundle_held {s : State} {u : Exe} (hs : s.Held q fr) :
    State.Held q fr (State.fetchBundle s u) := by
  unfold State.fetchBundle
  repeat' first
    | with_reducible first
        | assumption | apply Core.step_shallow | apply State.cycles_held | apply State.runOff_held
        | apply State.setCore_held | apply State.trap_held | apply State.Held.core
    | simp only [State.held_same] | simp only [Core.shallow_same] | intro _ | split

theorem localWrites_held [CountsZero fr] : ∀ (l : List (BitVec 32)) (a : Nat) {s : State}, s.Held q fr → (localWrites l a s).2.Held q fr
  | [], _, s, h => h
  | v :: vs, a, s, h => by
    unfold localWrites
    split
    · exact h
    · exact localWrites_held vs _ (State.regWrite_held h)

theorem localReads_held : ∀ (n a : Nat) {s : State}, s.Held q fr → (localReads n a s).2.2.Held q fr
  | 0, _, s, h => h
  | n + 1, a, s, h => by
    unfold localReads
    split
    · exact h
    · exact localReads_held n _ (State.regRead_held h)

theorem State.hostHandshake_held {s : State} (hs : s.Held q fr) :
    State.Held q fr (State.hostHandshake s) := by
  unfold State.hostHandshake
  repeat' first
    | with_reducible first
        | assumption | apply State.masterReset_held | apply State.raise_held

theorem State.mgmtFrameErr_held {s : State} (hs : s.Held q fr) :
    State.Held q fr (State.mgmtFrameErr s) := by
  unfold State.mgmtFrameErr
  repeat' first
    | with_reducible first
        | assumption | apply State.putBit_held | apply State.raiseOnce_held

theorem State.tapSelect_held {s : State} {ir : Nat} {dr : Nat} (hs : s.Held q fr) :
    State.Held q fr (State.tapSelect s ir dr) := by
  unfold State.tapSelect
  repeat' first
    | with_reducible first
        | assumption
    | simp only [State.held_same]

theorem State.msixTableWrite_held {s : State} {i : Nat} {v : Nat} (hs : s.Held q fr) :
    State.Held q fr (State.msixTableWrite s i v) := by
  unfold State.msixTableWrite
  repeat' first
    | with_reducible first
        | assumption | apply State.msixUnmask_held
    | simp only [State.held_same] | intro _ | split

theorem State.hstErr_held {s : State} {a : Nat} {code : Nat} {kind : Nat} (hs : s.Held q fr) :
    State.Held q fr (State.hstErr s a code kind) := by
  unfold State.hstErr
  repeat' first
    | with_reducible first
        | assumption | apply State.put_held

theorem State.hostWordCheck_held {s : State} {w : Nat × Sinter} (hs : s.Held q fr) :
    State.Held q fr (State.hostWordCheck s w) := by
  unfold State.hostWordCheck
  repeat' first
    | with_reducible first
        | assumption | apply State.hstErr_held | apply State.putBit_held | apply State.raiseOnce_held
    | intro _ | split

theorem State.hostError_held {s : State} {e : Nat × Nat} (hs : s.Held q fr) :
    State.Held q fr (State.hostError s e) := by
  unfold State.hostError
  repeat' first
    | with_reducible first
        | assumption | apply State.hstErr_held | apply State.putBit_held | apply State.raiseOnce_held

theorem State.setCpl_held {s : State} {status : Nat} {data : List (BitVec 32)} {ep : Bool} (hs : s.Held q fr) :
    State.Held q fr (State.setCpl s status data ep) := by
  unfold State.setCpl
  repeat' first
    | with_reducible first
        | assumption
    | simp only [State.held_same]

theorem HostRun.complete_held {r : HostRun} (hr : r.s.Held q fr) :
    State.Held q fr (HostRun.complete r) := by
  unfold HostRun.complete
  repeat' first
    | with_reducible first
        | assumption | apply State.hostError_held | apply State.hostWordCheck_held | apply State.setCpl_held
        | apply State.Held.foldl
    | intro _ | split

theorem State.mgmtWrite_held [CountsZero fr] {s : State} {a : Nat} {words : List (BitVec 32)} (hs : s.Held q fr) :
    ∀ t, (State.mgmtWrite s a words) = some t → t.s.Held q fr := by
  unfold State.mgmtWrite
  repeat' first
    | with_reducible first
        | assumption | apply State.access_held

theorem HostRun.own_held {r : HostRun} {v : Nat} (hr : r.s.Held q fr) :
    State.Held q fr (HostRun.own r v).s := by
  unfold HostRun.own
  repeat' first
    | with_reducible first
        | assumption

theorem hostRead_held [CountsZero fr] {bar : Nat} : ∀ (fuel o n : Nat) {r : HostRun}, r.s.Held q fr →
    ∀ t, hostRead bar fuel o n r = some t → t.s.Held q fr
  | 0, _, _, r, h, t, ht => by cases ht; exact h
  | fuel + 1, o, n, r, h, t, ht => by
    unfold hostRead at ht
    split at ht
    · cases ht; exact h
    · dsimp only at ht
      split at ht
      · exact hostRead_held fuel _ _ (HostRun.own_held h) t ht
      · exact hostRead_held fuel _ _ (HostRun.own_held h) t ht
      · exact hostRead_held fuel _ _ (by exact h) t ht
      · split at ht
        · cases ht
        · rename_i b hb
          exact hostRead_held fuel _ _ (by exact State.access_held h _ hb) t ht

theorem State.mgmtAnswer_held {s : State} {status : Nat} {data : List (BitVec 32)} {poison : Nat} {mismatch : Nat} (hs : s.Held q fr) :
    State.Held q fr (State.mgmtAnswer s status data poison mismatch) := by
  unfold State.mgmtAnswer
  repeat' first
    | with_reducible first
        | assumption | apply State.raiseOnce_held
    | simp only [State.held_same] | intro _ | split

theorem State.hostPosted_held {s : State} {e : Nat × Nat} (hs : s.Held q fr) :
    State.Held q fr (State.hostPosted s e) := by
  unfold State.hostPosted
  repeat' first
    | with_reducible first
        | assumption | apply State.hostError_held
    | simp only [State.held_same]

theorem hostWrite_held [CountsZero fr] {bar : Nat} : ∀ (fuel o : Nat) (ws : List (BitVec 32)) {r : HostRun}, r.s.Held q fr →
    ∀ t, hostWrite bar fuel o ws r = some t → t.s.Held q fr
  | 0, _, _, r, h, t, ht => by cases ht; exact h
  | fuel + 1, o, ws, r, h, t, ht => by
    unfold hostWrite at ht
    split at ht
    · cases ht; exact h
    · dsimp only at ht
      split at ht
      · exact hostWrite_held fuel _ _ (by exact State.msixTableWrite_held h) t ht
      · exact hostWrite_held fuel _ _ h t ht
      · exact hostWrite_held fuel _ _ (by exact h) t ht
      · split at ht
        · cases ht
        · rename_i b hb
          exact hostWrite_held fuel _ _ (by exact State.access_held h _ hb) t ht

theorem State.dapCommand_held [CountsZero fr] {s : State} {op : FabOp} {a n : Nat} (hs : s.Held q fr) :
    (State.dapCommand s op a n).Held q fr := by
  unfold State.dapCommand
  extract_lets _ s0
  have h0 : s0.Held q fr := hs.same rfl rfl rfl rfl rfl rfl rfl
  clear_value s0
  split
  · exact State.raiseOnce_held h0
  · split
    · exact hs
    · rename_i b hb
      exact (State.raiseOnce_held (State.access_held h0 _ hb)).same rfl rfl rfl rfl rfl rfl rfl

end Sys2Proof.Machine
end

