-- ==== Sys2Proof/Laws/State.lean ====
section
/-! SUPPORT. What the primitive updates of the state change, and that they change nothing else. -/

namespace Sys2Proof.Machine

open Sys2Proof

/-! ### Reading a register after a write -/

theorem State.look_put (s : State) (f : Fld) (v k : Nat) :
    (s.put f v).regs.look 0 k = if k = f.key then (v % 2 ^ f.w) ^^^ f.rst else s.regs.look 0 k := by
  simp only [State.put, Assoc.look_upd]

@[simp] theorem State.get_put_same (s : State) (f : Fld) (v : Nat) : (s.put f v).get f = v % 2 ^ f.w := by
  simp only [State.get, State.look_put, if_true, Nat.xor_assoc, Nat.xor_self, Nat.xor_zero]

theorem State.get_put_ne (s : State) {f g : Fld} (v : Nat) (h : g.key ≠ f.key) : (s.put f v).get g = s.get g := by
  simp only [State.get, State.look_put, h, if_false]

theorem State.bit_put_ne (s : State) {f g : Fld} (v : Nat) (h : g.key ≠ f.key) : (s.put f v).bit g = s.bit g := by
  simp only [State.bit, State.get_put_ne s v h]

theorem State.get_putBit_ne (s : State) {f g : Fld} (b : Bool) (h : g.key ≠ f.key) : (s.putBit f b).get g = s.get g :=
  State.get_put_ne s _ h

theorem State.bit_putBit_ne (s : State) {f g : Fld} (b : Bool) (h : g.key ≠ f.key) : (s.putBit f b).bit g = s.bit g :=
  State.bit_put_ne s _ h

/-- A one-bit field reads as it was set. -/
theorem State.bit_putBit_same (s : State) {f : Fld} (b : Bool) (h : 1 ≤ f.w) : (s.putBit f b).bit f = b := by
  have h2 : 2 ≤ 2 ^ f.w := by
    calc 2 = 2 ^ 1 := rfl
      _ ≤ 2 ^ f.w := Nat.pow_le_pow_right (by decide) h
  simp only [State.bit, State.putBit, State.get_put_same]
  cases b
  · simp
  · rw [show true.toNat = 1 from rfl, Nat.mod_eq_of_lt h2]; rfl

/-! ### What each update leaves -/

@[simp] theorem State.put_pending (s : State) (f : Fld) (v : Nat) : (s.put f v).pending = s.pending := rfl
@[simp] theorem State.put_free (s : State) (f : Fld) (v : Nat) : (s.put f v).free = s.free := rfl
@[simp] theorem State.put_frame (s : State) (f : Fld) (v : Nat) : (s.put f v).frame = s.frame := rfl
@[simp] theorem State.put_staged (s : State) (f : Fld) (v : Nat) : (s.put f v).staged = s.staged := rfl
@[simp] theorem State.put_mem (s : State) (f : Fld) (v : Nat) : (s.put f v).mem = s.mem := rfl
@[simp] theorem State.put_eng (s : State) (f : Fld) (v : Nat) : (s.put f v).eng = s.eng := rfl
@[simp] theorem State.put_cells (s : State) (f : Fld) (v : Nat) : (s.put f v).cells = s.cells := rfl
@[simp] theorem State.put_stw (s : State) (f : Fld) (v : Nat) : (s.put f v).stw = s.stw := rfl
@[simp] theorem State.put_evt (s : State) (f : Fld) (v : Nat) : (s.put f v).evt = s.evt := rfl
@[simp] theorem State.put_cal (s : State) (f : Fld) (v : Nat) : (s.put f v).cal = s.cal := rfl
@[simp] theorem State.put_gys (s : State) (f : Fld) (v : Nat) : (s.put f v).gys = s.gys := rfl
@[simp] theorem State.put_fum (s : State) (f : Fld) (v : Nat) : (s.put f v).fum = s.fum := rfl
@[simp] theorem State.put_vent (s : State) (f : Fld) (v : Nat) : (s.put f v).vent = s.vent := rfl
@[simp] theorem State.put_lnk (s : State) (f : Fld) (v : Nat) : (s.put f v).lnk = s.lnk := rfl
@[simp] theorem State.put_cnv (s : State) (f : Fld) (v : Nat) : (s.put f v).cnv = s.cnv := rfl
@[simp] theorem State.put_mtr (s : State) (f : Fld) (v : Nat) : (s.put f v).mtr = s.mtr := rfl
@[simp] theorem State.put_ports (s : State) (f : Fld) (v : Nat) : (s.put f v).ports = s.ports := rfl
@[simp] theorem State.put_clk (s : State) (f : Fld) (v : Nat) : (s.put f v).clk = s.clk := rfl
@[simp] theorem State.put_refs (s : State) (f : Fld) (v : Nat) : (s.put f v).refs = s.refs := rfl
@[simp] theorem State.put_net (s : State) (f : Fld) (v : Nat) : (s.put f v).net = s.net := rfl
@[simp] theorem State.put_fab (s : State) (f : Fld) (v : Nat) : (s.put f v).fab = s.fab := rfl
@[simp] theorem State.put_pwr (s : State) (f : Fld) (v : Nat) : (s.put f v).pwr = s.pwr := rfl
@[simp] theorem State.put_boot (s : State) (f : Fld) (v : Nat) : (s.put f v).boot = s.boot := rfl
@[simp] theorem State.put_pcie (s : State) (f : Fld) (v : Nat) : (s.put f v).pcie = s.pcie := rfl
@[simp] theorem State.put_mgmt (s : State) (f : Fld) (v : Nat) : (s.put f v).mgmt = s.mgmt := rfl
@[simp] theorem State.put_tap (s : State) (f : Fld) (v : Nat) : (s.put f v).tap = s.tap := rfl
@[simp] theorem State.put_fuses (s : State) (f : Fld) (v : Nat) : (s.put f v).fuses = s.fuses := rfl
@[simp] theorem State.put_pins (s : State) (f : Fld) (v : Nat) : (s.put f v).pins = s.pins := rfl

@[simp] theorem State.putBit_pending (s : State) (f : Fld) (b : Bool) : (s.putBit f b).pending = s.pending := rfl
@[simp] theorem State.putBit_free (s : State) (f : Fld) (b : Bool) : (s.putBit f b).free = s.free := rfl
@[simp] theorem State.putBit_frame (s : State) (f : Fld) (b : Bool) : (s.putBit f b).frame = s.frame := rfl
@[simp] theorem State.putBit_staged (s : State) (f : Fld) (b : Bool) : (s.putBit f b).staged = s.staged := rfl
@[simp] theorem State.putBit_mem (s : State) (f : Fld) (b : Bool) : (s.putBit f b).mem = s.mem := rfl
@[simp] theorem State.putBit_eng (s : State) (f : Fld) (b : Bool) : (s.putBit f b).eng = s.eng := rfl
@[simp] theorem State.putBit_cells (s : State) (f : Fld) (b : Bool) : (s.putBit f b).cells = s.cells := rfl
@[simp] theorem State.putBit_stw (s : State) (f : Fld) (b : Bool) : (s.putBit f b).stw = s.stw := rfl
@[simp] theorem State.putBit_evt (s : State) (f : Fld) (b : Bool) : (s.putBit f b).evt = s.evt := rfl
@[simp] theorem State.putBit_cal (s : State) (f : Fld) (b : Bool) : (s.putBit f b).cal = s.cal := rfl
@[simp] theorem State.putBit_gys (s : State) (f : Fld) (b : Bool) : (s.putBit f b).gys = s.gys := rfl
@[simp] theorem State.putBit_fum (s : State) (f : Fld) (b : Bool) : (s.putBit f b).fum = s.fum := rfl
@[simp] theorem State.putBit_vent (s : State) (f : Fld) (b : Bool) : (s.putBit f b).vent = s.vent := rfl
@[simp] theorem State.putBit_lnk (s : State) (f : Fld) (b : Bool) : (s.putBit f b).lnk = s.lnk := rfl
@[simp] theorem State.putBit_cnv (s : State) (f : Fld) (b : Bool) : (s.putBit f b).cnv = s.cnv := rfl
@[simp] theorem State.putBit_mtr (s : State) (f : Fld) (b : Bool) : (s.putBit f b).mtr = s.mtr := rfl
@[simp] theorem State.putBit_ports (s : State) (f : Fld) (b : Bool) : (s.putBit f b).ports = s.ports := rfl
@[simp] theorem State.putBit_clk (s : State) (f : Fld) (b : Bool) : (s.putBit f b).clk = s.clk := rfl
@[simp] theorem State.putBit_refs (s : State) (f : Fld) (b : Bool) : (s.putBit f b).refs = s.refs := rfl
@[simp] theorem State.putBit_net (s : State) (f : Fld) (b : Bool) : (s.putBit f b).net = s.net := rfl
@[simp] theorem State.putBit_fab (s : State) (f : Fld) (b : Bool) : (s.putBit f b).fab = s.fab := rfl
@[simp] theorem State.putBit_pwr (s : State) (f : Fld) (b : Bool) : (s.putBit f b).pwr = s.pwr := rfl
@[simp] theorem State.putBit_boot (s : State) (f : Fld) (b : Bool) : (s.putBit f b).boot = s.boot := rfl
@[simp] theorem State.putBit_pcie (s : State) (f : Fld) (b : Bool) : (s.putBit f b).pcie = s.pcie := rfl
@[simp] theorem State.putBit_mgmt (s : State) (f : Fld) (b : Bool) : (s.putBit f b).mgmt = s.mgmt := rfl
@[simp] theorem State.putBit_tap (s : State) (f : Fld) (b : Bool) : (s.putBit f b).tap = s.tap := rfl
@[simp] theorem State.putBit_fuses (s : State) (f : Fld) (b : Bool) : (s.putBit f b).fuses = s.fuses := rfl
@[simp] theorem State.putBit_pins (s : State) (f : Fld) (b : Bool) : (s.putBit f b).pins = s.pins := rfl

@[simp] theorem State.stage_pending (s : State) (f : Fld) (v : Nat) : (s.stage f v).pending = s.pending := rfl
@[simp] theorem State.stage_free (s : State) (f : Fld) (v : Nat) : (s.stage f v).free = s.free := rfl
@[simp] theorem State.stage_frame (s : State) (f : Fld) (v : Nat) : (s.stage f v).frame = s.frame := rfl
@[simp] theorem State.stage_regs (s : State) (f : Fld) (v : Nat) : (s.stage f v).regs = s.regs := rfl
@[simp] theorem State.stage_mem (s : State) (f : Fld) (v : Nat) : (s.stage f v).mem = s.mem := rfl
@[simp] theorem State.stage_eng (s : State) (f : Fld) (v : Nat) : (s.stage f v).eng = s.eng := rfl
@[simp] theorem State.stage_cells (s : State) (f : Fld) (v : Nat) : (s.stage f v).cells = s.cells := rfl
@[simp] theorem State.stage_stw (s : State) (f : Fld) (v : Nat) : (s.stage f v).stw = s.stw := rfl
@[simp] theorem State.stage_evt (s : State) (f : Fld) (v : Nat) : (s.stage f v).evt = s.evt := rfl
@[simp] theorem State.stage_cal (s : State) (f : Fld) (v : Nat) : (s.stage f v).cal = s.cal := rfl
@[simp] theorem State.stage_gys (s : State) (f : Fld) (v : Nat) : (s.stage f v).gys = s.gys := rfl
@[simp] theorem State.stage_fum (s : State) (f : Fld) (v : Nat) : (s.stage f v).fum = s.fum := rfl
@[simp] theorem State.stage_vent (s : State) (f : Fld) (v : Nat) : (s.stage f v).vent = s.vent := rfl
@[simp] theorem State.stage_lnk (s : State) (f : Fld) (v : Nat) : (s.stage f v).lnk = s.lnk := rfl
@[simp] theorem State.stage_cnv (s : State) (f : Fld) (v : Nat) : (s.stage f v).cnv = s.cnv := rfl
@[simp] theorem State.stage_mtr (s : State) (f : Fld) (v : Nat) : (s.stage f v).mtr = s.mtr := rfl
@[simp] theorem State.stage_ports (s : State) (f : Fld) (v : Nat) : (s.stage f v).ports = s.ports := rfl
@[simp] theorem State.stage_clk (s : State) (f : Fld) (v : Nat) : (s.stage f v).clk = s.clk := rfl
@[simp] theorem State.stage_refs (s : State) (f : Fld) (v : Nat) : (s.stage f v).refs = s.refs := rfl
@[simp] theorem State.stage_net (s : State) (f : Fld) (v : Nat) : (s.stage f v).net = s.net := rfl
@[simp] theorem State.stage_fab (s : State) (f : Fld) (v : Nat) : (s.stage f v).fab = s.fab := rfl
@[simp] theorem State.stage_pwr (s : State) (f : Fld) (v : Nat) : (s.stage f v).pwr = s.pwr := rfl
@[simp] theorem State.stage_boot (s : State) (f : Fld) (v : Nat) : (s.stage f v).boot = s.boot := rfl
@[simp] theorem State.stage_pcie (s : State) (f : Fld) (v : Nat) : (s.stage f v).pcie = s.pcie := rfl
@[simp] theorem State.stage_mgmt (s : State) (f : Fld) (v : Nat) : (s.stage f v).mgmt = s.mgmt := rfl
@[simp] theorem State.stage_tap (s : State) (f : Fld) (v : Nat) : (s.stage f v).tap = s.tap := rfl
@[simp] theorem State.stage_fuses (s : State) (f : Fld) (v : Nat) : (s.stage f v).fuses = s.fuses := rfl
@[simp] theorem State.stage_pins (s : State) (f : Fld) (v : Nat) : (s.stage f v).pins = s.pins := rfl

@[simp] theorem State.setRam_pending (s : State) (k : Nat) (x : Sinter) : (s.setRam k x).pending = s.pending := rfl
@[simp] theorem State.setRam_free (s : State) (k : Nat) (x : Sinter) : (s.setRam k x).free = s.free := rfl
@[simp] theorem State.setRam_frame (s : State) (k : Nat) (x : Sinter) : (s.setRam k x).frame = s.frame := rfl
@[simp] theorem State.setRam_regs (s : State) (k : Nat) (x : Sinter) : (s.setRam k x).regs = s.regs := rfl
@[simp] theorem State.setRam_staged (s : State) (k : Nat) (x : Sinter) : (s.setRam k x).staged = s.staged := rfl
@[simp] theorem State.setRam_eng (s : State) (k : Nat) (x : Sinter) : (s.setRam k x).eng = s.eng := rfl
@[simp] theorem State.setRam_cells (s : State) (k : Nat) (x : Sinter) : (s.setRam k x).cells = s.cells := rfl
@[simp] theorem State.setRam_stw (s : State) (k : Nat) (x : Sinter) : (s.setRam k x).stw = s.stw := rfl
@[simp] theorem State.setRam_evt (s : State) (k : Nat) (x : Sinter) : (s.setRam k x).evt = s.evt := rfl
@[simp] theorem State.setRam_cal (s : State) (k : Nat) (x : Sinter) : (s.setRam k x).cal = s.cal := rfl
@[simp] theorem State.setRam_gys (s : State) (k : Nat) (x : Sinter) : (s.setRam k x).gys = s.gys := rfl
@[simp] theorem State.setRam_fum (s : State) (k : Nat) (x : Sinter) : (s.setRam k x).fum = s.fum := rfl
@[simp] theorem State.setRam_vent (s : State) (k : Nat) (x : Sinter) : (s.setRam k x).vent = s.vent := rfl
@[simp] theorem State.setRam_lnk (s : State) (k : Nat) (x : Sinter) : (s.setRam k x).lnk = s.lnk := rfl
@[simp] theorem State.setRam_cnv (s : State) (k : Nat) (x : Sinter) : (s.setRam k x).cnv = s.cnv := rfl
@[simp] theorem State.setRam_mtr (s : State) (k : Nat) (x : Sinter) : (s.setRam k x).mtr = s.mtr := rfl
@[simp] theorem State.setRam_ports (s : State) (k : Nat) (x : Sinter) : (s.setRam k x).ports = s.ports := rfl
@[simp] theorem State.setRam_clk (s : State) (k : Nat) (x : Sinter) : (s.setRam k x).clk = s.clk := rfl
@[simp] theorem State.setRam_refs (s : State) (k : Nat) (x : Sinter) : (s.setRam k x).refs = s.refs := rfl
@[simp] theorem State.setRam_net (s : State) (k : Nat) (x : Sinter) : (s.setRam k x).net = s.net := rfl
@[simp] theorem State.setRam_fab (s : State) (k : Nat) (x : Sinter) : (s.setRam k x).fab = s.fab := rfl
@[simp] theorem State.setRam_pwr (s : State) (k : Nat) (x : Sinter) : (s.setRam k x).pwr = s.pwr := rfl
@[simp] theorem State.setRam_boot (s : State) (k : Nat) (x : Sinter) : (s.setRam k x).boot = s.boot := rfl
@[simp] theorem State.setRam_pcie (s : State) (k : Nat) (x : Sinter) : (s.setRam k x).pcie = s.pcie := rfl
@[simp] theorem State.setRam_mgmt (s : State) (k : Nat) (x : Sinter) : (s.setRam k x).mgmt = s.mgmt := rfl
@[simp] theorem State.setRam_tap (s : State) (k : Nat) (x : Sinter) : (s.setRam k x).tap = s.tap := rfl
@[simp] theorem State.setRam_fuses (s : State) (k : Nat) (x : Sinter) : (s.setRam k x).fuses = s.fuses := rfl
@[simp] theorem State.setRam_pins (s : State) (k : Nat) (x : Sinter) : (s.setRam k x).pins = s.pins := rfl

@[simp] theorem State.setDram_pending (s : State) (k : Nat) (x : Sinter) : (s.setDram k x).pending = s.pending := rfl
@[simp] theorem State.setDram_free (s : State) (k : Nat) (x : Sinter) : (s.setDram k x).free = s.free := rfl
@[simp] theorem State.setDram_frame (s : State) (k : Nat) (x : Sinter) : (s.setDram k x).frame = s.frame := rfl
@[simp] theorem State.setDram_regs (s : State) (k : Nat) (x : Sinter) : (s.setDram k x).regs = s.regs := rfl
@[simp] theorem State.setDram_staged (s : State) (k : Nat) (x : Sinter) : (s.setDram k x).staged = s.staged := rfl
@[simp] theorem State.setDram_eng (s : State) (k : Nat) (x : Sinter) : (s.setDram k x).eng = s.eng := rfl
@[simp] theorem State.setDram_cells (s : State) (k : Nat) (x : Sinter) : (s.setDram k x).cells = s.cells := rfl
@[simp] theorem State.setDram_stw (s : State) (k : Nat) (x : Sinter) : (s.setDram k x).stw = s.stw := rfl
@[simp] theorem State.setDram_evt (s : State) (k : Nat) (x : Sinter) : (s.setDram k x).evt = s.evt := rfl
@[simp] theorem State.setDram_cal (s : State) (k : Nat) (x : Sinter) : (s.setDram k x).cal = s.cal := rfl
@[simp] theorem State.setDram_gys (s : State) (k : Nat) (x : Sinter) : (s.setDram k x).gys = s.gys := rfl
@[simp] theorem State.setDram_fum (s : State) (k : Nat) (x : Sinter) : (s.setDram k x).fum = s.fum := rfl
@[simp] theorem State.setDram_vent (s : State) (k : Nat) (x : Sinter) : (s.setDram k x).vent = s.vent := rfl
@[simp] theorem State.setDram_lnk (s : State) (k : Nat) (x : Sinter) : (s.setDram k x).lnk = s.lnk := rfl
@[simp] theorem State.setDram_cnv (s : State) (k : Nat) (x : Sinter) : (s.setDram k x).cnv = s.cnv := rfl
@[simp] theorem State.setDram_mtr (s : State) (k : Nat) (x : Sinter) : (s.setDram k x).mtr = s.mtr := rfl
@[simp] theorem State.setDram_ports (s : State) (k : Nat) (x : Sinter) : (s.setDram k x).ports = s.ports := rfl
@[simp] theorem State.setDram_clk (s : State) (k : Nat) (x : Sinter) : (s.setDram k x).clk = s.clk := rfl
@[simp] theorem State.setDram_refs (s : State) (k : Nat) (x : Sinter) : (s.setDram k x).refs = s.refs := rfl
@[simp] theorem State.setDram_net (s : State) (k : Nat) (x : Sinter) : (s.setDram k x).net = s.net := rfl
@[simp] theorem State.setDram_fab (s : State) (k : Nat) (x : Sinter) : (s.setDram k x).fab = s.fab := rfl
@[simp] theorem State.setDram_pwr (s : State) (k : Nat) (x : Sinter) : (s.setDram k x).pwr = s.pwr := rfl
@[simp] theorem State.setDram_boot (s : State) (k : Nat) (x : Sinter) : (s.setDram k x).boot = s.boot := rfl
@[simp] theorem State.setDram_pcie (s : State) (k : Nat) (x : Sinter) : (s.setDram k x).pcie = s.pcie := rfl
@[simp] theorem State.setDram_mgmt (s : State) (k : Nat) (x : Sinter) : (s.setDram k x).mgmt = s.mgmt := rfl
@[simp] theorem State.setDram_tap (s : State) (k : Nat) (x : Sinter) : (s.setDram k x).tap = s.tap := rfl
@[simp] theorem State.setDram_fuses (s : State) (k : Nat) (x : Sinter) : (s.setDram k x).fuses = s.fuses := rfl
@[simp] theorem State.setDram_pins (s : State) (k : Nat) (x : Sinter) : (s.setDram k x).pins = s.pins := rfl

@[simp] theorem State.setCell_pending (s : State) (e : Nat) (c : Cell) : (s.setCell e c).pending = s.pending := rfl
@[simp] theorem State.setCell_free (s : State) (e : Nat) (c : Cell) : (s.setCell e c).free = s.free := rfl
@[simp] theorem State.setCell_frame (s : State) (e : Nat) (c : Cell) : (s.setCell e c).frame = s.frame := rfl
@[simp] theorem State.setCell_regs (s : State) (e : Nat) (c : Cell) : (s.setCell e c).regs = s.regs := rfl
@[simp] theorem State.setCell_staged (s : State) (e : Nat) (c : Cell) : (s.setCell e c).staged = s.staged := rfl
@[simp] theorem State.setCell_mem (s : State) (e : Nat) (c : Cell) : (s.setCell e c).mem = s.mem := rfl
@[simp] theorem State.setCell_eng (s : State) (e : Nat) (c : Cell) : (s.setCell e c).eng = s.eng := rfl
@[simp] theorem State.setCell_stw (s : State) (e : Nat) (c : Cell) : (s.setCell e c).stw = s.stw := rfl
@[simp] theorem State.setCell_evt (s : State) (e : Nat) (c : Cell) : (s.setCell e c).evt = s.evt := rfl
@[simp] theorem State.setCell_cal (s : State) (e : Nat) (c : Cell) : (s.setCell e c).cal = s.cal := rfl
@[simp] theorem State.setCell_gys (s : State) (e : Nat) (c : Cell) : (s.setCell e c).gys = s.gys := rfl
@[simp] theorem State.setCell_fum (s : State) (e : Nat) (c : Cell) : (s.setCell e c).fum = s.fum := rfl
@[simp] theorem State.setCell_vent (s : State) (e : Nat) (c : Cell) : (s.setCell e c).vent = s.vent := rfl
@[simp] theorem State.setCell_lnk (s : State) (e : Nat) (c : Cell) : (s.setCell e c).lnk = s.lnk := rfl
@[simp] theorem State.setCell_cnv (s : State) (e : Nat) (c : Cell) : (s.setCell e c).cnv = s.cnv := rfl
@[simp] theorem State.setCell_mtr (s : State) (e : Nat) (c : Cell) : (s.setCell e c).mtr = s.mtr := rfl
@[simp] theorem State.setCell_ports (s : State) (e : Nat) (c : Cell) : (s.setCell e c).ports = s.ports := rfl
@[simp] theorem State.setCell_clk (s : State) (e : Nat) (c : Cell) : (s.setCell e c).clk = s.clk := rfl
@[simp] theorem State.setCell_refs (s : State) (e : Nat) (c : Cell) : (s.setCell e c).refs = s.refs := rfl
@[simp] theorem State.setCell_net (s : State) (e : Nat) (c : Cell) : (s.setCell e c).net = s.net := rfl
@[simp] theorem State.setCell_fab (s : State) (e : Nat) (c : Cell) : (s.setCell e c).fab = s.fab := rfl
@[simp] theorem State.setCell_pwr (s : State) (e : Nat) (c : Cell) : (s.setCell e c).pwr = s.pwr := rfl
@[simp] theorem State.setCell_boot (s : State) (e : Nat) (c : Cell) : (s.setCell e c).boot = s.boot := rfl
@[simp] theorem State.setCell_pcie (s : State) (e : Nat) (c : Cell) : (s.setCell e c).pcie = s.pcie := rfl
@[simp] theorem State.setCell_mgmt (s : State) (e : Nat) (c : Cell) : (s.setCell e c).mgmt = s.mgmt := rfl
@[simp] theorem State.setCell_tap (s : State) (e : Nat) (c : Cell) : (s.setCell e c).tap = s.tap := rfl
@[simp] theorem State.setCell_fuses (s : State) (e : Nat) (c : Cell) : (s.setCell e c).fuses = s.fuses := rfl
@[simp] theorem State.setCell_pins (s : State) (e : Nat) (c : Cell) : (s.setCell e c).pins = s.pins := rfl

@[simp] theorem State.raise_pending (s : State) (n : Nat) : (s.raise n).pending = s.pending := by
  unfold State.raise State.msixRise; split <;> split <;> rfl
@[simp] theorem State.raise_free (s : State) (n : Nat) : (s.raise n).free = s.free := by
  unfold State.raise State.msixRise; split <;> split <;> rfl
@[simp] theorem State.raise_frame (s : State) (n : Nat) : (s.raise n).frame = s.frame := by
  unfold State.raise State.msixRise; split <;> split <;> rfl
@[simp] theorem State.raise_staged (s : State) (n : Nat) : (s.raise n).staged = s.staged := by
  unfold State.raise State.msixRise; split <;> split <;> rfl
@[simp] theorem State.raise_mem (s : State) (n : Nat) : (s.raise n).mem = s.mem := by
  unfold State.raise State.msixRise; split <;> split <;> rfl
@[simp] theorem State.raise_eng (s : State) (n : Nat) : (s.raise n).eng = s.eng := by
  unfold State.raise State.msixRise; split <;> split <;> rfl
@[simp] theorem State.raise_cells (s : State) (n : Nat) : (s.raise n).cells = s.cells := by
  unfold State.raise State.msixRise; split <;> split <;> rfl
@[simp] theorem State.raise_stw (s : State) (n : Nat) : (s.raise n).stw = s.stw := by
  unfold State.raise State.msixRise; split <;> split <;> rfl
@[simp] theorem State.raise_cal (s : State) (n : Nat) : (s.raise n).cal = s.cal := by
  unfold State.raise State.msixRise; split <;> split <;> rfl
@[simp] theorem State.raise_gys (s : State) (n : Nat) : (s.raise n).gys = s.gys := by
  unfold State.raise State.msixRise; split <;> split <;> rfl
@[simp] theorem State.raise_fum (s : State) (n : Nat) : (s.raise n).fum = s.fum := by
  unfold State.raise State.msixRise; split <;> split <;> rfl
@[simp] theorem State.raise_vent (s : State) (n : Nat) : (s.raise n).vent = s.vent := by
  unfold State.raise State.msixRise; split <;> split <;> rfl
@[simp] theorem State.raise_lnk (s : State) (n : Nat) : (s.raise n).lnk = s.lnk := by
  unfold State.raise State.msixRise; split <;> split <;> rfl
@[simp] theorem State.raise_cnv (s : State) (n : Nat) : (s.raise n).cnv = s.cnv := by
  unfold State.raise State.msixRise; split <;> split <;> rfl
@[simp] theorem State.raise_mtr (s : State) (n : Nat) : (s.raise n).mtr = s.mtr := by
  unfold State.raise State.msixRise; split <;> split <;> rfl
@[simp] theorem State.raise_ports (s : State) (n : Nat) : (s.raise n).ports = s.ports := by
  unfold State.raise State.msixRise; split <;> split <;> rfl
@[simp] theorem State.raise_clk (s : State) (n : Nat) : (s.raise n).clk = s.clk := by
  unfold State.raise State.msixRise; split <;> split <;> rfl
@[simp] theorem State.raise_refs (s : State) (n : Nat) : (s.raise n).refs = s.refs := by
  unfold State.raise State.msixRise; split <;> split <;> rfl
@[simp] theorem State.raise_net (s : State) (n : Nat) : (s.raise n).net = s.net := by
  unfold State.raise State.msixRise; split <;> split <;> rfl
@[simp] theorem State.raise_fab (s : State) (n : Nat) : (s.raise n).fab = s.fab := by
  unfold State.raise State.msixRise; split <;> split <;> rfl
@[simp] theorem State.raise_pwr (s : State) (n : Nat) : (s.raise n).pwr = s.pwr := by
  unfold State.raise State.msixRise; split <;> split <;> rfl
@[simp] theorem State.raise_boot (s : State) (n : Nat) : (s.raise n).boot = s.boot := by
  unfold State.raise State.msixRise; split <;> split <;> rfl
@[simp] theorem State.raise_pcie (s : State) (n : Nat) : (s.raise n).pcie = s.pcie := by
  unfold State.raise State.msixRise; split <;> split <;> rfl
@[simp] theorem State.raise_mgmt (s : State) (n : Nat) : (s.raise n).mgmt = s.mgmt := by
  unfold State.raise State.msixRise; split <;> split <;> rfl
@[simp] theorem State.raise_tap (s : State) (n : Nat) : (s.raise n).tap = s.tap := by
  unfold State.raise State.msixRise; split <;> split <;> rfl
@[simp] theorem State.raise_fuses (s : State) (n : Nat) : (s.raise n).fuses = s.fuses := by
  unfold State.raise State.msixRise; split <;> split <;> rfl
@[simp] theorem State.raise_pins (s : State) (n : Nat) : (s.raise n).pins = s.pins := by
  unfold State.raise State.msixRise; split <;> split <;> rfl

@[simp] theorem State.setRam_dram (s : State) (k : Nat) (x : Sinter) : (s.setRam k x).mem.dram = s.mem.dram := rfl
@[simp] theorem State.setDram_sram (s : State) (k : Nat) (x : Sinter) : (s.setDram k x).mem.sram = s.mem.sram := rfl

/-- A word of the on-chip memories reads as it was written. -/
@[simp] theorem State.ram_setRam_same (s : State) (k : Nat) (x : Sinter) : (s.setRam k x).ram k = x := by
  simp only [State.ram, State.setRam, Assoc.look_upd_same]

/-- A write leaves every other word. -/
theorem State.ram_setRam_ne (s : State) {k j : Nat} (x : Sinter) (h : j ≠ k) : (s.setRam k x).ram j = s.ram j := by
  simp only [State.ram, State.setRam, Assoc.look_upd, h, if_false]

/-- A memory write keeps the canonical form. -/
theorem State.setRam_wf (s : State) (k : Nat) (x : Sinter) (h : s.mem.sram.wf Sinter.zero = true) :
    (s.setRam k x).mem.sram.wf Sinter.zero = true := Assoc.upd_wf k x h

/-- A DRAM write keeps the canonical form. -/
theorem State.setDram_wf (s : State) (k : Nat) (x : Sinter) (h : s.mem.dram.wf none = true) :
    (s.setDram k x).mem.dram.wf none = true := Assoc.upd_wf k (some x) h

@[simp] theorem State.cell_setCell_same (s : State) (e : Nat) (c : Cell) : (s.setCell e c).cell e = c := by
  simp only [State.cell, State.setCell, Assoc.look_upd_same]

theorem State.cell_setCell_ne (s : State) {e j : Nat} (c : Cell) (h : j ≠ e) : (s.setCell e c).cell j = s.cell j := by
  simp only [State.cell, State.setCell, Assoc.look_upd, h, if_false]

end Sys2Proof.Machine
end

