-- ==== Sys2Proof/Laws/Touch.lean ====
section
/-! SUPPORT. Building up what a command touches, one update at a time. -/

namespace Sys2Proof.Machine

open Sys2Proof

theorem OnlyRegs.refl (s : State) : OnlyRegs [] s s := ⟨rfl, fun _ _ => rfl⟩

theorem OnlyRegs.put {fs : List Fld} {s t : State} (h : OnlyRegs fs s t) (f : Fld) (v : Nat) :
    OnlyRegs (f :: fs) s (t.put f v) := by
  obtain ⟨h1, h2⟩ := h
  constructor
  · rw [h1]; rfl
  · intro k hk
    simp only [List.map_cons, List.mem_cons, not_or] at hk
    rw [State.look_put, if_neg hk.1, h2 k hk.2]

theorem OnlyRegs.putBit {fs : List Fld} {s t : State} (h : OnlyRegs fs s t) (f : Fld) (b : Bool) :
    OnlyRegs (f :: fs) s (t.putBit f b) := h.put f _

theorem OnlyRegs.free {fs : List Fld} {s t : State} (h : OnlyRegs fs s t) (n : Nat) :
    OnlyRegs fs s { t with free := n } := by
  obtain ⟨h1, h2⟩ := h
  constructor
  · rw [h1]
  · exact h2

theorem OnlyRegs.mono {fs gs : List Fld} {s t : State} (h : OnlyRegs fs s t) (w : fs ⊆ gs) : OnlyRegs gs s t :=
  ⟨h.1, fun k hk => h.2 k (fun hx => hk (List.map_subset _ w hx))⟩

theorem OnlyRegs.get {fs : List Fld} {s t : State} (h : OnlyRegs fs s t) {f : Fld} (w : f.key ∉ fs.map Fld.key) :
    t.get f = s.get f := by simp only [State.get, h.2 _ w]

theorem evtKey_ne {a b : Nat} (h : a ≠ b) : (Reg.EVTSTAT_STAT a).key ≠ (Reg.EVTSTAT_STAT b).key := by
  simp only [Reg.EVTSTAT_STAT, Fld.key]; omega

/-- The status bits after one event has been raised. -/
theorem State.evtStat_setStat (s : State) (m n : Nat) : (s.setStat m).evtStat n = (s.evtStat n || n == m) := by
  unfold State.evtStat State.setStat
  by_cases h : n / 32 = m / 32
  · rw [h, State.get_put_same, Nat.testBit_mod_two_pow, Nat.testBit_or, Nat.testBit_two_pow]
    have : n % 32 < 32 := Nat.mod_lt _ (by decide)
    have w : (Reg.EVTSTAT_STAT (m / 32)).w = 32 := rfl
    rw [w]
    by_cases e : n = m
    · subst e; simp [this]
    · have : ¬(m % 32 = n % 32) := by omega
      simp [*]
  · rw [State.get_put_ne _ _ (evtKey_ne h)]
    have : ¬(n = m) := fun e => h (by rw [e])
    simp [this]

/-- What the registers and the status are after a raise, while the event controller is not in reset. -/
theorem State.raise_regs {s : State} (h : s.evt.inReset = false) (n : Nat) : (s.raise n).regs = (s.setStat n).regs := by
  unfold State.raise State.msixRise
  rw [h]
  simp only [Bool.false_eq_true, if_false]
  split <;> rfl

theorem State.raise_inReset (s : State) (n : Nat) : (s.raise n).evt.inReset = s.evt.inReset := by
  unfold State.raise State.msixRise State.setStat
  split
  · split <;> rfl
  · split <;> rfl

theorem State.raise_get {s : State} (h : s.evt.inReset = false) (n : Nat) (f : Fld) :
    (s.raise n).get f = (s.setStat n).get f := by simp only [State.get, State.raise_regs h]

/-- A raise leaves every register but the status word of the event. -/
theorem State.raise_get_ne (s : State) {n : Nat} {f : Fld} (w : f.key ≠ (Reg.EVTSTAT_STAT (n / 32)).key) :
    (s.raise n).get f = s.get f := by
  unfold State.raise State.msixRise
  split
  · split <;> rfl
  · split
    · exact State.get_put_ne _ _ w
    · exact State.get_put_ne _ _ w

theorem State.raise_bit_ne (s : State) {n : Nat} {f : Fld} (w : f.key ≠ (Reg.EVTSTAT_STAT (n / 32)).key) :
    (s.raise n).bit f = s.bit f := by simp only [State.bit, State.raise_get_ne s w]

theorem State.evtStat_raise {s : State} (h : s.evt.inReset = false) (m n : Nat) :
    (s.raise m).evtStat n = (s.evtStat n || n == m) := by
  rw [← State.evtStat_setStat]
  unfold State.evtStat
  rw [State.raise_get h]

theorem Raises.refl (s : State) : Raises [] [] s s := ⟨rfl, fun _ _ _ => rfl, fun n _ => by simp⟩

theorem Raises.put {es : List Nat} {fs : List Fld} {s t : State} (h : Raises es fs s t) (f : Fld) (v : Nat)
    (w : ∀ n, f.key ≠ (Reg.EVTSTAT_STAT n).key) : Raises es (f :: fs) s (t.put f v) := by
  obtain ⟨h1, h2, h3⟩ := h
  refine ⟨?_, ?_, ?_⟩
  · rw [h1]; rfl
  · intro k hk he
    simp only [List.map_cons, List.mem_cons, not_or] at hk
    rw [State.look_put, if_neg hk.1, h2 k hk.2 he]
  · intro n hn
    rw [← h3 n hn]
    simp only [State.evtStat]
    rw [State.get_put_ne _ _ (fun e => w _ e.symm)]

theorem Raises.putBit {es : List Nat} {fs : List Fld} {s t : State} (h : Raises es fs s t) (f : Fld) (b : Bool)
    (w : ∀ n, f.key ≠ (Reg.EVTSTAT_STAT n).key) : Raises es (f :: fs) s (t.putBit f b) := h.put f _ w

theorem Raises.raise {es : List Nat} {fs : List Fld} {s t : State} (h : Raises es fs s t) (hr : t.evt.inReset = false)
    (n : Nat) : Raises (n :: es) fs s (t.raise n) := by
  obtain ⟨h1, h2, h3⟩ := h
  refine ⟨?_, ?_, ?_⟩
  · unfold State.raise State.msixRise
    rw [hr]
    simp only [Bool.false_eq_true, if_false]
    split <;> (rw [h1]; rfl)
  · intro k hk he
    simp only [List.map_cons, List.mem_cons, not_or] at he
    rw [State.raise_regs hr, State.setStat, State.look_put, if_neg he.1, h2 k hk he.2]
  · intro m hm
    rw [State.evtStat_raise hr, h3 m hm]
    simp only [List.contains_cons]
    cases s.evtStat m <;> cases (m == n) <;> cases (es.contains m) <;> rfl

theorem Raises.free {es : List Nat} {fs : List Fld} {s t : State} (h : Raises es fs s t) (n : Nat) :
    Raises es fs s { t with free := n } := by
  obtain ⟨h1, h2, h3⟩ := h
  refine ⟨?_, h2, h3⟩
  rw [h1]

theorem Raises.get {es : List Nat} {fs : List Fld} {s t : State} (h : Raises es fs s t) {f : Fld}
    (w : f.key ∉ fs.map Fld.key) (e : f.key ∉ es.map (fun n => (Reg.EVTSTAT_STAT (n / 32)).key)) : t.get f = s.get f := by
  simp only [State.get, h.2.1 _ w e]

theorem Raises.mono {es : List Nat} {fs gs : List Fld} {s t : State} (h : Raises es fs s t) (w : fs ⊆ gs) :
    Raises es gs s t :=
  ⟨h.1, fun k hk he => h.2.1 k (fun hx => hk (List.map_subset _ w hx)) he, h.2.2⟩

end Sys2Proof.Machine
end

