-- ==== Sys2Proof/WellFormed.lean ====
section
/-! DEFINITION. What makes a command well formed beyond the types of its operands: the encodings the manual calls illegal
(R143, R151, R152, R155, R175, R182, R183), the lengths of bursts and frames, and the numbers of islands.  A meaning does not
rely on it: an illegal encoding traps, and a number outside its range is refused as the manual says. -/

namespace Sys2Proof

/-- A cell, not the steward: the units whose encodings R182 makes illegal on the steward. -/
def Exe.isCell : Exe → Bool
  | .cell _ => true
  | .steward => false

/-- The shift of an `sta` form: −8 to 8 (R154). -/
def shiftInRange (sh : BitVec 5) : Bool := decide (-8 ≤ sh.toInt) && decide (sh.toInt ≤ 8)

/-- The words of a link frame: none, one or 16 of an audio channel, 16 pairs of a wide channel (R376 to R378). -/
def LinkWords.wellFormed (w : LinkWords) : Bool :=
  w.audio.all (fun p => decide (p.2.length ≤ 1) || decide (p.2.length = 16)) &&
  w.wide.all (fun p => decide (p.2.length = 16))

def Instr.wellFormed : Instr → Bool
  | .waitp u => u.isCell
  | .mtc _ creg _ => decide (creg.toNat ≤ 0x23)
  | .mfc _ _ creg _ => decide (creg.toNat ≤ 0x24)
  | .dmac _ op0 op1 _ _ _ _ => decide (¬(op0 = .none ∧ op1 = .none))
  | .sta _ _ _ sh => shiftInRange sh
  | .staP _ _ an sh => shiftInRange sh && decide (an.val % 2 = 0)
  | .sin u _ _ _ => u.isCell
  | .staX _ _ sh _ => shiftInRange sh
  | .ldUX u _ _ _ => u.isCell
  | .sout u _ _ _ => u.isCell
  | .staY _ _ sh _ => shiftInRange sh
  | .mtap u _ _ _ => u.isCell
  | .ldUY u _ _ _ => u.isCell
  | .ldZ u _ _ _ _ => u.isCell
  | .stZ u _ _ _ _ => u.isCell
  | .pget u _ _ _ _ _ => u.isCell
  | .pgetTwin u gd _ _ _ _ => u.isCell && decide (1 ≤ gd.val) && decide (gd.val ≤ 29)
  | .amoAdd u _ _ _ _ => u.isCell
  | .amoSwap u _ _ _ => u.isCell
  | .ldUZ u _ _ _ _ => u.isCell
  | .mtcs csr _ => decide (csr.toNat ≤ 9)
  | .mfcs _ csr _ => decide (csr.toNat ≤ 9)
  | .portInputFrame _ wave _ _ => decide (wave.lanes.length ≤ 8)
  | .islandUngate isl => decide (isl.toNat < 0x159)
  | .islandGate isl => decide (isl.toNat < 0x159)
  | .islandForce isl => decide (isl.toNat < 0x159)
  | .refIntervalEnd offs _ _ _ _ _ _ _ => decide (offs.length = 6)
  | .linkFrameRx _ _ _ _ words _ => words.wellFormed
  | .fabricRead _ _ _ beats _ _ => decide (1 ≤ beats.toNat) && decide (beats.toNat ≤ 16)
  | .fabricWrite _ _ _ words _ _ _ => decide (1 ≤ words.length) && decide (words.length ≤ 16)
  | .mgmtLocalWrite _ words _ => decide (1 ≤ words.length) && decide (words.length ≤ 16)
  | .mgmtFabricWrite _ words _ _ => decide (1 ≤ words.length) && decide (words.length ≤ 16)
  | .frameEdge .. | .cellStageDeadline .. | .s0Deposit .. | .descriptorRun .. | .descriptorDeadline .. | .bankHandover ..
  | .bankHandoverDone .. | .scrubRead .. | .dramLineFetch .. | .dramWrite .. | .dramRefresh .. | .dramRefreshEmergency ..
  | .dramMr4Poll .. | .dramEnable .. | .dramDisable .. | .dramTrainingDone .. | .bundleFetch .. | .taskBudgetReached ..
  | .ttApply .. | .cellHalt .. | .cellRun .. | .cellpeakClr .. | .nop .. | .ret .. | .trap .. | .evt .. | .amov ..
  | .aadd .. | .asub .. | .add .. | .sub .. | .adds .. | .subs .. | .and .. | .or .. | .xor .. | .cmp .. | .min ..
  | .max .. | .abs .. | .clip .. | .sel .. | .shl .. | .sra .. | .shr .. | .norm .. | .shli .. | .srai .. | .shri ..
  | .normi .. | .mpy .. | .mac .. | .msu .. | .lin2g .. | .g2lin .. | .bexp .. | .li .. | .lui .. | .loop ..
  | .loopBackEdge .. | .br .. | .bcc .. | .call .. | .ldX .. | .stX .. | .ldY .. | .stY .. | .fld .. | .fst .. | .fldl ..
  | .fstu .. | .fence | .eret | .wfe | .ei | .di | .jr .. | .jalr .. | .stewardEventTaken | .calMatrixFrame ..
  | .deepBusAdd .. | .xpStateCheck .. | .xpRebuild .. | .xpRampEnd .. | .calsatbusClear | .ovlLoad .. | .ovlLoadDone ..
  | .ovlDrop .. | .commitGo .. | .commitCancel .. | .commitPrepareDone .. | .commitApply .. | .paramRampEnd ..
  | .foldStart .. | .foldEnd .. | .commitDone .. | .directWrite .. | .directWriteHeldAccept | .cascPrepare ..
  | .cascReport .. | .cascDecision .. | .cascConfirm .. | .cascAbort .. | .cascLocalAbort .. | .cnvEnable ..
  | .cnvInputEdge .. | .cnvFadeEnd .. | .cnvchClr .. | .mtrclrHold .. | .mtrclrClips .. | .cnvDisable .. | .portEnable ..
  | .portDisable .. | .portArm .. | .apStartGo | .syncArm | .startSyncEdge | .apStartMessage .. | .apStart
  | .apCodedReleased .. | .apClkStopped .. | .apClkSwapCheck .. | .lanemaskWrite .. | .vntRampEnd .. | .emergNLow
  | .vntForce .. | .emergCauseClear .. | .vntReturnEnd | .slotMuteClear .. | .safeMuteNLow | .safePinClear ..
  | .fumMuteReq .. | .stewardLockstepFault | .fumStall | .fumSelfFault .. | .fumResumed | .fumSafeReset | .portWatch ..
  | .fumlockClose | .fumrecAck | .fumrecClr .. | .fumcntClear | .inselWrite .. | .coreNWrite .. | .relock | .rampGo
  | .sscWrite .. | .loopinitGo | .hrefMeasureDone .. | .loopInputPresent | .bandSearchDone .. | .acquireLock
  | .coreLockFailed | .coreRampDone | .corePhaseAligned | .coreInputLost .. | .coreInputReturn .. | .holdExpired
  | .coreCoast | .coreOvershoot | .auxclkCheck .. | .dllLock .. | .islandIdleClose | .islandForcedClose
  | .refEdgeMissing .. | .refSwitchDone .. | .refWtrExpired .. | .refHoldoffExpired .. | .realign | .realignDone
  | .refsteerWrite .. | .swSteerStale | .tcIncWrite .. | .tcNsRead .. | .tcSet .. | .tcAdj .. | .tcLatchGo | .netEnable ..
  | .netLinkUp .. | .netLinkDown .. | .netFrameRx .. | .netPauseEnd .. | .netrxqTailWrite .. | .nettxqHeadWrite ..
  | .netTxRecord .. | .nettxtsPop .. | .netcntClear .. | .streamEnable .. | .streamDisable .. | .stmRxStale ..
  | .streamPresentEdge .. | .streamPacketSend .. | .sttxDropsClear .. | .strxcntClear .. | .linkEnable .. | .linkTrain ..
  | .linkUp .. | .linkDown .. | .controlMessageRx .. | .cascChipLost .. | .clusterSelftest .. | .spareReverted ..
  | .patrolcntClear .. | .lnkcntClear .. | .pairYield | .actInFall | .pairAssertAct | .pairReverted | .arbiterGrant ..
  | .backoffExpired .. | .fabqosWrite .. | .lockTimeout .. | .masterResetHandshake .. | .handshakeTimeout ..
  | .fabTimeout .. | .fabDeadlock .. | .remapWrite .. | .fabRemapDone | .fabcntClear | .por | .resetNLow
  | .chipResetRelease .. | .cellResetReq .. | .clusterResetReq .. | .regionResetReq .. | .engineResetReq ..
  | .warmChipResetReq .. | .chipResetReq .. | .mgmtResetReq .. | .resetIdleTimeout | .resetRelease | .pwrReqRun
  | .pwrReqQuiesce | .pwrReqHold | .holdEntered | .holdExitDone | .pwrrateWrite .. | .supplyWarn .. | .supplyDip ..
  | .supplyResetThreshold .. | .supplyChipReset | .tempConversion .. | .tempSensorTimeout .. | .tempmaxWrite | .bootStart
  | .bootdoorGo .. | .bootCheck .. | .bootSectionLoad .. | .bootRegsWrite | .bootHandoff | .evtenWrite ..
  | .evtrouteWrite .. | .evtstatClear .. | .evtswset .. | .msixSend .. | .msixUnmask .. | .pcieMemRead ..
  | .pcieMemWrite .. | .hostLinkUp .. | .hostLinkDown | .hostFlr | .mgmtLocalRead .. | .mgmtFabricRead .. | .evtsnapTake
  | .fuseProg | .fuseProgDone .. | .extest | .samplePreload .. | .idcode | .clamp | .highz | .bypass .. | .tapReset
  | .dapRead .. | .dapWrite .. | .dapLockedRead .. | .dapClosingWrite .. | .dapdataCapture .. | .dbgOpen .. | .dbgClose ..
  | .stwHalt .. | .stwResume .. | .stwStep .. | .pinShortDetect .. | .pinShortRetry .. | .faultnStuck | .pinProbe ..
  | .netRxPolarityInvert .. | .refLegMissing .. | .gpioWrite .. | .ppsOutPulse .. | .registerWrite .. => true

end Sys2Proof
end

