-- ==== Sys2Proof/Tests/Slice0.lean ====
section
/-! SUPPORT. Tests: what `wellFormed` refuses, and for each obligation, clause by clause, a concrete state and operands that meet the
hypotheses of that clause together. -/

namespace Sys2Proof.Tests

open Sys2Proof Sys2Proof.Machine

set_option maxRecDepth 100000
set_option linter.unusedVariables false
set_option Elab.async false

/-! ### States -/

/-- `s` with the named fields at the named values. -/
def w (s : State) (fs : List (Fld × Nat)) : State := fs.foldl (fun s p => s.put p.1 p.2) s

/-- The chip's resets released. -/
def pwrUp : Pwr := { Pwr.reset with chip := 0 }

/-- A chip that runs: no reset holds, the frame clock and the core loop are locked. -/
def up : State :=
  w { State.reset with pwr := pwrUp, evt := { Evt.reset with inReset := false }, clk := { Clk.reset with first := false }, frame := 101 }
    [(Reg.CORESTAT_STATE, 5), (Reg.MGSTAT_FCLK_OK, 1), (Reg.MGSTAT_CORE_LOCKED, 1), (Reg.MGSTAT_RESET_N, 1),
      (Reg.MGSTAT_CHIP_IN_RESET, 0)]

/-- A live core: G1, G2 and G7 data at the ends of their range, G3 poison, G4 a word that fails its check. -/
def ck : Core :=
  { Core.reset with
    live := true
    pc := 5
    npc := 6
    count := 9
    g := [(1, some (Sinter.ofData 0x7FFFFFFF)), (2, some (Sinter.ofData 1)), (3, some (Sinter.poisonOf 9)), (4, some ⟨1, 0, false⟩),
      (6, some (Sinter.ofData 32)), (7, some (Sinter.ofData 0x80000000))]
    a := [(0, ⟨2 ^ 71 - 1, residueInt (2 ^ 71 - 1), false⟩), (2, ⟨0, 0, true⟩)]
    am := [(0, ⟨2 ^ 71 - 1, residueInt (2 ^ 71 - 1), false⟩)]
    c := [(0, some 16)] }

/-- Cell 0 runs the core `c`. -/
def at0 (s : State) (c : Core) : State := s.setCell 0 { s.cell 0 with core := c }

/-- The steward runs the core `c`. -/
def atS (s : State) (c : Core) : State := { s with stw := { s.stw with core := c } }

/-- The steward's FAH at 0. -/
def fah0 (s : State) : State := { s with stw := { s.stw with fah := 0 } }

def goodImage : List (BitVec 8) :=
  Digest.bytesOf 260 0x4953414F010000000100000004010000000000000000000000000000000000000100000000010000040000000000041000000000F31D13B200000000000000001A2DE690568587E6CD9ADBD7D9F65EF269BECD2F89FB89C224975B0C5944B973471C3E758C4904285BBA7E53118ED0F524ADEB0757D25BD2F8E7B0D76DFA714CDD520F7ACA8A8B917ACC37F51DE8F0C9BBE3AD858382E702DC25A12D09F7A858AD4A21E91FD194B02D75C3776B3123EA3D04CA14378703F9C78BE9D202400270A795E5E4BC5D8B75B06F3EAB5CC1BA69C50C5990EE5BCBD4E2A33C2F1D0288E2000000000000000000000000000000000000000000000000000000000000000078563412
def headImage : List (BitVec 8) :=
  Digest.bytesOf 224 0x4953414F010000000100000004010000000000000000000000000000000000000100000000010000040000000000041000000000F31D13B200000000000000001A2DE690568587E6CD9ADBD7D9F65EF269BECD2F89FB89C224975B0C5944B973471C3E758C4904285BBA7E53118ED0F524ADEB0757D25BD2F8E7B0D76DFA714CDD520F7ACA8A8B917ACC37F51DE8F0C9BBE3AD858382E702DC25A12D09F7A858AD4A21E91FD194B02D75C3776B3123EA3D04CA14378703F9C78BE9D202400270A795E5E4BC5D8B75B06F3EAB5CC1BA69C50C5990EE5BCBD4E2A33C2F1D0288E2
def regsImage : List (BitVec 8) :=
  Digest.bytesOf 224 0x4953414F01000000010000000801000000000000000000000000000000000000080000000001000008000000000000000000000082B563BF0000000000000000DAA25576F55D36A319CCAE79251134143056A66C58DBEA41730CD5A6BCC4286F471C3E758C4904285BBA7E53118ED0F524ADEB0757D25BD2F8E7B0D76DFA714CDD520F7ACA8A8B917ACC37F51DE8F0C9BBE3AD858382E702DC25A12D09F7A858AD4A21E91FD194B02D75C3776B3123EA3D04CA14378703F9C78BE9D202400270979602FAAFE3F416CAF926BE8396B1F3F5096B86D7A14775503FDE32920F7C53

/-- The invariant as a check. -/
def invB (s : State) : Bool :=
  s.regs.wf 0 && s.mem.sram.wf Sinter.zero && s.mem.dram.wf none &&
    s.cells.all (fun e => decide (e.2.core.stack.length ≤ 8) && decide (e.2.core.loops.length ≤ 3)) &&
    decide (s.stw.core.stack.length ≤ 8 ∧ s.stw.core.loops.length ≤ 3) &&
    [s.refs.a, s.refs.b].all (fun x => decide (x.sec < 2 ^ 48 ∧ x.ns < 1000000000 ∧ x.frac < 2 ^ 32 ∧ 1 ≤ x.incNs ∧
      x.incNs < 2 ^ 8 ∧ x.incFrac < 2 ^ 32)) &&
    decide (s.fum.ang ≤ 144 ∧ s.vent.ang ≤ 128)

theorem inv_dec {s : State} (h : invB s = true) : s.Inv := by
  simp only [invB, Bool.and_eq_true, decide_eq_true_eq, List.all_eq_true, List.mem_cons, List.not_mem_nil, or_false,
    forall_eq_or_imp, forall_eq] at h
  obtain ⟨⟨⟨⟨⟨⟨h1, h2⟩, h3⟩, h4⟩, h5⟩, h6, h7⟩, h8, h9⟩ := h
  exact ⟨h1, h2, h3, h4, h5, h6, h7, h8, h9⟩

theorem some_getD {α : Type} {o : Option α} {d : α} (h : o.isSome = true) : o = some (o.getD d) := by
  cases o with
  | none => cases h
  | some x => rfl

/-! ### Witnesses -/


theorem test_wit_StepRunsTheFront :
  (∃ (s : State),
    s.pending = []) :=
  ⟨{ up with pending := [] }, by decide +kernel⟩

theorem test_wit_StepsKeepTheInvariant :
  (∃ (s : State) (t : State),
    s.Inv ∧
    step s = .next t) :=
  ⟨{ up with pending := [.fence] }, { up with free := 1 }, inv_dec (by decide +kernel), rfl⟩

theorem test_wit_FrameCount :
  (∃ (a : Option (Fin 256)) (b : Option (Fin 64)) (x : EdgeInput) (s : State),
    s.dividerRuns = true ∧
    s.pwr.chip = 1) ∧
  (∃ (a : Option (Fin 256)) (b : Option (Fin 64)) (x : EdgeInput) (s : State),
    s.Inv ∧
    s.dividerRuns = true ∧
    (s.frame + 1) % 2 ^ 64 % 16 ≠ 1) ∧
  (∃ (a : Option (Fin 256)) (b : Option (Fin 64)) (x : EdgeInput) (s : State),
    s.Inv ∧
    s.dividerRuns = true ∧
    (s.frame + 1) % 2 ^ 64 % 16 = 1) ∧
  (∃ (a : Option (Fin 256)) (b : Option (Fin 64)) (x : EdgeInput) (s : State),
    s.dividerRuns = false) ∧
  (∃ (c : Instr) (s : State) (t : State),
    s.Inv ∧
    exec c s = .next t ∧
    ((∀ n o q m a, c ≠ .controlMessageRx n o q m a))) :=
  ⟨⟨none, some 63, ⟨none, 255⟩, { up with pwr := { up.pwr with chip := 1 } }, by decide +kernel⟩,
   ⟨none, none, ⟨none, 0⟩, up, inv_dec (by decide +kernel), by decide, by decide⟩,
   ⟨none, none, ⟨some 0x1B0000, 0⟩, { up with frame := 96 }, inv_dec (by decide +kernel), by decide, by decide⟩,
   ⟨none, none, ⟨none, 0⟩, { up with pwr := { up.pwr with chip := 3 } }, by decide +kernel⟩,
   ⟨.fence, up, { up with free := 1 }, inv_dec (by decide +kernel), rfl, fun _ _ _ _ _ => Instr.noConfusion⟩⟩

theorem test_wit_ResetsKeepTheGuards :
  (∃ (m : Fin 8) (tg : BitVec 9) (mo : BitVec 3) (ca : BitVec 3) (gp : BitVec 8) (i : Fin 8) (v : BitVec 13) (s : State),
    s.Inv) :=
  ⟨7, 0x1FF, 7, 7, 255, 7, 0x0FFF, up, inv_dec (by decide +kernel)⟩

theorem test_wit_StageDeadlineSeals :
  (∃ (p : List PatrolResult) (s : State),
    s.pwr.chip = 0 ∧
    s.planeHeld = false ∧
    s.eng.deadline ≠ s.window + 1 ∧
    3 ≤ s.window) ∧
  (∃ (p : List PatrolResult) (s : State),
    s.eng.deadline = s.window + 1) :=
  ⟨⟨[], { up with frame := 49, eng := { up.eng with deadline := 0 } }, by decide +kernel⟩,
   ⟨[], { up with eng := { up.eng with deadline := up.window + 1 } }, by decide +kernel⟩⟩

theorem test_wit_IngressDelivery :
  (∃ (w : Fin 256) (i : Fin 64) (j : Fin 16) (left : BitVec 18) (s : State) (a : Adopted),
    (s.cell (physOf w)).stagedSet s.window = some a ∧
    ((s.s0Turn s.window w a.srcs i j = false ∨ s.islandStopped (islBank (cellCl (physOf w))) = true))) ∧
  (∃ (w : Fin 256) (i : Fin 64) (j : Fin 16) (left : BitVec 18) (s : State) (a : Adopted),
    (s.cell (physOf w)).stagedSet s.window = some a ∧
    s.s0Turn s.window w a.srcs i j = true ∧
    s.islandStopped (islBank (cellCl (physOf w))) = false) ∧
  (∃ (cl : Fin 32) (d : Fin 32) (n : BitVec 16) (s : State),
    (s.dqTurn cl ≠ some d.val ∨ s.takesPart (islBank cl) s.window = false)) ∧
  (∃ (cl : Fin 32) (d : Fin 32) (n : BitVec 16) (s : State),
    s.dqTurn cl = some d.val ∧
    s.takesPart (islBank cl) s.window = true ∧
    (s.dqRun cl d).run = false ∧
    s.dqValid cl d = false ∧
    s.evt.inReset = false) ∧
  (∃ (cl : Fin 32) (d : Fin 32) (n : BitVec 16) (s : State),
    s.dqTurn cl = some d.val ∧
    s.takesPart (islBank cl) s.window = true ∧
    ((s.dqRun cl d).run = true ∨ s.dqValid cl d = true) ∧
    s.dqWaits cl d n.toNat = true) ∧
  (∃ (cl : Fin 32) (d : Fin 32) (n : BitVec 16) (s : State),
    s.dqTurn cl = some d.val ∧
    s.takesPart (islBank cl) s.window = true ∧
    ((s.dqRun cl d).run = true ∨ s.dqValid cl d = true) ∧
    s.dqWaits cl d n.toNat = false) ∧
  (∃ (cl : Fin 32) (d : Fin 32) (n : BitVec 16) (s : State),
    s.dqPending cl d = true ∧
    s.takesPart (islBank cl) s.window = true) ∧
  (∃ (cl : Fin 32) (d : Fin 32) (n : BitVec 16) (s : State),
    s.dqPending cl d = false) :=
  ⟨⟨255, 63, 2, 0, { (up.setCell 286 { up.cell 286 with tables := [⟨0, [], 0, [(63, 1)]⟩] }) with frame := 100, clk := { up.clk with gated := [islBank 31] } }, ⟨0, [], 0, [(63, 1)]⟩, by decide +kernel⟩,
   ⟨255, 63, 3, 0, { (up.setCell 286 { up.cell 286 with tables := [⟨0, [], 0, [(63, 1)]⟩] }) with frame := 100, clk := { up.clk with gated := [], gating := none }, pwr := pwrUp }, ⟨0, [], 0, [(63, 1)]⟩, by decide +kernel⟩,
   ⟨0, 5, 0xFFFF, up, by decide +kernel⟩,
   ⟨31, 31, 1, { (w up [(Reg.DQ_EN 31 31, 1), (Reg.DQ_COUNT 31 31, 0)]) with mem := { up.mem with dq := [] }, clk := { up.clk with gated := [], join := [] }, pwr := pwrUp }, by decide +kernel⟩,
   ⟨0, 5, 1, { ((w up [(Reg.DQ_EN 0 5, 1), (Reg.DQ_DST 0 5, 0x40808000), (Reg.DQ_COUNT 0 5, 1)]).setCell 0 { up.cell 0 with tables := [⟨0, [], 0, [(0, 1)]⟩] }) with mem := { up.mem with dq := [(5, ⟨0, true, false⟩)] } }, by decide +kernel⟩,
   ⟨0, 5, 0xFFFF, { (w up [(Reg.DQ_COUNT 0 5, 65535)]) with mem := { up.mem with dq := [(5, ⟨65534, true, false⟩)] }, clk := { up.clk with gated := [], join := [] }, pwr := pwrUp }, by decide +kernel⟩,
   ⟨0, 5, 0, { (w up [(Reg.DQ_DEADLINE 0 5, 1)]) with mem := { up.mem with dq := [(5, ⟨65534, true, false⟩)] }, clk := { up.clk with gated := [], join := [] }, pwr := pwrUp }, by decide +kernel⟩,
   ⟨0, 5, 0, up, by decide +kernel⟩⟩

theorem test_wit_BankHandover :
  (∃ (cl : Fin 32) (b : Fin 8) (h : Handover) (s : State),
    s.mem.handover.look none (8 * cl.val + b.val) = some h ∧
    h.owner < 16 ∧
    h.mode < 4) ∧
  (∃ (cl : Fin 32) (b : Fin 8) (s : State),
    s.mem.handover.look none (8 * cl.val + b.val) = none) :=
  ⟨⟨31, 7, ⟨15, 3⟩, { up with mem := { up.mem with handover := [(255, some ⟨15, 3⟩)] } }, by decide +kernel⟩,
   ⟨31, 7, up, by decide +kernel⟩⟩

theorem test_wit_ScrubberAndDram :
  (∃ (lo : BitVec 32) (hi : BitVec 8) (s : State),
    s.bit Reg.SCRUBCTL_EN = false) ∧
  (∃ (lo : BitVec 32) (hi : BitVec 8) (s : State) (k : Nat) (x : Sinter),
    s.scrubbed ((hi ++ lo).toNat / 4 * 4) = some (k, x) ∧
    s.mem.scrubAt.look 0 (sramOf k).1 ≠ (sramOf k).2.1) ∧
  (∃ (lo : BitVec 32) (hi : BitVec 8) (s : State) (k : Nat) (x : Sinter) (m : Nat × Nat),
    s.bit Reg.SCRUBCTL_EN = true ∧
    s.scrubbed ((hi ++ lo).toNat / 4 * 4) = some (k, x) ∧
    s.mem.scrubAt.look 0 (sramOf k).1 = (sramOf k).2.1 ∧
    m ∈ sramAll ∧
    m.1 ≠ (sramOf k).1 ∧
    s.mem.scrubAt.look 0 m.1 < m.2 ∧
    x.faulty = false) ∧
  (∃ (lo : BitVec 32) (hi : BitVec 8) (s : State) (k : Nat) (x : Sinter) (m : Nat × Nat),
    s.bit Reg.SCRUBCTL_EN = true ∧
    s.scrubbed ((hi ++ lo).toNat / 4 * 4) = some (k, x) ∧
    s.mem.scrubAt.look 0 (sramOf k).1 = (sramOf k).2.1 ∧
    m ∈ sramAll ∧
    m.1 ≠ (sramOf k).1 ∧
    s.mem.scrubAt.look 0 m.1 < m.2 ∧
    x.faulty = true ∧
    s.place ((hi ++ lo).toNat / 4 * 4) = .sram k ∧
    s.evt.inReset = false) ∧
  (∃ (l : BitVec 28) (c1 : Bool) (c2 : Bool) (s : State),
    let word (i : Nat) : Sinter := s.dramRaw (dramAddr l.toNat i)
    s.dramRefuses (dramAddr l.toNat 0) = none ∧
    ((∀ i, i < 12 → (word i).faulty = false)) ∧
    s.evt.inReset = false) ∧
  (∃ (l : BitVec 28) (c1 : Bool) (c2 : Bool) (s : State),
    let word (i : Nat) : Sinter := s.dramRaw (dramAddr l.toNat i)
    s.dramRefuses (dramAddr l.toNat 0) = none ∧
    ((∀ i, i < 12 → (word i).faulty = false))) ∧
  (∃ (l : BitVec 28) (c1 : Bool) (c2 : Bool) (s : State),
    s.dramRefuses (dramAddr l.toNat 0) = none ∧
    s.evt.inReset = false) ∧
  (∃ (l : BitVec 28) (c1 : Bool) (c2 : Bool) (s : State),
    s.dramRefuses (dramAddr l.toNat 0) = none) ∧
  (∃ (l : BitVec 28) (c1 : Bool) (c2 : Bool) (s : State),
    0x100000000 + s.dramCapacity ≤ dramAddr l.toNat 0 ∧
    s.evt.inReset = false) ∧
  (∃ (l : BitVec 28) (c1 : Bool) (c2 : Bool) (s : State),
    dramAddr l.toNat 0 < 0x100000000 + s.dramCapacity ∧
    s.dramUp = false) ∧
  (∃ (l : BitVec 28) (c1 : Bool) (c2 : Bool) (s : State) (x : Fin 12 → Sinter),
    s.dramRefuses (dramAddr l.toNat 0) = none) ∧
  (∃ (l : BitVec 28) (c1 : Bool) (c2 : Bool) (s : State) (i : Fin 12) (x : Sinter),
    s.dramRefuses (dramAddr l.toNat 0) = none ∧
    ((∀ k, k < 12 → (s.dramRaw (dramAddr l.toNat k)).faulty = false))) ∧
  (∃ (l : BitVec 28) (c1 : Bool) (c2 : Bool) (s : State) (i : Fin 12) (x : Sinter),
    s.dramRefuses (dramAddr l.toNat 0) = none ∧
    s.evt.inReset = false) ∧
  (∃ (l : BitVec 28) (c1 : Bool) (c2 : Bool) (s : State) (ws : List (Fin 12 × Sinter)) (t : State),
    s.dramRefuses (dramAddr l.toNat 0) = some t) ∧
  (∃ (ch : Fin 4) (s : State),
    s.evt.inReset = false) ∧
  (∃ (r : BitVec 3) (s : State),
    s.evt.inReset = false ∧
    s.get Reg.DRCSTAT_MR4_RATE ≠ r.toNat) ∧
  (∃ (v : BitVec 31) (s : State),
    s.bit Reg.DRCCFG_EN = false) ∧
  (∃ (v : BitVec 31) (s : State),
    s.bit Reg.DRCCFG_EN = true) ∧
  (∃ (v : BitVec 31) (s : State),
    s.bit Reg.DRCCFG_EN = true) ∧
  (∃ (v : BitVec 31) (s : State),
    s.bit Reg.DRCCFG_EN = false) ∧
  (∃ (s : State),
    s.mem.training = true) ∧
  (∃ (s : State),
    s.mem.training = true ∧
    s.evt.inReset = false) :=
  ⟨⟨0x10400000, 0, (w up [(Reg.SCRUBCTL_EN, 0)]), by decide +kernel⟩,
   ⟨0x10000004, 0, (w up [(Reg.SCRUBCTL_EN, 1)]), 0x10000004, Sinter.zero, by decide +kernel⟩,
   ⟨0x10000000, 0, (w up [(Reg.SCRUBCTL_EN, 1)]), 0x10000000, Sinter.zero, (1, 0x400000), by decide +kernel⟩,
   ⟨0x10000003, 0, { (w up [(Reg.SCRUBCTL_EN, 1)]) with mem := { up.mem with sram := [(0x10000000, ⟨1, 0, false⟩)] } }, 0x10000000, ⟨1, 0, false⟩, (1, 0x400000), by decide +kernel⟩,
   ⟨3, false, false, { (w up [(Reg.DRCCFG_EN, 1), (Reg.DRCSTAT_TRAINED, 1), (Reg.DRCSTAT_SELF_REFRESH, 0), (Reg.DRCCFG_DENSITY, 0)]) with mem := { up.mem with dram := (List.range 12).map (fun i => (dramAddr 3 i, some (Sinter.ofData 7))) } }, by decide +kernel⟩,
   ⟨3, true, true, { (w up [(Reg.DRCCFG_EN, 1), (Reg.DRCSTAT_TRAINED, 1), (Reg.DRCSTAT_SELF_REFRESH, 0), (Reg.DRCCFG_DENSITY, 0)]) with mem := { up.mem with dram := (List.range 12).map (fun i => (dramAddr 3 i, some (Sinter.ofData 7))) } }, by decide +kernel⟩,
   ⟨0xFFFFFF, false, false, (w up [(Reg.DRCCFG_EN, 1), (Reg.DRCSTAT_TRAINED, 1), (Reg.DRCSTAT_SELF_REFRESH, 0), (Reg.DRCCFG_DENSITY, 0)]), by decide +kernel⟩,
   ⟨0xFFFFFF, false, false, (w up [(Reg.DRCCFG_EN, 1), (Reg.DRCSTAT_TRAINED, 1), (Reg.DRCSTAT_SELF_REFRESH, 0), (Reg.DRCCFG_DENSITY, 0)]), by decide +kernel⟩,
   ⟨0x1000000, true, false, (w up [(Reg.DRCCFG_EN, 1), (Reg.DRCSTAT_TRAINED, 1), (Reg.DRCSTAT_SELF_REFRESH, 0), (Reg.DRCCFG_DENSITY, 0)]), by decide +kernel⟩,
   ⟨0, true, false, (w up [(Reg.DRCCFG_EN, 0)]), by decide +kernel⟩,
   ⟨0xFFFFFF, false, false, (w up [(Reg.DRCCFG_EN, 1), (Reg.DRCSTAT_TRAINED, 1), (Reg.DRCSTAT_SELF_REFRESH, 0), (Reg.DRCCFG_DENSITY, 0)]), (fun i => Sinter.ofData (BitVec.ofNat 32 i)), by decide +kernel⟩,
   ⟨3, false, false, { (w up [(Reg.DRCCFG_EN, 1), (Reg.DRCSTAT_TRAINED, 1), (Reg.DRCSTAT_SELF_REFRESH, 0), (Reg.DRCCFG_DENSITY, 0)]) with mem := { up.mem with dram := (List.range 12).map (fun i => (dramAddr 3 i, some (Sinter.ofData 7))) } }, 0, Sinter.zero, by decide +kernel⟩,
   ⟨0xFFFFFF, false, false, (w up [(Reg.DRCCFG_EN, 1), (Reg.DRCSTAT_TRAINED, 1), (Reg.DRCSTAT_SELF_REFRESH, 0), (Reg.DRCCFG_DENSITY, 0)]), 0, Sinter.zero, by decide +kernel⟩,
   ⟨0xFFFFFF, false, false, up, [], up, by decide +kernel⟩,
   ⟨3, up, by decide +kernel⟩,
   ⟨7, (w up [(Reg.DRCSTAT_MR4_RATE, 0)]), by decide +kernel⟩,
   ⟨0x7FFFFFFF, (w up [(Reg.DRCCFG_EN, 0)]), by decide +kernel⟩,
   ⟨0, (w up [(Reg.DRCCFG_EN, 1)]), by decide +kernel⟩,
   ⟨0, (w up [(Reg.DRCCFG_EN, 1)]), by decide +kernel⟩,
   ⟨0x7FFFFFFF, (w up [(Reg.DRCCFG_EN, 0)]), by decide +kernel⟩,
   ⟨{ up with mem := { up.mem with training := true } }, by decide +kernel⟩,
   ⟨{ up with mem := { up.mem with training := true } }, by decide +kernel⟩⟩

theorem test_wit_SaturatingResults :
  (∃ (u : Exe) (gd : Fin 32) (ga : Fin 32) (gb : Fin 32) (s : State),
    let a := (s.core u).rdG ga
    let b := (s.core u).rdG gb
    (s.core u).live = true ∧
    a.isPoison = false ∧
    b.isPoison = false) ∧
  (∃ (u : Exe) (gd : Fin 32) (ga : Fin 32) (gb : Fin 32) (s : State),
    let a := (s.core u).rdG ga
    let b := (s.core u).rdG gb
    (s.core u).live = true ∧
    a.isPoison = false ∧
    b.ok = true) ∧
  (∃ (u : Exe) (gd : Fin 32) (ga : Fin 32) (gb : Fin 32) (s : State) (t : Fin 32),
    let a := (s.core u).rdG ga
    (s.core u).live = true ∧
    a.isPoison = false) ∧
  (∃ (u : Exe) (gd : Fin 32) (ga : Fin 32) (gb : Fin 32) (s : State),
    let a := (s.core u).rdG ga
    (s.core u).live = true ∧
    a.isPoison = false) :=
  ⟨⟨.cell 0, 5, 1, 2, at0 up ck, by decide +kernel⟩,
   ⟨.steward, 31, 1, 2, atS up ck, by decide +kernel⟩,
   ⟨.cell 0, 5, 1, 2, at0 up ck, 31, by decide +kernel⟩,
   ⟨.cell 0, 0, 1, 2, at0 up ck, by decide +kernel⟩⟩

theorem test_wit_PoisonOperands :
  (∃ (u : Exe) (gd : Fin 32) (ga : Fin 32) (gb : Fin 32) (t : Fin 32) (an : Fin 8) (ad : Fin 8) (as : Fin 8) (c : SelCond) (s : State),
    (s.core u).live = true ∧
    ((s.core u).rdG ga).isPoison = true ∧
    ((s.core u).rdG gb).ok = true) ∧
  (∃ (u : Exe) (gd : Fin 32) (ga : Fin 32) (gb : Fin 32) (t : Fin 32) (an : Fin 8) (ad : Fin 8) (as : Fin 8) (c : SelCond) (s : State),
    (s.core u).live = true ∧
    ((s.core u).rdG ga).isPoison = true) ∧
  (∃ (u : Exe) (gd : Fin 32) (ga : Fin 32) (gb : Fin 32) (t : Fin 32) (an : Fin 8) (ad : Fin 8) (as : Fin 8) (c : SelCond) (s : State),
    (s.core u).live = true ∧
    (s.core u).stRead.getLsbD stU = true) ∧
  (∃ (u : Exe) (gd : Fin 32) (ga : Fin 32) (gb : Fin 32) (t : Fin 32) (an : Fin 8) (ad : Fin 8) (as : Fin 8) (c : SelCond) (s : State),
    (s.core u).live = true ∧
    ((((s.core u).rdA ad).psn = true ∨ ((s.core u).rdA as).psn = true))) ∧
  (∃ (q : Fin 288) (e : Fin 288) (gd : Fin 32) (ga : Fin 32) (gb : Fin 32) (t : Fin 32) (an : Fin 8) (imm : BitVec 12) (k : BitVec 6) (s : State),
    let u := Exe.cell q
    let c := s.core u
    s.eff q = some e.val ∧
    c.live = true ∧
    s.evt.inReset = false ∧
    (c.rdG gb).faulty = false) ∧
  (∃ (q : Fin 288) (e : Fin 288) (gd : Fin 32) (ga : Fin 32) (gb : Fin 32) (t : Fin 32) (an : Fin 8) (imm : BitVec 12) (k : BitVec 6) (s : State),
    let u := Exe.cell q
    let c := s.core u
    s.eff q = some e.val ∧
    c.live = true ∧
    s.evt.inReset = false ∧
    k.toNat ≤ 0x24) ∧
  (∃ (q : Fin 288) (e : Fin 288) (gd : Fin 32) (ga : Fin 32) (gb : Fin 32) (t : Fin 32) (an : Fin 8) (imm : BitVec 12) (k : BitVec 6) (s : State),
    let u := Exe.cell q
    let c := s.core u
    s.eff q = some e.val ∧
    c.live = true ∧
    s.evt.inReset = false) :=
  ⟨⟨.cell 0, 5, 3, 1, 31, 7, 0, 0, .lt, at0 up ck, by decide +kernel⟩,
   ⟨.cell 0, 5, 3, 1, 0, 7, 0, 0, .lt, at0 up ck, by decide +kernel⟩,
   ⟨.cell 0, 5, 1, 1, 0, 7, 0, 0, .ne, at0 up { ck with stRead := 0xFFFFFFFF }, by decide +kernel⟩,
   ⟨.steward, 5, 1, 1, 0, 7, 0, 2, .ge, atS up ck, by decide +kernel⟩,
   ⟨0, 0, 5, 3, 1, 31, 7, 0, 0, at0 up ck, by decide +kernel⟩,
   ⟨0, 0, 5, 1, 1, 0, 7, 0, 0, at0 up { ck with stRead := 0xFFFFFFFF }, by decide +kernel⟩,
   ⟨0, 0, 5, 3, 1, 0, 7, 0, 0, at0 up ck, by decide +kernel⟩⟩

theorem test_wit_BitAndCompareResults :
  (∃ (u : Exe) (gd : Fin 32) (ga : Fin 32) (gb : Fin 32) (t : Fin 32) (s : State),
    let b := (s.core u).rdG gb
    (s.core u).live = true ∧
    b.faulty = true) ∧
  (∃ (u : Exe) (gd : Fin 32) (ga : Fin 32) (gb : Fin 32) (t : Fin 32) (s : State),
    let a := (s.core u).rdG ga
    let b := (s.core u).rdG gb
    (s.core u).live = true ∧
    a.isPoison = false ∧
    b.isPoison = false) ∧
  (∃ (u : Exe) (gd : Fin 32) (ga : Fin 32) (gb : Fin 32) (t : Fin 32) (s : State),
    let a := (s.core u).rdG ga
    let b := (s.core u).rdG gb
    (s.core u).live = true ∧
    a.isPoison = false ∧
    b.ok = true ∧
    0 < b.data.toNat % 64) ∧
  (∃ (u : Exe) (gd : Fin 32) (ga : Fin 32) (gb : Fin 32) (t : Fin 32) (s : State),
    let a := (s.core u).rdG ga
    (s.core u).live = true ∧
    a.isPoison = false ∧
    0 < t.val) ∧
  (∃ (u : Exe) (gd : Fin 32) (ga : Fin 32) (gb : Fin 32) (t : Fin 32) (s : State),
    let a := (s.core u).rdG ga
    let b := (s.core u).rdG gb
    (s.core u).live = true ∧
    a.isPoison = false ∧
    a.ok = true ∧
    b.ok = true ∧
    0 < b.data.toNat % 64) ∧
  (∃ (u : Exe) (gd : Fin 32) (ga : Fin 32) (gb : Fin 32) (t : Fin 32) (s : State),
    let a := (s.core u).rdG ga
    (s.core u).live = true ∧
    a.isPoison = false ∧
    a.ok = true ∧
    0 < t.val) ∧
  (∃ (u : Exe) (gd : Fin 32) (ga : Fin 32) (gb : Fin 32) (s : State),
    let a := (s.core u).rdG ga
    let b := (s.core u).rdG gb
    (s.core u).live = true ∧
    a.isPoison = false ∧
    b.isPoison = false) ∧
  (∃ (u : Exe) (gd : Fin 32) (ga : Fin 32) (gb : Fin 32) (s : State),
    let a := (s.core u).rdG ga
    let b := (s.core u).rdG gb
    (s.core u).live = true ∧
    a.ok = true ∧
    b.ok = true) ∧
  (∃ (u : Exe) (gd : Fin 32) (ga : Fin 32) (gb : Fin 32) (s : State) (c : SelCond),
    let a := (s.core u).rdG ga
    let b := (s.core u).rdG gb
    (s.core u).live = true ∧
    (s.core u).stRead.getLsbD stU = false ∧
    a.isPoison = false ∧
    b.isPoison = false) :=
  ⟨⟨.cell 0, 5, 1, 4, 0, at0 up ck, by decide +kernel⟩,
   ⟨.cell 0, 5, 1, 2, 0, at0 up ck, by decide +kernel⟩,
   ⟨.cell 0, 5, 1, 6, 0, at0 up ck, by decide +kernel⟩,
   ⟨.cell 0, 5, 1, 2, 31, at0 up ck, by decide +kernel⟩,
   ⟨.cell 0, 5, 1, 6, 0, at0 up ck, by decide +kernel⟩,
   ⟨.cell 0, 5, 1, 2, 1, at0 up ck, by decide +kernel⟩,
   ⟨.cell 0, 5, 1, 2, at0 up ck, by decide +kernel⟩,
   ⟨.cell 0, 5, 1, 7, at0 up ck, by decide +kernel⟩,
   ⟨.cell 0, 5, 1, 2, at0 up ck, .eq, by decide +kernel⟩⟩

theorem test_wit_MovesAndConversions :
  (∃ (u : Exe) (gd : Fin 32) (gs : Fin 32) (s : State) (imm : BitVec 12),
    (s.core u).live = true) ∧
  (∃ (u : Exe) (gd : Fin 32) (gs : Fin 32) (s : State) (k : BitVec 6),
    (s.core u).live = true ∧
    k.toNat < 0x23 ∧
    ((s.core u).rdG gs).ok = true) ∧
  (∃ (u : Exe) (gd : Fin 32) (gs : Fin 32) (s : State),
    (s.core u).live = true ∧
    ((s.core u).rdG gs).ok = true) ∧
  (∃ (u : Exe) (gd : Fin 32) (gs : Fin 32) (s : State) (k : BitVec 6),
    (s.core u).live = true ∧
    k.toNat < 0x23) ∧
  (∃ (u : Exe) (gd : Fin 32) (gs : Fin 32) (s : State) (k : BitVec 6),
    (s.core u).live = true ∧
    ((s.core u).rdG gs).ok = false ∧
    k.toNat < 0x24) ∧
  (∃ (u : Exe) (gd : Fin 32) (gs : Fin 32) (s : State) (k : BitVec 6),
    (s.core u).live = true ∧
    0x24 < k.toNat) ∧
  (∃ (u : Exe) (gd : Fin 32) (gs : Fin 32) (s : State) (k : BitVec 6),
    (s.core u).live = true ∧
    0x24 ≤ k.toNat) ∧
  (∃ (u : Exe) (gd : Fin 32) (gs : Fin 32) (s : State),
    (s.core u).live = true) ∧
  (∃ (u : Exe) (gd : Fin 32) (ga : Fin 32) (an : Fin 8) (s : State),
    let c := s.core u
    (s.core u).live = true ∧
    (c.rdG ga).isPoison = false) ∧
  (∃ (u : Exe) (gd : Fin 32) (ga : Fin 32) (an : Fin 8) (s : State),
    let c := s.core u
    (s.core u).live = true ∧
    (c.rdA an).psn = false) :=
  ⟨⟨.cell 0, 31, 1, at0 up ck, 0x800, by decide +kernel⟩,
   ⟨.cell 0, 5, 1, at0 up ck, 0x22, by decide +kernel⟩,
   ⟨.cell 0, 5, 1, at0 up ck, by decide +kernel⟩,
   ⟨.cell 0, 5, 1, at0 up ck, 0x22, by decide +kernel⟩,
   ⟨.cell 0, 5, 3, at0 up ck, 0, by decide +kernel⟩,
   ⟨.cell 0, 5, 1, at0 up ck, 0x25, by decide +kernel⟩,
   ⟨.cell 0, 5, 1, at0 up ck, 0x24, by decide +kernel⟩,
   ⟨.steward, 5, 1, atS up ck, by decide +kernel⟩,
   ⟨.cell 0, 5, 7, 0, at0 up ck, by decide +kernel⟩,
   ⟨.cell 0, 5, 7, 0, at0 up ck, by decide +kernel⟩⟩

theorem test_wit_AccumulatorsAndRounding :
  (∃ (u : Exe) (an : Fin 8) (ga : Fin 32) (gb : Fin 32) (s : State),
    let c := s.core u
    (s.core u).live = true ∧
    (c.rdG ga).isPoison = false ∧
    (c.rdG gb).isPoison = false ∧
    (c.rdAM an).psn = false) ∧
  (∃ (u : Exe) (an : Fin 8) (ga : Fin 32) (gb : Fin 32) (s : State),
    let c := s.core u
    (s.core u).live = true ∧
    (c.rdG ga).isPoison = false ∧
    (c.rdG gb).isPoison = false) ∧
  (∃ (u : Exe) (an : Fin 8) (ga : Fin 32) (gb : Fin 32) (s : State) (as : Fin 8),
    let c := s.core u
    (s.core u).live = true ∧
    (c.rdA an).psn = false ∧
    (c.rdA as).psn = false) ∧
  (∃ (u : Exe) (an : Fin 8) (ga : Fin 32) (gb : Fin 32) (s : State) (as : Fin 8),
    (s.core u).live = true) ∧
  (∃ (u : Exe) (an : Fin 8) (ga : Fin 32) (gb : Fin 32) (s : State) (q : Fin 4) (a : Fin 16) (b : Fin 16) (x : Bool) (d : Nat),
    let c := s.core u
    (s.core u).live = true ∧
    d = 2 * b.val + (if x then 0 else 1) ∧
    (c.rdG (2 * a)).isPoison = false ∧
    (c.rdG (2 * b)).isPoison = false ∧
    (c.rdG (2 * a + 1)).isPoison = false ∧
    (c.rdG d).isPoison = false) ∧
  (∃ (u : Exe) (an : Fin 8) (ga : Fin 32) (gb : Fin 32) (s : State) (q : Fin 4) (a : Fin 16) (b : Fin 16) (x : Bool),
    (s.core u).live = true) ∧
  (∃ (u : Exe) (gd : Fin 32) (an : Fin 8) (sh : BitVec 5) (s : State),
    let c := s.core u
    (s.core u).live = true ∧
    -8 ≤ sh.toInt ∧
    sh.toInt ≤ 8 ∧
    (c.rdA an).psn = false ∧
    (c.rdA an).res = residueInt (c.rdA an).val.toInt) ∧
  (∃ (u : Exe) (gd : Fin 32) (an : Fin 8) (sh : BitVec 5) (s : State),
    let c := s.core u
    (s.core u).live = true ∧
    -8 ≤ sh.toInt ∧
    sh.toInt ≤ 8 ∧
    an.val % 2 = 0 ∧
    (c.rdA an).psn = false ∧
    (c.rdA an).res = residueInt (c.rdA an).val.toInt ∧
    (c.rdA (an + 1)).psn = false ∧
    (c.rdA (an + 1)).res = residueInt (c.rdA (an + 1)).val.toInt) ∧
  (∃ (u : Exe) (gd : Fin 32) (an : Fin 8) (sh : BitVec 5) (s : State),
    (s.core u).live = true ∧
    -8 ≤ sh.toInt ∧
    sh.toInt ≤ 8 ∧
    an.val % 2 = 1) :=
  ⟨⟨.cell 0, 7, 1, 2, at0 up ck, by decide +kernel⟩,
   ⟨.cell 0, 0, 7, 7, at0 up ck, by decide +kernel⟩,
   ⟨.cell 0, 0, 1, 2, at0 up ck, 1, by decide +kernel⟩,
   ⟨.cell 0, 7, 1, 2, at0 up ck, 2, by decide +kernel⟩,
   ⟨.cell 0, 0, 1, 2, at0 up ck, 3, 4, 4, true, 8, by decide +kernel⟩,
   ⟨.cell 0, 0, 1, 2, at0 up ck, 3, 15, 15, false, by decide +kernel⟩,
   ⟨.cell 0, 31, 0, 0x18, at0 up ck, by decide +kernel⟩,
   ⟨.cell 0, 31, 0, 8, at0 up ck, by decide +kernel⟩,
   ⟨.cell 0, 31, 7, 0, at0 up ck, by decide +kernel⟩⟩

theorem test_wit_FlowAndLoops :
  (∃ (u : Exe) (t : BitVec 12) (k : BrCond) (s : State),
    let c := s.core u
    (s.core u).live = true ∧
    c.atLoopEnd = true) ∧
  (∃ (u : Exe) (t : BitVec 12) (k : BrCond) (s : State),
    let c := s.core u
    (s.core u).live = true ∧
    c.atLoopEnd = false ∧
    branchHolds c.stRead k = true) ∧
  (∃ (u : Exe) (t : BitVec 12) (k : BrCond) (s : State),
    let c := s.core u
    (s.core u).live = true ∧
    c.atLoopEnd = false ∧
    branchHolds c.stRead k = false) ∧
  (∃ (u : Exe) (t : BitVec 12) (k : BrCond) (s : State),
    let c := s.core u
    (s.core u).live = true ∧
    c.atLoopEnd = false ∧
    c.stack.length < 8) ∧
  (∃ (u : Exe) (t : BitVec 12) (k : BrCond) (s : State),
    let c := s.core u
    (s.core u).live = true ∧
    c.atLoopEnd = false ∧
    8 ≤ c.stack.length) ∧
  (∃ (u : Exe) (t : BitVec 12) (k : BrCond) (s : State),
    let c := s.core u
    (s.core u).live = true ∧
    c.atLoopEnd = false ∧
    c.stack = []) ∧
  (∃ (u : Exe) (t : BitVec 12) (k : BrCond) (s : State),
    let c := s.core u
    (s.core u).live = true ∧
    c.atLoopEnd = false) ∧
  (∃ (u : Exe) (form : LoopForm) (s : State),
    let c := s.core u
    (s.core u).live = true ∧
    c.atLoopEnd = false ∧
    c.loopCount form = none) ∧
  (∃ (u : Exe) (form : LoopForm) (s : State),
    let c := s.core u
    (s.core u).live = true ∧
    c.atLoopEnd = false) ∧
  (∃ (u : Exe) (form : LoopForm) (s : State) (outer : List Loop) (l : Loop),
    let c := s.core u
    (s.core u).live = true ∧
    c.loops = outer ++ [l] ∧
    l.last = c.pc ∧
    2 ≤ (c.lc outer.length).toNat) ∧
  (∃ (u : Exe) (form : LoopForm) (s : State) (outer : List Loop) (l : Loop),
    let c := s.core u
    (s.core u).live = true ∧
    c.loops = outer ++ [l] ∧
    l.last = c.pc ∧
    (c.lc outer.length).toNat ≤ 1 ∧
    ((∀ m ∈ outer.getLast?, m.last ≠ c.pc))) ∧
  (∃ (u : Exe) (form : LoopForm) (s : State),
    let c := s.core u
    (s.core u).live = true ∧
    ((∀ l ∈ c.loops.getLast?, l.last ≠ c.pc))) :=
  ⟨⟨.cell 0, 0xFFF, .eq, at0 up { ck with loops := [⟨2, 5⟩] }, by decide +kernel⟩,
   ⟨.cell 0, 0xFFF, .vc, at0 up ck, by decide +kernel⟩,
   ⟨.cell 0, 0xFFF, .eq, at0 up ck, by decide +kernel⟩,
   ⟨.cell 0, 7, .eq, at0 up { ck with stack := List.replicate 7 9 }, by decide +kernel⟩,
   ⟨.cell 0, 7, .eq, at0 up { ck with stack := List.replicate 8 9 }, by decide +kernel⟩,
   ⟨.cell 0, 7, .eq, at0 up ck, by decide +kernel⟩,
   ⟨.cell 0, 0x800, .eq, at0 up ck, by decide +kernel⟩,
   ⟨.cell 0, .reg 4 0, at0 up ck, by decide +kernel⟩,
   ⟨.cell 0, .imm 1023 63, at0 up ck, by decide +kernel⟩,
   ⟨.cell 0, .imm 1 1, at0 up { ck with loops := [⟨1, 9⟩, ⟨2, 5⟩], c := [(33, some 2)] }, [⟨1, 9⟩], ⟨2, 5⟩, by decide +kernel⟩,
   ⟨.cell 0, .imm 1 1, at0 up { ck with loops := [⟨1, 9⟩, ⟨2, 5⟩], c := [(33, some 1)] }, [⟨1, 9⟩], ⟨2, 5⟩, by decide +kernel⟩,
   ⟨.cell 0, .imm 1 1, at0 up { ck with loops := [] }, by decide +kernel⟩⟩

theorem test_wit_BundleFetch :
  (∃ (p : Fin 288) (e : Fin 288) (s : State),
    let u := Exe.cell p
    let c := s.core u
    let lo := s.ram (imemKey (e / 9) (e % 9) (2 * c.npc))
    let hi := s.ram (imemKey (e / 9) (e % 9) (2 * c.npc + 1))
    let w : BitVec 64 := hi.data ++ lo.data
    s.eff p = some e.val ∧
    s.fetches u = true ∧
    c.npc ≤ 4095 ∧
    lo.ok = true ∧
    hi.ok = true ∧
    (decodeBundle u w.toNat).isSome = true) ∧
  (∃ (p : Fin 288) (e : Fin 288) (s : State),
    let u := Exe.cell p
    let c := s.core u
    let lo := s.ram (imemKey (e / 9) (e % 9) (2 * c.npc))
    let hi := s.ram (imemKey (e / 9) (e % 9) (2 * c.npc + 1))
    let w : BitVec 64 := hi.data ++ lo.data
    s.eff p = some e.val ∧
    s.fetches u = true ∧
    c.npc ≤ 4095 ∧
    lo.ok = true ∧
    hi.ok = true ∧
    (decodeBundle u w.toNat).isSome = false) ∧
  (∃ (p : Fin 288) (e : Fin 288) (s : State),
    let u := Exe.cell p
    let c := s.core u
    let lo := s.ram (imemKey (e / 9) (e % 9) (2 * c.npc))
    let hi := s.ram (imemKey (e / 9) (e % 9) (2 * c.npc + 1))
    s.eff p = some e.val ∧
    s.fetches u = true ∧
    c.npc ≤ 4095 ∧
    (lo.ok && hi.ok) = false) ∧
  (∃ (p : Fin 288) (e : Fin 288) (s : State),
    let u := Exe.cell p
    let c := s.core u
    s.eff p = some e.val ∧
    s.fetches u = true ∧
    4095 < c.npc) ∧
  (∃ (p : Fin 288) (e : Fin 288) (s : State),
    let u := Exe.cell p
    s.eff p = some e.val ∧
    s.fetches u = false) ∧
  (∃ (s : State),
    s.stewardResponse = none ∧
    s.stewardHeld = true) ∧
  (∃ (s : State),
    let c := s.stw.core
    s.stewardResponse = none ∧
    s.stewardHeld = false ∧
    s.fetchBar c.npc = some none) ∧
  (∃ (s : State),
    s.stewardResponse = none ∧
    s.stewardHeld = false) ∧
  (∃ (s : State),
    let c := s.stw.core
    let lo := (s.bundleAt .steward c.npc).1
    let hi := (s.bundleAt .steward c.npc).2
    let w : BitVec 64 := hi.data ++ lo.data
    s.stewardResponse = none ∧
    s.stewardHeld = false ∧
    s.fetchBar c.npc = none ∧
    c.npc < 2 ^ 19 ∧
    lo.ok = true ∧
    hi.ok = true ∧
    (decodeBundle .steward w.toNat).isSome = true) ∧
  (∃ (s : State),
    let c := s.stw.core
    let lo := (s.bundleAt .steward c.npc).1
    let hi := (s.bundleAt .steward c.npc).2
    let w : BitVec 64 := hi.data ++ lo.data
    s.stewardResponse = none ∧
    s.stewardHeld = false ∧
    s.fetchBar c.npc = none ∧
    c.npc < 2 ^ 19 ∧
    lo.ok = true ∧
    hi.ok = true ∧
    (decodeBundle .steward w.toNat).isSome = false) ∧
  (∃ (s : State),
    let c := s.stw.core
    let lo := (s.bundleAt .steward c.npc).1
    let hi := (s.bundleAt .steward c.npc).2
    s.stewardResponse = none ∧
    s.stewardHeld = false ∧
    s.fetchBar c.npc = none ∧
    c.npc < 2 ^ 19 ∧
    (lo.ok && hi.ok) = false) ∧
  (∃ (s : State) (r : FabResp) (n : Nat) (pc : Nat) (x : Sinter) (l : List Sinter),
    s.stewardResponse = some r ∧
    s.stw.wait = some (r.tag, n + 1, pc) ∧
    r.code = 0 ∧
    r.words = x :: l) :=
  ⟨⟨0, 0, { (up.setCell 0 { up.cell 0 with core := { ck with npc := 4095 }, started := true, stopped := false, task := some 0 }) with mem := { up.mem with sram := [] }, clk := { up.clk with gated := [], gating := none }, pwr := pwrUp }, by decide +kernel⟩,
   ⟨0, 0, { (up.setCell 0 { up.cell 0 with core := { ck with npc := 4095 }, started := true, stopped := false, task := some 0 }) with mem := { up.mem with sram := [(imemKey 0 0 8191, Sinter.ofData 0xFFFFFFFF)] }, clk := { up.clk with gated := [], gating := none }, pwr := pwrUp }, by decide +kernel⟩,
   ⟨0, 0, { (up.setCell 0 { up.cell 0 with core := ck, started := true, stopped := false, task := some 0 }) with mem := { up.mem with sram := [(imemKey 0 0 12, Sinter.poisonOf 0)] }, clk := { up.clk with gated := [], gating := none }, pwr := pwrUp }, by decide +kernel⟩,
   ⟨0, 0, { (up.setCell 0 { up.cell 0 with core := { ck with npc := 4096 }, started := true, stopped := false, task := some 0 }) with mem := { up.mem with sram := [] }, clk := { up.clk with gated := [], gating := none }, pwr := pwrUp }, by decide +kernel⟩,
   ⟨287, 286, { (w up [(Reg.SPARESTAT_STATE 31, 2), (Reg.SPARESTAT_CARRY_K 31, 7)]) with eng := { up.eng with degraded := [] }, cells := [] }, by decide +kernel⟩,
   ⟨{ (w up [(Reg.SPARESTAT_STATE 31, 2), (Reg.SPARESTAT_CARRY_K 31, 7)]) with eng := { up.eng with degraded := [] }, cells := [] }, by decide +kernel⟩,
   ⟨{ (w up [(Reg.FABMST_RESET 0, 1)]) with stw := { up.stw with running := true } }, by decide +kernel⟩,
   ⟨{ up with stw := { up.stw with running := true } }, by decide +kernel⟩,
   ⟨{ up with stw := { up.stw with running := true, core := { up.stw.core with npc := 32768 } } }, by decide +kernel⟩,
   ⟨{ up with stw := { up.stw with running := true, core := { up.stw.core with npc := 32768 } }, mem := { up.mem with sram := [(0x10040000, Sinter.ofData 0xFFFFFFFF)] } }, by decide +kernel⟩,
   ⟨{ up with stw := { up.stw with running := true, core := { up.stw.core with npc := 32768 } }, mem := { up.mem with sram := [(0x10040000, Sinter.poisonOf 0)] } }, by decide +kernel⟩,
   ⟨{ up with stw := { up.stw with running := true, wait := some (7, 2, 5) }, fab := { Fab.reset with resps := [⟨0, 1, 0, 0, [Sinter.ofData 9], 7, 0⟩] } }, ⟨0, 1, 0, 0, [Sinter.ofData 9], 7, 0⟩, 1, 5, Sinter.ofData 9, [], by decide +kernel⟩⟩

theorem test_wit_TasksAndCellControl :
  (∃ (p : Fin 288) (e : Fin 288) (s : State),
    s.eff p = some e.val ∧
    (s.core (.cell p)).live = true) ∧
  (∃ (p : Fin 288) (e : Fin 288) (k : Task) (s : State),
    s.eff p = some e.val ∧
    (s.cell e).runningTask s.window = some k ∧
    k.idx < 32 ∧
    k.budget ≤ (s.cell e).taskCyc) ∧
  (∃ (p : Fin 288) (e : Fin 288) (s : State),
    s.eff p = some e.val ∧
    (s.core (.cell p)).live = true) ∧
  (∃ (u : Exe) (n : Fin 16) (s : State),
    (s.core u).live = true ∧
    s.evt.inReset = false) ∧
  (∃ (s : State),
    s.stw.core.live = true ∧
    s.stw.exl = false) ∧
  (∃ (s : State),
    s.stw.core.live = true) ∧
  (∃ (u : Exe) (n : Fin 16) (s : State),
    (s.core u).live = false) :=
  ⟨⟨0, 0, at0 up ck, by decide +kernel⟩,
   ⟨0, 0, ⟨31, 4, true, true, 100, 0, false, 0⟩, (up.setCell 0 { Cell.reset with tables := [⟨0, [⟨31, 4, true, true, 100, 0, false, 0⟩], 0, []⟩], task := some 31, taskCyc := 100 }), by decide +kernel⟩,
   ⟨0, 0, at0 up ck, by decide +kernel⟩,
   ⟨.steward, 15, atS up ck, by decide +kernel⟩,
   ⟨atS up ck, by decide +kernel⟩,
   ⟨atS up ck, by decide +kernel⟩,
   ⟨.steward, 15, up, by decide +kernel⟩⟩

theorem test_wit_LoadsAndStores :
  (∃ (u : Exe) (gd : Fin 32) (pn : Fin 8) (b : Fin 8) (am : BitVec 4) (a2 : BitVec 2) (dup : Bool) (s : State),
    (s.core u).live = true ∧
    gd.val ≠ 0) ∧
  (∃ (u : Exe) (gd : Fin 32) (pn : Fin 8) (b : Fin 8) (am : BitVec 4) (a2 : BitVec 2) (dup : Bool) (s : State),
    (s.core u).live = true ∧
    gd.val = 0) ∧
  (∃ (u : Exe) (gd : Fin 32) (pn : Fin 8) (b : Fin 8) (am : BitVec 4) (a2 : BitVec 2) (dup : Bool) (s : State),
    (s.core u).live = true ∧
    u = .steward) ∧
  (∃ (u : Exe) (gd : Fin 32) (pn : Fin 8) (b : Fin 8) (am : BitVec 4) (a2 : BitVec 2) (dup : Bool) (s : State),
    (s.core u).live = true ∧
    u = .steward ∧
    gd.val = 0) ∧
  (∃ (u : Exe) (gd : Fin 32) (pn : Fin 8) (b : Fin 8) (am : BitVec 4) (a2 : BitVec 2) (dup : Bool) (s : State) (q : Fin 288) (e : Fin 288),
    (s.core u).live = true ∧
    u = .cell q ∧
    s.eff q = some e.val ∧
    gd.val = 0) ∧
  (∃ (u : Exe) (gd : Fin 32) (pn : Fin 8) (b : Fin 8) (am : BitVec 4) (a2 : BitVec 2) (dup : Bool) (s : State) (q : Fin 288) (e : Fin 288),
    (s.core u).live = true ∧
    u = .cell q ∧
    s.eff q = some e.val ∧
    gd.val ≠ 0) ∧
  (∃ (u : Exe) (gd : Fin 32) (pn : Fin 8) (b : Fin 8) (am : BitVec 4) (a2 : BitVec 2) (dup : Bool) (s : State) (q : Fin 288) (e : Fin 288),
    let c := s.core u
    let p := (c.p pn).toNat
    (s.core u).live = true ∧
    u = .cell q ∧
    s.eff q = some e.val ∧
    gd.val ≠ 0 ∧
    s.bankOwner (e / 9) b = e % 9 ∧
    c.amoBusy b p = false ∧
    s.bankMode (e / 9) b ≠ 3) ∧
  (∃ (u : Exe) (gd : Fin 32) (pn : Fin 8) (b : Fin 8) (am : BitVec 4) (a2 : BitVec 2) (dup : Bool) (s : State) (q : Fin 288) (e : Fin 288),
    let c := s.core u
    let p := (c.p pn).toNat
    let lo := s.ram (bankKey (e / 9) b p)
    let hi := s.ram (bankKey (e / 9) b ((p + 1) % 65536))
    (s.core u).live = true ∧
    u = .cell q ∧
    s.eff q = some e.val ∧
    gd.val ≠ 0 ∧
    s.bankOwner (e / 9) b = e % 9 ∧
    c.amoBusy b p = false ∧
    s.bankMode (e / 9) b = 1 ∧
    lo.ok = true ∧
    hi.ok = true) ∧
  (∃ (u : Exe) (gd : Fin 32) (pn : Fin 8) (b : Fin 8) (am : BitVec 4) (a2 : BitVec 2) (dup : Bool) (s : State) (q : Fin 288) (e : Fin 288),
    let c := s.core u
    let p := (c.p pn).toNat
    let lo := s.ram (bankKey (e / 9) b p)
    let hi := s.ram (bankKey (e / 9) b ((p + 1) % 65536))
    (s.core u).live = true ∧
    u = .cell q ∧
    s.eff q = some e.val ∧
    gd.val ≠ 0 ∧
    s.bankOwner (e / 9) b = e % 9 ∧
    c.amoBusy b p = false ∧
    s.bankMode (e / 9) b = 1 ∧
    (lo.ok && hi.ok) = false) ∧
  (∃ (u : Exe) (gd : Fin 32) (pn : Fin 8) (b : Fin 8) (am : BitVec 4) (a2 : BitVec 2) (dup : Bool) (s : State) (q : Fin 288) (e : Fin 288),
    let c := s.core u
    let p := (c.p pn).toNat
    (s.core u).live = true ∧
    u = .cell q ∧
    s.eff q = some e.val ∧
    gd.val ≠ 0 ∧
    s.bankOwner (e / 9) b = e % 9 ∧
    c.amoBusy b p = false ∧
    s.bankMode (e / 9) b = 1 ∧
    s.evt.inReset = false) ∧
  (∃ (u : Exe) (gs : Fin 32) (an : Fin 8) (pn : Fin 8) (b : Fin 8) (am : BitVec 4) (a2 : BitVec 2) (sh : BitVec 5) (s : State),
    let c := s.core u
    let x := c.rdG gs
    (s.core u).live = true ∧
    x.faulty = false) ∧
  (∃ (u : Exe) (gs : Fin 32) (an : Fin 8) (pn : Fin 8) (b : Fin 8) (am : BitVec 4) (a2 : BitVec 2) (sh : BitVec 5) (s : State),
    let c := s.core u
    let x := c.rdG gs
    (s.core u).live = true ∧
    x.faulty = true) ∧
  (∃ (u : Exe) (gs : Fin 32) (an : Fin 8) (pn : Fin 8) (b : Fin 8) (am : BitVec 4) (a2 : BitVec 2) (sh : BitVec 5) (s : State),
    (s.core u).live = true ∧
    (¬(-8 ≤ sh.toInt ∧ sh.toInt ≤ 8))) ∧
  (∃ (u : Exe) (gs : Fin 32) (an : Fin 8) (pn : Fin 8) (b : Fin 8) (am : BitVec 4) (a2 : BitVec 2) (sh : BitVec 5) (s : State),
    let c := s.core u
    (s.core u).live = true ∧
    -8 ≤ sh.toInt ∧
    sh.toInt ≤ 8 ∧
    ((c.rdA an).psn = true ∨ (c.rdA an).res ≠ residueInt (c.rdA an).val.toInt)) ∧
  (∃ (u : Exe) (gs : Fin 32) (an : Fin 8) (pn : Fin 8) (b : Fin 8) (am : BitVec 4) (a2 : BitVec 2) (sh : BitVec 5) (s : State),
    (s.core u).live = true ∧
    u = .steward) ∧
  (∃ (u : Exe) (gs : Fin 32) (an : Fin 8) (pn : Fin 8) (b : Fin 8) (am : BitVec 4) (a2 : BitVec 2) (sh : BitVec 5) (s : State),
    let c := s.core u
    (s.core u).live = true ∧
    -8 ≤ sh.toInt ∧
    sh.toInt ≤ 8 ∧
    (c.rdA an).psn = false ∧
    (c.rdA an).res = residueInt (c.rdA an).val.toInt) ∧
  (∃ (u : Exe) (gs : Fin 32) (an : Fin 8) (pn : Fin 8) (b : Fin 8) (am : BitVec 4) (a2 : BitVec 2) (sh : BitVec 5) (s : State) (q : Fin 288) (e : Fin 288),
    let c := s.core u
    let p := (c.p pn).toNat
    let x := c.rdG gs
    (s.core u).live = true ∧
    u = .cell q ∧
    s.eff q = some e.val ∧
    x.faulty = false ∧
    x.isPoison = false ∧
    (if (s.cell e).isS3 s.window then s.nEgr else s.nSrc) ≤ p / 16 % 1024) ∧
  (∃ (u : Exe) (gs : Fin 32) (an : Fin 8) (pn : Fin 8) (b : Fin 8) (am : BitVec 4) (a2 : BitVec 2) (sh : BitVec 5) (s : State) (q : Fin 288) (e : Fin 288),
    let c := s.core u
    let x := c.rdG gs
    (s.core u).live = true ∧
    u = .cell q ∧
    s.eff q = some e.val ∧
    x.faulty = false ∧
    x.isPoison = true ∧
    s.evt.inReset = false ∧
    (s.cell e).once.contains 104 = false) ∧
  (∃ (u : Exe) (gs : Fin 32) (an : Fin 8) (pn : Fin 8) (b : Fin 8) (am : BitVec 4) (a2 : BitVec 2) (sh : BitVec 5) (s : State) (q : Fin 288) (e : Fin 288),
    let c := s.core u
    let p := (c.p pn).toNat
    let x := c.rdG gs
    (s.core u).live = true ∧
    u = .cell q ∧
    s.eff q = some e.val ∧
    x.faulty = false ∧
    x.isPoison = false ∧
    p / 16 % 1024 < (if (s.cell e).isS3 s.window then s.nEgr else s.nSrc) ∧
    s.writerOk ((s.cell e).isS3 s.window) (workOf e) (p / 16 % 1024) = true) ∧
  (∃ (u : Exe) (gs : Fin 32) (an : Fin 8) (pn : Fin 8) (b : Fin 8) (am : BitVec 4) (a2 : BitVec 2) (sh : BitVec 5) (s : State) (q : Fin 288) (e : Fin 288),
    let c := s.core u
    let p := (c.p pn).toNat
    let x := c.rdG gs
    (s.core u).live = true ∧
    u = .cell q ∧
    s.eff q = some e.val ∧
    x.faulty = false ∧
    s.bankOwner (e / 9) b = e % 9 ∧
    c.amoBusy b p = false ∧
    s.bankMode (e / 9) b ≠ 3) ∧
  (∃ (u : Exe) (gs : Fin 32) (an : Fin 8) (pn : Fin 8) (b : Fin 8) (am : BitVec 4) (a2 : BitVec 2) (sh : BitVec 5) (s : State) (q : Fin 288) (e : Fin 288),
    let c := s.core u
    let p := (c.p pn).toNat
    let x := c.rdG gs
    (s.core u).live = true ∧
    u = .cell q ∧
    s.eff q = some e.val ∧
    x.faulty = false ∧
    s.bankOwner (e / 9) b = e % 9 ∧
    c.amoBusy b p = false ∧
    s.bankMode (e / 9) b = 2 ∧
    (s.ram (bankKey (e / 9) b p)).ok = true ∧
    x.ok = true) ∧
  (∃ (u : Exe) (gs : Fin 32) (an : Fin 8) (pn : Fin 8) (b : Fin 8) (am : BitVec 4) (a2 : BitVec 2) (sh : BitVec 5) (s : State) (q : Fin 288) (e : Fin 288),
    let c := s.core u
    let p := (c.p pn).toNat
    let x := c.rdG gs
    (s.core u).live = true ∧
    u = .cell q ∧
    s.eff q = some e.val ∧
    x.faulty = false ∧
    s.bankOwner (e / 9) b = e % 9 ∧
    c.amoBusy b p = false ∧
    s.bankMode (e / 9) b = 2 ∧
    ((s.ram (bankKey (e / 9) b p)).ok && x.ok) = false) ∧
  (∃ (u : Exe) (gs : Fin 32) (an : Fin 8) (pn : Fin 8) (b : Fin 8) (am : BitVec 4) (a2 : BitVec 2) (sh : BitVec 5) (s : State) (q : Fin 288) (e : Fin 288),
    let c := s.core u
    let p := (c.p pn).toNat
    let f := s.workFrame ((s.cell e).isS3 s.window) (p % 16)
    let w := s.srcWord (p / 16) ((f - 64) / 16)
    (s.core u).live = true ∧
    u = .cell q ∧
    s.eff q = some e.val ∧
    srcKind w = 1 ∧
    srcCell w = workOf e) ∧
  (∃ (u : Exe) (gs : Fin 32) (an : Fin 8) (pn : Fin 8) (b : Fin 8) (am : BitVec 4) (a2 : BitVec 2) (sh : BitVec 5) (s : State) (q : Fin 288) (e : Fin 288),
    let c := s.core u
    let p := (c.p pn).toNat
    let f := s.workFrame ((s.cell e).isS3 s.window) (p % 16)
    let w := s.srcWord (p / 16) ((f - 64) / 16)
    (s.core u).live = true ∧
    u = .cell q ∧
    s.eff q = some e.val ∧
    (¬(srcKind w = 1 ∧ srcCell w = workOf e))) :=
  ⟨⟨.cell 0, 31, 0, 7, 15, 3, false, at0 up ck, by decide +kernel⟩,
   ⟨.steward, 0, 0, 7, 15, 3, false, atS up ck, by decide +kernel⟩,
   ⟨.steward, 0, 0, 7, 15, 3, false, atS up ck, by decide +kernel⟩,
   ⟨.steward, 0, 0, 7, 15, 3, false, atS up ck, by decide +kernel⟩,
   ⟨.cell 0, 0, 0, 7, 15, 3, false, at0 up ck, 0, 0, by decide +kernel⟩,
   ⟨.cell 0, 31, 0, 7, 9, 3, false, at0 up ck, 0, 0, by decide +kernel⟩,
   ⟨.cell 0, 31, 0, 7, 0, 3, false, { (at0 (w up [(Reg.BANKCTL_OWNER 0 7, 0), (Reg.BANKCTL_MODE 0 7, 2)]) ck) with mem := { up.mem with handover := [], sram := [] } }, 0, 0, by decide +kernel⟩,
   ⟨.cell 0, 31, 0, 7, 0, 3, false, { (at0 (w up [(Reg.BANKCTL_OWNER 0 7, 0), (Reg.BANKCTL_MODE 0 7, 1)]) ck) with mem := { up.mem with handover := [], sram := [(bankKey 0 7 16, Sinter.ofData 0x12345678)] } }, 0, 0, by decide +kernel⟩,
   ⟨.cell 0, 31, 0, 7, 0, 3, false, { (at0 (w up [(Reg.BANKCTL_OWNER 0 7, 0), (Reg.BANKCTL_MODE 0 7, 1)]) ck) with mem := { up.mem with handover := [], sram := [(bankKey 0 7 16, Sinter.poisonOf 1)] } }, 0, 0, by decide +kernel⟩,
   ⟨.cell 0, 31, 0, 7, 0, 3, true, { (at0 (w up [(Reg.BANKCTL_OWNER 0 7, 0), (Reg.BANKCTL_MODE 0 7, 1)]) ck) with mem := { up.mem with handover := [], sram := [(bankKey 0 7 0, Sinter.ofData 0x12345678)] } }, 0, 0, by decide +kernel⟩,
   ⟨.steward, 3, 0, 0, 7, 5, 3, 0, atS up ck, by decide +kernel⟩,
   ⟨.cell 0, 4, 0, 0, 7, 5, 3, 0, at0 up ck, by decide +kernel⟩,
   ⟨.steward, 0, 0, 0, 7, 15, 3, 9, atS up ck, by decide +kernel⟩,
   ⟨.cell 0, 4, 2, 0, 7, 5, 3, 0x18, at0 up ck, by decide +kernel⟩,
   ⟨.steward, 0, 0, 0, 7, 15, 3, 0, atS up ck, by decide +kernel⟩,
   ⟨.cell 0, 4, 0, 0, 7, 5, 3, 0x18, at0 up ck, by decide +kernel⟩,
   ⟨.cell 0, 1, 0, 0, 7, 5, 3, 0, at0 (w up [(Reg.PWRRATE_MULT_NOW, 2)]) { ck with c := [(0, some 0xFFFF)] }, 0, 0, by decide +kernel⟩,
   ⟨.cell 0, 3, 0, 0, 7, 5, 3, 0, at0 up ck, 0, 0, by decide +kernel⟩,
   ⟨.cell 0, 1, 0, 0, 7, 5, 3, 0, { (at0 (w up [(Reg.SRCW_KIND 1, 2), (Reg.SRCW_CELL 1, 0)]) ck) with eng := { up.eng with past := [], degraded := [] } }, 0, 0, by decide +kernel⟩,
   ⟨.cell 0, 3, 0, 0, 7, 5, 3, 0, { (at0 (w up [(Reg.BANKCTL_OWNER 0 7, 0), (Reg.BANKCTL_MODE 0 7, 0)]) ck) with mem := { up.mem with handover := [], sram := [] } }, 0, 0, by decide +kernel⟩,
   ⟨.cell 0, 1, 0, 0, 7, 5, 3, 0, { (at0 (w up [(Reg.BANKCTL_OWNER 0 7, 0), (Reg.BANKCTL_MODE 0 7, 2)]) ck) with mem := { up.mem with handover := [], sram := [(bankKey 0 7 16, Sinter.ofData 1)] } }, 0, 0, by decide +kernel⟩,
   ⟨.cell 0, 3, 0, 0, 7, 5, 3, 0, { (at0 (w up [(Reg.BANKCTL_OWNER 0 7, 0), (Reg.BANKCTL_MODE 0 7, 2)]) ck) with mem := { up.mem with handover := [], sram := [(bankKey 0 7 16, Sinter.ofData 1)] } }, 0, 0, by decide +kernel⟩,
   ⟨.cell 0, 1, 0, 0, 7, 5, 3, 0, { (at0 up ck) with mem := { up.mem with sram := [(baseKey 0x1B1001, Sinter.ofData 0x80000001)] }, gys := Gys.reset }, 0, 0, by decide +kernel⟩,
   ⟨.cell 0, 1, 0, 0, 7, 5, 3, 0, at0 up ck, 0, 0, by decide +kernel⟩⟩

theorem test_wit_RefusedAccesses :
  (∃ (q : Fin 288) (e : Fin 288) (gd : Fin 32) (pn : Fin 8) (b : Fin 8) (a2 : BitVec 2) (am : BitVec 4) (s : State),
    let u := Exe.cell q
    let c := s.core u
    s.eff q = some e.val ∧
    c.live = true ∧
    s.evt.inReset = false ∧
    gd.val ≠ 0 ∧
    s.bankOwner (e / 9) b ≠ e % 9) ∧
  (∃ (q : Fin 288) (e : Fin 288) (gd : Fin 32) (pn : Fin 8) (b : Fin 8) (a2 : BitVec 2) (am : BitVec 4) (s : State),
    let u := Exe.cell q
    let c := s.core u
    s.eff q = some e.val ∧
    c.live = true ∧
    s.evt.inReset = false ∧
    gd.val ≠ 0 ∧
    s.bankOwner (e / 9) b = e % 9 ∧
    s.bankMode (e / 9) b ≠ 1) ∧
  (∃ (q : Fin 288) (e : Fin 288) (gd : Fin 32) (pn : Fin 8) (b : Fin 8) (a2 : BitVec 2) (am : BitVec 4) (s : State),
    let u := Exe.cell q
    let c := s.core u
    s.eff q = some e.val ∧
    c.live = true ∧
    s.evt.inReset = false ∧
    gd.val ≠ 0 ∧
    s.bankOwner (e / 9) b = e % 9 ∧
    s.bankMode (e / 9) b ≠ 2) ∧
  (∃ (q : Fin 288) (e : Fin 288) (gd : Fin 32) (pn : Fin 8) (b : Fin 8) (a2 : BitVec 2) (am : BitVec 4) (s : State),
    let u := Exe.cell q
    let c := s.core u
    let p := (c.p pn).toNat
    s.eff q = some e.val ∧
    c.live = true ∧
    s.evt.inReset = false ∧
    gd.val ≠ 0 ∧
    s.bankOwner (e / 9) b = e % 9 ∧
    ((s.bankMode (e / 9) b = 3 ∨ c.amoBusy b p = true))) ∧
  (∃ (q : Fin 288) (e : Fin 288) (gd : Fin 32) (pn : Fin 8) (b : Fin 8) (a2 : BitVec 2) (am : BitVec 4) (s : State),
    let u := Exe.cell q
    let c := s.core u
    s.eff q = some e.val ∧
    c.live = true ∧
    s.evt.inReset = false ∧
    gd.val ≠ 0) ∧
  (∃ (q : Fin 288) (e : Fin 288) (gd : Fin 32) (pn : Fin 8) (b : Fin 8) (a2 : BitVec 2) (am : BitVec 4) (s : State),
    let u := Exe.cell q
    let c := s.core u
    s.eff q = some e.val ∧
    c.live = true ∧
    s.evt.inReset = false ∧
    (c.rdG gd).faulty = false ∧
    s.bankOwner (e / 9) b ≠ e % 9) ∧
  (∃ (q : Fin 288) (e : Fin 288) (gd : Fin 32) (pn : Fin 8) (b : Fin 8) (a2 : BitVec 2) (am : BitVec 4) (s : State),
    let u := Exe.cell q
    let c := s.core u
    let p := (c.p pn).toNat
    s.eff q = some e.val ∧
    c.live = true ∧
    s.evt.inReset = false ∧
    (c.rdG gd).good = true ∧
    p / 16 % 1024 < (if (s.cell e).isS3 s.window then s.nEgr else s.nSrc) ∧
    s.writerOk ((s.cell e).isS3 s.window) (workOf e) (p / 16 % 1024) = false) :=
  ⟨⟨0, 0, 31, 0, 7, 3, 5, { (at0 (w up [(Reg.BANKCTL_OWNER 0 7, 0xF)]) ck) with mem := { up.mem with handover := [] } }, by decide +kernel⟩,
   ⟨0, 0, 31, 0, 7, 3, 5, { (at0 (w up [(Reg.BANKCTL_OWNER 0 7, 0), (Reg.BANKCTL_MODE 0 7, 0)]) ck) with mem := { up.mem with handover := [], sram := [] } }, by decide +kernel⟩,
   ⟨0, 0, 31, 0, 7, 3, 5, { (at0 (w up [(Reg.BANKCTL_OWNER 0 7, 0), (Reg.BANKCTL_MODE 0 7, 0)]) ck) with mem := { up.mem with handover := [], sram := [] } }, by decide +kernel⟩,
   ⟨0, 0, 31, 0, 7, 3, 5, { (at0 (w up [(Reg.BANKCTL_OWNER 0 7, 0), (Reg.BANKCTL_MODE 0 7, 3)]) ck) with mem := { up.mem with handover := [] } }, by decide +kernel⟩,
   ⟨0, 0, 31, 0, 7, 3, 5, at0 up ck, by decide +kernel⟩,
   ⟨0, 0, 1, 0, 7, 3, 5, { (at0 (w up [(Reg.BANKCTL_OWNER 0 7, 0xF)]) ck) with mem := { up.mem with handover := [] } }, by decide +kernel⟩,
   ⟨0, 0, 1, 0, 7, 3, 5, { (at0 (w up [(Reg.SRCW_KIND 1, 1)]) ck) with eng := { up.eng with past := [], degraded := [] } }, by decide +kernel⟩⟩

theorem test_wit_ParameterReads :
  (∃ (gd : Fin 32) (sr : Fin 8) (pn : Fin 8) (hold : Bool) (bad : Bool) (s : State) (q : Fin 288) (e : Fin 288),
    let u := Exe.cell q
    let c := s.core u
    let base := c.rdG (24 + sr)
    s.eff q = some e.val ∧
    c.live = true ∧
    base.ok = true ∧
    1 ≤ gd.val ∧
    gd.val ≤ 29) ∧
  (∃ (gd : Fin 32) (sr : Fin 8) (pn : Fin 8) (hold : Bool) (bad : Bool) (s : State) (q : Fin 288) (e : Fin 288),
    let u := Exe.cell q
    let c := s.core u
    let base := c.rdG (24 + sr)
    let pid := (base.data.toNat % 2 ^ 21 + (c.p pn).toNat / 16) % 2 ^ 21
    let f := s.workFrame ((s.cell e).isS3 s.window) ((c.p pn).toNat % 16) - 64
    s.eff q = some e.val ∧
    c.live = true ∧
    base.ok = true ∧
    (s.gys.chg.look [] pid).find? (fun x => decide (x.first ≤ f)) = none) ∧
  (∃ (gd : Fin 32) (sr : Fin 8) (pn : Fin 8) (hold : Bool) (bad : Bool) (s : State) (q : Fin 288) (e : Fin 288),
    let u := Exe.cell q
    let c := s.core u
    let base := c.rdG (24 + sr)
    s.eff q = some e.val ∧
    c.live = true ∧
    base.ok = true) ∧
  (∃ (gd : Fin 32) (sr : Fin 8) (pn : Fin 8) (hold : Bool) (bad : Bool) (s : State) (q : Fin 288) (e : Fin 288),
    let u := Exe.cell q
    let c := s.core u
    let base := c.rdG (24 + sr)
    s.eff q = some e.val ∧
    c.live = true ∧
    base.ok = false ∧
    1 ≤ gd.val ∧
    gd.val ≤ 29) ∧
  (∃ (gd : Fin 32) (sr : Fin 8) (pn : Fin 8) (hold : Bool) (bad : Bool) (s : State) (q : Fin 288) (e : Fin 288),
    let u := Exe.cell q
    let c := s.core u
    let base := c.rdG (24 + sr)
    s.eff q = some e.val ∧
    c.live = true ∧
    base.ok = false) ∧
  (∃ (gd : Fin 32) (sr : Fin 8) (pn : Fin 8) (hold : Bool) (bad : Bool) (s : State) (q : Fin 288) (e : Fin 288),
    let u := Exe.cell q
    let c := s.core u
    s.eff q = some e.val ∧
    c.live = true ∧
    (gd.val = 0 ∨ 29 < gd.val)) ∧
  (∃ (gd : Fin 32) (sr : Fin 8) (pn : Fin 8) (hold : Bool) (bad : Bool) (s : State),
    s.stw.core.live = true) :=
  ⟨⟨29, 7, 0, true, true, at0 up ck, 0, 0, by decide +kernel⟩,
   ⟨1, 7, 0, true, true, { (at0 up ck) with gys := Gys.reset }, 0, 0, by decide +kernel⟩,
   ⟨31, 7, 0, true, true, at0 up ck, 0, 0, by decide +kernel⟩,
   ⟨29, 6, 0, true, true, at0 up { ck with g := [(30, some ⟨1, 0, false⟩)] }, 0, 0, by decide +kernel⟩,
   ⟨1, 6, 0, true, true, at0 up { ck with g := [(30, some ⟨1, 0, false⟩)] }, 0, 0, by decide +kernel⟩,
   ⟨30, 6, 0, true, true, at0 up ck, 0, 0, by decide +kernel⟩,
   ⟨1, 6, 0, true, true, atS up ck, by decide +kernel⟩⟩

theorem test_wit_StewardAccesses :
  (∃ (g : Fin 32) (ga : Fin 32) (gs : Fin 32) (s : State),
    let a := 2 ^ 32 * s.stw.fah.toNat + (s.stw.core.rdG ga).data.toNat
    let c := s.stw.core
    s.stw.core.live = true ∧
    (c.rdG ga).ok = true ∧
    s.portIssues 0 = true ∧
    s.answeredAtOnce a 1 true true = none ∧
    (c.rdG gs).faulty = false) ∧
  (∃ (g : Fin 32) (ga : Fin 32) (gs : Fin 32) (s : State),
    let a := 2 ^ 32 * s.stw.fah.toNat + (s.stw.core.rdG ga).data.toNat
    let c := s.stw.core
    s.stw.core.live = true ∧
    (c.rdG ga).ok = true ∧
    s.portIssues 0 = true ∧
    s.answeredAtOnce a 1 true true = none ∧
    (c.rdG gs).faulty = true ∧
    s.stw.exl = false) ∧
  (∃ (g : Fin 32) (ga : Fin 32) (gs : Fin 32) (s : State),
    let a := 2 ^ 32 * s.stw.fah.toNat + (s.stw.core.rdG ga).data.toNat
    let c := s.stw.core
    s.stw.core.live = true ∧
    (c.rdG ga).ok = true ∧
    s.portIssues 0 = true ∧
    s.answeredAtOnce a 1 true true = none) ∧
  (∃ (g : Fin 32) (ga : Fin 32) (gs : Fin 32) (s : State),
    let c := s.stw.core
    s.stw.core.live = true ∧
    (c.rdG ga).ok = true ∧
    s.portIssues 0 = true) ∧
  (∃ (g : Fin 32) (ga : Fin 32) (gs : Fin 32) (s : State),
    let c := s.stw.core
    s.stw.core.live = true ∧
    (c.rdG ga).ok = false) :=
  ⟨⟨31, 1, 2, (fah0 { (atS (w up [(Reg.MGSTAT_FCLK_OK, 1), (Reg.FABMST_RESET 0, 0), (Reg.FABCFG_REMAP_NOW, 1)]) { ck with g := [(1, some (Sinter.ofData 8)), (2, some (Sinter.ofData 1)), (4, some ⟨1, 0, false⟩)] }) with pwr := pwrUp, clk := { up.clk with gated := [], gating := none } }), by decide +kernel⟩,
   ⟨0, 1, 4, (fah0 { (atS (w up [(Reg.MGSTAT_FCLK_OK, 1), (Reg.FABMST_RESET 0, 0), (Reg.FABCFG_REMAP_NOW, 1)]) { ck with g := [(1, some (Sinter.ofData 8)), (2, some (Sinter.ofData 1)), (4, some ⟨1, 0, false⟩)] }) with pwr := pwrUp, clk := { up.clk with gated := [], gating := none } }), by decide +kernel⟩,
   ⟨0, 1, 4, (fah0 { (atS (w up [(Reg.MGSTAT_FCLK_OK, 1), (Reg.FABMST_RESET 0, 0), (Reg.FABCFG_REMAP_NOW, 1)]) { ck with g := [(1, some (Sinter.ofData 8)), (2, some (Sinter.ofData 1)), (4, some ⟨1, 0, false⟩)] }) with pwr := pwrUp, clk := { up.clk with gated := [], gating := none } }), by decide +kernel⟩,
   ⟨1, 2, 2, atS up ck, by decide +kernel⟩,
   ⟨1, 4, 2, atS up ck, by decide +kernel⟩⟩

theorem test_wit_StewardRegistersAndJumps :
  (∃ (gd : Fin 32) (gs : Fin 32) (s : State),
    s.stw.core.live = true ∧
    (s.stw.core.rdG gs).ok = true) ∧
  (∃ (gd : Fin 32) (gs : Fin 32) (s : State) (k : BitVec 5),
    s.stw.core.live = true ∧
    9 < k.toNat) ∧
  (∃ (gd : Fin 32) (gs : Fin 32) (s : State) (k : BitVec 5),
    s.stw.core.live = true ∧
    s.stw.exl = false ∧
    k.toNat ≤ 9) ∧
  (∃ (gd : Fin 32) (gs : Fin 32) (s : State) (k : BitVec 5),
    s.stw.core.live = true ∧
    (s.stw.core.rdG gs).ok = false ∧
    k.toNat ≤ 9) ∧
  (∃ (gd : Fin 32) (gs : Fin 32) (s : State),
    s.stw.core.live = true) ∧
  (∃ (ga : Fin 32) (s : State),
    let c := s.stw.core
    s.stw.core.live = true ∧
    s.stw.core.atLoopEnd = false ∧
    (c.rdG ga).ok = true ∧
    c.stack.length < 8) ∧
  (∃ (ga : Fin 32) (s : State),
    let c := s.stw.core
    s.stw.core.live = true ∧
    s.stw.core.atLoopEnd = false ∧
    (c.rdG ga).ok = true) ∧
  (∃ (ga : Fin 32) (s : State),
    let c := s.stw.core
    s.stw.core.live = true ∧
    s.stw.core.atLoopEnd = false ∧
    (c.rdG ga).ok = false) ∧
  (∃ (ga : Fin 32) (s : State),
    let c := s.stw.core
    s.stw.core.live = true ∧
    s.stw.core.atLoopEnd = false ∧
    (c.rdG ga).ok = true ∧
    8 ≤ c.stack.length) ∧
  (∃ (ga : Fin 32) (s : State),
    s.stw.core.live = true ∧
    s.stw.core.atLoopEnd = false) ∧
  (∃ (ga : Fin 32) (s : State),
    s.stw.core.live = true ∧
    s.stw.core.atLoopEnd = true) ∧
  (∃ (s : State),
    (s.takesEvents = false ∨ s.evtPend = 0)) ∧
  (∃ (s : State) (v : Nat),
    s.takesEvents = true ∧
    v < 32 ∧
    s.evtPend.testBit v = true ∧
    ((∀ u < v, s.evtPend.testBit u = false))) :=
  ⟨⟨0, 1, atS up ck, by decide +kernel⟩,
   ⟨0, 4, atS up ck, 10, by decide +kernel⟩,
   ⟨31, 1, atS up ck, 0, by decide +kernel⟩,
   ⟨0, 4, atS up ck, 9, by decide +kernel⟩,
   ⟨31, 1, atS up ck, by decide +kernel⟩,
   ⟨1, atS up { ck with stack := List.replicate 7 1 }, by decide +kernel⟩,
   ⟨1, atS up ck, by decide +kernel⟩,
   ⟨4, atS up ck, by decide +kernel⟩,
   ⟨1, atS up { ck with stack := List.replicate 8 1 }, by decide +kernel⟩,
   ⟨31, atS up ck, by decide +kernel⟩,
   ⟨31, atS up { ck with loops := [⟨2, 5⟩] }, by decide +kernel⟩,
   ⟨up, by decide +kernel⟩,
   ⟨{ (w up [(Reg.EVTSTAT_STAT 7, 2 ^ 31), (Reg.EVTEN_EN 7, 2 ^ 31), (Reg.EVTROUTE_SEN 255, 1), (Reg.EVTROUTE_SVEC 255, 31)]) with stw := { Steward.reset with running := true, ie := true }, pwr := pwrUp, clk := { up.clk with gated := [], gating := none } }, 31, by decide +kernel⟩⟩

theorem test_wit_DebugControl :
  (∃ (s : State),
    s.stw.debug = true) ∧
  (∃ (s : State),
    s.bit Reg.DBGSTAT_DBG_DIS = false ∧
    s.bit Reg.DBGSTAT_OPEN = false) ∧
  (∃ (s : State) (m : Fin 8),
    m ≠ 4) ∧
  (∃ (s : State),
    s.stw.debug = false) ∧
  (∃ (s : State) (m : Fin 8),
    m ≠ 0) ∧
  (∃ (s : State) (m : Fin 8),
    m ≠ 0 ∧
    m ≠ 5) ∧
  (∃ (s : State),
    (s.bit Reg.DBGSTAT_DBG_DIS = true ∨ s.bit Reg.DBGSTAT_OPEN = true)) ∧
  (∃ (s : State) (m : Fin 8),
    m = 0 ∨ m = 5) :=
  ⟨⟨{ up with stw := { up.stw with debug := true } }, by decide +kernel⟩,
   ⟨(w up [(Reg.DBGSTAT_DBG_DIS, 0), (Reg.DBGSTAT_OPEN, 0)]), by decide +kernel⟩,
   ⟨up, 5, by decide +kernel⟩,
   ⟨up, by decide +kernel⟩,
   ⟨up, 7, by decide +kernel⟩,
   ⟨up, 7, by decide +kernel⟩,
   ⟨(w up [(Reg.DBGSTAT_DBG_DIS, 1)]), by decide +kernel⟩,
   ⟨up, 5, by decide +kernel⟩⟩

theorem test_wit_MatrixFrame :
  (∃ (j : Fin 16) (k : Nat) (b : Nat) (xs : List XpChange) (s : State),
    let c := xpCoef xs (16 * (s.window - 2) + j)
    let x := s.srcSample s.window k j
    2 ≤ s.window ∧
    k < s.nSrc ∧
    b < s.nBus ∧
    s.cal.xp = [(1024 * b + k, xs)] ∧
    s.cal.badXp = [] ∧
    ((∀ i, i < 4 → s.takesPart (islSlice i) s.window = true)) ∧
    ((∀ i, i < s.nBus → s.deepAt (s.window - 2) i = false ∧ s.getAt (s.window - 2) (Reg.CALBUS_PRESCALE i) < 5 ∧
      s.getAt (s.window - 2) (Reg.CALBUS_WIDE_OUT i) ≠ 1)) ∧
    xpPoison xs (16 * (s.window - 2) + j) = false ∧
    -2 ^ 31 ≤ c ∧
    c ≤ 2 ^ 31 ∧
    x.ok = true) ∧
  (∃ (j : Fin 16) (xp : BitVec 19) (b : Fin 512) (s : State),
    2 ≤ s.window ∧
    xp.toNat / 1024 < s.nBus ∧
    s.deepAt (s.window - 2) (xp.toNat / 1024) = false ∧
    xpCoef (s.cal.xp.look [] xp.toNat) (16 * (s.window - 2) + j) ≠ 0 ∧
    s.takesPart (islSlice (s.sliceOf (xp.toNat / 1024))) s.window = true) ∧
  (∃ (j : Fin 16) (xp : BitVec 19) (b : Fin 512) (s : State),
    2 ≤ s.window ∧
    xp.toNat / 1024 < s.nBus ∧
    s.deepAt (s.window - 2) (xp.toNat / 1024) = false) ∧
  (∃ (j : Fin 16) (xp : BitVec 19) (b : Fin 512) (s : State),
    2 ≤ s.window ∧
    b.val < s.nBus ∧
    s.deepAt (s.window - 2) b = false ∧
    s.cal.xp = [] ∧
    s.getAt (s.window - 2) (Reg.CALBUS_PRESCALE b) < 5 ∧
    s.takesPart (islSlice (s.sliceOf b)) s.window = true) ∧
  (∃ (j : Fin 16) (d : Option (BitVec 19)) (g : Option (BitVec 19)) (h : Option (Fin 512)) (s : State),
    s.window < 2) :=
  ⟨⟨15, 511, 255, [⟨0, 0, 2 ^ 31, 2 ^ 31, 0, 0, 0, 0, true, false⟩], { (w up [(Reg.SRCW_KIND 511, 1)]) with frame := 33, clk := Clk.reset, pwr := pwrUp, cal := { Cal.reset with xp := [(1024 * 255 + 511, [⟨0, 0, 2 ^ 31, 2 ^ 31, 0, 0, 0, 0, true, false⟩])] }, eng := { Eng.reset with src := [(slotKey 79 511, Sinter.ofData 0x7FFFFFFF)] } }, by decide +kernel⟩,
   ⟨15, 0x3FFFF, 0, { (w up []) with frame := 33, clk := Clk.reset, cal := { Cal.reset with xp := [(0x3FFFF, [⟨0, 0, 2 ^ 31, 2 ^ 31, 0, 0, 0, 0, true, false⟩])] } }, by decide +kernel⟩,
   ⟨15, 0, 0, { (w up [(Reg.SRCW_KIND 511, 1)]) with frame := 33, clk := Clk.reset, pwr := pwrUp, cal := { Cal.reset with xp := [(1024 * 255 + 511, [⟨0, 0, 2 ^ 31, 2 ^ 31, 0, 0, 0, 0, true, false⟩])] }, eng := { Eng.reset with src := [(slotKey 79 511, Sinter.ofData 0x7FFFFFFF)] } }, by decide +kernel⟩,
   ⟨15, 0, 255, { up with frame := 33, cal := { Cal.reset with xp := [] } }, by decide +kernel⟩,
   ⟨15, none, none, none, { up with frame := 16 }, by decide +kernel⟩⟩

theorem test_wit_CrosspointUpkeep :
  (∃ (xp : BitVec 19) (ok : Bool) (s : State),
    (ok = true ∨ s.xpExists xp.toNat = false)) ∧
  (∃ (xp : BitVec 19) (s : State),
    xp.toNat % 1024 < s.nSrc ∧
    xp.toNat / 1024 < s.nBus) ∧
  (∃ (xp : BitVec 19) (s : State),
    s.cal.badXp.look 0 xp.toNat = s.window ∧
    2 ≤ s.window) ∧
  (∃ (xp : BitVec 19) (s : State),
    (s.cal.badXp.look 0 xp.toNat ≠ s.window ∨ s.window < 2)) ∧
  (∃ (xp : BitVec 19) (x : XpChange) (rest : List XpChange) (s : State),
    s.cal.xp.look [] xp.toNat = x :: rest ∧
    s.frame < x.first + x.len - 1) ∧
  (∃ (xp : BitVec 19) (x : XpChange) (rest : List XpChange) (s : State),
    s.cal.xp.look [] xp.toNat = x :: rest ∧
    x.first + x.len - 1 ≤ s.frame) ∧
  (∃ (b : Fin 512) (j : Fin 16) (s : State),
    let part := s.takesPart (islSlice (s.sliceOf b)) s.window
    3 ≤ s.window ∧
    s.deepAt (s.window - 3) b = true ∧
    b.val < s.nBus ∧
    part = false) ∧
  (∃ (b : Fin 512) (j : Fin 16) (s : State),
    let n := 16 * (s.window + 1) + j.val
    let part := s.takesPart (islSlice (s.sliceOf b)) s.window
    3 ≤ s.window ∧
    s.deepAt (s.window - 3) b = true ∧
    b.val < s.nBus ∧
    part = true ∧
    s.wideSum n (s.getAt (s.window - 3) (Reg.CALBUS_WIDE_CHAN b)) = none) ∧
  (∃ (b : Fin 512) (j : Fin 16) (s : State) (x : Int) (r : Nat),
    let n := 16 * (s.window + 1) + j.val
    let a := s.cal.held.look Acc.zero (slotKey n b)
    let k := s.getAt (s.window - 3) (Reg.CALBUS_PRESCALE b)
    let part := s.takesPart (islSlice (s.sliceOf b)) s.window
    3 ≤ s.window ∧
    s.deepAt (s.window - 3) b = true ∧
    b.val < s.nBus ∧
    part = true ∧
    k < 5 ∧
    s.wideSum n (s.getAt (s.window - 3) (Reg.CALBUS_WIDE_CHAN b)) = some (x, r) ∧
    a.psn = false ∧
    a.res = residueInt a.val.toInt ∧
    (r : Int) % 127 = x % 127 ∧
    min72 ≤ a.val.toInt + x ∧
    a.val.toInt + x ≤ max72) ∧
  (∃ (b : Fin 512) (j : Fin 16) (s : State),
    (s.window < 3 ∨ s.deepAt (s.window - 3) b = false ∨ s.nBus ≤ b.val)) :=
  ⟨⟨0x3FFFF, true, up, by decide +kernel⟩,
   ⟨0x7FFFF, { up with frame := 33, cal := { Cal.reset with badXp := [(0x7FFFF, 2)] } }, by decide +kernel⟩,
   ⟨0x7FFFF, { up with frame := 33, cal := { Cal.reset with badXp := [(0x7FFFF, 2)] } }, by decide +kernel⟩,
   ⟨0x3FFFF, { up with frame := 33 }, by decide +kernel⟩,
   ⟨0x7FFFF, ⟨2, 0, 5, 5, 1, 64, 64, 0, false, false⟩, [], { up with frame := 64, cal := { Cal.reset with xp := [(0x7FFFF, [⟨2, 0, 5, 5, 1, 64, 64, 0, false, false⟩])] } }, by decide +kernel⟩,
   ⟨0x7FFFF, ⟨1, 0, 5, 5, 1, 64, 64, 0, false, false⟩, [], { up with frame := 64, cal := { Cal.reset with xp := [(0x7FFFF, [⟨1, 0, 5, 5, 1, 64, 64, 0, false, false⟩])] } }, by decide +kernel⟩,
   ⟨255, 15, { (w up [(Reg.CALBUS_WIDE_IN 255, 1)]) with frame := 49, eng := Eng.reset, clk := { up.clk with gated := (List.range 16).map islSlice } }, by decide +kernel⟩,
   ⟨255, 15, { (w up [(Reg.CALBUS_WIDE_IN 255, 1), (Reg.CALBUS_PRESCALE 255, 0), (Reg.CALBUS_WIDE_OUT 255, 0), (Reg.CALBUS_WIDE_CHAN 255, 31)]) with frame := 49, eng := Eng.reset }, by decide +kernel⟩,
   ⟨255, 15, { (w up [(Reg.CALBUS_WIDE_IN 255, 1), (Reg.CALBUS_PRESCALE 255, 0), (Reg.CALBUS_WIDE_OUT 255, 0), (Reg.CALBUS_WIDE_CHAN 255, 31)]) with frame := 49, cal := Cal.reset, eng := { Eng.reset with wideIn := [(slotKey 79 62, some Sinter.zero), (slotKey 79 63, some (Sinter.ofData 1))] } }, 2 ^ 24, 8, by decide +kernel⟩,
   ⟨255, 15, { up with frame := 49, eng := Eng.reset }, by decide +kernel⟩⟩

theorem test_wit_Overlays :
  (∃ (n : Fin 256) (s : State),
    s.gys.locks.look 0 n = 0 ∧
    s.get (Reg.OVL_STATE n) ≠ 1) ∧
  (∃ (n : Fin 256) (s : State),
    s.gys.locks.look 0 n = 0) ∧
  (∃ (n : Fin 256) (s : State),
    s.gys.locks.look 0 n ≠ 0) ∧
  (∃ (n : Fin 256) (s : State),
    s.get (Reg.OVL_STATE n) = 1) ∧
  (∃ (n : Fin 256) (bad : List (BitVec 20)) (s : State),
    (s.gys.loadq.head? ≠ some n.val ∨ s.gys.ovl.look none n = none)) ∧
  (∃ (n : Fin 256) (o : OvlLatch) (bad : List (BitVec 20)) (s : State),
    s.gys.ovl.look none n = some o ∧
    s.gys.loadq.head? = some n.val ∧
    o.loc = true) ∧
  (∃ (n : Fin 256) (o : OvlLatch) (bad : List (BitVec 20)) (s : State),
    let r := if o.modified then 7 else if s.ovlFrame n o ≠ 0 then s.ovlFrame n o else s.ovlEntries o o.count 0 none
    s.gys.ovl.look none n = some o ∧
    s.gys.loadq.head? = some n.val ∧
    o.loc = false ∧
    s.evt.inReset = false ∧
    r = 0) ∧
  (∃ (n : Fin 256) (o : OvlLatch) (bad : List (BitVec 20)) (s : State),
    let r := if o.modified then 7 else if s.ovlFrame n o ≠ 0 then s.ovlFrame n o else s.ovlEntries o o.count 0 none
    s.gys.ovl.look none n = some o ∧
    s.gys.loadq.head? = some n.val ∧
    o.loc = false ∧
    s.evt.inReset = false ∧
    r ≠ 0) :=
  ⟨⟨255, { (w up [(Reg.OVL_STATE 255, 2)]) with gys := Gys.reset }, by decide +kernel⟩,
   ⟨255, { up with gys := Gys.reset }, by decide +kernel⟩,
   ⟨255, { up with gys := { Gys.reset with locks := [(255, 1)] } }, by decide +kernel⟩,
   ⟨255, (w up [(Reg.OVL_STATE 255, 1)]), by decide +kernel⟩,
   ⟨255, [], up, by decide +kernel⟩,
   ⟨255, ⟨0, 0, true, 0, false⟩, [], { up with gys := { Gys.reset with ovl := [(255, some ⟨0, 0, true, 0, false⟩)], loadq := [255] } }, by decide +kernel⟩,
   ⟨255, ⟨0x7FFFF4, 1, false, 0, false⟩, [], { up with gys := { Gys.reset with ovl := [(255, some ⟨0x7FFFF4, 1, false, 0, false⟩)], loadq := [255] }, mem := { up.mem with sram := [] } }, by decide +kernel⟩,
   ⟨255, ⟨0, 0, false, 0, false⟩, [], { up with gys := { Gys.reset with ovl := [(255, some ⟨0, 0, false, 0, false⟩)], loadq := [255] } }, by decide +kernel⟩⟩

theorem test_wit_CommitsAndEffect :
  (∃ (n : Fin 4) (s : State),
    s.cmtBusy n = true) ∧
  (∃ (n : Fin 4) (s : State),
    s.cmtBusy n = false ∧
    s.get Reg.PWRSTAT_STATE ≠ 0 ∧
    s.evt.inReset = false) ∧
  (∃ (n : Fin 4) (s : State),
    s.cmtBusy n = false ∧
    s.get Reg.PWRSTAT_STATE = 0 ∧
    (s.bit (Reg.GYSCMT_CASC n) && s.isMaster) = false) ∧
  (∃ (n : Fin 4) (s : State),
    s.cmtState n = 1 ∨ (s.cmtState n = 2 ∧ s.frame < 16 * ((s.commitOf n).f / 16))) ∧
  (∃ (n : Fin 4) (s : State),
    s.cmtState n ≠ 1 ∧
    (¬(s.cmtState n = 2 ∧ s.frame < 16 * ((s.commitOf n).f / 16)))) ∧
  (∃ (n : Fin 4) (s : State),
    s.gys.prepq.head? ≠ some n.val) ∧
  (∃ (n : Fin 4) (s : State),
    let c := s.commitOf n
    let fits := 1 ≤ c.novl ∧ c.novl ≤ 8
    s.gys.prepq.head? = some n.val ∧
    ¬fits) ∧
  (∃ (n : Fin 4) (s : State),
    let c := s.commitOf n
    let fits := 1 ≤ c.novl ∧ c.novl ≤ 8
    let valid := ∀ o ∈ c.list, s.get (Reg.OVL_STATE o) = 2
    s.gys.prepq.head? = some n.val ∧
    fits ∧
    ¬valid) ∧
  (∃ (n : Fin 4) (s : State),
    let c := s.commitOf n
    let fits := 1 ≤ c.novl ∧ c.novl ≤ 8
    let valid := ∀ o ∈ c.list, s.get (Reg.OVL_STATE o) = 2
    let guarded := ∃ e ∈ s.resolve c.list, isGuard e.pid = true
    s.gys.prepq.head? = some n.val ∧
    fits ∧
    valid ∧
    s.locked = true ∧
    guarded) ∧
  (∃ (n : Fin 4) (s : State),
    let c := s.commitOf n
    let fits := 1 ≤ c.novl ∧ c.novl ≤ 8
    let valid := ∀ o ∈ c.list, s.get (Reg.OVL_STATE o) = 2
    let guarded := ∃ e ∈ s.resolve c.list, isGuard e.pid = true
    s.gys.prepq.head? = some n.val ∧
    fits ∧
    valid ∧
    ((s.locked = true → ¬guarded)) ∧
    s.get Reg.GYSSTAT_FREE_RAMPS < ((s.resolve c.list).filter Entry.needsSlot).length) ∧
  (∃ (n : Fin 4) (s : State),
    s.gys.prepq.head? = some n.val ∧
    1 ≤ (s.commitOf n).novl ∧
    (s.commitOf n).novl ≤ 8 ∧
    ((∀ o ∈ (s.commitOf n).list, s.get (Reg.OVL_STATE o) = 2)) ∧
    ((s.locked = true → ∀ e ∈ s.resolve (s.commitOf n).list, isGuard e.pid = false)) ∧
    ((s.resolve (s.commitOf n).list).filter Entry.needsSlot).length ≤ s.get Reg.GYSSTAT_FREE_RAMPS ∧
    (s.commitOf n).casc = false ∧
    16 * ((s.commitOf n).t / 16) ≤ s.frame ∧
    s.evt.inReset = false) ∧
  (∃ (n : Fin 4) (s : State),
    s.gys.prepq.head? = some n.val ∧
    1 ≤ (s.commitOf n).novl ∧
    (s.commitOf n).novl ≤ 8 ∧
    ((∀ o ∈ (s.commitOf n).list, s.get (Reg.OVL_STATE o) = 2)) ∧
    ((s.locked = true → ∀ e ∈ s.resolve (s.commitOf n).list, isGuard e.pid = false)) ∧
    ((s.resolve (s.commitOf n).list).filter Entry.needsSlot).length ≤ s.get Reg.GYSSTAT_FREE_RAMPS ∧
    (((s.commitOf n).casc = true ∨ s.frame < 16 * ((s.commitOf n).t / 16))) ∧
    s.evt.inReset = false) ∧
  (∃ (n : Fin 4) (s : State),
    (s.cmtState n ≠ 2 ∨ s.frame < (s.commitOf n).f ∨ s.cmtBehind n = true ∨
      ((s.commitOf n).casc = true ∧ (s.commitOf n).confirmed = false))) ∧
  (∃ (n : Fin 4) (s : State),
    s.cmtState n = 2 ∧
    (s.commitOf n).f ≤ s.frame ∧
    s.cmtBehind n = false ∧
    s.evt.inReset = false ∧
    (s.commitOf n).casc = true ∧
    (s.commitOf n).confirmed = true ∧
    (s.commitOf n).f < s.frame) ∧
  (∃ (n : Fin 4) (s : State),
    s.cmtState n = 2 ∧
    (s.commitOf n).f ≤ s.frame ∧
    s.cmtBehind n = false ∧
    s.evt.inReset = false ∧
    (s.commitOf n).casc = false ∧
    s.locked = true ∧
    ((∃ e ∈ (s.commitOf n).entries, isGuard e.pid = true))) ∧
  (∃ (n : Fin 4) (s : State),
    s.cmtState n = 2 ∧
    (s.commitOf n).f ≤ s.frame ∧
    s.cmtBehind n = false ∧
    s.gys.bad = none ∧
    (((s.commitOf n).casc = false ∨ ((s.commitOf n).confirmed = true ∧ s.frame = (s.commitOf n).f))) ∧
    ((∀ e ∈ (s.commitOf n).entries, e.pid < 0x100000 ∧ e.law = 0 ∧ e.subst = false ∧ e.cls ≠ 2 ∧
      s.gys.dwAt.contains e.pid = false ∧ ∀ x ∈ s.gys.chg.look [] e.pid, x.first ≤ (s.commitOf n).f)) ∧
    ((s.commitOf n).entries.map Entry.pid).Nodup ∧
    s.evt.inReset = false) ∧
  (∃ (n : Fin 4) (s : State),
    (s.gys.foldq.head? ≠ some n.val ∨ s.frame < 16 * ((s.commitOf n).f / 16 + 4) + 1 ∨ (s.commitOf n).folding = true)) ∧
  (∃ (n : Fin 4) (s : State),
    ((s.commitOf n).folding = false ∨ (s.commitOf n).folded = true)) ∧
  (∃ (n : Fin 4) (s : State),
    (s.cmtState n ≠ 3 ∨ (s.commitOf n).folded = false ∨ ∃ e ∈ (s.commitOf n).entries, s.xpOpen n e = true ∨ s.slotOpen n e = true)) ∧
  (∃ (n : Fin 4) (s : State),
    s.gys.foldq.head? = some n.val ∧
    16 * ((s.commitOf n).f / 16 + 4) + 1 ≤ s.frame ∧
    (s.commitOf n).folding = false) ∧
  (∃ (n : Fin 4) (s : State),
    (s.commitOf n).folding = true ∧
    (s.commitOf n).folded = false ∧
    ((s.commitOf n).entries.map Entry.pid).Nodup) ∧
  (∃ (n : Fin 4) (s : State),
    s.cmtState n = 3 ∧
    (s.commitOf n).folded = true ∧
    ((∀ e ∈ (s.commitOf n).entries, s.xpOpen n e = false ∧ s.slotOpen n e = false)) ∧
    s.evt.inReset = false) ∧
  (∃ (pid : BitVec 21) (c : Change) (rest : List Change) (s : State),
    s.gys.chg.look [] pid.toNat = c :: rest ∧
    s.frame < c.first + c.len - 1) ∧
  (∃ (pid : BitVec 21) (c : Change) (rest : List Change) (s : State),
    s.gys.chg.look [] pid.toNat = c :: rest ∧
    c.first + c.len - 1 ≤ s.frame) :=
  ⟨⟨3, (w up [(Reg.GYSCMT_STATE 3, 3)]), by decide +kernel⟩,
   ⟨3, (w up [(Reg.GYSCMT_STATE 3, 4), (Reg.PWRSTAT_STATE, 1)]), by decide +kernel⟩,
   ⟨3, (w up [(Reg.GYSCMT_STATE 3, 0), (Reg.PWRSTAT_STATE, 0), (Reg.GYSCMT_CASC 3, 0), (Reg.GYSCMT_NOVL 3, 8)]), by decide +kernel⟩,
   ⟨3, { (w up [(Reg.GYSCMT_STATE 3, 2)]) with gys := { Gys.reset with commits := [(3, some ⟨0, 0, [], [1], false, [], 0, up.frame + 17, false, false, false, [], 0, false⟩)] } }, by decide +kernel⟩,
   ⟨3, { (w up [(Reg.GYSCMT_STATE 3, 2)]) with gys := { Gys.reset with commits := [(3, some ⟨0, 0, [], [1], false, [], 0, 96, false, false, false, [], 0, false⟩)] } }, by decide +kernel⟩,
   ⟨3, { (w up [(Reg.GYSCMT_STATE 3, 1)]) with gys := { Gys.reset with commits := [(3, some ⟨0, 0, [], [], false, [], 0, 0, false, false, false, [], 0, false⟩)], prepq := [2, 3] } }, by decide +kernel⟩,
   ⟨3, { (w up [(Reg.GYSCMT_STATE 3, 1)]) with gys := { Gys.reset with commits := [(3, some ⟨0, 0, [], [], false, [], 0, 0, false, false, false, [], 0, false⟩)], prepq := [3] } }, by decide +kernel⟩,
   ⟨3, { (w up [(Reg.GYSCMT_STATE 3, 1), (Reg.OVL_STATE 255, 1)]) with gys := { Gys.reset with commits := [(3, some ⟨0, 8, [255], [255], false, [], 0, 0, false, false, false, [], 0, false⟩)], prepq := [3] } }, by decide +kernel⟩,
   ⟨3, { (w up [(Reg.GYSCMT_STATE 3, 1), (Reg.OVL_STATE 255, 2), (Reg.FUMLOCK_CLOSED, 1)]) with gys := { Gys.reset with commits := [(3, some ⟨0, 8, [255], [255], false, [], 0, 0, false, false, false, [], 0, false⟩)], prepq := [3], ovl := [(255, some ⟨0, 1, true, 0, false⟩)], locks := [(255, 1)] }, mem := { up.mem with sram := [(arenaKey 0, Sinter.ofData 0x1C0000)] } }, by decide +kernel⟩,
   ⟨3, { (w up [(Reg.GYSCMT_STATE 3, 1), (Reg.OVL_STATE 255, 2), (Reg.FUMLOCK_CLOSED, 0), (Reg.GYSSTAT_FREE_RAMPS, 0), (gysClassFld 0, 1)]) with gys := { Gys.reset with commits := [(3, some ⟨0, 8, [255], [255], false, [], 0, 0, false, false, false, [], 0, false⟩)], prepq := [3], ovl := [(255, some ⟨0, 1, true, 0, false⟩)], locks := [(255, 1)] }, mem := { up.mem with sram := [(arenaKey 8, Sinter.ofData 0x10040)] } }, by decide +kernel⟩,
   ⟨3, { (w up [(Reg.GYSCMT_STATE 3, 1), (Reg.OVL_STATE 255, 2), (Reg.FUMLOCK_CLOSED, 0), (Reg.GYSSTAT_FREE_RAMPS, 0)]) with gys := { Gys.reset with commits := [(3, some ⟨96, 8, [255], [255], false, [], 0, 0, false, false, false, [], 0, false⟩)], prepq := [3], ovl := [(255, some ⟨0, 1, true, 0, false⟩)], locks := [(255, 1)] }, mem := { up.mem with sram := [] } }, by decide +kernel⟩,
   ⟨3, { (w up [(Reg.GYSCMT_STATE 3, 1), (Reg.OVL_STATE 255, 2), (Reg.FUMLOCK_CLOSED, 0), (Reg.GYSSTAT_FREE_RAMPS, 0)]) with gys := { Gys.reset with commits := [(3, some ⟨up.frame + 16, 8, [255], [255], false, [], 0, 0, false, false, false, [], 0, false⟩)], prepq := [3], ovl := [(255, some ⟨0, 1, true, 0, false⟩)], locks := [(255, 1)] }, mem := { up.mem with sram := [] } }, by decide +kernel⟩,
   ⟨3, { (w up [(Reg.GYSCMT_STATE 3, 2)]) with gys := { Gys.reset with commits := [(3, some ⟨0, 0, [], [], false, [⟨0xFFFFF, Sinter.ofData 5, 0, 0, 0, false⟩], 0, 97, false, false, false, [], 0, false⟩)] }, frame := 96 }, by decide +kernel⟩,
   ⟨3, { (w up [(Reg.GYSCMT_STATE 3, 2)]) with gys := { Gys.reset with commits := [(3, some ⟨0, 0, [], [], true, [⟨0xFFFFF, Sinter.ofData 5, 0, 0, 0, false⟩], 0, 96, true, false, false, [], 0, false⟩)] }, frame := 97 }, by decide +kernel⟩,
   ⟨3, { (w up [(Reg.GYSCMT_STATE 3, 2), (Reg.FUMLOCK_CLOSED, 1)]) with gys := { Gys.reset with commits := [(3, some ⟨0, 0, [], [], false, [⟨0x1C0000, Sinter.ofData 5, 0, 0, 0, false⟩], 0, 96, false, false, false, [], 0, false⟩)] }, frame := 96 }, by decide +kernel⟩,
   ⟨3, { (w up [(Reg.GYSCMT_STATE 3, 2), (Reg.FUMLOCK_CLOSED, 0)]) with gys := { Gys.reset with commits := [(3, some ⟨0, 0, [], [], false, [⟨0xFFFFF, Sinter.ofData 5, 0, 0, 0, false⟩], 0, 96, false, false, false, [], 0, false⟩)] }, frame := 96 }, by decide +kernel⟩,
   ⟨3, { (w up [(Reg.GYSCMT_STATE 3, 3)]) with gys := { Gys.reset with commits := [(3, some ⟨0, 0, [], [], false, [], 0, 31, false, false, false, [], 0, false⟩)], foldq := [3] }, frame := 80 }, by decide +kernel⟩,
   ⟨3, { (w up [(Reg.GYSCMT_STATE 3, 3)]) with gys := { Gys.reset with commits := [(3, some ⟨0, 0, [], [], false, [⟨0xFFFFF, Sinter.ofData 5, 0, 0, 0, false⟩], 0, 31, false, true, true, [], 0, false⟩)] } }, by decide +kernel⟩,
   ⟨3, { (w up [(Reg.GYSCMT_STATE 3, 3)]) with gys := { Gys.reset with commits := [(3, some ⟨0, 0, [], [], false, [⟨0xFFFFF, Sinter.ofData 5, 0, 0, 0, false⟩], 0, 31, false, false, false, [], 0, false⟩)] } }, by decide +kernel⟩,
   ⟨3, { (w up [(Reg.GYSCMT_STATE 3, 3)]) with gys := { Gys.reset with commits := [(3, some ⟨0, 0, [], [], false, [], 0, 31, false, false, false, [], 0, false⟩)], foldq := [3] }, frame := 81 }, by decide +kernel⟩,
   ⟨3, { (w up [(Reg.GYSCMT_STATE 3, 3)]) with gys := { Gys.reset with commits := [(3, some ⟨0, 0, [], [], false, [⟨0xFFFFF, Sinter.ofData 5, 0, 0, 0, false⟩], 0, 31, false, true, false, [], 0, false⟩)] } }, by decide +kernel⟩,
   ⟨3, { (w up [(Reg.GYSCMT_STATE 3, 3)]) with gys := { Gys.reset with commits := [(3, some ⟨0, 0, [], [1], false, [⟨0xFFFFF, Sinter.ofData 5, 0, 0, 0, false⟩], 0, 0, false, false, true, [], 0, false⟩)] } }, by decide +kernel⟩,
   ⟨0x1FFFFF, ⟨96, Sinter.zero, Sinter.ofData 1, 1, 7, 0, true, false, 1⟩, [], { up with frame := 101, gys := { Gys.reset with chg := [(0x1FFFFF, [⟨96, Sinter.zero, Sinter.ofData 1, 1, 7, 0, true, false, 1⟩])] } }, by decide +kernel⟩,
   ⟨0x1FFFFF, ⟨96, Sinter.zero, Sinter.ofData 1, 1, 6, 0, true, false, 1⟩, [], { up with frame := 101, gys := { Gys.reset with chg := [(0x1FFFFF, [⟨96, Sinter.zero, Sinter.ofData 1, 1, 6, 0, true, false, 1⟩])] } }, by decide +kernel⟩⟩

theorem test_wit_DirectWrites :
  (∃ (pid : BitVec 21) (x : Sinter) (s : State),
    (isGuard pid.toNat && s.locked) = false ∧
    s.gys.dwCount < 8192 ∧
    ((s.pidClass pid.toNat = 2 → x.ok = true → codeValid (codeOf x.data) = true))) ∧
  (∃ (pid : BitVec 21) (x : Sinter) (s : State),
    (isGuard pid.toNat && s.locked) = false ∧
    s.gys.dwCount < 8192 ∧
    s.pidClass pid.toNat = 2 ∧
    x.ok = true ∧
    codeValid (codeOf x.data) = false) ∧
  (∃ (pid : BitVec 21) (x : Sinter) (s : State),
    (isGuard pid.toNat && s.locked) = false ∧
    8192 ≤ s.gys.dwCount) ∧
  (∃ (pid : BitVec 21) (x : Sinter) (s : State),
    (isGuard pid.toNat && s.locked) = true) ∧
  (∃ (d : DirectWrite) (rest : List DirectWrite) (s : State),
    s.gys.dwHeld = d :: rest ∧
    s.gys.dwCount < 8192 ∧
    s.fab.waits = [] ∧
    ((s.pidClass d.pid = 2 → d.val.ok = true → codeValid (codeOf d.val.data) = true))) ∧
  (∃ (s : State),
    (s.gys.dwHeld = [] ∨ 8192 ≤ s.gys.dwCount)) :=
  ⟨⟨0x1CFFFF, Sinter.ofData 1, { (w up [(Reg.FUMLOCK_CLOSED, 0)]) with gys := { Gys.reset with dwCount := 8191 } }, by decide +kernel⟩,
   ⟨5, Sinter.ofData 0x7FFFFF, { (w up [(Reg.FUMLOCK_CLOSED, 0), (gysClassFld 0, 2)]) with gys := { Gys.reset with dwCount := 8191 } }, by decide +kernel⟩,
   ⟨0, Sinter.ofData 1, { up with gys := { Gys.reset with dwCount := 8192 } }, by decide +kernel⟩,
   ⟨0x1C0000, Sinter.ofData 1, (w up [(Reg.FUMLOCK_CLOSED, 1)]), by decide +kernel⟩,
   ⟨⟨5, Sinter.zero, 0⟩, [], { up with gys := { Gys.reset with dwHeld := [⟨5, Sinter.zero, 0⟩] } }, by decide +kernel⟩,
   ⟨{ up with gys := { Gys.reset with dwHeld := [⟨5, Sinter.zero, 0⟩], dwCount := 8192 } }, by decide +kernel⟩⟩

theorem test_wit_CascadeCommits :
  (∃ (n : Fin 4) (s : State),
    let d := cascD (s.get (Reg.GYSCMT_T_LO n) + 2 ^ 32 * s.get (Reg.GYSCMT_T_HI n))
    s.cmtBusy n = false ∧
    s.get Reg.PWRSTAT_STATE = 0 ∧
    s.bit (Reg.GYSCMT_CASC n) = true ∧
    s.isMaster = true ∧
    s.evt.inReset = false ∧
    s.frame ≤ d) ∧
  (∃ (n : Fin 4) (s : State),
    let d := cascD (s.get (Reg.GYSCMT_T_LO n) + 2 ^ 32 * s.get (Reg.GYSCMT_T_HI n))
    s.cmtBusy n = false ∧
    s.get Reg.PWRSTAT_STATE = 0 ∧
    s.bit (Reg.GYSCMT_CASC n) = true ∧
    s.isMaster = true ∧
    s.evt.inReset = false ∧
    d < s.frame) ∧
  (∃ (n : Fin 4) (tm : BitVec 64) (nv : Fin 16) (a : BitVec 32) (b : BitVec 32) (s : State),
    s.cmtBusy n = false) ∧
  (∃ (n : Fin 4) (tm : BitVec 64) (nv : Fin 16) (a : BitVec 32) (b : BitVec 32) (s : State),
    s.cmtBusy n = true) ∧
  (∃ (chip : Fin 8) (n : Fin 4) (code : Fin 16) (s : State),
    s.isMaster = true ∧
    s.get Reg.GYSCASC_SLOT = n.val) ∧
  (∃ (chip : Fin 8) (n : Fin 4) (code : Fin 16) (s : State),
    (s.isMaster = false ∨ s.get Reg.GYSCASC_SLOT ≠ n.val)) ∧
  (∃ (n : Fin 4) (s : State),
    let c := s.commitOf n
    let all := s.get Reg.GYSCASC_READY &&& s.cascadeMask = s.cascadeMask ∧ s.cmtState n = 2 ∧ s.frame < 16 * (c.t / 16)
    s.evt.inReset = false ∧
    s.isMaster = true ∧
    c.casc = true ∧
    c.decided = false ∧
    cascD c.t ≤ s.frame ∧
    all) ∧
  (∃ (n : Fin 4) (s : State),
    let c := s.commitOf n
    let all := s.get Reg.GYSCASC_READY &&& s.cascadeMask = s.cascadeMask ∧ s.cmtState n = 2 ∧ s.frame < 16 * (c.t / 16)
    s.evt.inReset = false ∧
    s.isMaster = true ∧
    c.casc = true ∧
    c.decided = false ∧
    cascD c.t ≤ s.frame ∧
    ¬all) ∧
  (∃ (n : Fin 4) (s : State),
    let c := s.commitOf n
    s.evt.inReset = false ∧
    ((s.isMaster = false ∨ c.casc = false ∨ c.decided = true ∨ s.frame < cascD c.t))) ∧
  (∃ (n : Fin 4) (s : State),
    let c := s.commitOf n
    let counts := s.cmtState n = 2 ∧ c.casc = true ∧ s.frame < 16 * (c.t / 16)
    counts) ∧
  (∃ (n : Fin 4) (s : State),
    let c := s.commitOf n
    let counts := s.cmtState n = 2 ∧ c.casc = true ∧ s.frame < 16 * (c.t / 16)
    ¬counts) ∧
  (∃ (n : Fin 4) (s : State),
    s.evt.inReset = false ∧
    s.gys.busy.contains n.val = true) ∧
  (∃ (n : Fin 4) (s : State),
    let c := s.commitOf n
    let holds := c.casc = true ∧ (s.cmtState n = 1 ∨ s.cmtState n = 2 ∨ s.cmtState n = 5 ∨
      (s.cmtState n = 6 ∧ s.get (Reg.GYSCMT_RESULT n) ≠ 5))
    s.evt.inReset = false ∧
    s.gys.busy.contains n.val = false ∧
    holds) ∧
  (∃ (n : Fin 4) (s : State),
    let c := s.commitOf n
    let holds := c.casc = true ∧ (s.cmtState n = 1 ∨ s.cmtState n = 2 ∨ s.cmtState n = 5 ∨
      (s.cmtState n = 6 ∧ s.get (Reg.GYSCMT_RESULT n) ≠ 5))
    s.evt.inReset = false ∧
    s.gys.busy.contains n.val = false ∧
    ¬holds) ∧
  (∃ (n : Fin 4) (s : State),
    let c := s.commitOf n
    let late := c.casc = true ∧ c.confirmed = false ∧ (s.cmtState n = 1 ∨ s.cmtState n = 2) ∧ 16 * (c.t / 16) ≤ s.frame
    s.evt.inReset = false ∧
    late) ∧
  (∃ (n : Fin 4) (s : State),
    let c := s.commitOf n
    let late := c.casc = true ∧ c.confirmed = false ∧ (s.cmtState n = 1 ∨ s.cmtState n = 2) ∧ 16 * (c.t / 16) ≤ s.frame
    s.evt.inReset = false ∧
    ¬late) :=
  ⟨⟨3, { (w up [(Reg.GYSCMT_CASC 3, 1), (Reg.LNKCASCSTAT_ID, 0), (Reg.GYSCMT_T_LO 3, 4096)]) with gys := Gys.reset }, by decide +kernel⟩,
   ⟨3, { (w up [(Reg.GYSCMT_CASC 3, 1), (Reg.LNKCASCSTAT_ID, 0), (Reg.GYSCMT_T_LO 3, 0)]) with gys := Gys.reset }, by decide +kernel⟩,
   ⟨3, 2 ^ 63, 8, 0x03020100, 0x07060504, (w up [(Reg.GYSCMT_STATE 3, 6)]), by decide +kernel⟩,
   ⟨3, 2 ^ 63, 8, 0x03020100, 0x07060504, (w up [(Reg.GYSCMT_STATE 3, 2)]), by decide +kernel⟩,
   ⟨7, 3, 0, (w up [(Reg.GYSCASC_SLOT, 3), (Reg.LNKCASCSTAT_ID, 0)]), by decide +kernel⟩,
   ⟨7, 3, 0, (w up [(Reg.GYSCASC_SLOT, 2), (Reg.LNKCASCSTAT_ID, 0)]), by decide +kernel⟩,
   ⟨3, { (w up [(Reg.GYSCMT_STATE 3, 2), (Reg.LNKCASCSTAT_ID, 0), (Reg.GYSCASC_READY, 0xFF), (Reg.LNKCASC_NCHIPS, 7)]) with gys := { Gys.reset with commits := [(3, some ⟨112, 0, [], [], true, [], 0, 0, false, false, false, [], 0, false⟩)] }, frame := 96 }, by decide +kernel⟩,
   ⟨3, { (w up [(Reg.GYSCMT_STATE 3, 2), (Reg.LNKCASCSTAT_ID, 0), (Reg.GYSCASC_READY, 0x7F), (Reg.LNKCASC_NCHIPS, 7)]) with gys := { Gys.reset with commits := [(3, some ⟨112, 0, [], [], true, [], 0, 0, false, false, false, [], 0, false⟩)] }, frame := 96 }, by decide +kernel⟩,
   ⟨3, { (w up [(Reg.GYSCMT_STATE 3, 2), (Reg.LNKCASCSTAT_ID, 0), (Reg.GYSCASC_READY, 0xFF), (Reg.LNKCASC_NCHIPS, 7)]) with gys := { Gys.reset with commits := [(3, some ⟨112, 0, [], [], true, [], 0, 0, false, false, false, [], 0, false⟩)] }, frame := 95 }, by decide +kernel⟩,
   ⟨3, { (w up [(Reg.GYSCMT_STATE 3, 2)]) with gys := { Gys.reset with commits := [(3, some ⟨127, 0, [], [], true, [], 0, 0, false, false, false, [], 0, false⟩)] }, frame := 111 }, by decide +kernel⟩,
   ⟨3, { (w up [(Reg.GYSCMT_STATE 3, 2)]) with gys := { Gys.reset with commits := [(3, some ⟨127, 0, [], [], true, [], 0, 0, false, false, false, [], 0, false⟩)] }, frame := 112 }, by decide +kernel⟩,
   ⟨3, { up with gys := { Gys.reset with busy := [3] } }, by decide +kernel⟩,
   ⟨3, { (w up [(Reg.GYSCMT_STATE 3, 2)]) with gys := { Gys.reset with commits := [(3, some ⟨0, 0, [], [], true, [], 0, 0, false, false, false, [], 0, false⟩)] } }, by decide +kernel⟩,
   ⟨3, { (w up [(Reg.GYSCMT_STATE 3, 2)]) with gys := { Gys.reset with commits := [] } }, by decide +kernel⟩,
   ⟨3, { (w up [(Reg.GYSCMT_STATE 3, 2)]) with gys := { Gys.reset with commits := [(3, some ⟨127, 0, [], [], true, [], 0, 0, false, false, false, [], 0, false⟩)] }, frame := 112 }, by decide +kernel⟩,
   ⟨3, { (w up [(Reg.GYSCMT_STATE 3, 2)]) with gys := { Gys.reset with commits := [(3, some ⟨127, 0, [], [], true, [], 0, 0, false, false, false, [], 0, false⟩)] }, frame := 111 }, by decide +kernel⟩⟩

theorem test_wit_ConversionUnits :
  (∃ (u : Fin 32) (m : BitVec 3) (p : BitVec 3) (s : State),
    s.bit (Reg.CNVCTL_EN u) = false) ∧
  (∃ (u : Fin 32) (m : BitVec 3) (p : BitVec 3) (s : State),
    s.bit (Reg.CNVCTL_EN u) = true) ∧
  (∃ (u : Fin 32) (m : BitVec 3) (p : BitVec 3) (s : State),
    s.bit (Reg.CNVCTL_EN u) = true) ∧
  (∃ (u : Fin 32) (m : BitVec 3) (p : BitVec 3) (s : State),
    s.bit (Reg.CNVCTL_EN u) = false) ∧
  (∃ (u : Fin 32) (i : BitVec 32) (b : Bool) (rp : Option (Fin 64)) (s : State),
    (s.islandStopped islConv = true ∨ s.cnvMode u ≠ 1 ∨
      s.cnvDeaf u = true ∨ (s.cnvState u ≠ 1 ∧ s.cnvState u ≠ 2 ∧ s.cnvState u ≠ 3))) ∧
  (∃ (u : Fin 32) (i : BitVec 32) (b : Bool) (rp : Option (Fin 64)) (s : State),
    s.islandStopped islConv = false ∧
    s.cnvMode u = 1 ∧
    s.cnvDeaf u = false ∧
    s.cnvState u = 1 ∧
    preRange (s.get (Reg.CNVCTL_PRE u)) ≠ none) ∧
  (∃ (u : Fin 32) (i : BitVec 32) (b : Bool) (rp : Option (Fin 64)) (s : State),
    s.islandStopped islConv = false ∧
    s.cnvMode u = 1 ∧
    s.cnvDeaf u = false ∧
    s.cnvState u = 2 ∧
    regular (s.unit u).last i.toNat = false) ∧
  (∃ (u : Fin 32) (i : BitVec 32) (b : Bool) (rp : Option (Fin 64)) (s : State),
    s.islandStopped islConv = false ∧
    s.cnvMode u = 1 ∧
    s.cnvDeaf u = false ∧
    s.cnvState u = 2 ∧
    regular (s.unit u).last i.toNat = true ∧
    (s.unit u).coarse < 63) ∧
  (∃ (u : Fin 32) (i : BitVec 32) (b : Bool) (rp : Option (Fin 64)) (s : State),
    s.islandStopped islConv = false ∧
    s.cnvMode u = 1 ∧
    s.cnvDeaf u = false ∧
    s.cnvState u = 2 ∧
    regular (s.unit u).last i.toNat = true ∧
    63 ≤ (s.unit u).coarse ∧
    s.evt.inReset = false) ∧
  (∃ (u : Fin 32) (i : BitVec 32) (b : Bool) (rp : Option (Fin 64)) (s : State),
    let sum := (s.unit u).sum - (s.unit u).sum / 64 + i.toNat
    let r := s.ratioOf 64 sum
    let out := inRange (s.get (Reg.CNVCTL_PRE u)) (s.ratioOf 1 i.toNat) = false
    s.islandStopped islConv = false ∧
    s.cnvMode u = 1 ∧
    s.cnvDeaf u = false ∧
    s.cnvState u = 3 ∧
    regular (s.unit u).last i.toNat = true ∧
    ((out → (s.unit u).out < 63)) ∧
    r < 2 ^ 31) ∧
  (∃ (u : Fin 32) (i : BitVec 32) (b : Bool) (rp : Option (Fin 64)) (s : State),
    s.islandStopped islConv = false ∧
    s.cnvMode u = 1 ∧
    s.cnvDeaf u = false ∧
    s.cnvState u = 3 ∧
    regular (s.unit u).last i.toNat = false ∧
    s.evt.inReset = false ∧
    s.evt.once.contains 90 = false) ∧
  (∃ (u : Fin 32) (i : BitVec 32) (b : Bool) (rp : Option (Fin 64)) (s : State),
    let out := inRange (s.get (Reg.CNVCTL_PRE u)) (s.ratioOf 1 i.toNat) = false
    s.islandStopped islConv = false ∧
    s.cnvMode u = 1 ∧
    s.cnvDeaf u = false ∧
    s.cnvState u = 3 ∧
    regular (s.unit u).last i.toNat = true ∧
    out ∧
    63 ≤ (s.unit u).out) ∧
  (∃ (u : Fin 32) (s : State),
    s.cnvState u = 4 ∧
    (s.unit u).fade + 15 ≤ s.frame) ∧
  (∃ (u : Fin 32) (s : State),
    (s.cnvState u ≠ 4 ∨ s.frame < (s.unit u).fade + 15)) :=
  ⟨⟨31, 7, 7, (w up [(Reg.CNVCTL_EN 31, 0)]), by decide +kernel⟩,
   ⟨31, 0, 0, (w up [(Reg.CNVCTL_EN 31, 1)]), by decide +kernel⟩,
   ⟨31, 0, 0, (w up [(Reg.CNVCTL_EN 31, 1)]), by decide +kernel⟩,
   ⟨31, 5, 5, (w up [(Reg.CNVCTL_EN 31, 0)]), by decide +kernel⟩,
   ⟨31, 900, false, none, { (w up [(Reg.CNVCTL_MODE 31, 1), (Reg.CNVSTAT_STATE 31, 5), (Reg.CNVCTL_PRE 31, 4)]) with cnv := { Cnv.reset with units := [(31, { CnvUnit.reset with last := 1200 })] } }, by decide +kernel⟩,
   ⟨31, 900, false, none, { (w up [(Reg.CNVCTL_MODE 31, 1), (Reg.CNVSTAT_STATE 31, 1), (Reg.CNVCTL_PRE 31, 4)]) with cnv := { Cnv.reset with units := [(31, { CnvUnit.reset with last := 1200, good := 6 })] }, pwr := pwrUp, clk := { up.clk with gated := [], gating := none } }, by decide +kernel⟩,
   ⟨31, 900, false, none, { (w up [(Reg.CNVCTL_MODE 31, 1), (Reg.CNVSTAT_STATE 31, 2), (Reg.CNVCTL_PRE 31, 4)]) with cnv := { Cnv.reset with units := [(31, { CnvUnit.reset with last := 1201 })] } }, by decide +kernel⟩,
   ⟨31, 900, false, none, { (w up [(Reg.CNVCTL_MODE 31, 1), (Reg.CNVSTAT_STATE 31, 2), (Reg.CNVCTL_PRE 31, 4)]) with cnv := { Cnv.reset with units := [(31, { CnvUnit.reset with last := 1200, sum := 900, coarse := 62 })] } }, by decide +kernel⟩,
   ⟨31, 900, false, none, { (w up [(Reg.CNVCTL_MODE 31, 1), (Reg.CNVSTAT_STATE 31, 2), (Reg.CNVCTL_PRE 31, 4)]) with cnv := { Cnv.reset with units := [(31, { CnvUnit.reset with last := 1200, sum := 56700, coarse := 63 })] } }, by decide +kernel⟩,
   ⟨31, 262144, false, none, { (w up [(Reg.CNVCTL_MODE 31, 1), (Reg.CNVSTAT_STATE 31, 3), (Reg.CNVCTL_PRE 31, 4)]) with cnv := { Cnv.reset with units := [(31, { CnvUnit.reset with last := 262144, sum := 64 * 262144, out := 62 })] }, pwr := pwrUp, clk := { up.clk with gated := [], gating := none } }, by decide +kernel⟩,
   ⟨31, 899, false, none, { (w up [(Reg.CNVCTL_MODE 31, 1), (Reg.CNVSTAT_STATE 31, 3), (Reg.CNVCTL_PRE 31, 4)]) with cnv := { Cnv.reset with units := [(31, { CnvUnit.reset with last := 1200 })] }, pwr := pwrUp, clk := { up.clk with gated := [], gating := none } }, by decide +kernel⟩,
   ⟨31, 900, false, none, { (w up [(Reg.CNVCTL_MODE 31, 1), (Reg.CNVSTAT_STATE 31, 3), (Reg.CNVCTL_PRE 31, 4)]) with cnv := { Cnv.reset with units := [(31, { CnvUnit.reset with last := 1200, sum := 57600, out := 63 })] }, pwr := pwrUp, clk := { up.clk with gated := [], gating := none } }, by decide +kernel⟩,
   ⟨31, { (w up [(Reg.CNVSTAT_STATE 31, 4)]) with frame := 100, cnv := { Cnv.reset with units := [(31, { CnvUnit.reset with fade := 85 })] } }, by decide +kernel⟩,
   ⟨31, { (w up [(Reg.CNVSTAT_STATE 31, 4)]) with frame := 99, cnv := { Cnv.reset with units := [(31, { CnvUnit.reset with fade := 85 })] } }, by decide +kernel⟩⟩

theorem test_wit_PortStartsAndInputs :
  (∃ (s : State),
    s.bit Reg.APSTARTCTL_SRC = false ∧
    s.apFollower = false) ∧
  (∃ (s : State),
    (s.bit Reg.APSTARTCTL_SRC = true ∨ s.apFollower = true)) ∧
  (∃ (s : State),
    s.bit Reg.APSTARTCTL_SRC = true ∧
    s.bit Reg.APSTARTCTL_SYNC_ARM = true ∧
    s.apFollower = false) ∧
  (∃ (s : State),
    (s.bit Reg.APSTARTCTL_SRC = false ∨ s.bit Reg.APSTARTCTL_SYNC_ARM = false ∨ s.apFollower = true)) ∧
  (∃ (x : BitVec 64) (s : State),
    s.apFollower = true) ∧
  (∃ (x : BitVec 64) (s : State),
    s.apFollower = false) ∧
  (∃ (s : State),
    (s.bit Reg.APSTARTSTAT_PENDING = false ∨ s.frame < s.apTs)) ∧
  (∃ (s : State),
    s.bit Reg.APSTARTSTAT_PENDING = true ∧
    s.apTs ≤ s.frame ∧
    ((∀ n, n < 16 → s.portState n ≠ 1))) ∧
  (∃ (s : State),
    s.bit Reg.APSTARTSTAT_PENDING = true ∧
    s.apTs ≤ s.frame ∧
    s.evt.inReset = false ∧
    ((∃ n, n < 16 ∧ s.portState n = 1))) ∧
  (∃ (n : Fin 16) (ws : Bool) (lanes : List (BitVec 65)) (b : BitVec 8) (m : Bool) (s : State),
    (s.islandStopped islPorts = true ∨ (s.bit (Reg.PORTCTL_EN n) = false ∧ s.ports.stopping.contains n.val = false) ∨ s.portMode n = 0 ∨
      s.portState n = 3 ∨ s.portUnusable n = true ∨ ws ≠ (s.get (Reg.PORTCFG_FMT n) == 1))) ∧
  (∃ (n : Fin 16) (ws : Bool) (lanes : List (BitVec 65)) (b : BitVec 8) (m : Bool) (s : State),
    s.islandStopped islPorts = false ∧
    s.bit (Reg.PORTCTL_EN n) = true ∧
    s.portState n ≠ 3 ∧
    s.portUnusable n = false ∧
    ws = (s.get (Reg.PORTCFG_FMT n) == 1) ∧
    s.portMode n = 1 ∧
    s.portRatek n = 0 ∧
    s.get (Reg.CODEDCFG_DET_EN n) = 0 ∧
    s.ports.lastDet = []) ∧
  (∃ (n : Fin 16) (ws : Bool) (lanes : List (BitVec 65)) (b : BitVec 8) (m : Bool) (s : State),
    s.islandStopped islPorts = false ∧
    s.bit (Reg.PORTCTL_EN n) = true ∧
    s.portState n ≠ 3 ∧
    s.portUnusable n = false ∧
    ws = (s.get (Reg.PORTCFG_FMT n) == 1) ∧
    2 ≤ s.portMode n ∧
    ((b ≠ 64 ∨ m = true)) ∧
    s.ports.stopping.contains n.val = false ∧
    s.evt.inReset = false ∧
    s.evt.once.contains 67 = false ∧
    ((∀ q, q < 256 → s.boundTo q = [])) ∧
    s.portUnits n = []) ∧
  (∃ (n : Fin 16) (l : Fin 8) (s : State),
    let due := (s.get (Reg.CODED_MUTED n)).testBit l = true ∧ s.ports.lastDet.look 0 (8 * n.val + l.val) + 4096 ≤ s.ports.count.look 0 n
    due ∧
    s.evt.inReset = false) ∧
  (∃ (n : Fin 16) (l : Fin 8) (s : State),
    let due := (s.get (Reg.CODED_MUTED n)).testBit l = true ∧ s.ports.lastDet.look 0 (8 * n.val + l.val) + 4096 ≤ s.ports.count.look 0 n
    ¬due) ∧
  (∃ (n : Fin 16) (s : State),
    s.bit (Reg.PORTCTL_EN n) = true ∧
    2 ≤ s.portMode n ∧
    s.evt.inReset = false) ∧
  (∃ (n : Fin 16) (s : State),
    (s.bit (Reg.PORTCTL_EN n) = false ∨ s.portMode n < 2)) ∧
  (∃ (n : Fin 16) (b : BitVec 32) (w : BitVec 32) (s : State),
    (s.portMode n ≠ 3 ∨ s.bit (Reg.PORTCTL_EN n) = false)) ∧
  (∃ (n : Fin 16) (b : BitVec 32) (w : BitVec 32) (s : State),
    s.portMode n = 3 ∧
    s.bit (Reg.PORTCTL_EN n) = true) :=
  ⟨⟨(w up [(Reg.APSTARTCTL_SRC, 0), (Reg.APSTARTCTL_CASC, 0), (Reg.APSTART_T_LO_T, 2 ^ 32 - 1), (Reg.APSTART_T_HI_T_HI, 0)]), by decide +kernel⟩,
   ⟨(w up [(Reg.APSTARTCTL_SRC, 1)]), by decide +kernel⟩,
   ⟨(w up [(Reg.APSTARTCTL_SRC, 1), (Reg.APSTARTCTL_SYNC_ARM, 1), (Reg.LNKCASCSTAT_ID, 0)]), by decide +kernel⟩,
   ⟨up, by decide +kernel⟩,
   ⟨2 ^ 64 - 1, (w up [(Reg.APSTARTCTL_CASC, 1), (Reg.LNKCASCSTAT_ID, 7)]), by decide +kernel⟩,
   ⟨2 ^ 64 - 1, up, by decide +kernel⟩,
   ⟨up, by decide +kernel⟩,
   ⟨{ (w up [(Reg.APSTARTSTAT_PENDING, 1)]) with frame := 96 }, by decide +kernel⟩,
   ⟨{ (w up [(Reg.APSTARTSTAT_PENDING, 1), (Reg.APSTART_T_LO_T, 96), (Reg.APSTART_T_HI_T_HI, 0), (Reg.PORTSTAT_STATE 15, 1)]) with frame := 96 }, by decide +kernel⟩,
   ⟨15, false, [], 64, false, up, by decide +kernel⟩,
   ⟨15, false, [], 64, false, { (w up [(Reg.PORTCTL_EN 15, 1), (Reg.PORTCFG_MODE 15, 1), (Reg.PORTSTAT_STATE 15, 2), (Reg.PORTCFG_RATEK 15, 0), (Reg.PORTSTAT_SWAPPED 15, 0), (Reg.CODEDCFG_DET_EN 15, 0)]) with ports := Ports.reset, pwr := pwrUp, clk := { up.clk with gated := [], gating := none }, cnv := up.cnv }, by decide +kernel⟩,
   ⟨15, false, [], 63, false, { (w up [(Reg.PORTCTL_EN 15, 1), (Reg.PORTCFG_MODE 15, 2), (Reg.PORTSTAT_STATE 15, 2), (Reg.PORTCFG_RATEK 15, 0), (Reg.PORTSTAT_SWAPPED 15, 0), (Reg.CODEDCFG_DET_EN 15, 0)]) with ports := Ports.reset, pwr := pwrUp, clk := { up.clk with gated := [], gating := none }, cnv := up.cnv }, by decide +kernel⟩,
   ⟨15, 7, { (w up [(Reg.CODED_MUTED 15, 0x80)]) with ports := { Ports.reset with lastDet := [(127, 1)], count := [(15, 4097)] } }, by decide +kernel⟩,
   ⟨15, 0, (w up [(Reg.PORTCFG_MODE 15, 3)]), by decide +kernel⟩,
   ⟨15, (w up [(Reg.PORTCTL_EN 15, 1), (Reg.PORTCFG_MODE 15, 2)]), by decide +kernel⟩,
   ⟨15, up, by decide +kernel⟩,
   ⟨15, 2, 2, up, by decide +kernel⟩,
   ⟨15, 1, 2, (w up [(Reg.PORTCTL_EN 15, 1), (Reg.PORTCFG_MODE 15, 3), (Reg.PORTSTAT_STATE 15, 2), (Reg.PORTCFG_RATEK 15, 0), (Reg.PORTSTAT_SWAPPED 15, 0), (Reg.CODEDCFG_DET_EN 15, 0)]), by decide +kernel⟩⟩

theorem test_wit_VentTakeover :
  (∃ (v : Fin 64) (s : State),
    (∀ c ∈ (s.routeAt v s.frame).conns, c.first + 127 ≤ s.frame ∨ c.c0 = c.c1)) ∧
  (∃ (v : Fin 64) (s : State),
    (∃ c ∈ (s.routeAt v s.frame).conns, s.frame < c.first + 127 ∧ c.c0 ≠ c.c1)) ∧
  (∃ (s : State),
    s.bit Reg.VNTCFG_EMERG_EN = true) ∧
  (∃ (s : State),
    s.bit Reg.VNTCFG_EMERG_EN = false) ∧
  (∃ (s : State),
    s.locked = false) ∧
  (∃ (s : State),
    s.locked = false) ∧
  (∃ (on : Bool) (s : State),
    s.locked = true) ∧
  (∃ (p : BitVec 17) (s : State),
    s.frame % 16 = 0 ∧
    Nat.max 1 (s.get Reg.VNTCFG_HOLD) ≤ p.toNat ∧
    s.bit Reg.VNTSTAT_CAUSE_EMERG = true ∧
    s.bit Reg.VNTSTAT_TAKEOVER = true) ∧
  (∃ (p : BitVec 17) (s : State),
    (s.frame % 16 ≠ 0 ∨ p.toNat < Nat.max 1 (s.get Reg.VNTCFG_HOLD) ∨ s.bit Reg.VNTSTAT_CAUSE_EMERG = false)) ∧
  (∃ (s : State),
    s.vent.ang ≠ 0) ∧
  (∃ (s : State),
    s.vent.ang = 0) :=
  ⟨⟨63, { up with frame := 128, vent := { Vent.reset with routes := [(63, [⟨0, 0, 0, [⟨1, 2, 1, 0, 5, 5, false⟩], false, false⟩])] } }, by decide +kernel⟩,
   ⟨63, { up with frame := 128, vent := { Vent.reset with routes := [(63, [⟨0, 0, 0, [⟨1, 2, 2, 0, 5, 5, false⟩], false, false⟩])] } }, by decide +kernel⟩,
   ⟨(w up [(Reg.VNTCFG_EMERG_EN, 1)]), by decide +kernel⟩,
   ⟨(w up [(Reg.VNTCFG_EMERG_EN, 0)]), by decide +kernel⟩,
   ⟨(w up [(Reg.FUMLOCK_CLOSED, 0)]), by decide +kernel⟩,
   ⟨(w up [(Reg.FUMLOCK_CLOSED, 0)]), by decide +kernel⟩,
   ⟨false, (w up [(Reg.FUMLOCK_CLOSED, 1)]), by decide +kernel⟩,
   ⟨1, { (w up [(Reg.VNTCFG_HOLD, 0), (Reg.VNTSTAT_CAUSE_EMERG, 1), (Reg.VNTSTAT_TAKEOVER, 1), (Reg.VNTSTAT_CAUSE_FUM, 0), (Reg.VNTSTAT_CAUSE_FORCE, 0)]) with frame := 112 }, by decide +kernel⟩,
   ⟨0, up, by decide +kernel⟩,
   ⟨{ up with vent := { Vent.reset with ang := 1 } }, by decide +kernel⟩,
   ⟨{ up with vent := Vent.reset }, by decide +kernel⟩⟩

theorem test_wit_WholeChipMute :
  (∃ (s : State),
    s.fumHas 0 = false) ∧
  (∃ (s : State),
    s.fumHas 1 = false) ∧
  (∃ (s : State),
    s.fumHas 0 = true) ∧
  (∃ (s : State),
    s.fumHas 1 = true) ∧
  (∃ (s : State),
    s.fumHas 8 = true ∧
    4 ≤ s.window ∧
    s.fum.seals.contains (s.window - 4) = false ∧
    s.get Reg.FUMCFG_STALL_ACT ≠ 0) ∧
  (∃ (o : Option (Fin 512)) (s : State),
    s.fumHas 9 = true) ∧
  (∃ (s : State),
    s.evt.inReset = false) ∧
  (∃ (s : State),
    4 ≤ s.window ∧
    s.fum.seals.contains (s.window - 4) = false ∧
    s.fumHas 8 = false ∧
    s.get Reg.FUMCFG_STALL_ACT ≠ 0) ∧
  (∃ (s : State),
    4 ≤ s.window ∧
    s.fum.seals.contains (s.window - 4) = false ∧
    s.get Reg.FUMCFG_STALL_ACT = 0) ∧
  (∃ (s : State),
    s.window < 4 ∨ s.fum.seals.contains (s.window - 4) = true) ∧
  (∃ (o : Option (Fin 512)) (s : State),
    s.fumHas 9 = false ∧
    s.evt.inReset = false) :=
  ⟨⟨(w up [(Reg.FUMSTAT_CAUSE, 0)]), by decide +kernel⟩,
   ⟨(w up [(Reg.FUMSTAT_CAUSE, 0)]), by decide +kernel⟩,
   ⟨(w up [(Reg.FUMSTAT_CAUSE, 1)]), by decide +kernel⟩,
   ⟨(w up [(Reg.FUMSTAT_CAUSE, 2)]), by decide +kernel⟩,
   ⟨{ (w up [(Reg.FUMSTAT_CAUSE, 256), (Reg.FUMCFG_STALL_ACT, 1)]) with frame := 65, fum := Fum.reset }, by decide +kernel⟩,
   ⟨some 511, (w up [(Reg.FUMSTAT_CAUSE, 512)]), by decide +kernel⟩,
   ⟨up, by decide +kernel⟩,
   ⟨{ (w up [(Reg.FUMSTAT_CAUSE, 0), (Reg.FUMCFG_STALL_ACT, 1)]) with frame := 65, fum := Fum.reset }, by decide +kernel⟩,
   ⟨{ (w up [(Reg.FUMSTAT_CAUSE, 0), (Reg.FUMCFG_STALL_ACT, 0)]) with frame := 65, fum := Fum.reset }, by decide +kernel⟩,
   ⟨{ up with frame := 65, fum := { up.fum with seals := [0] } }, by decide +kernel⟩,
   ⟨some 511, (w up [(Reg.FUMSTAT_CAUSE, 0)]), by decide +kernel⟩⟩

theorem test_wit_FumaroleCommands :
  (∃ (n : BitVec 16) (s : State),
    16 ≤ n.toNat ∧
    s.fumHas 0 = true) ∧
  (∃ (n : BitVec 16) (s : State),
    (n.toNat < 16 ∨ s.fumHas 0 = false)) ∧
  (∃ (s : State),
    s.fumHas 1 = true) ∧
  (∃ (s : State),
    s.fumHas 1 = false) ∧
  (∃ (s : State),
    (∀ c ∈ [2, 3, 4, 8], (s.fumHas c && s.clearMet c) = false)) ∧
  (∃ (c : Nat) (s : State),
    c ∈ [2, 3, 4, 8] ∧
    s.get Reg.FUMSTAT_CAUSE = 2 ^ c ∧
    s.clearMet c = true) ∧
  (∃ (n : Fin 16) (s : State),
    ¬(s.portMode n = 1 ∧ s.portState n = 2)) ∧
  (∃ (n : Fin 16) (s : State),
    s.portMode n = 1 ∧
    s.portState n = 2) :=
  ⟨⟨16, (w up [(Reg.FUMSTAT_CAUSE, 1)]), by decide +kernel⟩,
   ⟨15, up, by decide +kernel⟩,
   ⟨(w up [(Reg.FUMSTAT_CAUSE, 2)]), by decide +kernel⟩,
   ⟨up, by decide +kernel⟩,
   ⟨up, by decide +kernel⟩,
   ⟨4, { (w up [(Reg.FUMSTAT_CAUSE, 16)]) with pwr := pwrUp }, by decide +kernel⟩,
   ⟨15, (w up [(Reg.PORTCFG_MODE 15, 1), (Reg.PORTSTAT_STATE 15, 1)]), by decide +kernel⟩,
   ⟨15, (w up [(Reg.PORTCFG_MODE 15, 1), (Reg.PORTSTAT_STATE 15, 2)]), by decide +kernel⟩⟩

theorem test_wit_CoreLoopCommands :
  (∃ (i : BitVec 2) (r : BitVec 2) (d : BitVec 32) (s : State),
    s.get Reg.CORECFG_INSEL = i.toNat ∧
    s.get Reg.CORECFG_REFSCALE = r.toNat) ∧
  (∃ (i : BitVec 2) (r : BitVec 2) (d : BitVec 32) (s : State),
    s.get Reg.CORECFG_INSEL ≠ i.toNat ∧
    s.get Reg.CORECFG_REFSCALE = r.toNat ∧
    3 ≤ s.loop ∧
    s.loop ≤ 5 ∧
    s.clk.floor = false ∧
    d.toNat ≤ s.get Reg.CLKCAP_CAPWIN ∧
    s.get Reg.CLKCAP_CAPWIN ≠ 0 ∧
    s.inputUsable i.toNat = true ∧
    s.evt.inReset = false) ∧
  (∃ (i : BitVec 2) (r : BitVec 2) (d : BitVec 32) (s : State),
    s.get Reg.CORECFG_INSEL ≠ i.toNat ∧
    s.get Reg.CORECFG_REFSCALE = r.toNat ∧
    s.clk.floor = false ∧
    s.loop = 6 ∧
    s.clk.redo = false ∧
    d.toNat ≤ s.get Reg.CLKCAP_CAPWIN ∧
    s.get Reg.CLKCAP_CAPWIN ≠ 0 ∧
    s.inputUsable i.toNat = true ∧
    s.evt.inReset = false) ∧
  (∃ (i : BitVec 2) (r : BitVec 2) (d : BitVec 32) (s : State),
    s.get Reg.CORECFG_INSEL ≠ i.toNat ∧
    s.get Reg.CORECFG_REFSCALE = r.toNat ∧
    s.clk.floor = false ∧
    ((s.loop = 1 ∨ s.loop = 2 ∨ (s.loop = 6 ∧ s.clk.redo = true) ∨ (3 ≤ s.loop ∧ s.loop ≤ 6 ∧ (s.get Reg.CLKCAP_CAPWIN < d.toNat ∨
        s.inputUsable i.toNat = false))))) ∧
  (∃ (i : BitVec 2) (r : BitVec 2) (d : BitVec 32) (s : State),
    s.get Reg.CORECFG_INSEL ≠ i.toNat ∧
    s.get Reg.CORECFG_REFSCALE = r.toNat ∧
    (s.loop = 0 ∨ s.loop = 7 ∨ s.clk.floor = true)) ∧
  (∃ (v : BitVec 24) (s : State),
    s.get Reg.CORECFG_REFSCALE = v.toNat % 4) ∧
  (∃ (v : BitVec 24) (s : State),
    s.get Reg.CORENINT_NINT = v.toNat % 65536) ∧
  (∃ (v : BitVec 24) (s : State),
    s.get Reg.CORENFRAC_FRAC = v.toNat) ∧
  (∃ (v : BitVec 24) (s : State),
    s.get Reg.PWRSTAT_STATE ≠ 1 ∧
    s.get Reg.CORECFG_REFSCALE ≠ v.toNat % 4) ∧
  (∃ (v : BitVec 24) (s : State),
    s.get Reg.PWRSTAT_STATE ≠ 1 ∧
    s.get Reg.CORENINT_NINT ≠ v.toNat % 65536) ∧
  (∃ (v : BitVec 24) (s : State),
    s.get Reg.PWRSTAT_STATE ≠ 1 ∧
    s.get Reg.CORENFRAC_FRAC ≠ v.toNat) ∧
  (∃ (v : BitVec 24) (s : State),
    let sc := s.get Reg.CORECFG_REFSCALE
    let nint := s.get Reg.CORENINT_NINT
    let frac := s.get Reg.CORENFRAC_FRAC
    s.get Reg.PWRSTAT_STATE = 1 ∧
    sc ≠ v.toNat % 4 ∧
    ((s.scaleBad (v.toNat % 4) = true ∨ aboveGuard (s.rootHz 0 (v.toNat % 4) (nint * 2 ^ 24 + frac)) = true))) ∧
  (∃ (v : BitVec 24) (s : State),
    let nint := s.get Reg.CORENINT_NINT
    let frac := s.get Reg.CORENFRAC_FRAC
    s.get Reg.PWRSTAT_STATE = 1 ∧
    s.scaleBad (v.toNat % 4) = false ∧
    aboveGuard (s.rootHz 0 (v.toNat % 4) (nint * 2 ^ 24 + frac)) = false) ∧
  (∃ (v : BitVec 24) (s : State),
    let nint := s.get Reg.CORENINT_NINT
    s.get Reg.PWRSTAT_STATE = 1 ∧
    nint ≠ v.toNat % 65536 ∧
    v.toNat % 65536 < 8) ∧
  (∃ (v : BitVec 24) (s : State),
    let sc := s.get Reg.CORECFG_REFSCALE
    let nint := s.get Reg.CORENINT_NINT
    let frac := s.get Reg.CORENFRAC_FRAC
    s.get Reg.PWRSTAT_STATE = 1 ∧
    nint ≠ v.toNat % 65536 ∧
    8 ≤ v.toNat % 65536 ∧
    aboveGuard (s.rootHz 0 sc (v.toNat % 65536 * 2 ^ 24 + frac)) = true) ∧
  (∃ (v : BitVec 24) (s : State),
    let sc := s.get Reg.CORECFG_REFSCALE
    let frac := s.get Reg.CORENFRAC_FRAC
    s.get Reg.PWRSTAT_STATE = 1 ∧
    8 ≤ v.toNat % 65536 ∧
    aboveGuard (s.rootHz 0 sc (v.toNat % 65536 * 2 ^ 24 + frac)) = false) ∧
  (∃ (v : BitVec 24) (s : State),
    let sc := s.get Reg.CORECFG_REFSCALE
    let nint := s.get Reg.CORENINT_NINT
    let frac := s.get Reg.CORENFRAC_FRAC
    s.get Reg.PWRSTAT_STATE = 1 ∧
    frac ≠ v.toNat ∧
    aboveGuard (s.rootHz 0 sc (nint * 2 ^ 24 + v.toNat)) = true) ∧
  (∃ (v : BitVec 24) (s : State),
    let sc := s.get Reg.CORECFG_REFSCALE
    let nint := s.get Reg.CORENINT_NINT
    s.get Reg.PWRSTAT_STATE = 1 ∧
    aboveGuard (s.rootHz 0 sc (nint * 2 ^ 24 + v.toNat)) = false) ∧
  (∃ (s : State),
    (s.loop = 5 ∨ s.loop = 6) ∧
    s.clk.floor = false) ∧
  (∃ (s : State),
    s.loop = 3) ∧
  (∃ (s : State),
    ((s.loop ≠ 5 ∧ s.loop ≠ 6) ∨ s.clk.floor = true)) ∧
  (∃ (s : State),
    s.loop = 5 ∧
    s.get Reg.PWRSTAT_STATE = 1 ∧
    s.rampHigh = false) ∧
  (∃ (s : State),
    s.loop = 5 ∧
    s.get Reg.PWRSTAT_STATE = 1 ∧
    s.rampHigh = true) ∧
  (∃ (s : State),
    s.loop ≠ 3 ∧
    (s.loop ≠ 5 ∨ s.get Reg.PWRSTAT_STATE ≠ 1)) ∧
  (∃ (v : BitVec 2) (s : State),
    v ≠ 3 ∧
    s.loop ≠ 5) ∧
  (∃ (s : State),
    s.loop = 5) ∧
  (∃ (v : BitVec 2) (s : State),
    s.loop = 5 ∧
    (v = 1 ∨ v = 2) ∧
    s.evt.inReset = false) ∧
  (∃ (s : State),
    s.bit Reg.MGSTAT_LOOP_WAIT = false) ∧
  (∃ (s : State),
    s.bit Reg.MGSTAT_LOOP_WAIT = true ∧
    s.loopinitGood = true) ∧
  (∃ (s : State),
    s.bit Reg.MGSTAT_LOOP_WAIT = true ∧
    s.loopinitGood = false) :=
  ⟨⟨0, 0, 0, (w up [(Reg.CORECFG_INSEL, 0), (Reg.CORECFG_REFSCALE, 0)]), by decide +kernel⟩,
   ⟨1, 0, 200, { (w up [(Reg.CORESTAT_STATE, 5), (Reg.CORECFG_INSEL, 0), (Reg.CORECFG_REFSCALE, 0), (Reg.CLKINCFG_WCK0_M, 0), (Reg.CLKCAP_CAPWIN, 200)]) with clk := { up.clk with floor := false, first := false } }, by decide +kernel⟩,
   ⟨1, 0, 200, { (w up [(Reg.CORESTAT_STATE, 6), (Reg.CORECFG_INSEL, 0), (Reg.CLKCAP_CAPWIN, 200)]) with clk := { up.clk with floor := false, first := false } }, by decide +kernel⟩,
   ⟨1, 0, 201, { (w up [(Reg.CORESTAT_STATE, 5), (Reg.CORECFG_INSEL, 0), (Reg.CORECFG_REFSCALE, 0), (Reg.CLKINCFG_WCK0_M, 0), (Reg.CLKCAP_CAPWIN, 200)]) with clk := { up.clk with floor := false, first := false } }, by decide +kernel⟩,
   ⟨1, 0, 0, { (w up [(Reg.CORESTAT_STATE, 7), (Reg.CORECFG_INSEL, 0), (Reg.CORECFG_REFSCALE, 0)]) with clk := { up.clk with floor := false, first := false } }, by decide +kernel⟩,
   ⟨0, up, by decide +kernel⟩,
   ⟨64, (w up [(Reg.CORENINT_NINT, 64)]), by decide +kernel⟩,
   ⟨0, (w up [(Reg.CORENFRAC_FRAC, 0)]), by decide +kernel⟩,
   ⟨1, (w up [(Reg.PWRSTAT_STATE, 0), (Reg.CORECFG_REFSCALE, 0)]), by decide +kernel⟩,
   ⟨8, (w up [(Reg.PWRSTAT_STATE, 0), (Reg.CORENINT_NINT, 64)]), by decide +kernel⟩,
   ⟨1, (w up [(Reg.PWRSTAT_STATE, 0), (Reg.CORENFRAC_FRAC, 0)]), by decide +kernel⟩,
   ⟨3, (w up [(Reg.PWRSTAT_STATE, 1), (Reg.CORECFG_REFSCALE, 0)]), by decide +kernel⟩,
   ⟨0, { (w up [(Reg.PWRSTAT_STATE, 1), (Reg.CORECFG_REFSCALE, 0), (Reg.CORENINT_NINT, 64), (Reg.CORENFRAC_FRAC, 0)]) with clk := { up.clk with href := 24576000 } }, by decide +kernel⟩,
   ⟨7, (w up [(Reg.PWRSTAT_STATE, 1), (Reg.CORENINT_NINT, 64)]), by decide +kernel⟩,
   ⟨67, { (w up [(Reg.PWRSTAT_STATE, 1), (Reg.CORECFG_REFSCALE, 0), (Reg.CORENINT_NINT, 64), (Reg.CORENFRAC_FRAC, 0)]) with clk := { up.clk with href := 24576000 } }, by decide +kernel⟩,
   ⟨66, { (w up [(Reg.PWRSTAT_STATE, 1), (Reg.CORECFG_REFSCALE, 0), (Reg.CORENINT_NINT, 64), (Reg.CORENFRAC_FRAC, 0)]) with clk := { up.clk with href := 24576000 } }, by decide +kernel⟩,
   ⟨0xFFFFFF, { (w up [(Reg.PWRSTAT_STATE, 1), (Reg.CORECFG_REFSCALE, 0), (Reg.CORENINT_NINT, 66), (Reg.CORENFRAC_FRAC, 0)]) with clk := { up.clk with href := 24576000 } }, by decide +kernel⟩,
   ⟨0xFFFFFF, { (w up [(Reg.PWRSTAT_STATE, 1), (Reg.CORECFG_REFSCALE, 0), (Reg.CORENINT_NINT, 65), (Reg.CORENFRAC_FRAC, 0)]) with clk := { up.clk with href := 24576000 } }, by decide +kernel⟩,
   ⟨{ (w up [(Reg.CORESTAT_STATE, 6)]) with clk := { up.clk with floor := false, first := false } }, by decide +kernel⟩,
   ⟨{ (w up [(Reg.CORESTAT_STATE, 3)]) with clk := { up.clk with floor := false, first := false } }, by decide +kernel⟩,
   ⟨{ (w up [(Reg.CORESTAT_STATE, 7)]) with clk := { up.clk with floor := false, first := false } }, by decide +kernel⟩,
   ⟨{ (w up [(Reg.CORESTAT_STATE, 5), (Reg.PWRSTAT_STATE, 1), (Reg.CORECFG_INSEL, 0), (Reg.CORECFG_REFSCALE, 0), (Reg.CORENINT_NINT, 64), (Reg.CORENFRAC_FRAC, 0), (Reg.RAMPCTL_NSEG, 0), (Reg.CORESTAT_INPUT_NOW, 0)]) with clk := { up.clk with href := 24576000 } }, by decide +kernel⟩,
   ⟨{ (w up [(Reg.CORESTAT_STATE, 5), (Reg.PWRSTAT_STATE, 1), (Reg.CORECFG_INSEL, 0), (Reg.CORECFG_REFSCALE, 0), (Reg.CORENINT_NINT, 67), (Reg.CORENFRAC_FRAC, 0), (Reg.RAMPCTL_NSEG, 0), (Reg.CORESTAT_INPUT_NOW, 0)]) with clk := { up.clk with href := 24576000 } }, by decide +kernel⟩,
   ⟨{ (w up [(Reg.CORESTAT_STATE, 5), (Reg.PWRSTAT_STATE, 0)]) with clk := { up.clk with floor := false, first := false } }, by decide +kernel⟩,
   ⟨2, { (w up [(Reg.CORESTAT_STATE, 7)]) with clk := { up.clk with floor := false, first := false } }, by decide +kernel⟩,
   ⟨{ (w up [(Reg.CORESTAT_STATE, 5)]) with clk := { up.clk with floor := false, first := false } }, by decide +kernel⟩,
   ⟨2, { (w up [(Reg.CORESTAT_STATE, 5)]) with clk := { up.clk with floor := false, first := false } }, by decide +kernel⟩,
   ⟨(w up [(Reg.MGSTAT_LOOP_WAIT, 0)]), by decide +kernel⟩,
   ⟨{ (w up [(Reg.MGSTAT_LOOP_WAIT, 1), (Reg.LOOPINIT_NINT, 8), (Reg.LOOPINIT_MULT, 2), (Reg.LOOPINIT_REFSCALE, 0)]) with clk := { up.clk with href := 0 } }, by decide +kernel⟩,
   ⟨{ (w up [(Reg.MGSTAT_LOOP_WAIT, 1), (Reg.LOOPINIT_NINT, 7)]) with clk := { up.clk with href := 0 } }, by decide +kernel⟩⟩

theorem test_wit_CoreLoopEvents :
  (∃ (hz : BitVec 32) (s : State),
    s.pwr.chip = 0 ∧
    s.loop = 0 ∧
    s.clk.first = true ∧
    s.clk.init = none ∧
    s.bit Reg.LOOPINIT_AUTO = true ∧
    s.bit Reg.MGSTAT_LOOP_WAIT = false ∧
    nearHz hz.toNat 24576000 = true ∧
    s.get Reg.LOOPINIT_MULT ≠ 3) ∧
  (∃ (hz : BitVec 32) (s : State),
    s.pwr.chip = 0 ∧
    s.loop = 0 ∧
    s.clk.first = true ∧
    s.clk.init = none ∧
    s.bit Reg.LOOPINIT_AUTO = true ∧
    s.bit Reg.MGSTAT_LOOP_WAIT = false) ∧
  (∃ (hz : BitVec 32) (s : State),
    s.pwr.chip = 0 ∧
    s.loop = 0 ∧
    s.clk.first = true ∧
    s.clk.init = none ∧
    s.bit Reg.LOOPINIT_AUTO = true ∧
    s.bit Reg.MGSTAT_LOOP_WAIT = false ∧
    nearHz hz.toNat 22579200 = true ∧
    s.get Reg.LOOPINIT_MULT ≠ 3) ∧
  (∃ (hz : BitVec 32) (ok : Bool) (s : State),
    (s.pwr.chip ≠ 0 ∨ s.loop ≠ 0 ∨ s.clk.first = false ∨ s.clk.init.isSome = true ∨
    s.bit Reg.LOOPINIT_AUTO = false ∨ s.bit Reg.MGSTAT_LOOP_WAIT = true)) ∧
  (∃ (s : State),
    ((s.loop = 7 ∧ s.bit Reg.CORESTAT_COAST = false ∨ s.loop = 6 ∧ s.clk.floor = true)) ∧
    s.inputUsable (s.get Reg.CORECFG_INSEL) = true) ∧
  (∃ (s : State),
    (s.inputUsable (s.get Reg.CORECFG_INSEL) = false ∨ (s.loop = 6 ∧ s.clk.floor = false) ∨ (1 ≤ s.loop ∧ s.loop ≤ 5))) ∧
  (∃ (s : State),
    s.inputUsable (s.get Reg.CORECFG_INSEL) = true ∧
    s.loop = 0 ∧
    (s.clk.first = false ∨ s.clk.init.isSome = true)) ∧
  (∃ (s : State),
    s.inputUsable (s.get Reg.CORECFG_INSEL) = true ∧
    s.loop = 7 ∧
    s.bit Reg.CORESTAT_COAST = true ∧
    s.get Reg.PWRSTAT_STATE ≠ 2 ∧
    s.pwr.step ≠ 2) ∧
  (∃ (b : BitVec 5) (f : BitVec 12) (s : State),
    s.loop = 1) ∧
  (∃ (b : BitVec 5) (f : BitVec 12) (s : State),
    s.loop = 1 ∧
    s.evt.inReset = false ∧
    s.evt.once.contains 9 = false) ∧
  (∃ (s : State),
    s.loop = 2 ∧
    s.clk.first = false ∧
    s.clk.ramp = false) ∧
  (∃ (s : State),
    s.loop = 2 ∧
    s.clk.first = false ∧
    s.clk.ramp = true ∧
    s.clk.n ≠ s.serviceN) ∧
  (∃ (s : State),
    s.loop = 2 ∧
    s.clk.first = false ∧
    s.clk.ramp = true ∧
    s.clk.n = s.serviceN) ∧
  (∃ (b : BitVec 5) (f : BitVec 12) (k : Bool) (s : State),
    s.loop ≠ 1) ∧
  (∃ (s : State),
    s.loop ≠ 2) ∧
  (∃ (s : State),
    s.rampReaches = false) ∧
  (∃ (s : State),
    s.loop ≠ 4) ∧
  (∃ (s : State) (n : Nat) (f : Nat) (r : Nat) (fam : Nat) (m : Nat),
    s.loop = 2 ∧
    s.clk.first = true ∧
    s.clk.init = some (n, f, r, fam, m) ∧
    s.clk.ramp = false ∧
    n < 2 ^ 16 ∧
    f < 2 ^ 24 ∧
    r < 4 ∧
    fam < 2 ∧
    m < 4) ∧
  (∃ (s : State),
    s.loop = 2) ∧
  (∃ (s : State),
    s.rampReaches = true) ∧
  (∃ (s : State),
    s.loop = 4 ∧
    s.evt.inReset = false) ∧
  (∃ (d : BitVec 32) (s : State),
    s.loopRuns = false ∧
    ((s.loop = 0 ∨ s.bit Reg.CORESTAT_INPUT_LOST = true))) ∧
  (∃ (d : BitVec 32) (s : State),
    ((s.loop = 6 ∨ s.loop = 7)) ∧
    s.bit Reg.CORESTAT_INPUT_LOST = false ∧
    s.evt.inReset = false) ∧
  (∃ (d : BitVec 32) (s : State),
    s.loopRuns = true ∧
    s.evt.inReset = false ∧
    s.bit Reg.REFFB_WCK0_EN = false ∧
    s.bit Reg.REFFB_WCK1_EN = false ∧
    s.bit Reg.REFFB_LINK_EN = false) ∧
  (∃ (d : BitVec 32) (s : State),
    let fits := d.toNat ≤ s.get Reg.CLKCAP_CAPWIN ∧ s.get Reg.CLKCAP_CAPWIN ≠ 0 ∧ s.inputUsable (s.get Reg.CORECFG_INSEL) = true ∧
      s.clk.redo = false
    s.loop = 6 ∧
    s.bit Reg.CORESTAT_INPUT_LOST = true ∧
    s.clk.floor = false ∧
    s.evt.inReset = false ∧
    ((s.get Reg.CORECFG_INSEL ≠ 0 ∨ s.get (Reg.REF_STATE 0) = 3)) ∧
    fits) ∧
  (∃ (d : BitVec 32) (s : State),
    let fits := d.toNat ≤ s.get Reg.CLKCAP_CAPWIN ∧ s.get Reg.CLKCAP_CAPWIN ≠ 0 ∧ s.inputUsable (s.get Reg.CORECFG_INSEL) = true ∧
      s.clk.redo = false
    s.loop = 6 ∧
    s.bit Reg.CORESTAT_INPUT_LOST = true ∧
    s.clk.floor = false ∧
    s.evt.inReset = false ∧
    ((s.get Reg.CORECFG_INSEL ≠ 0 ∨ s.get (Reg.REF_STATE 0) = 3)) ∧
    ¬fits) ∧
  (∃ (d : BitVec 32) (s : State),
    s.bit Reg.CORESTAT_INPUT_LOST = false) ∧
  (∃ (d : BitVec 32) (s : State),
    s.bit Reg.CORESTAT_INPUT_LOST = true ∧
    ((s.loop = 7 ∨ (s.loop = 6 ∧ s.clk.floor = true)))) ∧
  (∃ (s : State),
    (s.loop ≠ 6 ∨ s.clk.floor = true ∨ s.frame < s.clk.heldAt + s.holdTime)) ∧
  (∃ (s : State),
    s.loop = 6 ∧
    s.clk.floor = false ∧
    s.clk.heldAt + s.holdTime ≤ s.frame ∧
    s.evt.inReset = false) ∧
  (∃ (s : State),
    (s.loop ≠ 7 ∨ s.bit Reg.CORESTAT_COAST = true)) ∧
  (∃ (s : State),
    s.loop = 7 ∧
    s.bit Reg.CORESTAT_COAST = false ∧
    s.evt.inReset = false ∧
    s.clk.back = true ∧
    s.inputUsable (s.coastInput % 4) = true ∧
    s.floorHolds = false) ∧
  (∃ (s : State),
    s.loop = 7 ∧
    s.bit Reg.CORESTAT_COAST = false ∧
    s.evt.inReset = false ∧
    ((s.clk.back = false ∨ s.inputUsable (s.coastInput % 4) = false ∨ s.floorHolds = true))) ∧
  (∃ (s : State),
    s.evt.inReset = false ∧
    s.evt.once.contains 7 = false) ∧
  (∃ (a : BitVec 16) (b : BitVec 16) (s : State),
    s.clk.first = true) ∧
  (∃ (a : BitVec 16) (b : BitVec 16) (s : State),
    s.clk.first = false) ∧
  (∃ (d : Fin 22) (b : Bool) (s : State),
    s.evt.inReset = false) :=
  ⟨⟨24576000, { (w up [(Reg.CORESTAT_STATE, 0), (Reg.LOOPINIT_AUTO, 1), (Reg.MGSTAT_LOOP_WAIT, 0), (Reg.LOOPINIT_MULT, 2)]) with pwr := pwrUp, clk := Clk.reset }, by decide +kernel⟩,
   ⟨0, { (w up [(Reg.CORESTAT_STATE, 0), (Reg.LOOPINIT_AUTO, 1), (Reg.MGSTAT_LOOP_WAIT, 0)]) with pwr := pwrUp, clk := Clk.reset }, by decide +kernel⟩,
   ⟨22579200, { (w up [(Reg.CORESTAT_STATE, 0), (Reg.LOOPINIT_AUTO, 1), (Reg.LOOPINIT_MULT, 2)]) with clk := Clk.reset }, by decide +kernel⟩,
   ⟨0, false, up, by decide +kernel⟩,
   ⟨{ (w up [(Reg.CORESTAT_STATE, 7)]) with clk := { up.clk with floor := false, first := false } }, by decide +kernel⟩,
   ⟨{ (w up [(Reg.CORESTAT_STATE, 5)]) with clk := { up.clk with floor := false, first := false } }, by decide +kernel⟩,
   ⟨{ (w up [(Reg.CORESTAT_STATE, 0), (Reg.CORECFG_INSEL, 0)]) with clk := { up.clk with floor := false, first := false } }, by decide +kernel⟩,
   ⟨{ (w up [(Reg.CORESTAT_STATE, 7), (Reg.CORESTAT_COAST, 1), (Reg.CORECFG_INSEL, 0), (Reg.PWRSTAT_STATE, 1)]) with pwr := pwrUp }, by decide +kernel⟩,
   ⟨31, 0xFFF, { (w up [(Reg.CORESTAT_STATE, 1)]) with clk := { up.clk with floor := false, first := false } }, by decide +kernel⟩,
   ⟨31, 0xFFF, { (w up [(Reg.CORESTAT_STATE, 1)]) with clk := { up.clk with floor := false, first := false } }, by decide +kernel⟩,
   ⟨{ (w up [(Reg.CORESTAT_STATE, 2)]) with clk := { up.clk with floor := false, first := false, ramp := false } }, by decide +kernel⟩,
   ⟨{ (w up [(Reg.CORESTAT_STATE, 2), (Reg.CORENINT_NINT, 64)]) with clk := { up.clk with floor := false, first := false, ramp := true } }, by decide +kernel⟩,
   ⟨{ (w up [(Reg.CORESTAT_STATE, 2), (Reg.CORENINT_NINT, 64)]) with clk := { up.clk with floor := false, first := false, ramp := true, n := 2 ^ 30 } }, by decide +kernel⟩,
   ⟨31, 0xFFF, false, { (w up [(Reg.CORESTAT_STATE, 2)]) with clk := { up.clk with floor := false, first := false } }, by decide +kernel⟩,
   ⟨{ (w up [(Reg.CORESTAT_STATE, 1)]) with clk := { up.clk with floor := false, first := false } }, by decide +kernel⟩,
   ⟨{ (w up [(Reg.CORESTAT_STATE, 3)]) with clk := { up.clk with first := false, n := 2 ^ 29 } }, by decide +kernel⟩,
   ⟨{ (w up [(Reg.CORESTAT_STATE, 3)]) with clk := { up.clk with floor := false, first := false } }, by decide +kernel⟩,
   ⟨{ (w up [(Reg.CORESTAT_STATE, 2)]) with clk := { up.clk with floor := false, first := true, init := some (65535, 2 ^ 24 - 1, 3, 1, 3), ramp := false } }, 65535, 2 ^ 24 - 1, 3, 1, 3, by decide +kernel⟩,
   ⟨{ (w up [(Reg.CORESTAT_STATE, 2)]) with clk := { up.clk with floor := false, first := false } }, by decide +kernel⟩,
   ⟨{ (w up [(Reg.CORESTAT_STATE, 3)]) with clk := { up.clk with first := false, n := 2 ^ 30 - 10000 } }, by decide +kernel⟩,
   ⟨{ (w up [(Reg.CORESTAT_STATE, 4), (Reg.CORECTL_SSC, 0)]) with clk := { up.clk with floor := false, first := false } }, by decide +kernel⟩,
   ⟨0, { (w up [(Reg.CORESTAT_STATE, 0)]) with clk := { up.clk with floor := false, first := false } }, by decide +kernel⟩,
   ⟨0, { (w up [(Reg.CORESTAT_STATE, 7)]) with clk := { up.clk with floor := false, first := false } }, by decide +kernel⟩,
   ⟨0, { (w up [(Reg.CORESTAT_STATE, 5), (Reg.REFFB_WCK0_EN, 0), (Reg.REFFB_WCK1_EN, 0), (Reg.REFFB_LINK_EN, 0)]) with clk := { up.clk with floor := false, first := false } }, by decide +kernel⟩,
   ⟨1000, { (w up [(Reg.CORESTAT_STATE, 6), (Reg.CORESTAT_INPUT_LOST, 1), (Reg.CLKCAP_CAPWIN, 1000), (Reg.REF_STATE 0, 3)]) with clk := { up.clk with floor := false, first := false } }, by decide +kernel⟩,
   ⟨1001, { (w up [(Reg.CORESTAT_STATE, 6), (Reg.CORESTAT_INPUT_LOST, 1), (Reg.CLKCAP_CAPWIN, 1000), (Reg.REF_STATE 0, 3)]) with clk := { up.clk with floor := false, first := false } }, by decide +kernel⟩,
   ⟨1000, up, by decide +kernel⟩,
   ⟨1000, { (w up [(Reg.CORESTAT_STATE, 7), (Reg.CORESTAT_INPUT_LOST, 1)]) with clk := { up.clk with floor := false, first := false } }, by decide +kernel⟩,
   ⟨{ (w up [(Reg.CORESTAT_STATE, 6)]) with clk := { up.clk with floor := false, first := false } }, by decide +kernel⟩,
   ⟨{ (w up [(Reg.CORESTAT_STATE, 6), (Reg.REFTIME_HOLD_TIME, 0)]) with clk := { up.clk with floor := false, first := false } }, by decide +kernel⟩,
   ⟨{ (w up [(Reg.CORESTAT_STATE, 7), (Reg.CORESTAT_COAST, 1)]) with clk := { up.clk with floor := false, first := false } }, by decide +kernel⟩,
   ⟨{ (w up [(Reg.CORESTAT_STATE, 7)]) with clk := { up.clk with floor := false, first := false, back := true } }, by decide +kernel⟩,
   ⟨{ (w up [(Reg.CORESTAT_STATE, 7), (Reg.CORESTAT_COAST, 0)]) with clk := { up.clk with floor := false, first := false } }, by decide +kernel⟩,
   ⟨up, by decide +kernel⟩,
   ⟨0, 0, { up with clk := Clk.reset }, by decide +kernel⟩,
   ⟨0, 0xFFFF, { (w up [(Reg.CORESTAT_STATE, 1)]) with clk := { up.clk with floor := false, first := false } }, by decide +kernel⟩,
   ⟨21, false, (w up [(Reg.DLLSTAT_LOCKED, 2097152)]), by decide +kernel⟩⟩

theorem test_wit_Islands :
  (∃ (i : BitVec 10) (s : State),
    s.bit Reg.ISLSTAT_BUSY = true) ∧
  (∃ (i : BitVec 10) (s : State),
    s.bit Reg.ISLSTAT_BUSY = false ∧
    s.clk.gated.contains i.toNat = true ∧
    i.toNat < 0x159) ∧
  (∃ (i : BitVec 10) (s : State),
    s.bit Reg.ISLSTAT_BUSY = false ∧
    s.clk.gated.contains i.toNat = false ∧
    i.toNat < 0x159) ∧
  (∃ (i : BitVec 10) (s : State),
    s.bit Reg.ISLSTAT_BUSY = false ∧
    i.toNat < 0x159 ∧
    i.toNat ≠ 0x148) ∧
  (∃ (i : BitVec 10) (s : State),
    s.bit Reg.ISLSTAT_BUSY = false ∧
    (0x159 ≤ i.toNat ∨ i.toNat = 0x148) ∧
    s.evt.inReset = false) ∧
  (∃ (i : BitVec 10) (s : State),
    s.bit Reg.ISLSTAT_BUSY = false ∧
    0x159 ≤ i.toNat ∧
    s.evt.inReset = false) ∧
  (∃ (i : BitVec 10) (s : State),
    s.bit Reg.ISLSTAT_BUSY = false ∧
    i.toNat < 0x159 ∧
    i.toNat ≠ 0x148) ∧
  (∃ (i : BitVec 10) (s : State),
    s.bit Reg.ISLSTAT_BUSY = false ∧
    i.toNat < 0x159 ∧
    i.toNat ≠ 0x148 ∧
    s.fab.reqs = [] ∧
    s.bit Reg.FABLOCK_M0_OPEN = false ∧
    s.bit Reg.FABLOCK_M4_OPEN = false ∧
    s.evt.inReset = false) ∧
  (∃ (i : Nat) (s : State),
    s.clk.gating = some i ∧
    s.islandIdle i = false) ∧
  (∃ (i : Nat) (s : State),
    s.clk.gating = some i ∧
    s.resetHolds i = false ∧
    s.islandIdle i = true) ∧
  (∃ (i : Nat) (s : State),
    s.clk.gating = some i ∧
    s.resetHolds i = false ∧
    s.idleTimeout ≤ s.fclkSince s.clk.gateAt) ∧
  (∃ (i : Nat) (s : State),
    s.clk.gating = some i ∧
    s.fclkSince s.clk.gateAt < s.idleTimeout) ∧
  (∃ (i : Nat) (s : State),
    s.clk.gating = some i ∧
    s.resetHolds i = true) ∧
  (∃ (s : State),
    s.clk.gating = none) :=
  ⟨⟨0, (w up [(Reg.ISLSTAT_BUSY, 1)]), by decide +kernel⟩,
   ⟨0x158, { (w up [(Reg.ISLSTAT_BUSY, 0)]) with clk := { up.clk with gated := [0x158] }, fab := Fab.reset, pwr := pwrUp }, by decide +kernel⟩,
   ⟨0x158, { (w up [(Reg.ISLSTAT_BUSY, 0)]) with clk := { up.clk with gated := [] }, fab := Fab.reset, pwr := pwrUp }, by decide +kernel⟩,
   ⟨0x158, { (w up [(Reg.ISLSTAT_BUSY, 0)]) with clk := { up.clk with gated := [] }, fab := Fab.reset, pwr := pwrUp }, by decide +kernel⟩,
   ⟨0x148, { (w up [(Reg.ISLSTAT_BUSY, 0)]) with clk := { up.clk with gated := [] }, fab := Fab.reset, pwr := pwrUp }, by decide +kernel⟩,
   ⟨0x159, (w up [(Reg.ISLSTAT_BUSY, 0)]), by decide +kernel⟩,
   ⟨0x158, { (w up [(Reg.ISLSTAT_BUSY, 0)]) with clk := { up.clk with gated := [] }, fab := Fab.reset, pwr := pwrUp }, by decide +kernel⟩,
   ⟨0x158, { (w up [(Reg.ISLSTAT_BUSY, 0), (Reg.FABLOCK_M0_OPEN, 0), (Reg.FABLOCK_M4_OPEN, 0)]) with clk := { up.clk with gated := [] }, fab := Fab.reset, pwr := pwrUp }, by decide +kernel⟩,
   ⟨islBank 0, { up with clk := { up.clk with gating := some (islBank 0) }, fab := { Fab.reset with reqs := [⟨4, 15, .read, 0x40000000, 1, [], 4, 0, 2 ^ 32, 0, true, false, 0, false, 7⟩] } }, by decide +kernel⟩,
   ⟨0x158, { (w up [(Reg.ISLSTAT_BUSY, 0)]) with clk := { up.clk with gating := some 0x158, gated := [] }, fab := Fab.reset, pwr := pwrUp }, by decide +kernel⟩,
   ⟨0, { (w up [(Reg.FABTIME_TIME, 0x10000)]) with clk := { up.clk with gating := some 0, gateAt := (0, 95) } }, by decide +kernel⟩,
   ⟨0, { (w up [(Reg.FABTIME_TIME, 63)]) with clk := { up.clk with gating := some 0, gateAt := (0, 2 ^ 64 - 1) }, pwr := { pwrUp with rst := some (0, 0) } }, by decide +kernel⟩,
   ⟨0, { up with clk := { up.clk with gating := some 0 }, pwr := { pwrUp with rst := some (0, 0) } }, by decide +kernel⟩,
   ⟨{ up with clk := { up.clk with gating := none } }, by decide +kernel⟩⟩

theorem test_wit_ReferenceInputs :
  (∃ (r : Fin 6) (d : BitVec 32) (b : BitVec 32) (s : State),
    s.bit (Reg.REF_PRESENT r) = true) ∧
  (∃ (r : Fin 6) (d : BitVec 32) (b : BitVec 32) (s : State),
    s.bit (Reg.REF_PRESENT r) = false) ∧
  (∃ (b : BitVec 32) (s : State),
    s.switchSettled = true ∧
    s.bit Reg.REFSTAT_FALLBACK = false ∧
    s.refs.target < 6 ∧
    s.refState s.refs.target = 3 ∧
    s.refs.ctl = none ∧
    s.bit Reg.REFCTL_FORCE_EN = false ∧
    s.bit Reg.REFCFG_REVERT = false ∧
    s.evt.inReset = false) ∧
  (∃ (b : BitVec 32) (s : State),
    s.switchSettled = true ∧
    s.evt.inReset = false) ∧
  (∃ (r : Fin 6) (d : BitVec 32) (b : BitVec 32) (s : State),
    (s.refState r ≠ 2 ∨ s.refTimer r ≠ 0)) ∧
  (∃ (r : Fin 6) (d : BitVec 32) (b : BitVec 32) (s : State),
    (s.refState r ≠ 4 ∨ s.refTimer r ≠ 0)) ∧
  (∃ (b : BitVec 32) (s : State),
    s.switchSettled = false) ∧
  (∃ (r : Fin 6) (d : BitVec 32) (b : BitVec 32) (s : State),
    s.refState r = 2 ∧
    s.refTimer r = 0 ∧
    s.evt.inReset = false) ∧
  (∃ (r : Fin 6) (d : BitVec 32) (b : BitVec 32) (s : State),
    s.refState r = 4 ∧
    s.refTimer r = 0 ∧
    s.evt.inReset = false) ∧
  (∃ (s : State),
    s.bit Reg.REFSTAT_SWITCHING = false ∧
    s.bit Reg.REFSTAT_HOLDOVER = false ∧
    s.bit Reg.REFSTAT_FALLBACK = false ∧
    s.bit Reg.REFCFG_MODE = false ∧
    s.get Reg.REFSTAT_SEL ≠ 0 ∧
    s.get Reg.REFSTAT_SEL ≠ 7 ∧
    s.loop = 5) ∧
  (∃ (s : State),
    (s.bit Reg.REFSTAT_SWITCHING = true ∨ s.bit Reg.REFSTAT_HOLDOVER = true ∨ s.bit Reg.REFSTAT_FALLBACK = true ∨
    s.bit Reg.REFCFG_MODE = true ∨ s.get Reg.REFSTAT_SEL = 0 ∨ s.get Reg.REFSTAT_SEL = 7 ∨ s.loop ≠ 5) ∧
    s.evt.inReset = false) ∧
  (∃ (s : State),
    (s.bit Reg.REFSTAT_REALIGNING = false ∨ s.slewReached = false)) ∧
  (∃ (s : State),
    s.bit Reg.REFSTAT_REALIGNING = true ∧
    s.slewReached = true ∧
    s.evt.inReset = false) ∧
  (∃ (v : BitVec 32) (s : State),
    s.bit Reg.REFCFG_MODE = true) ∧
  (∃ (v : BitVec 32) (s : State),
    s.bit Reg.REFCFG_MODE = false) ∧
  (∃ (s : State),
    (s.bit Reg.REFCFG_MODE = false ∨ s.frame < s.refs.swAt + 16 * Nat.max 1 (s.get Reg.REFFB_SW_TO) ∨
    s.bit Reg.REFSTAT_SW_STALE = true)) ∧
  (∃ (s : State),
    s.bit Reg.REFCFG_MODE = true ∧
    s.refs.swAt + 16 * Nat.max 1 (s.get Reg.REFFB_SW_TO) ≤ s.frame ∧
    s.bit Reg.REFSTAT_SW_STALE = false ∧
    s.evt.inReset = false) :=
  ⟨⟨5, 0, 0, (w up [(Reg.REF_PRESENT 5, 1), (Reg.REF_STATE 5, 3), (Reg.REFTIME_HOLDOFF, 0)]), by decide +kernel⟩,
   ⟨5, 0, 0, (w up [(Reg.REF_PRESENT 5, 0)]), by decide +kernel⟩,
   ⟨7, { (w up [(Reg.REFSTAT_SWITCHING, 1), (Reg.REFSTAT_FALLBACK, 0), (Reg.REF_STATE 5, 3), (Reg.REFCTL_FORCE_EN, 0), (Reg.REFCFG_REVERT, 0)]) with refs := { Refs.reset with target := 5 } }, by decide +kernel⟩,
   ⟨0, { (w up [(Reg.REFSTAT_SWITCHING, 1), (Reg.REFCFG_MODE, 0), (Reg.REFSTEER_STEER, 42)]) with refs := { Refs.reset with target := 0 } }, by decide +kernel⟩,
   ⟨5, 0, 0, up, by decide +kernel⟩,
   ⟨5, 0, 0, up, by decide +kernel⟩,
   ⟨0, { (w up [(Reg.REFSTAT_SWITCHING, 1), (Reg.REFCFG_MODE, 0), (Reg.REFSTEER_STEER, 43)]) with refs := { Refs.reset with target := 0 } }, by decide +kernel⟩,
   ⟨5, 0, 0, (w up [(Reg.REF_STATE 5, 2), (Reg.REFTIME_WTR, 0)]), by decide +kernel⟩,
   ⟨5, 0, 0, (w up [(Reg.REF_STATE 5, 4), (Reg.REFTIME_HOLDOFF, 0)]), by decide +kernel⟩,
   ⟨(w up [(Reg.REFSTAT_SWITCHING, 0), (Reg.REFSTAT_HOLDOVER, 0), (Reg.REFSTAT_FALLBACK, 0), (Reg.REFCFG_MODE, 0), (Reg.REFSTAT_SEL, 5), (Reg.CORESTAT_STATE, 5)]), by decide +kernel⟩,
   ⟨(w up [(Reg.REFSTAT_SWITCHING, 0), (Reg.REFSTAT_HOLDOVER, 0), (Reg.REFSTAT_FALLBACK, 0), (Reg.REFCFG_MODE, 0), (Reg.REFSTAT_SEL, 0), (Reg.CORESTAT_STATE, 5)]), by decide +kernel⟩,
   ⟨up, by decide +kernel⟩,
   ⟨(w up [(Reg.REFSTAT_REALIGNING, 1), (Reg.REFBO_BO, 5)]), by decide +kernel⟩,
   ⟨0x80000000, (w up [(Reg.REFCFG_MODE, 1)]), by decide +kernel⟩,
   ⟨0, (w up [(Reg.REFCFG_MODE, 0)]), by decide +kernel⟩,
   ⟨up, by decide +kernel⟩,
   ⟨{ (w up [(Reg.REFCFG_MODE, 1), (Reg.REFFB_SW_TO, 0), (Reg.REFSTAT_SW_STALE, 0)]) with frame := 116, refs := { Refs.reset with swAt := 100 } }, by decide +kernel⟩⟩

theorem test_wit_TimeDomains :
  (∃ (d : Fin 2) (s : State),
    (s.domain d).legal) ∧
  (∃ (d : Fin 2) (b : BitVec 32) (s : State),
    s.get (Reg.TC_SET_NS_NS d) < 1000000000 ∧
    s.evt.inReset = false) ∧
  (∃ (d : Fin 2) (b : BitVec 32) (s : State),
    1000000000 ≤ s.get (Reg.TC_SET_NS_NS d) ∧
    s.evt.inReset = false) ∧
  (∃ (d : Fin 2) (b : BitVec 32) (s : State),
    (s.domain d).legal ∧
    s.evt.inReset = false) :=
  ⟨⟨1, up, by unfold Domain.legal; decide +kernel⟩,
   ⟨1, 0, (w up [(Reg.TC_SET_NS_NS 1, 999999999)]), by decide +kernel⟩,
   ⟨1, 0, (w up [(Reg.TC_SET_NS_NS 1, 1000000000)]), by decide +kernel⟩,
   ⟨1, 0, (w up [(Reg.TC_ADJ_ADJ 1, 2 ^ 32 - 1)]), by unfold Domain.legal; decide +kernel, by decide +kernel⟩⟩

theorem test_wit_NetworkPortsAndQueues :
  (∃ (n : Fin 4) (v : BitVec 32) (s : State),
    s.bit (Reg.NETCFG_EN n) = false) ∧
  (∃ (n : Fin 4) (v : BitVec 32) (s : State),
    s.bit (Reg.NETCFG_EN n) = true ∧
    v.getLsbD 0 = true) ∧
  (∃ (n : Fin 4) (v : BitVec 32) (s : State),
    s.bit (Reg.NETCFG_EN n) = true ∧
    v.getLsbD 0 = false) ∧
  (∃ (n : Fin 4) (r : Bool) (s : State),
    s.islandStopped (islNet n) = false ∧
    s.bit (Reg.NETCFG_EN n) = true ∧
    s.bit (Reg.NETSTAT_LINK n) = false ∧
    s.evt.inReset = false) ∧
  (∃ (n : Fin 4) (r : Bool) (s : State),
    (s.islandStopped (islNet n) = true ∨ s.bit (Reg.NETCFG_EN n) = false ∨
    s.bit (Reg.NETSTAT_LINK n) = true)) ∧
  (∃ (n : Fin 4) (s : State),
    s.netSignalsFault n = true) ∧
  (∃ (n : Fin 4) (lock : Bool) (fec : Bool) (fault : Bool) (r : Bool) (s : State),
    s.bit (Reg.NETCFG_EN n) = true ∧
    s.bit (Reg.NETSTAT_LINK n) = true ∧
    ((lock = false ∨ (s.netFec n = true ∧ fec = false) ∨ fault = true)) ∧
    s.evt.inReset = false) ∧
  (∃ (n : Fin 4) (lock : Bool) (fec : Bool) (fault : Bool) (r : Bool) (s : State),
    s.bit (Reg.NETCFG_EN n) = true ∧
    s.bit (Reg.NETSTAT_LINK n) = false ∧
    ((lock = false ∨ (s.netFec n = true ∧ fec = false) ∨ fault = true))) ∧
  (∃ (n : Fin 4) (lock : Bool) (fec : Bool) (fault : Bool) (r : Bool) (s : State),
    (s.bit (Reg.NETCFG_EN n) = false ∨
    (lock = true ∧ (s.netFec n = false ∨ fec = true) ∧ fault = false))) ∧
  (∃ (n : Fin 4) (s : State),
    s.bit (Reg.NETSTAT_PAUSED n) = false) ∧
  (∃ (n : Fin 4) (s : State),
    s.bit (Reg.NETSTAT_PAUSED n) = true) ∧
  (∃ (n : Fin 4) (bs : List (BitVec 8)) (u : BitVec 8) (age : BitVec 32) (s : State),
    s.islandStopped (islNet n) = false ∧
    s.bit (Reg.NETCFG_EN n) = true ∧
    s.bit (Reg.NETSTAT_LINK n) = true ∧
    s.netFec n = false ∧
    60 ≤ bs.length ∧
    bs.length + 4 ≤ s.netMaxLen n ∧
    s.evt.inReset = false ∧
    s.evt.once.contains 36 = false) ∧
  (∃ (n : Fin 4) (bs : List (BitVec 8)) (u : BitVec 8) (age : BitVec 32) (s : State),
    s.islandStopped (islNet n) = false ∧
    s.bit (Reg.NETCFG_EN n) = true ∧
    s.bit (Reg.NETSTAT_LINK n) = true ∧
    s.netFec n = false ∧
    60 ≤ bs.length ∧
    bs.length + 4 ≤ s.netMaxLen n ∧
    s.bit (Reg.NETCFG_PAUSE_IGN n) = false ∧
    s.evt.inReset = false ∧
    field (bs.map BitVec.toNat) 12 2 = 0x8808 ∧
    field (bs.map BitVec.toNat) 14 2 = 1) ∧
  (∃ (n : Fin 4) (bs : List (BitVec 8)) (u : BitVec 8) (age : BitVec 32) (s : State),
    s.islandStopped (islNet n) = false ∧
    s.bit (Reg.NETCFG_EN n) = true ∧
    s.bit (Reg.NETSTAT_LINK n) = true ∧
    s.netFec n = false ∧
    ((bs.length < 60 ∨ s.netMaxLen n < bs.length + 4)) ∧
    s.evt.inReset = false ∧
    s.evt.once.contains 36 = false) ∧
  (∃ (n : Fin 4) (bs : List (BitVec 8)) (u : BitVec 8) (age : BitVec 32) (s : State),
    s.islandStopped (islNet n) = false ∧
    s.bit (Reg.NETCFG_EN n) = true ∧
    s.bit (Reg.NETSTAT_LINK n) = true ∧
    s.netFec n = false ∧
    60 ≤ bs.length ∧
    bs.length + 4 ≤ s.netMaxLen n ∧
    field (bs.map BitVec.toNat) 12 2 = 0x8808 ∧
    ((field (bs.map BitVec.toNat) 14 2 = 1 → s.bit (Reg.NETCFG_PAUSE_IGN n) = true))) ∧
  (∃ (n : Fin 4) (bs : List (BitVec 8)) (c : Bool) (u : BitVec 8) (age : BitVec 32) (s : State),
    (s.islandStopped (islNet n) = true ∨ s.bit (Reg.NETCFG_EN n) = false ∨ s.bit (Reg.NETSTAT_LINK n) = false)) ∧
  (∃ (n : Fin 4) (x : BitVec 32) (s : State),
    let tail := s.get (Reg.NETTXQ_TAIL_PTR n)
    let w (i : Nat) : Nat := s.ringWord (txRing n) (tail + 4 * i)
    s.islandStopped (islNet n) = false ∧
    s.netFree n = true ∧
    s.get (Reg.NETTXQ_HEAD_PTR n) ≠ s.get (Reg.NETTXQ_TAIL_PTR n) ∧
    (s.netPort n).queue = [] ∧
    s.txBad n (w 0) (w 1) (w 3) = false ∧
    (w 0).testBit 14 = false) ∧
  (∃ (n : Fin 4) (x : BitVec 32) (s : State),
    let tail := s.get (Reg.NETTXQ_TAIL_PTR n)
    let w (i : Nat) : Nat := s.ringWord (txRing n) (tail + 4 * i)
    s.islandStopped (islNet n) = false ∧
    s.netFree n = true ∧
    s.get (Reg.NETTXQ_HEAD_PTR n) ≠ s.get (Reg.NETTXQ_TAIL_PTR n) ∧
    (s.netPort n).queue = [] ∧
    s.txBad n (w 0) (w 1) (w 3) = false ∧
    (w 0).testBit 14 = true ∧
    (s.netPort n).stamps.length < 16 ∧
    s.evt.inReset = false) ∧
  (∃ (n : Fin 4) (x : BitVec 32) (s : State),
    let tail := s.get (Reg.NETTXQ_TAIL_PTR n)
    let w (i : Nat) : Nat := s.ringWord (txRing n) (tail + 4 * i)
    s.islandStopped (islNet n) = false ∧
    s.netFree n = true ∧
    s.get (Reg.NETTXQ_HEAD_PTR n) ≠ s.get (Reg.NETTXQ_TAIL_PTR n) ∧
    (s.netPort n).queue = [] ∧
    (w 0).testBit 15 = false ∧
    (w 0).testBit 16 = false ∧
    (w 0).testBit 18 = false) ∧
  (∃ (n : Fin 4) (x : BitVec 32) (s : State),
    let tail := s.get (Reg.NETTXQ_TAIL_PTR n)
    let w (i : Nat) : Nat := s.ringWord (txRing n) (tail + 4 * i)
    s.islandStopped (islNet n) = false ∧
    s.netFree n = true ∧
    s.get (Reg.NETTXQ_HEAD_PTR n) ≠ s.get (Reg.NETTXQ_TAIL_PTR n) ∧
    (s.netPort n).queue = [] ∧
    s.txBad n (w 0) (w 1) (w 3) = true ∧
    s.evt.inReset = false) ∧
  (∃ (n : Fin 4) (x : BitVec 32) (s : State),
    (s.islandStopped (islNet n) = true ∨ s.netFree n = false ∨
    s.get (Reg.NETTXQ_HEAD_PTR n) = s.get (Reg.NETTXQ_TAIL_PTR n) ∨ (s.netPort n).queue ≠ [])) ∧
  (∃ (n : Fin 4) (e : Nat × List Nat) (rest : List (Nat × List Nat)) (s : State),
    (s.netPort n).queue = e :: rest ∧
    s.netFree n = true ∧
    s.islandStopped (islNet n) = false) ∧
  (∃ (n : Fin 4) (s : State),
    ((s.netPort n).queue = [] ∨ s.netFree n = false ∨ s.islandStopped (islNet n) = true)) :=
  ⟨⟨3, 0xFFFFFFFF, (w up [(Reg.NETCFG_EN 3, 0)]), by decide +kernel⟩,
   ⟨3, 9, (w up [(Reg.NETCFG_EN 3, 1)]), by decide +kernel⟩,
   ⟨3, 0, { (w up [(Reg.NETCFG_EN 3, 1), (Reg.NETSTAT_LINK 3, 1), (Reg.NETCFG_SPEED 3, 1), (Reg.NETCFG_FEC 3, 0), (Reg.NETSTAT_PAUSED 3, 0), (Reg.NETCFG_PAUSE_IGN 3, 0), (Reg.NETCFG_MAXLEN 3, 64)]) with pwr := pwrUp, clk := { up.clk with gated := [], gating := none }, net := { Net.reset with ports := [(3, { NetPort.reset with queue := [(127, [1])] })] } }, by decide +kernel⟩,
   ⟨3, true, { (w up [(Reg.NETCFG_EN 3, 1), (Reg.NETSTAT_LINK 3, 0), (Reg.NETCFG_SPEED 3, 1), (Reg.NETCFG_FEC 3, 1), (Reg.NETSTAT_PAUSED 3, 0), (Reg.NETCFG_PAUSE_IGN 3, 0), (Reg.NETCFG_MAXLEN 3, 64)]) with pwr := pwrUp, clk := { up.clk with gated := [], gating := none }, net := Net.reset }, by decide +kernel⟩,
   ⟨3, true, up, by decide +kernel⟩,
   ⟨3, (w up [(Reg.NETCFG_EN 3, 1), (Reg.NETSTAT_LOCAL_FAULT 3, 1)]), by decide +kernel⟩,
   ⟨3, true, true, true, false, { (w up [(Reg.NETCFG_EN 3, 1), (Reg.NETSTAT_LINK 3, 1), (Reg.NETCFG_SPEED 3, 1), (Reg.NETCFG_FEC 3, 0), (Reg.NETSTAT_PAUSED 3, 0), (Reg.NETCFG_PAUSE_IGN 3, 0), (Reg.NETCFG_MAXLEN 3, 64)]) with pwr := pwrUp, clk := { up.clk with gated := [], gating := none }, net := Net.reset }, by decide +kernel⟩,
   ⟨3, true, true, true, false, (w up [(Reg.NETCFG_EN 3, 1)]), by decide +kernel⟩,
   ⟨3, false, false, false, true, up, by decide +kernel⟩,
   ⟨3, up, by decide +kernel⟩,
   ⟨3, (w up [(Reg.NETSTAT_PAUSED 3, 1)]), by decide +kernel⟩,
   ⟨3, List.replicate 60 0, 0, 0, { (w up [(Reg.NETCFG_EN 3, 1), (Reg.NETSTAT_LINK 3, 1), (Reg.NETCFG_SPEED 3, 1), (Reg.NETCFG_FEC 3, 0), (Reg.NETSTAT_PAUSED 3, 0), (Reg.NETCFG_PAUSE_IGN 3, 0), (Reg.NETCFG_MAXLEN 3, 64)]) with pwr := pwrUp, clk := { up.clk with gated := [], gating := none }, net := Net.reset }, by decide +kernel⟩,
   ⟨3, (List.replicate 12 1 ++ [0x88, 8, 0, 1, 0xFF, 0xFF] ++ List.replicate 42 0), 0, 0, { (w up [(Reg.NETCFG_EN 3, 1), (Reg.NETSTAT_LINK 3, 1), (Reg.NETCFG_SPEED 3, 1), (Reg.NETCFG_FEC 3, 0), (Reg.NETSTAT_PAUSED 3, 0), (Reg.NETCFG_PAUSE_IGN 3, 0), (Reg.NETCFG_MAXLEN 3, 64)]) with pwr := pwrUp, clk := { up.clk with gated := [], gating := none }, net := Net.reset }, by decide +kernel⟩,
   ⟨3, List.replicate 59 0, 0, 0, { (w up [(Reg.NETCFG_EN 3, 1), (Reg.NETSTAT_LINK 3, 1), (Reg.NETCFG_MAXLEN 3, 64)]) with net := Net.reset }, by decide +kernel⟩,
   ⟨3, (List.replicate 12 1 ++ [0x88, 8, 0, 1, 0xFF, 0xFF] ++ List.replicate 42 0), 0, 0, { (w up [(Reg.NETCFG_EN 3, 1), (Reg.NETSTAT_LINK 3, 1), (Reg.NETCFG_MAXLEN 3, 64), (Reg.NETCFG_PAUSE_IGN 3, 1)]) with net := Net.reset }, by decide +kernel⟩,
   ⟨3, [], true, 0, 0, { (w up [(Reg.NETCFG_EN 3, 1), (Reg.NETSTAT_LINK 3, 0), (Reg.NETCFG_SPEED 3, 1), (Reg.NETCFG_FEC 3, 0), (Reg.NETSTAT_PAUSED 3, 0), (Reg.NETCFG_PAUSE_IGN 3, 0), (Reg.NETCFG_MAXLEN 3, 64)]) with pwr := pwrUp, clk := { up.clk with gated := [], gating := none }, net := Net.reset }, by decide +kernel⟩,
   ⟨3, 0, { (w up [(Reg.NETCFG_EN 3, 1), (Reg.NETSTAT_LINK 3, 1), (Reg.NETCFG_SPEED 3, 1), (Reg.NETCFG_FEC 3, 0), (Reg.NETSTAT_PAUSED 3, 0), (Reg.NETCFG_PAUSE_IGN 3, 0), (Reg.NETCFG_MAXLEN 3, 64), (Reg.NETTXQ_HEAD_PTR 3, 32), (Reg.NETTXQ_TAIL_PTR 3, 0)]) with pwr := pwrUp, clk := { up.clk with gated := [], gating := none }, net := Net.reset, mem := { up.mem with sram := [(txRing 3, Sinter.ofData 14)] } }, by decide +kernel⟩,
   ⟨3, 0, { (w up [(Reg.NETCFG_EN 3, 1), (Reg.NETSTAT_LINK 3, 1), (Reg.NETCFG_MAXLEN 3, 64), (Reg.NETTXQ_HEAD_PTR 3, 32), (Reg.NETTXQ_TAIL_PTR 3, 0)]) with net := Net.reset, mem := { up.mem with sram := [(txRing 3, Sinter.ofData 0x400E)] } }, by decide +kernel⟩,
   ⟨3, 0, { (w up [(Reg.NETCFG_EN 3, 1), (Reg.NETSTAT_LINK 3, 1), (Reg.NETCFG_SPEED 3, 1), (Reg.NETCFG_FEC 3, 0), (Reg.NETSTAT_PAUSED 3, 0), (Reg.NETCFG_PAUSE_IGN 3, 0), (Reg.NETCFG_MAXLEN 3, 64), (Reg.NETTXQ_HEAD_PTR 3, 32), (Reg.NETTXQ_TAIL_PTR 3, 0)]) with pwr := pwrUp, clk := { up.clk with gated := [], gating := none }, net := Net.reset, mem := { up.mem with sram := [(txRing 3, Sinter.ofData 14)] } }, by decide +kernel⟩,
   ⟨3, 0, { (w up [(Reg.NETCFG_EN 3, 1), (Reg.NETSTAT_LINK 3, 1), (Reg.NETCFG_SPEED 3, 1), (Reg.NETCFG_FEC 3, 0), (Reg.NETSTAT_PAUSED 3, 0), (Reg.NETCFG_PAUSE_IGN 3, 0), (Reg.NETCFG_MAXLEN 3, 64), (Reg.NETTXQ_HEAD_PTR 3, 32), (Reg.NETTXQ_TAIL_PTR 3, 0)]) with pwr := pwrUp, clk := { up.clk with gated := [], gating := none }, net := Net.reset, mem := { up.mem with sram := [(txRing 3, Sinter.ofData 13)] } }, by decide +kernel⟩,
   ⟨3, 0, up, by decide +kernel⟩,
   ⟨3, (5, [1, 2]), [], { (w up [(Reg.NETCFG_EN 3, 1), (Reg.NETSTAT_LINK 3, 1), (Reg.NETCFG_SPEED 3, 1), (Reg.NETCFG_FEC 3, 0), (Reg.NETSTAT_PAUSED 3, 0), (Reg.NETCFG_PAUSE_IGN 3, 0), (Reg.NETCFG_MAXLEN 3, 64)]) with pwr := pwrUp, clk := { up.clk with gated := [], gating := none }, net := { Net.reset with ports := [(3, { NetPort.reset with queue := [(5, [1, 2])] })] } }, by decide +kernel⟩,
   ⟨3, { (w up [(Reg.NETCFG_EN 3, 1), (Reg.NETSTAT_LINK 3, 1), (Reg.NETCFG_SPEED 3, 1), (Reg.NETCFG_FEC 3, 0), (Reg.NETSTAT_PAUSED 3, 0), (Reg.NETCFG_PAUSE_IGN 3, 0), (Reg.NETCFG_MAXLEN 3, 64)]) with pwr := pwrUp, clk := { up.clk with gated := [], gating := none }, net := Net.reset }, by decide +kernel⟩⟩

theorem test_wit_Streams :
  (∃ (n : Fin 128) (v : BitVec 32) (s : State),
    s.bit (Reg.STTX_EN n) = false) ∧
  (∃ (n : Fin 128) (v : BitVec 32) (s : State),
    s.bit (Reg.STRX_EN n) = false) ∧
  (∃ (n : Fin 128) (v : BitVec 32) (s : State),
    s.bit (Reg.STTX_EN n) = true) ∧
  (∃ (n : Fin 128) (v : BitVec 32) (s : State),
    s.bit (Reg.STRX_EN n) = true) ∧
  (∃ (r : Fin 128) (s : State),
    s.get (Reg.STRX_STATE r) = 2 ∧
    s.evt.inReset = false ∧
    8 * (if s.bit (Reg.STRX_PTIME r) then 6 else 48) * s.baseRate * s.mult ≤
      (s.frame - (s.streamRx r).lastAt) * (if 3 ≤ s.get (Reg.STRX_RATE r) then 44100 else 48000)) ∧
  (∃ (r : Fin 128) (x : Nat) (s : State),
    s.islandStopped islStream = false ∧
    s.bit (Reg.STRX_SYNC r) = false ∧
    s.get (Reg.STRX_STATE r) = 2 ∧
    (s.streamRx r).begun = true ∧
    (s.streamRx r).next = some x ∧
    s.sampleDue ≤ (s.streamRx r).due ∧
    ((∀ c, c < s.nNet → (s.valueAt (0x1A2000 + c) s.frame) = Sinter.zero))) ∧
  (∃ (r : Fin 128) (s : State),
    (s.islandStopped islStream = true ∨ s.bit (Reg.STRX_SYNC r) = true ∨ s.get (Reg.STRX_STATE r) ≠ 2 ∨
    (s.streamRx r).begun = false ∨ (s.streamRx r).due < s.sampleDue ∨ (s.streamRx r).next = none)) ∧
  (∃ (r : Fin 128) (s : State),
    s.get (Reg.STRX_STATE r) ≠ 2) :=
  ⟨⟨127, 0x7FFFFFFF, (w up [(Reg.STTX_EN 127, 0)]), by decide +kernel⟩,
   ⟨127, 0x7FFFFFFF, (w up [(Reg.STRX_EN 127, 0)]), by decide +kernel⟩,
   ⟨127, 0, (w up [(Reg.STTX_EN 127, 1)]), by decide +kernel⟩,
   ⟨127, 0, (w up [(Reg.STRX_EN 127, 1)]), by decide +kernel⟩,
   ⟨127, { (w up [(Reg.STRX_STATE 127, 2), (Reg.STRX_PTIME 127, 1), (Reg.STRX_RATE 127, 1), (Reg.PWRRATE_FAMILY_NOW, 0), (Reg.PWRRATE_MULT_NOW, 0)]) with frame := 148, net := { Net.reset with rx := [(127, { StreamRx.reset with lastAt := 100 })] } }, by decide +kernel⟩,
   ⟨127, 2 ^ 32 - 1, { (w up [(Reg.STRX_SYNC 127, 0), (Reg.STRX_STATE 127, 2)]) with gys := Gys.reset, mem := { up.mem with sram := [] }, net := { Net.reset with rx := [(127, { StreamRx.reset with next := some (2 ^ 32 - 1), begun := true, due := 10 ^ 30 })] } }, by decide +kernel⟩,
   ⟨127, { (w up [(Reg.STRX_SYNC 127, 0), (Reg.STRX_STATE 127, 2), (Reg.PWRRATE_MULT_NOW, 2)]) with pwr := pwrUp, gys := Gys.reset, mem := { up.mem with sram := [] }, clk := { up.clk with gated := [], gating := none }, net := { Net.reset with rx := [(127, { StreamRx.reset with next := some (2 ^ 32 - 1), begun := true })] } }, by decide +kernel⟩,
   ⟨127, (w up [(Reg.STRX_EN 127, 1)]), by decide +kernel⟩⟩

theorem test_wit_Links :
  (∃ (n : Fin 4) (v : BitVec 2) (s : State),
    v.getLsbD 0 = true) ∧
  (∃ (n : Fin 4) (v : BitVec 2) (s : State),
    v.getLsbD 0 = false) ∧
  (∃ (n : Fin 4) (s : State),
    s.islandStopped (islLink n) = false ∧
    s.bit (Reg.LNKCFG_EN n) = true ∧
    s.linkState n = 0) ∧
  (∃ (n : Fin 4) (s : State),
    (s.islandStopped (islLink n) = true ∨ s.bit (Reg.LNKCFG_EN n) = false ∨ s.linkState n ≠ 0)) ∧
  (∃ (n : Fin 4) (p : BitVec 3) (rtt : BitVec 16) (sw : Bool) (p0 : Bool) (p1 : Bool) (s : State),
    s.islandStopped (islLink n) = false ∧
    s.linkState n = 1 ∧
    s.rttLong rtt.toNat = false ∧
    p.toNat ≠ s.cascadeId ∧
    (((sw || p0 || p1) = true → s.bit (Reg.LNKCFG_AUTOFIX n) = true)) ∧
    s.evt.inReset = false) ∧
  (∃ (n : Fin 4) (p : BitVec 3) (rtt : BitVec 16) (sw : Bool) (p0 : Bool) (p1 : Bool) (s : State),
    (s.islandStopped (islLink n) = true ∨ s.linkState n ≠ 1)) ∧
  (∃ (n : Fin 4) (p : BitVec 3) (rtt : BitVec 16) (sw : Bool) (p0 : Bool) (p1 : Bool) (s : State),
    s.islandStopped (islLink n) = false ∧
    s.linkState n = 1 ∧
    ((s.rttLong rtt.toNat = true ∨ p.toNat = s.cascadeId ∨ ((sw || p0 || p1) = true ∧ s.bit (Reg.LNKCFG_AUTOFIX n) = false)))) ∧
  (∃ (n : Fin 4) (lost : Bool) (s : State),
    s.linkState n = 2 ∧
    ((lost = true ∨ 4 ≤ s.lnk.crc.look 0 n)) ∧
    s.evt.inReset = false) ∧
  (∃ (n : Fin 4) (lost : Bool) (s : State),
    (s.linkState n ≠ 2 ∨ (lost = false ∧ s.lnk.crc.look 0 n < 4))) ∧
  (∃ (n : Fin 4) (h : LinkHead) (ph : BitVec 13) (c : Bool) (w : LinkWords) (p : Option PairRecord) (s : State),
    (s.islandStopped (islLink n) = true ∨ s.linkState n ≠ 2)) ∧
  (∃ (n : Fin 4) (h : LinkHead) (ph : BitVec 13) (c : Fin 256) (x : Sinter) (s : State),
    s.islandStopped (islLink n) = false ∧
    s.linkState n = 2 ∧
    s.cascMode = 0 ∧
    s.lnk.fcBad = false ∧
    s.boundTo (0x800 + 256 * n.val + c.val) = [] ∧
    x.faulty = false) ∧
  (∃ (n : Fin 4) (h : LinkHead) (ph : BitVec 13) (c : Fin 256) (x : Sinter) (s : State),
    s.islandStopped (islLink n) = false ∧
    s.linkState n = 2 ∧
    s.cascMode = 0 ∧
    s.lnk.fcBad = false ∧
    s.boundTo (0x800 + 256 * n.val + c.val) = [] ∧
    s.lnk.crc.look 0 n < 3) ∧
  (∃ (n : Fin 4) (h : LinkHead) (ph : BitVec 13) (c : Fin 256) (x : Sinter) (s : State),
    s.islandStopped (islLink n) = false ∧
    s.linkState n = 2 ∧
    s.cascMode = 0 ∧
    s.lnk.fcBad = false ∧
    s.boundTo (0x800 + 256 * n.val + c.val) = [] ∧
    3 ≤ s.lnk.crc.look 0 n) ∧
  (∃ (n : Fin 4) (o : Fin 8) (q : Nat) (chip : Nat) (ph : BitVec 13) (s : State),
    s.islandStopped (islLink n) = false ∧
    s.linkState n = 2 ∧
    o.val ≠ s.cascadeId ∧
    s.lnk.seen.contains (o.val, q) = false ∧
    chip < 8) ∧
  (∃ (n : Fin 4) (o : Fin 8) (q : Nat) (f : Nat) (ph : BitVec 13) (s : State),
    s.islandStopped (islLink n) = false ∧
    s.linkState n = 2 ∧
    o.val ≠ s.cascadeId ∧
    s.lnk.seen.contains (o.val, q) = false ∧
    s.isMaster = false ∧
    s.bit Reg.LNKCASCSTAT_FC_SYNC = false ∧
    ((s.get Reg.PWRSTAT_STATE = 1 ∨ s.lnk.started = 0))) ∧
  (∃ (n : Fin 4) (o : Fin 8) (q : Nat) (m : CtrlMsg) (ph : BitVec 13) (s : State),
    (s.islandStopped (islLink n) = true ∨ s.linkState n ≠ 2 ∨ o.val = s.cascadeId ∨ s.lnk.seen.contains (o.val, q) = true)) ∧
  (∃ (c : Fin 8) (s : State),
    ((s.get Reg.LNKCASCSTAT_REACH).testBit c = false ∨ s.frame < s.lnk.heard.look 0 c + 64)) ∧
  (∃ (c : Fin 8) (s : State),
    (s.get Reg.LNKCASCSTAT_REACH).testBit c = true ∧
    s.lnk.heard.look 0 c + 64 ≤ s.frame ∧
    c.val ≤ s.get Reg.LNKCASC_NCHIPS ∧
    s.evt.inReset = false) :=
  ⟨⟨3, 3, up, by decide +kernel⟩,
   ⟨3, 2, up, by decide +kernel⟩,
   ⟨3, { (w up [(Reg.LNKCFG_EN 3, 1), (Reg.LNKSTAT_STATE 3, 0), (Reg.LNKCASCSTAT_ID, 0), (Reg.LNKCASC_MODE, 0), (Reg.LNKCFG_AUTOFIX 3, 0)]) with pwr := pwrUp, clk := { up.clk with gated := [], gating := none }, lnk := Lnk.reset }, by decide +kernel⟩,
   ⟨3, up, by decide +kernel⟩,
   ⟨3, 7, 786, false, false, false, { (w up [(Reg.LNKCFG_EN 3, 1), (Reg.LNKSTAT_STATE 3, 1), (Reg.LNKCASCSTAT_ID, 6), (Reg.PWRRATE_FAMILY_NOW, 0), (Reg.LNKCASC_MODE, 0), (Reg.LNKCFG_AUTOFIX 3, 0)]) with pwr := pwrUp, clk := { up.clk with gated := [], gating := none }, lnk := Lnk.reset }, by decide +kernel⟩,
   ⟨3, 7, 0, false, false, true, up, by decide +kernel⟩,
   ⟨3, 7, 0, false, false, true, { (w up [(Reg.LNKCFG_EN 3, 1), (Reg.LNKSTAT_STATE 3, 1), (Reg.LNKCASCSTAT_ID, 0), (Reg.LNKCASC_MODE, 0), (Reg.LNKCFG_AUTOFIX 3, 0)]) with pwr := pwrUp, clk := { up.clk with gated := [], gating := none }, lnk := Lnk.reset }, by decide +kernel⟩,
   ⟨3, false, { (w up [(Reg.LNKCFG_EN 3, 1), (Reg.LNKSTAT_STATE 3, 2), (Reg.LNKCASCSTAT_ID, 0), (Reg.LNKCASC_MODE, 0), (Reg.LNKCFG_AUTOFIX 3, 0)]) with pwr := pwrUp, clk := { up.clk with gated := [], gating := none }, lnk := { Lnk.reset with crc := [(3, 4)] } }, by decide +kernel⟩,
   ⟨3, false, { up with lnk := { up.lnk with crc := [(3, 3)] } }, by decide +kernel⟩,
   ⟨3, ⟨0, 0⟩, 0, false, ⟨[], [], []⟩, none, up, by decide +kernel⟩,
   ⟨3, ⟨0, 0⟩, 0, 255, Sinter.ofData 5, { (w up [(Reg.LNKCFG_EN 3, 1), (Reg.LNKSTAT_STATE 3, 2), (Reg.LNKCASCSTAT_ID, 0), (Reg.LNKCASC_MODE, 0), (Reg.LNKCFG_AUTOFIX 3, 0)]) with pwr := pwrUp, clk := { up.clk with gated := [], gating := none }, lnk := Lnk.reset }, by decide +kernel⟩,
   ⟨3, ⟨0, 0⟩, 0, 255, Sinter.ofData 5, { (w up [(Reg.LNKCFG_EN 3, 1), (Reg.LNKSTAT_STATE 3, 2), (Reg.LNKCASCSTAT_ID, 0), (Reg.LNKCASC_MODE, 0), (Reg.LNKCFG_AUTOFIX 3, 0)]) with pwr := pwrUp, clk := { up.clk with gated := [], gating := none }, lnk := { Lnk.reset with crc := [(3, 2)] } }, by decide +kernel⟩,
   ⟨3, ⟨0, 0⟩, 0, 255, Sinter.ofData 5, { (w up [(Reg.LNKCFG_EN 3, 1), (Reg.LNKSTAT_STATE 3, 2), (Reg.LNKCASCSTAT_ID, 0), (Reg.LNKCASC_MODE, 0), (Reg.LNKCFG_AUTOFIX 3, 0)]) with pwr := pwrUp, clk := { up.clk with gated := [], gating := none }, lnk := { Lnk.reset with crc := [(3, 3)] } }, by decide +kernel⟩,
   ⟨3, 7, 5, 7, 0, { (w up [(Reg.LNKCFG_EN 3, 1), (Reg.LNKSTAT_STATE 3, 2), (Reg.LNKCASCSTAT_ID, 0), (Reg.LNKCASC_MODE, 0), (Reg.LNKCFG_AUTOFIX 3, 0)]) with pwr := pwrUp, clk := { up.clk with gated := [], gating := none }, lnk := Lnk.reset }, by decide +kernel⟩,
   ⟨3, 0, 5, 1000, 0, { (w up [(Reg.LNKCFG_EN 3, 1), (Reg.LNKSTAT_STATE 3, 2), (Reg.LNKCASCSTAT_ID, 7), (Reg.LNKCASC_MODE, 0), (Reg.LNKCFG_AUTOFIX 3, 0), (Reg.LNKCASCSTAT_FC_SYNC, 0)]) with pwr := pwrUp, clk := { up.clk with gated := [], gating := none }, lnk := Lnk.reset }, by decide +kernel⟩,
   ⟨3, 0, 5, .heartbeat 7, 0, { (w up [(Reg.LNKCFG_EN 3, 1), (Reg.LNKSTAT_STATE 3, 2), (Reg.LNKCASCSTAT_ID, 0), (Reg.LNKCASC_MODE, 0), (Reg.LNKCFG_AUTOFIX 3, 0)]) with pwr := pwrUp, clk := { up.clk with gated := [], gating := none }, lnk := Lnk.reset }, by decide +kernel⟩,
   ⟨7, { (w up [(Reg.LNKCASCSTAT_REACH, 128), (Reg.LNKCASC_NCHIPS, 7)]) with frame := 163, lnk := { Lnk.reset with heard := [(7, 100)] } }, by decide +kernel⟩,
   ⟨7, { (w up [(Reg.LNKCASCSTAT_REACH, 128), (Reg.LNKCASC_NCHIPS, 7)]) with frame := 164, lnk := { Lnk.reset with heard := [(7, 100)] } }, by decide +kernel⟩⟩

theorem test_wit_SpareCellsAndPairs :
  (∃ (cl : Fin 32) (r : Fin 4) (s : State),
    s.spareState cl = 2 ∧
    s.get (Reg.SPARESTAT_SELFTEST cl) = 0 ∧
    s.lnk.hold.look 0 cl = s.window ∧
    (s.get (Reg.SPARESTAT_RETIRED cl)).testBit (s.carryK cl) = true ∧
    (r = 1 ∨ r = 2)) ∧
  (∃ (cl : Fin 32) (s : State),
    s.spareState cl = 2 ∧
    s.get (Reg.SPARESTAT_SELFTEST cl) = 0 ∧
    s.lnk.hold.look 0 cl = s.window ∧
    (s.get (Reg.SPARESTAT_RETIRED cl)).testBit (s.carryK cl) = false ∧
    s.evt.inReset = false) ∧
  (∃ (cl : Fin 32) (s : State),
    s.spareState cl = 2 ∧
    s.get (Reg.SPARESTAT_SELFTEST cl) = 0 ∧
    s.lnk.hold.look 0 cl = s.window ∧
    (s.get (Reg.SPARESTAT_RETIRED cl)).testBit (s.carryK cl) = false ∧
    s.evt.inReset = false ∧
    s.eng.degraded.contains cl.val = false) ∧
  (∃ (cl : Fin 32) (s : State),
    s.spareState cl = 2 ∧
    s.get (Reg.SPARESTAT_SELFTEST cl) = 0 ∧
    s.lnk.hold.look 0 cl = s.window ∧
    (s.get (Reg.SPARESTAT_RETIRED cl)).testBit (s.carryK cl) = false) ∧
  (∃ (cl : Fin 32) (r : Fin 4) (s : State),
    (s.spareState cl ≠ 2 ∨ s.get (Reg.SPARESTAT_SELFTEST cl) ≠ 0 ∨
    s.lnk.hold.look 0 cl ≠ s.window ∨ r = 0)) ∧
  (∃ (cl : Fin 32) (s : State),
    s.spareState cl = 3 ∧
    s.get (Reg.HOLDREMAIN_REMAIN cl) = 0 ∧
    s.evt.inReset = false) ∧
  (∃ (cl : Fin 32) (s : State),
    (s.spareState cl ≠ 3 ∨ s.get (Reg.HOLDREMAIN_REMAIN cl) ≠ 0)) ∧
  (∃ (s : State),
    s.pairMode = true ∧
    s.bit Reg.PAIRSTAT_ACTIVE = true ∧
    s.peerElig = true) ∧
  (∃ (s : State),
    s.pairMode = false ∨ s.bit Reg.PAIRSTAT_ACTIVE = false ∨ s.peerElig = false) ∧
  (∃ (s : State),
    s.pairMode = true ∧
    s.bit Reg.PAIRSTAT_PEER_ACT = true ∧
    s.bit Reg.PAIRSTAT_ELIGIBLE = true ∧
    s.bit Reg.PAIRSTAT_ACTIVE = false ∧
    s.bit Reg.FUMSTAT_MUTE_ALL = false ∧
    s.fum.resetDue = false ∧
    s.evt.inReset = false) ∧
  (∃ (s : State),
    (s.pairMode = false ∨ s.bit Reg.PAIRSTAT_ELIGIBLE = false ∨ s.bit Reg.PAIRSTAT_PEER_ACT = false ∨
    s.bit Reg.PAIRSTAT_ACTIVE = true ∨ s.bit Reg.FUMSTAT_MUTE_ALL = true ∨ s.fum.resetDue = true)) ∧
  (∃ (s : State),
    s.pairMode = true ∧
    s.lnk.started ≠ 0 ∧
    s.bit Reg.PAIRSTAT_ACTIVE = false ∧
    s.bit Reg.PAIRSTAT_PEER_ACT = false ∧
    ((if s.cascadeId = s.get Reg.PAIRCFG_PREFER then 16 ≤ s.lnk.actLow else 64 ≤ s.lnk.actLow ∧ s.lnk.started + 63 ≤ s.frame)) ∧
    s.bit Reg.FUMSTAT_MUTE_ALL = false ∧
    s.fum.resetDue = false ∧
    s.lastHealth = true ∧
    s.evt.inReset = false) ∧
  (∃ (s : State),
    s.bit Reg.FUMSTAT_MUTE_ALL = true ∨ s.bit Reg.PAIRSTAT_PEER_ACT = true ∨ s.lastHealth = false ∨ s.fum.resetDue = true ∨
    s.pairMode = false ∨ s.bit Reg.PAIRSTAT_ACTIVE = true ∨ s.lnk.started = 0 ∨ s.lnk.actLow < 16) ∧
  (∃ (s : State),
    s.pairMode = true ∧
    s.bit Reg.PAIRCFG_REVERT_EN = true ∧
    s.bit Reg.PAIRSTAT_ACTIVE = true ∧
    s.cascadeId ≠ s.get Reg.PAIRCFG_PREFER ∧
    Nat.max 1 (s.get Reg.PAIRHOLD_HOLDOFF) ≤ s.lnk.peerRun ∧
    s.peerElig = true ∧
    s.evt.inReset = false) ∧
  (∃ (s : State),
    s.pairMode = true ∧
    s.bit Reg.PAIRCFG_REVERT_EN = true ∧
    s.bit Reg.PAIRSTAT_ACTIVE = false ∧
    s.cascadeId = s.get Reg.PAIRCFG_PREFER ∧
    Nat.max 1 (s.get Reg.PAIRHOLD_HOLDOFF) ≤ s.lnk.eligRun ∧
    s.evt.inReset = false) ∧
  (∃ (s : State),
    s.pairMode = false ∨ s.bit Reg.PAIRCFG_REVERT_EN = false ∨
    (s.bit Reg.PAIRSTAT_ACTIVE = true ∧ (s.cascadeId = s.get Reg.PAIRCFG_PREFER ∨ s.lnk.peerRun < Nat.max 1 (s.get Reg.PAIRHOLD_HOLDOFF))) ∨
    (s.bit Reg.PAIRSTAT_ACTIVE = false ∧ (s.cascadeId ≠ s.get Reg.PAIRCFG_PREFER ∨ s.lnk.eligRun < Nat.max 1 (s.get Reg.PAIRHOLD_HOLDOFF)))) :=
  ⟨⟨31, 1, { (w up [(Reg.SPARESTAT_STATE 31, 2), (Reg.SPARESTAT_CARRY_K 31, 7), (Reg.SPARESTAT_RETIRED 31, 128)]) with lnk := { Lnk.reset with hold := [(31, 6)] } }, by decide +kernel⟩,
   ⟨31, { (w up [(Reg.SPARESTAT_STATE 31, 2), (Reg.SPARESTAT_CARRY_K 31, 7), (Reg.SPARESTAT_RETIRED 31, 127)]) with lnk := { Lnk.reset with hold := [(31, 6)] } }, by decide +kernel⟩,
   ⟨31, { (w up [(Reg.SPARESTAT_STATE 31, 2), (Reg.SPARESTAT_CARRY_K 31, 7), (Reg.SPARESTAT_RETIRED 31, 127)]) with lnk := { Lnk.reset with hold := [(31, 6)] } }, by decide +kernel⟩,
   ⟨31, { (w up [(Reg.SPARESTAT_STATE 31, 2), (Reg.SPARESTAT_CARRY_K 31, 7), (Reg.SPARESTAT_RETIRED 31, 127)]) with lnk := { Lnk.reset with hold := [(31, 6)] } }, by decide +kernel⟩,
   ⟨31, 0, (w up [(Reg.SPARESTAT_STATE 31, 3), (Reg.SPARESTAT_SELFTEST 31, 0), (Reg.SPARESTAT_CARRY_K 31, 7), (Reg.SPARESTAT_RETIRED 31, 127)]), by decide +kernel⟩,
   ⟨31, (w up [(Reg.SPARESTAT_STATE 31, 3), (Reg.SPARESTAT_SELFTEST 31, 0), (Reg.SPARESTAT_CARRY_K 31, 7), (Reg.SPARESTAT_RETIRED 31, 127), (Reg.HOLDREMAIN_REMAIN 31, 0)]), by decide +kernel⟩,
   ⟨31, up, by decide +kernel⟩,
   ⟨{ (w up [(Reg.LNKCASC_MODE, 2), (Reg.PAIRSTAT_ACTIVE, 1)]) with lnk := { Lnk.reset with peer := some ⟨0, true, true, []⟩ } }, by decide +kernel⟩,
   ⟨{ (w up [(Reg.LNKCASC_MODE, 2), (Reg.PAIRSTAT_ACTIVE, 0)]) with lnk := { Lnk.reset with peer := some ⟨0, true, true, []⟩ } }, by decide +kernel⟩,
   ⟨(w up [(Reg.LNKCASC_MODE, 2), (Reg.PAIRSTAT_PEER_ACT, 1), (Reg.PAIRSTAT_ELIGIBLE, 1), (Reg.FUMSTAT_MUTE_ALL, 0)]), by decide +kernel⟩,
   ⟨{ (w up [(Reg.LNKCASC_MODE, 2), (Reg.PAIRSTAT_ELIGIBLE, 0)]) with lnk := { Lnk.reset with peer := some ⟨0, true, true, []⟩ } }, by decide +kernel⟩,
   ⟨{ (w up [(Reg.LNKCASC_MODE, 2), (Reg.PAIRSTAT_ACTIVE, 0), (Reg.PAIRSTAT_PEER_ACT, 0), (Reg.LNKCASCSTAT_ID, 0), (Reg.PAIRCFG_PREFER, 1), (Reg.FUMSTAT_MUTE_ALL, 0)]) with lnk := { Lnk.reset with started := 1, actLow := 64 }, frame := 64, fum := Fum.reset }, by decide +kernel⟩,
   ⟨(w up [(Reg.FUMSTAT_MUTE_ALL, 1)]), by decide +kernel⟩,
   ⟨{ (w up [(Reg.LNKCASC_MODE, 2), (Reg.PAIRCFG_REVERT_EN, 1), (Reg.PAIRSTAT_ACTIVE, 1), (Reg.LNKCASCSTAT_ID, 0), (Reg.PAIRCFG_PREFER, 1), (Reg.PAIRHOLD_HOLDOFF, 0)]) with lnk := { Lnk.reset with peer := some ⟨0, true, true, []⟩, peerRun := 1 } }, by decide +kernel⟩,
   ⟨{ (w up [(Reg.LNKCASC_MODE, 2), (Reg.PAIRCFG_REVERT_EN, 1), (Reg.PAIRSTAT_ACTIVE, 0), (Reg.LNKCASCSTAT_ID, 0), (Reg.PAIRCFG_PREFER, 0), (Reg.PAIRHOLD_HOLDOFF, 0)]) with lnk := { Lnk.reset with eligRun := 1 } }, by decide +kernel⟩,
   ⟨{ (w up [(Reg.LNKCASC_MODE, 2), (Reg.PAIRCFG_REVERT_EN, 0)]) with lnk := { Lnk.reset with peer := some ⟨0, true, true, []⟩ } }, by decide +kernel⟩⟩

theorem test_wit_FabricIssue :
  (∃ (m : Fin 8) (id : BitVec 4) (a : BitVec 40) (n : BitVec 5) (d : Option (BitVec 32)) (p : Bool) (s : State),
    s.portIssues m = true ∧
    s.answeredAtOnce a.toNat n.toNat true p = none) ∧
  (∃ (m : Fin 8) (id : BitVec 4) (a : BitVec 40) (n : BitVec 5) (d : Option (BitVec 32)) (p : Bool) (s : State),
    s.portIssues m = true) ∧
  (∃ (m : Fin 8) (id : BitVec 4) (a : BitVec 40) (ws : List Sinter) (full : Bool) (d : Option (BitVec 32)) (p : Bool) (s : State),
    s.portIssues m = true ∧
    s.answeredAtOnce a.toNat ws.length full p = none) ∧
  (∃ (m : Fin 8) (id : BitVec 4) (a : BitVec 40) (ws : List Sinter) (full : Bool) (d : Option (BitVec 32)) (p : Bool) (s : State),
    s.portIssues m = true) ∧
  (∃ (m : Fin 8) (id : BitVec 4) (a : BitVec 40) (n : BitVec 5) (ws : List Sinter) (f : Bool) (d : Option (BitVec 32)) (p : Bool) (s : State),
    s.portIssues m = false) :=
  ⟨⟨7, 15, 0x10040000, 16, some 5, true, { (w up [(Reg.MGSTAT_FCLK_OK, 1), (Reg.FABMST_RESET 0, 0), (Reg.FABMST_RESET 1, 0), (Reg.FABMST_RESET 2, 0), (Reg.FABMST_RESET 3, 0), (Reg.FABMST_RESET 4, 0), (Reg.FABMST_RESET 5, 0), (Reg.FABLOCK_M0_OPEN, 0), (Reg.FABLOCK_M4_OPEN, 0)]) with pwr := pwrUp, clk := { up.clk with gated := [], gating := none }, fab := { Fab.reset with reqs := [] } }, by decide +kernel⟩,
   ⟨7, 15, 0x0FFFFFFC, 1, none, true, { (w up [(Reg.MGSTAT_FCLK_OK, 1), (Reg.FABMST_RESET 0, 0), (Reg.FABMST_RESET 1, 0), (Reg.FABMST_RESET 2, 0), (Reg.FABMST_RESET 3, 0), (Reg.FABMST_RESET 4, 0), (Reg.FABMST_RESET 5, 0), (Reg.FABLOCK_M0_OPEN, 0), (Reg.FABLOCK_M4_OPEN, 0)]) with pwr := pwrUp, clk := { up.clk with gated := [], gating := none }, fab := { Fab.reset with reqs := [] } }, by decide +kernel⟩,
   ⟨4, 15, 0x800D0000, [Sinter.ofData 1], true, none, true, { (w up [(Reg.MGSTAT_FCLK_OK, 1), (Reg.FABMST_RESET 0, 0), (Reg.FABMST_RESET 1, 0), (Reg.FABMST_RESET 2, 0), (Reg.FABMST_RESET 3, 0), (Reg.FABMST_RESET 4, 0), (Reg.FABMST_RESET 5, 0), (Reg.FABLOCK_M0_OPEN, 0), (Reg.FABLOCK_M4_OPEN, 0)]) with pwr := pwrUp, clk := { up.clk with gated := [], gating := none }, fab := { Fab.reset with reqs := [] } }, by decide +kernel⟩,
   ⟨7, 15, 0x10040000, [Sinter.ofData 1], false, none, true, { (w up [(Reg.MGSTAT_FCLK_OK, 1), (Reg.FABMST_RESET 0, 0), (Reg.FABMST_RESET 1, 0), (Reg.FABMST_RESET 2, 0), (Reg.FABMST_RESET 3, 0), (Reg.FABMST_RESET 4, 0), (Reg.FABMST_RESET 5, 0), (Reg.FABLOCK_M0_OPEN, 0), (Reg.FABLOCK_M4_OPEN, 0)]) with pwr := pwrUp, clk := { up.clk with gated := [], gating := none }, fab := { Fab.reset with reqs := [] } }, by decide +kernel⟩,
   ⟨7, 15, 0, 0, [], true, none, true, { up with pwr := { up.pwr with chip := 1 } }, by decide +kernel⟩⟩

theorem test_wit_ArbiterGrants :
  (∃ (port : Fin 54) (r : FabReq) (k : Nat) (s : State),
    s.fabRuns = true ∧
    s.fab.reqs = [r] ∧
    r.port = port ∧
    r.present = true ∧
    r.granted = false ∧
    r.got = 0 ∧
    r.quiet = false ∧
    r.beats = 1 ∧
    inDram r.addr = false ∧
    s.place r.addr = .sram k ∧
    s.bit Reg.FABLOCK_M0_OPEN = false ∧
    s.bit Reg.FABLOCK_M4_OPEN = false ∧
    timeBefore (s.dueOf r) s.fabTime = false ∧
    r.op = .read ∧
    r.words = []) ∧
  (∃ (port : Fin 54) (r : FabReq) (k : Nat) (s : State),
    s.fabRuns = true ∧
    s.fab.reqs = [r] ∧
    r.port = port ∧
    r.present = true ∧
    r.granted = false ∧
    r.got = 0 ∧
    r.quiet = false ∧
    r.beats = 1 ∧
    inDram r.addr = false ∧
    s.place r.addr = .sram k ∧
    s.bit Reg.FABLOCK_M0_OPEN = false ∧
    s.bit Reg.FABLOCK_M4_OPEN = false ∧
    timeBefore (s.dueOf r) s.fabTime = false) ∧
  (∃ (port : Fin 54) (st : Option (Fin 16)) (s : State),
    s.fabRuns = true ∧
    ((∀ r ∈ s.fab.reqs, r.port ≠ port.val))) ∧
  (∃ (port : Fin 54) (st : Option (Fin 16)) (s : State),
    s.fabRuns = false) :=
  ⟨⟨1, ⟨4, 15, .read, 0x10040000, 1, [], 1, 0, 2 ^ 32, 0, true, false, 0, false, 7⟩, 0x10040000, { (w up [(Reg.MGSTAT_FCLK_OK, 1), (Reg.FABMST_RESET 0, 0), (Reg.FABMST_RESET 1, 0), (Reg.FABMST_RESET 2, 0), (Reg.FABMST_RESET 3, 0), (Reg.FABMST_RESET 4, 0), (Reg.FABMST_RESET 5, 0), (Reg.FABLOCK_M0_OPEN, 0), (Reg.FABLOCK_M4_OPEN, 0), (Reg.FABTIME_TIME, 0), (Reg.FABQOS_BUDGET 4, 0)]) with pwr := pwrUp, clk := { up.clk with gated := [], gating := none }, fab := { Fab.reset with reqs := [⟨4, 15, .read, 0x10040000, 1, [], 1, 0, 2 ^ 32, 0, true, false, 0, false, 7⟩] } }, by decide +kernel⟩,
   ⟨1, ⟨4, 15, .write, 0x10040000, 1, [Sinter.ofData 5], 1, 0, 2 ^ 32, 0, true, false, 0, false, 7⟩, 0x10040000, { (w up [(Reg.MGSTAT_FCLK_OK, 1), (Reg.FABMST_RESET 0, 0), (Reg.FABMST_RESET 1, 0), (Reg.FABMST_RESET 2, 0), (Reg.FABMST_RESET 3, 0), (Reg.FABMST_RESET 4, 0), (Reg.FABMST_RESET 5, 0), (Reg.FABLOCK_M0_OPEN, 0), (Reg.FABLOCK_M4_OPEN, 0), (Reg.FABTIME_TIME, 0), (Reg.FABQOS_BUDGET 4, 0)]) with pwr := pwrUp, clk := { up.clk with gated := [], gating := none }, fab := { Fab.reset with reqs := [⟨4, 15, .write, 0x10040000, 1, [Sinter.ofData 5], 1, 0, 2 ^ 32, 0, true, false, 0, false, 7⟩] } }, by decide +kernel⟩,
   ⟨53, some 15, { (w up [(Reg.MGSTAT_FCLK_OK, 1), (Reg.FABMST_RESET 0, 0), (Reg.FABMST_RESET 1, 0), (Reg.FABMST_RESET 2, 0), (Reg.FABMST_RESET 3, 0), (Reg.FABMST_RESET 4, 0), (Reg.FABMST_RESET 5, 0), (Reg.FABLOCK_M0_OPEN, 0), (Reg.FABLOCK_M4_OPEN, 0)]) with pwr := pwrUp, clk := { up.clk with gated := [], gating := none }, fab := { Fab.reset with reqs := [⟨4, 15, .read, 0x10040000, 1, [], 1, 0, 2 ^ 32, 0, true, false, 0, false, 7⟩] } }, by decide +kernel⟩,
   ⟨53, none, { up with pwr := { up.pwr with chip := 2 } }, by decide +kernel⟩⟩

theorem test_wit_FabricControl :
  (∃ (m4 : Bool) (p : Nat) (s : State),
    s.lockedPort (if m4 then 4 else 0) = some p ∧
    4096 ≤ s.fclkSince (s.fab.lockAt.look (0, 0) (if m4 then 4 else 0)) ∧
    s.evt.inReset = false) ∧
  (∃ (m4 : Bool) (s : State),
    (s.lockedPort (if m4 then 4 else 0) = none ∨
      s.fclkSince (s.fab.lockAt.look (0, 0) (if m4 then 4 else 0)) < 4096)) ∧
  (∃ (m : Fin 6) (s : State),
    s.evt.inReset = false) ∧
  (∃ (m : Fin 6) (s : State),
    (s.bit (Reg.FABMST_RESET m) = false ∨ s.fclkSince (s.fab.resetAt.look (0, 0) m) < 4096)) ∧
  (∃ (m : Fin 6) (s : State),
    s.bit (Reg.FABMST_RESET m) = true ∧
    4096 ≤ s.fclkSince (s.fab.resetAt.look (0, 0) m)) ∧
  (∃ (port : Fin 54) (r : FabReq) (fclk : BitVec 32) (s : State),
    s.fab.reqs = [r] ∧
    r.port = port ∧
    r.quiet = false ∧
    r.op = .read ∧
    (if r.granted then 16 else 256) * Nat.max 1 (s.get Reg.FABWD_LIMIT) ≤ fclk.toNat ∧
    s.tripsAgain port = false ∧
    s.lockedPort r.master = none ∧
    s.evt.inReset = false) ∧
  (∃ (port : Fin 54) (r : FabReq) (fclk : BitVec 32) (s : State),
    s.fab.reqs = [r] ∧
    r.port = port ∧
    r.quiet = false ∧
    r.op = .read ∧
    256 * Nat.max 1 (s.get Reg.FABWD_LIMIT) ≤ fclk.toNat ∧
    s.tripsAgain port = true ∧
    s.evt.inReset = false) ∧
  (∃ (port : Fin 54) (fclk : BitVec 32) (s : State),
    (∀ r ∈ s.fab.reqs, r.port = port.val →
      fclk.toNat < (if r.granted then 16 else 256) * Nat.max 1 (s.get Reg.FABWD_LIMIT))) ∧
  (∃ (port : Fin 54) (fclk : BitVec 32) (s : State),
    s.fab.tripped.contains port.val = true ∧
    16 * Nat.max 1 (s.get Reg.FABWD_LIMIT) ≤ fclk.toNat ∧
    s.evt.inReset = false) ∧
  (∃ (port : Fin 54) (fclk : BitVec 32) (s : State),
    (s.fab.tripped.contains port.val = false ∨
    fclk.toNat < 16 * Nat.max 1 (s.get Reg.FABWD_LIMIT))) ∧
  (∃ (m : Fin 8) (v : Bool) (s : State),
    (m = 0 ∨ m = 4) ∧
    v ≠ s.bit Reg.FABCFG_REMAP_NOW) ∧
  (∃ (m : Fin 8) (s : State),
    (m = 0 ∨ m = 4) ∧
    ((∀ r ∈ s.fab.reqs, r.port ≠ portHeld))) ∧
  (∃ (m : Fin 8) (v : Bool) (s : State),
    m ≠ 0 ∧
    m ≠ 4) ∧
  (∃ (s : State),
    s.fab.remap ≠ 0 ∧
    ((∀ r ∈ s.fab.reqs, inRemap r.addr = true → r.port = portWait)) ∧
    ((∀ r ∈ s.fab.reqs, r.port ≠ portHeld)) ∧
    s.evt.inReset = false) ∧
  (∃ (port : Fin 54) (r : FabReq) (x : Sinter) (s : State),
    s.fabRuns = true ∧
    s.fab.reqs = [r] ∧
    r.port = port ∧
    r.present = true ∧
    r.granted = false ∧
    r.got = 0 ∧
    r.op = .write ∧
    r.addr = 0x80030000 ∧
    r.beats = 1 ∧
    r.words = [x] ∧
    (r.master = 0 ∨ r.master = 4) ∧
    x.data.toNat.testBit 0 ≠ s.bit Reg.FABCFG_REMAP_NOW ∧
    s.bit Reg.FABLOCK_M0_OPEN = false ∧
    s.bit Reg.FABLOCK_M4_OPEN = false ∧
    timeBefore (s.dueOf r) s.fabTime = false) ∧
  (∃ (r : FabReq) (s : State),
    s.fab.remap ≠ 0 ∧
    s.fab.reqs = [r] ∧
    r.port = portHeld ∧
    inRemap r.addr = false ∧
    r.quiet = false ∧
    s.evt.inReset = false) :=
  ⟨⟨true, 53, { (w up [(Reg.FABLOCK_M4_OPEN, 1), (Reg.FABLOCK_M4_PORT, 53), (Reg.FABTIME_TIME, 4096)]) with fab := { Fab.reset with lockAt := [(4, (0, 200))] } }, by decide +kernel⟩,
   ⟨true, { (w up [(Reg.FABLOCK_M4_OPEN, 1), (Reg.FABLOCK_M4_PORT, 53), (Reg.FABTIME_TIME, 4095)]) with fab := { Fab.reset with lockAt := [(4, (0, 200))] } }, by decide +kernel⟩,
   ⟨5, { (w up [(Reg.MGSTAT_FCLK_OK, 1), (Reg.FABMST_RESET 0, 0), (Reg.FABMST_RESET 1, 0), (Reg.FABMST_RESET 2, 0), (Reg.FABMST_RESET 3, 0), (Reg.FABMST_RESET 4, 0), (Reg.FABMST_RESET 5, 0), (Reg.FABLOCK_M0_OPEN, 0), (Reg.FABLOCK_M4_OPEN, 0)]) with pwr := pwrUp, clk := { up.clk with gated := [], gating := none }, fab := { Fab.reset with reqs := [⟨5, 15, .read, 0x10040000, 1, [], 1, 0, 2 ^ 32, 0, true, false, 0, false, 7⟩] } }, by decide +kernel⟩,
   ⟨5, { (w up [(Reg.FABMST_RESET 5, 1), (Reg.FABTIME_TIME, 4095)]) with fab := { Fab.reset with resetAt := [(5, (0, 200))] } }, by decide +kernel⟩,
   ⟨5, { (w up [(Reg.FABMST_RESET 5, 1), (Reg.FABTIME_TIME, 4096)]) with fab := { Fab.reset with resetAt := [(5, (0, 200))] } }, by decide +kernel⟩,
   ⟨1, ⟨4, 15, .read, 0x10040000, 1, [], 1, 0, 2 ^ 32, 0, true, false, 0, false, 7⟩, 0xFFFFFFFF, { (w up [(Reg.MGSTAT_FCLK_OK, 1), (Reg.FABWD_LIMIT, 0x1000), (Reg.FABTIME_TIME, 65537)]) with fab := { Fab.reset with reqs := [⟨4, 15, .read, 0x10040000, 1, [], 1, 0, 2 ^ 32, 0, true, false, 0, false, 7⟩], tripAt := [(1, some (0, 200))] } }, by decide +kernel⟩,
   ⟨1, ⟨4, 15, .read, 0x10040000, 1, [], 1, 0, 2 ^ 32, 0, true, false, 0, false, 7⟩, 0x100000, { (w up [(Reg.MGSTAT_FCLK_OK, 1), (Reg.FABWD_LIMIT, 0x1000), (Reg.FABTIME_TIME, 65536)]) with fab := { Fab.reset with reqs := [⟨4, 15, .read, 0x10040000, 1, [], 1, 0, 2 ^ 32, 0, true, false, 0, false, 7⟩], tripAt := [(1, some (0, 200))] } }, by decide +kernel⟩,
   ⟨0, 0, { (w up [(Reg.MGSTAT_FCLK_OK, 1), (Reg.FABMST_RESET 0, 0), (Reg.FABMST_RESET 1, 0), (Reg.FABMST_RESET 2, 0), (Reg.FABMST_RESET 3, 0), (Reg.FABMST_RESET 4, 0), (Reg.FABMST_RESET 5, 0), (Reg.FABLOCK_M0_OPEN, 0), (Reg.FABLOCK_M4_OPEN, 0)]) with pwr := pwrUp, clk := { up.clk with gated := [], gating := none }, fab := { Fab.reset with reqs := [⟨4, 15, .read, 0x10040000, 1, [], 1, 0, 2 ^ 32, 0, true, false, 0, false, 7⟩] } }, by decide +kernel⟩,
   ⟨53, 0xFFFFFFFF, { up with fab := { Fab.reset with reqs := [], tripped := [53] } }, by decide +kernel⟩,
   ⟨53, 0, { (w up [(Reg.MGSTAT_FCLK_OK, 1), (Reg.FABMST_RESET 0, 0), (Reg.FABMST_RESET 1, 0), (Reg.FABMST_RESET 2, 0), (Reg.FABMST_RESET 3, 0), (Reg.FABMST_RESET 4, 0), (Reg.FABMST_RESET 5, 0), (Reg.FABLOCK_M0_OPEN, 0), (Reg.FABLOCK_M4_OPEN, 0)]) with pwr := pwrUp, clk := { up.clk with gated := [], gating := none }, fab := { Fab.reset with reqs := [] } }, by decide +kernel⟩,
   ⟨4, true, (w up [(Reg.FABCFG_REMAP_NOW, 0)]), by decide +kernel⟩,
   ⟨4, { (w up [(Reg.MGSTAT_FCLK_OK, 1), (Reg.FABMST_RESET 0, 0), (Reg.FABMST_RESET 1, 0), (Reg.FABMST_RESET 2, 0), (Reg.FABMST_RESET 3, 0), (Reg.FABMST_RESET 4, 0), (Reg.FABMST_RESET 5, 0), (Reg.FABLOCK_M0_OPEN, 0), (Reg.FABLOCK_M4_OPEN, 0)]) with pwr := pwrUp, clk := { up.clk with gated := [], gating := none }, fab := { Fab.reset with reqs := [⟨4, 15, .read, 0x10040000, 1, [], 1, 0, 2 ^ 32, 0, true, false, 0, false, 7⟩] } }, by decide +kernel⟩,
   ⟨5, true, up, by decide +kernel⟩,
   ⟨{ (w up [(Reg.MGSTAT_FCLK_OK, 1), (Reg.FABMST_RESET 0, 0), (Reg.FABMST_RESET 1, 0), (Reg.FABMST_RESET 2, 0), (Reg.FABMST_RESET 3, 0), (Reg.FABMST_RESET 4, 0), (Reg.FABMST_RESET 5, 0), (Reg.FABLOCK_M0_OPEN, 0), (Reg.FABLOCK_M4_OPEN, 0)]) with pwr := pwrUp, clk := { up.clk with gated := [], gating := none }, fab := { Fab.reset with reqs := [], remap := 5 } }, by decide +kernel⟩,
   ⟨0x27, ⟨4, 15, .write, 0x80030000, 1, [Sinter.ofData 1], 0x27, 0, 2 ^ 32, 0, true, false, 0, false, 7⟩, Sinter.ofData 1, { (w up [(Reg.MGSTAT_FCLK_OK, 1), (Reg.FABMST_RESET 0, 0), (Reg.FABMST_RESET 1, 0), (Reg.FABMST_RESET 2, 0), (Reg.FABMST_RESET 3, 0), (Reg.FABMST_RESET 4, 0), (Reg.FABMST_RESET 5, 0), (Reg.FABLOCK_M0_OPEN, 0), (Reg.FABLOCK_M4_OPEN, 0), (Reg.FABCFG_REMAP_NOW, 0), (Reg.FABTIME_TIME, 0), (Reg.FABQOS_BUDGET 4, 0)]) with pwr := pwrUp, clk := { up.clk with gated := [], gating := none }, fab := { Fab.reset with reqs := [⟨4, 15, .write, 0x80030000, 1, [Sinter.ofData 1], 0x27, 0, 2 ^ 32, 0, true, false, 0, false, 7⟩] } }, by decide +kernel⟩,
   ⟨⟨4, 15, .write, 0x80030000, 1, [Sinter.ofData 1], portHeld, 0, 2 ^ 32, 0, false, true, 1, false, 7⟩, { (w up [(Reg.MGSTAT_FCLK_OK, 1), (Reg.FABMST_RESET 0, 0), (Reg.FABMST_RESET 1, 0), (Reg.FABMST_RESET 2, 0), (Reg.FABMST_RESET 3, 0), (Reg.FABMST_RESET 4, 0), (Reg.FABMST_RESET 5, 0), (Reg.FABLOCK_M0_OPEN, 0), (Reg.FABLOCK_M4_OPEN, 0)]) with pwr := pwrUp, clk := { up.clk with gated := [], gating := none }, fab := { Fab.reset with reqs := [⟨4, 15, .write, 0x80030000, 1, [Sinter.ofData 1], portHeld, 0, 2 ^ 32, 0, false, true, 1, false, 7⟩], remap := 5 } }, by decide +kernel⟩⟩

theorem test_wit_ScopedResets :
  (∃ (m : Fin 8) (sc : Fin 4) (tg : BitVec 9) (s : State),
    let tgt (sc : Fin 4) (tg : BitVec 9) : Nat := if sc = 3 then 0 else tg.toNat
    s.rstRefused m sc (tgt sc tg) = true) ∧
  (∃ (m : Fin 8) (sc : Fin 4) (tg : BitVec 9) (s : State),
    let tgt (sc : Fin 4) (tg : BitVec 9) : Nat := if sc = 3 then 0 else tg.toNat
    s.rstRefused m sc (tgt sc tg) = false ∧
    s.bit Reg.RSTSTAT_BUSY = true) ∧
  (∃ (m : Fin 8) (sc : Fin 4) (tg : BitVec 9) (s : State),
    let tgt (sc : Fin 4) (tg : BitVec 9) : Nat := if sc = 3 then 0 else tg.toNat
    s.rstRefused m sc (tgt sc tg) = false ∧
    s.bit Reg.RSTSTAT_BUSY = false ∧
    s.pwr.chip = 0) ∧
  (∃ (s : State),
    ((s.pwr.rst = none ∧ s.pwr.safe = false) ∨ s.fclkSince s.pwr.idleAt < s.idleTimeout)) ∧
  (∃ (r : FabReq) (s : State),
    s.pwr.rst.isSome = true ∧
    s.idleTimeout ≤ s.fclkSince s.pwr.idleAt ∧
    s.fab.reqs = [r] ∧
    (targetIslands r.addr).any s.resetHolds = true ∧
    r.granted = false ∧
    r.op = .read ∧
    r.words = [] ∧
    r.quiet = false) ∧
  (∃ (e : Fin 288) (s : State),
    s.pwr.chip = 0 ∧
    s.pwr.safe = false ∧
    s.pwr.rst = some (0, e.val) ∧
    s.releasable = true ∧
    s.evt.inReset = false) ∧
  (∃ (s : State),
    (s.pwr.chip ≠ 0 ∨ s.releasable = false ∨ (s.pwr.safe = false ∧ s.pwr.rst = none))) :=
  ⟨⟨2, 0, 287, (w up [(Reg.PWRSTAT_STATE, 0), (Reg.SPARESTAT_PATROL_K 31, 15), (Reg.SPARESTAT_STATE 31, 0)]), by decide +kernel⟩,
   ⟨5, 0, 287, (w up [(Reg.PWRSTAT_STATE, 0), (Reg.SPARESTAT_PATROL_K 31, 15), (Reg.SPARESTAT_STATE 31, 0), (Reg.RSTSTAT_BUSY, 1)]), by decide +kernel⟩,
   ⟨5, 0, 287, { (w up [(Reg.PWRSTAT_STATE, 0), (Reg.SPARESTAT_PATROL_K 31, 15), (Reg.SPARESTAT_STATE 31, 0), (Reg.RSTSTAT_BUSY, 0)]) with pwr := pwrUp }, by decide +kernel⟩,
   ⟨{ up with pwr := pwrUp }, by decide +kernel⟩,
   ⟨⟨4, 15, .read, 0x40000000, 1, [], 4, 0, 2 ^ 32, 0, true, false, 0, false, 7⟩, { (w up [(Reg.FABTIME_TIME, 0x10000)]) with pwr := { pwrUp with rst := some (1, 0) }, fab := { Fab.reset with reqs := [⟨4, 15, .read, 0x40000000, 1, [], 4, 0, 2 ^ 32, 0, true, false, 0, false, 7⟩] } }, by decide +kernel⟩,
   ⟨287, { (w up [(Reg.FABTIME_TIME, 16)]) with pwr := { pwrUp with rst := some (0, 287), idleAt := (0, 200) } }, by decide +kernel⟩,
   ⟨{ (w up [(Reg.FABTIME_TIME, 16), (Reg.FABMST_RESET 3, 1)]) with pwr := { pwrUp with safe := true, idleAt := (0, 200) } }, by decide +kernel⟩⟩

theorem test_wit_ChipResets :
  (∃ (s : State),
    s.pwr.chip = 0) ∧
  (∃ (s : State),
    s.pwr.chip < 2) ∧
  (∃ (m : Fin 8) (s : State),
    m ≠ 5) ∧
  (∃ (s : State),
    s.pwr.chip ≠ 3) ∧
  (∃ (s : State),
    s.pwr.chip = 3) ∧
  (∃ (mo : BitVec 3) (ca : BitVec 3) (gp : BitVec 8) (s : State),
    s.pwr.chip ≠ 0 ∧
    s.tooHot = false ∧
    s.pwr.cause < 16) ∧
  (∃ (mo : BitVec 3) (ca : BitVec 3) (gp : BitVec 8) (s : State),
    (s.pwr.chip = 0 ∨ s.tooHot = true)) ∧
  (∃ (s : State),
    s.fum.resetDue = true ∧
    s.cZero = true ∧
    s.pwr.safe = false ∧
    s.pwr.chip = 0 ∧
    s.pwr.safeAt = 0 ∧
    s.evt.inReset = false ∧
    ((∀ r ∈ s.fab.reqs, r.granted = true → inDram r.addr = false))) ∧
  (∃ (s : State),
    s.fum.resetDue = true ∧
    s.cZero = true ∧
    s.pwr.safe = false ∧
    s.pwr.chip = 0 ∧
    s.pwr.safeAt ≠ 0 ∧
    s.period < s.pwr.safeAt - 1 + 65536) ∧
  (∃ (s : State),
    s.fum.resetDue = false ∨ s.cZero = false) ∧
  (∃ (s : State),
    s.pwr.chip = 0 ∧
    s.pwr.safe = true ∧
    s.releasable = true ∧
    s.evt.inReset = false) :=
  ⟨⟨{ up with pwr := pwrUp }, by decide +kernel⟩,
   ⟨{ up with pwr := { pwrUp with chip := 1 } }, by decide +kernel⟩,
   ⟨7, up, by decide +kernel⟩,
   ⟨{ up with pwr := { pwrUp with chip := 2 } }, by decide +kernel⟩,
   ⟨{ up with pwr := { pwrUp with chip := 3 } }, by decide +kernel⟩,
   ⟨7, 7, 255, { (w up [(Reg.TEMP_VALID 7, 1), (Reg.TEMP_TEMP 7, 1839)]) with pwr := { pwrUp with chip := 3, cause := 4 } }, by decide +kernel⟩,
   ⟨7, 7, 255, { (w up [(Reg.TEMP_VALID 7, 1), (Reg.TEMP_TEMP 7, 1840)]) with pwr := { pwrUp with chip := 2, cause := 4 } }, by decide +kernel⟩,
   ⟨{ up with pwr := pwrUp, fum := { Fum.reset with resetDue := true, ang := 144 }, fab := { Fab.reset with reqs := [⟨0, 0, .write, 0x10040000, 2, [Sinter.zero, Sinter.zero], 1, 0, 2 ^ 32, 0, true, true, 1, false, 7⟩] } }, by decide +kernel⟩,
   ⟨{ up with pwr := { pwrUp with safeAt := 1 }, fum := { Fum.reset with resetDue := true, ang := 144 } }, by decide +kernel⟩,
   ⟨{ up with fum := { up.fum with resetDue := true, ang := 143 } }, by decide +kernel⟩,
   ⟨{ (w up [(Reg.FABTIME_TIME, 16)]) with pwr := { pwrUp with safe := true, idleAt := (0, 200) } }, by decide +kernel⟩⟩

theorem test_wit_PowerStates :
  (∃ (q : Fin 3) (s : State),
    ((q = 2 ∨ s.pwr.hot = false)) ∧
    s.bit Reg.PWRSTAT_BUSY = false ∧
    s.get Reg.PWRSTAT_STATE = q.val) ∧
  (∃ (q : Fin 3) (s : State),
    ((q = 2 ∨ s.pwr.hot = false)) ∧
    s.bit Reg.PWRSTAT_BUSY = true) ∧
  (∃ (q : Fin 3) (s : State),
    s.pwr.hot = true ∧
    q ≠ 2) ∧
  (∃ (q : Fin 3) (s : State),
    q ≠ 2 ∧
    s.pwr.hot = false ∧
    s.bit Reg.PWRSTAT_BUSY = false ∧
    s.get Reg.PWRSTAT_STATE + q.val = 1) ∧
  (∃ (s : State),
    s.bit Reg.PWRSTAT_BUSY = false ∧
    s.get Reg.PWRSTAT_STATE ≠ 2 ∧
    s.loopAtRest = true) ∧
  (∃ (s : State),
    s.bit Reg.PWRSTAT_BUSY = false ∧
    s.get Reg.PWRSTAT_STATE ≠ 2 ∧
    s.loopAtRest = false) ∧
  (∃ (q : Fin 3) (s : State),
    q ≠ 2 ∧
    s.pwr.hot = false ∧
    s.bit Reg.PWRSTAT_BUSY = false ∧
    s.get Reg.PWRSTAT_STATE = 2) ∧
  (∃ (s : State),
    s.pwr.step = 2 ∧
    s.loop = 7 ∧
    s.pwr.want = 0 ∧
    s.evt.inReset = false) ∧
  (∃ (s : State),
    s.pwr.step ≠ 2 ∨ s.loop ≠ 7) ∧
  (∃ (s : State),
    s.Inv ∧
    s.pwr.step = 4 ∧
    s.mem.training = false ∧
    s.evt.inReset = false) ∧
  (∃ (s : State),
    s.pwr.step ≠ 4 ∨ s.mem.training = true) ∧
  (∃ (f : Bool) (m : BitVec 2) (s : State),
    m ≠ 3 ∧
    ((s.get Reg.PWRSTAT_STATE = 1 ∨
    (s.get Reg.PWRRATE_FAMILY = f.toNat ∧ s.get Reg.PWRRATE_MULT = m.toNat)))) ∧
  (∃ (f : Bool) (m : BitVec 2) (s : State),
    m = 3 ∨ (s.get Reg.PWRSTAT_STATE ≠ 1 ∧
    (s.get Reg.PWRRATE_FAMILY ≠ f.toNat ∨ s.get Reg.PWRRATE_MULT ≠ m.toNat))) :=
  ⟨⟨2, { (w up [(Reg.PWRSTAT_BUSY, 0), (Reg.PWRSTAT_STATE, 2)]) with pwr := { pwrUp with hot := false } }, by decide +kernel⟩,
   ⟨0, { (w up [(Reg.PWRSTAT_BUSY, 1)]) with pwr := { pwrUp with hot := false } }, by decide +kernel⟩,
   ⟨1, { (w up []) with pwr := { pwrUp with hot := true } }, by decide +kernel⟩,
   ⟨0, { (w up [(Reg.PWRSTAT_BUSY, 0), (Reg.PWRSTAT_STATE, 1)]) with pwr := { pwrUp with hot := false } }, by decide +kernel⟩,
   ⟨{ (w up [(Reg.PWRSTAT_BUSY, 0), (Reg.PWRSTAT_STATE, 1), (Reg.CORESTAT_STATE, 7)]) with pwr := { pwrUp with hot := true } }, by decide +kernel⟩,
   ⟨{ (w up [(Reg.PWRSTAT_BUSY, 0), (Reg.PWRSTAT_STATE, 1), (Reg.CORESTAT_STATE, 4)]) with pwr := { pwrUp with hot := true } }, by decide +kernel⟩,
   ⟨0, (w up [(Reg.PWRSTAT_BUSY, 0), (Reg.PWRSTAT_STATE, 2)]), by decide +kernel⟩,
   ⟨{ (w up [(Reg.CORESTAT_STATE, 7)]) with pwr := { pwrUp with step := 2 } }, by decide +kernel⟩,
   ⟨{ (w up []) with pwr := { pwrUp with step := 1 } }, by decide +kernel⟩,
   ⟨{ up with pwr := { pwrUp with step := 4 } }, by
    refine ⟨inv_dec (by decide +kernel), ?_, ?_, ?_⟩ <;> decide +kernel⟩,
   ⟨{ (w up []) with pwr := { pwrUp with step := 3 } }, by decide +kernel⟩,
   ⟨true, 2, (w up [(Reg.PWRSTAT_STATE, 1)]), by decide +kernel⟩,
   ⟨true, 1, (w up [(Reg.PWRSTAT_STATE, 2), (Reg.PWRRATE_MULT, 2)]), by decide +kernel⟩⟩

theorem test_wit_SupplyAndTemperature :
  (∃ (r : Fin 10) (s : State),
    s.evt.inReset = false ∧
    s.evt.once.contains 208 = false) ∧
  (∃ (r : Fin 10) (s : State),
    (s.get Reg.SUPSTAT_BELOW_WARN).testBit r = true ∧
    s.pwr.supply ≠ r.val + 1 ∧
    s.evt.inReset = false) ∧
  (∃ (r : Fin 10) (s : State),
    (s.get Reg.SUPSTAT_BELOW_WARN).testBit r = false) ∧
  (∃ (r : Fin 10) (o : Bool) (s : State),
    r ≠ 2 ∧
    r ≠ 9) ∧
  (∃ (r : Fin 10) (o : Bool) (s : State),
    r = 2 ∨ r = 9) ∧
  (∃ (r : Nat) (s : State),
    s.pwr.supply = r + 1 ∧
    s.supplyWaits = false ∧
    s.pwr.chip < 2) ∧
  (∃ (s : State),
    (s.pwr.supply = 0 ∨ s.supplyWaits = true)) ∧
  (∃ (i : Fin 8) (v : BitVec 13) (s : State),
    -60 * 16 ≤ v.toInt ∧
    v.toInt < 110 * 16 ∧
    s.pwr.hot = false ∧
    ((∀ j : Fin 8, s.bit (Reg.TEMP_BAD j) = false ∧ (s.bit (Reg.TEMP_VALID j) = true → tempOf (s.get (Reg.TEMP_TEMP j)) < 110 * 16)))) ∧
  (∃ (i : Fin 8) (v : BitVec 13) (s : State),
    115 * 16 ≤ v.toInt ∧
    v.toInt < 135 * 16 ∧
    s.pwr.hot = false ∧
    s.pwr.warned = false ∧
    s.evt.inReset = false ∧
    ((∀ j : Fin 8, s.bit (Reg.TEMP_BAD j) = false ∧ s.bit (Reg.TEMP_VALID j) = false))) ∧
  (∃ (i : Fin 8) (s : State),
    s.evt.inReset = false ∧
    s.evt.once.contains 215 = false ∧
    s.pwr.hot = false ∧
    ((∀ j : Fin 8, s.bit (Reg.TEMP_BAD j) = false ∧ s.bit (Reg.TEMP_VALID j) = false))) :=
  ⟨⟨9, up, by decide +kernel⟩,
   ⟨9, { (w up [(Reg.SUPSTAT_BELOW_WARN, 512)]) with pwr := { pwrUp with supply := 9 } }, by decide +kernel⟩,
   ⟨9, (w up [(Reg.SUPSTAT_BELOW_WARN, 511)]), by decide +kernel⟩,
   ⟨8, true, up, by decide +kernel⟩,
   ⟨9, false, up, by decide +kernel⟩,
   ⟨9, { (w up [(Reg.MGSTAT_FCLK_OK, 1), (Reg.FABTIME_TIME, 98304)]) with pwr := { pwrUp with supply := 10, chip := 1, supplyAt := (0, 200) }, fum := { Fum.reset with ang := 0 } }, by decide +kernel⟩,
   ⟨{ (w up [(Reg.MGSTAT_FCLK_OK, 1), (Reg.FABTIME_TIME, 98303)]) with pwr := { pwrUp with supply := 10, supplyAt := (0, 200) }, fum := { Fum.reset with ang := 0 } }, by decide +kernel⟩,
   ⟨7, BitVec.ofInt 13 (-960), { (w up [(Reg.TEMP_BAD 0, 0), (Reg.TEMP_BAD 1, 0), (Reg.TEMP_BAD 2, 0), (Reg.TEMP_BAD 3, 0), (Reg.TEMP_BAD 4, 0), (Reg.TEMP_BAD 5, 0), (Reg.TEMP_BAD 6, 0), (Reg.TEMP_BAD 7, 0), (Reg.TEMP_VALID 0, 0), (Reg.TEMP_VALID 1, 0), (Reg.TEMP_VALID 2, 0), (Reg.TEMP_VALID 3, 0), (Reg.TEMP_VALID 4, 0), (Reg.TEMP_VALID 5, 0), (Reg.TEMP_VALID 6, 0), (Reg.TEMP_VALID 7, 0)]) with pwr := { pwrUp with hot := false } }, by decide +kernel⟩,
   ⟨7, 0x86F, { (w up [(Reg.TEMP_BAD 0, 0), (Reg.TEMP_BAD 1, 0), (Reg.TEMP_BAD 2, 0), (Reg.TEMP_BAD 3, 0), (Reg.TEMP_BAD 4, 0), (Reg.TEMP_BAD 5, 0), (Reg.TEMP_BAD 6, 0), (Reg.TEMP_BAD 7, 0), (Reg.TEMP_VALID 0, 0), (Reg.TEMP_VALID 1, 0), (Reg.TEMP_VALID 2, 0), (Reg.TEMP_VALID 3, 0), (Reg.TEMP_VALID 4, 0), (Reg.TEMP_VALID 5, 0), (Reg.TEMP_VALID 6, 0), (Reg.TEMP_VALID 7, 0)]) with pwr := { pwrUp with hot := false } }, by decide +kernel⟩,
   ⟨7, { (w up [(Reg.TEMP_BAD 0, 0), (Reg.TEMP_BAD 1, 0), (Reg.TEMP_BAD 2, 0), (Reg.TEMP_BAD 3, 0), (Reg.TEMP_BAD 4, 0), (Reg.TEMP_BAD 5, 0), (Reg.TEMP_BAD 6, 0), (Reg.TEMP_BAD 7, 0), (Reg.TEMP_VALID 0, 0), (Reg.TEMP_VALID 1, 0), (Reg.TEMP_VALID 2, 0), (Reg.TEMP_VALID 3, 0), (Reg.TEMP_VALID 4, 0), (Reg.TEMP_VALID 5, 0), (Reg.TEMP_VALID 6, 0), (Reg.TEMP_VALID 7, 0)]) with pwr := { pwrUp with hot := false } }, by decide +kernel⟩⟩

theorem test_wit_Boot :
  (∃ (s : State),
    s.boot.started = false ∧
    s.pwr.chip = 0 ∧
    s.loop = 5 ∧
    s.get Reg.BOOTSTAT_MODE < 4) ∧
  (∃ (s : State),
    s.boot.started = false ∧
    s.pwr.chip = 0 ∧
    s.loop = 5 ∧
    4 ≤ s.get Reg.BOOTSTAT_MODE) ∧
  (∃ (s : State),
    s.boot.started = true ∨ s.pwr.chip ≠ 0 ∨ s.loop ≠ 5) ∧
  (∃ (m : Fin 8) (s : State),
    ((m = 1 ∧ (s.get Reg.BOOTSTAT_MODE = 0 ∨ s.bit Reg.BOOTSTAT_FALLBACK = true)) ∨
    (m = 5 ∧ s.get Reg.BOOTSTAT_MODE = 2)) ∧
    s.bootBusy = false) ∧
  (∃ (m : Fin 8) (s : State),
    m ≠ 1 ∧
    m ≠ 5) ∧
  (∃ (fl : List (BitVec 8)) (j : Nat) (s : State),
    let head := s.imageBytes fl 0 (keyAt (Nat.min 64 (leWord (s.imageBytes fl 0 32) 8)) + 128)
    s.bootMayCheck = true ∧
    j < 4 ∧
    s.bootChecks head = .good j) ∧
  (∃ (fl : List (BitVec 8)) (s : State),
    s.bootMayCheck = false) ∧
  (∃ (b1 : Bool) (b2 : Bool) (s : State),
    let x := sectionAt s.boot.image s.boot.sect
    let bs := s.imageBytes s.boot.image x.off x.len
    s.bootMayLoad = true ∧
    s.bootFlash = false ∧
    (Digest.crc32c bs).toNat = x.crc ∧
    Digest.digestNat (Digest.sha256 bs) = x.digest ∧
    x.ty = 8) ∧
  (∃ (b1 : Bool) (b2 : Bool) (s : State),
    let x := sectionAt s.boot.image s.boot.sect
    let bs := s.imageBytes s.boot.image x.off x.len
    s.bootMayLoad = true ∧
    s.bootFlash = false ∧
    (Digest.crc32c bs).toNat = x.crc ∧
    Digest.digestNat (Digest.sha256 bs) = x.digest) ∧
  (∃ (b1 : Bool) (b2 : Bool) (s : State),
    s.bootMayLoad = false) ∧
  (∃ (a : BitVec 32) (v : BitVec 32) (s : State),
    let x := sectionAt s.boot.image s.boot.sect
    let r := s.romWrite a.toNat [Sinter.ofData v]
    s.boot.regs = true ∧
    leWords (s.imageBytes s.boot.image x.off x.len) = [a, v] ∧
    a.toNat % 4 = 0 ∧
    0x80000000 ≤ a.toNat ∧
    a.toNat < 0x80110000 ∧
    r.2 = 0) ∧
  (∃ (s : State),
    s.boot.regs = false) ∧
  (∃ (s : State),
    s.get Reg.BOOTSTAT_STAGE ≠ 4 ∨ s.boot.sect < s.bootSections ∨ s.remapFree = false) ∧
  (∃ (s : State),
    s.get Reg.BOOTSTAT_STAGE = 4 ∧
    s.bootSections ≤ s.boot.sect ∧
    s.remapFree = true ∧
    ((∀ r ∈ s.fab.reqs, r.port ≠ portHeld)) ∧
    s.evt.inReset = false) :=
  ⟨⟨{ (w up [(Reg.CORESTAT_STATE, 5), (Reg.BOOTSTAT_MODE, 3)]) with pwr := pwrUp, boot := { Boot.reset with started := false } }, by decide +kernel⟩,
   ⟨{ (w up [(Reg.CORESTAT_STATE, 5), (Reg.BOOTSTAT_MODE, 4)]) with pwr := pwrUp, boot := { Boot.reset with started := false } }, by decide +kernel⟩,
   ⟨{ (w up []) with pwr := pwrUp, boot := { Boot.reset with started := true } }, by decide +kernel⟩,
   ⟨5, (w up [(Reg.BOOTSTAT_MODE, 2), (Reg.BOOTSTAT_STAGE, 6)]), by decide +kernel⟩,
   ⟨4, up, by decide +kernel⟩,
   ⟨goodImage, 3, { (w up [(Reg.BOOTSTAT_MODE, 1), (Reg.BOOTSTAT_FALLBACK, 0), (Reg.BOOTSTAT_STAGE, 3), (Reg.FUSECFG_KEYPROG, 8), (Reg.FUSECFG_KEYREV, 7), (Reg.KEYHASH_WORD 24, 0xb3d28341), (Reg.KEYHASH_WORD 25, 0x6a8e6401), (Reg.KEYHASH_WORD 26, 0xd39a988f), (Reg.KEYHASH_WORD 27, 0x2e469a12), (Reg.KEYHASH_WORD 28, 0x968dc63c), (Reg.KEYHASH_WORD 29, 0x4387a3f2), (Reg.KEYHASH_WORD 30, 0xc67338ad), (Reg.KEYHASH_WORD 31, 0x14a1e6d0)]) with boot := { up.boot with started := true, image := [] } }, by decide +kernel⟩,
   ⟨[], { (w up []) with pwr := pwrUp, boot := { Boot.reset with started := false } }, by decide +kernel⟩,
   ⟨true, true, { (w up [(Reg.BOOTSTAT_MODE, 0), (Reg.BOOTSTAT_STAGE, 4)]) with boot := { up.boot with image := regsImage, sect := 0, regs := false }, mem := { up.mem with sram := [(0x30000100, Sinter.ofData 0x800D0018), (0x30000104, Sinter.ofData 0x00000005)] } }, by decide +kernel⟩,
   ⟨true, true, { (w up [(Reg.MGSTAT_FCLK_OK, 1), (Reg.FABMST_RESET 0, 0), (Reg.FABMST_RESET 1, 0), (Reg.FABMST_RESET 2, 0), (Reg.FABMST_RESET 3, 0), (Reg.FABMST_RESET 4, 0), (Reg.FABMST_RESET 5, 0), (Reg.FABLOCK_M0_OPEN, 0), (Reg.FABLOCK_M4_OPEN, 0), (Reg.BOOTSTAT_MODE, 0), (Reg.BOOTSTAT_STAGE, 4)]) with pwr := pwrUp, clk := { up.clk with gated := [], gating := none }, fab := { Fab.reset with reqs := [] }, boot := { up.boot with image := headImage, sect := 0, regs := false }, mem := { up.mem with sram := [(0x30000100, Sinter.ofData 0x12345678), (0x30000104, Sinter.ofData 0x00000000)] } }, by decide +kernel⟩,
   ⟨true, true, { (w up []) with pwr := pwrUp, boot := { Boot.reset with regs := true } }, by decide +kernel⟩,
   ⟨0x800D0018, 5, { (w up [(Reg.MGSTAT_FCLK_OK, 1), (Reg.FABMST_RESET 0, 0), (Reg.FABMST_RESET 1, 0), (Reg.FABMST_RESET 2, 0), (Reg.FABMST_RESET 3, 0), (Reg.FABMST_RESET 4, 0), (Reg.FABMST_RESET 5, 0), (Reg.FABLOCK_M0_OPEN, 0), (Reg.FABLOCK_M4_OPEN, 0), (Reg.BOOTSTAT_MODE, 0), (Reg.BOOTSTAT_STAGE, 4)]) with pwr := pwrUp, clk := { up.clk with gated := [], gating := none }, fab := { Fab.reset with reqs := [] }, boot := { up.boot with image := regsImage, sect := 0, regs := true }, mem := { up.mem with sram := [(0x30000100, Sinter.ofData 0x800D0018), (0x30000104, Sinter.ofData 0x00000005)] } }, by decide +kernel⟩,
   ⟨{ (w up []) with pwr := pwrUp, boot := { Boot.reset with regs := false } }, by decide +kernel⟩,
   ⟨up, by decide +kernel⟩,
   ⟨{ { (w up [(Reg.BOOTSTAT_STAGE, 4)]) with pwr := pwrUp, boot := { Boot.reset with image := [], sect := 0 } } with fab := Fab.reset }, by decide +kernel⟩⟩

theorem test_wit_EventCommands :
  (∃ (w : Fin 8) (v : BitVec 32) (s : State),
    s.evt.inReset = false) ∧
  (∃ (w : Fin 8) (v : BitVec 32) (s : State),
    s.evt.inReset = false) ∧
  (∃ (e : Fin 256) (v : BitVec 15) (s : State),
    s.evt.inReset = false) ∧
  (∃ (v : BitVec 16) (s : State),
    s.evt.inReset = false) ∧
  (∃ (w : Fin 8) (e : Fin 256) (v : BitVec 32) (r : BitVec 15) (x : BitVec 16) (s : State),
    s.evt.inReset = true) ∧
  (∃ (x : Fin 16) (s : State),
    s.evt.due.testBit x = false) ∧
  (∃ (x : Fin 16) (s : State),
    s.evt.due.testBit x = true) :=
  ⟨⟨7, 0xFFFFFFFF, up, by decide +kernel⟩,
   ⟨7, 0xFFFFFFFF, up, by decide +kernel⟩,
   ⟨255, 0x7FFF, up, by decide +kernel⟩,
   ⟨255, up, by decide +kernel⟩,
   ⟨7, 255, 0xFFFFFFFF, 0x7FFF, 0xFFFF, { up with evt := { up.evt with inReset := true } }, by decide +kernel⟩,
   ⟨15, { up with evt := { up.evt with due := 0 } }, by decide +kernel⟩,
   ⟨15, { up with evt := { up.evt with due := 2 ^ 15, table := [] } }, by decide +kernel⟩⟩

theorem test_wit_HostAccesses :
  (∃ (bar : Fin 3) (o : BitVec 32) (a : Nat) (b : Beats) (s : State),
    s.hostUp = true ∧
    o.toNat % 4 = 0 ∧
    inMsixTable bar o.toNat = false ∧
    inMsixPba bar o.toNat = false ∧
    s.barAddr bar o.toNat = some a ∧
    s.access 1 0 .read a 1 [] true = some b ∧
    0 < b.code ∧
    b.code < 8) ∧
  (∃ (bar : Fin 3) (o : BitVec 32) (a : Nat) (b : Beats) (s : State),
    s.hostUp = true ∧
    o.toNat % 4 = 0 ∧
    inMsixTable bar o.toNat = false ∧
    inMsixPba bar o.toNat = false ∧
    s.barAddr bar o.toNat = some a ∧
    s.access 1 0 .read a 1 [] true = some b) ∧
  (∃ (bar : Fin 3) (o : BitVec 32) (a : Nat) (k : Nat) (v : BitVec 32) (s : State),
    s.hostUp = true ∧
    o.toNat % 4 = 0 ∧
    s.barAddr bar o.toNat = some a ∧
    s.portIssues 1 = true ∧
    s.answeredAtOnce a 1 true true = none ∧
    s.portFree 1 (s.portFor a) = true ∧
    inDram a = false ∧
    s.place a = .sram k ∧
    inMsixTable bar o.toNat = false ∧
    inMsixPba bar o.toNat = false ∧
    (s.ram k).isPoison = false ∧
    (s.ram k).ok = true) ∧
  (∃ (bar : Fin 3) (o : BitVec 32) (a : Nat) (k : Nat) (v : BitVec 32) (s : State),
    s.hostUp = true ∧
    o.toNat % 4 = 0 ∧
    s.barAddr bar o.toNat = some a ∧
    s.portIssues 1 = true ∧
    s.answeredAtOnce a 1 true true = none ∧
    s.portFree 1 (s.portFor a) = true ∧
    inDram a = false ∧
    s.place a = .sram k ∧
    inMsixTable bar o.toNat = false ∧
    inMsixPba bar o.toNat = false) ∧
  (∃ (bar : Fin 3) (o : BitVec 32) (s : State),
    s.hostUp = true ∧
    o.toNat % 4 = 0 ∧
    inMsixTable bar o.toNat = false ∧
    inMsixPba bar o.toNat = false ∧
    s.barAddr bar o.toNat = none) ∧
  (∃ (bar : Fin 3) (o : BitVec 32) (ws : List (BitVec 32)) (s : State),
    s.hostUp = true) ∧
  (∃ (s : State),
    s.hostUp = true) ∧
  (∃ (bar : Fin 3) (o : BitVec 32) (n : BitVec 10) (ws : List (BitVec 32)) (f : Bool) (s : State),
    s.hostUp = false) :=
  ⟨⟨0, 0x10FFFC, 0x8010FFFC, ((({ (w up [(Reg.MGSTAT_FCLK_OK, 1), (Reg.FABMST_RESET 0, 0), (Reg.FABMST_RESET 1, 0), (Reg.FABMST_RESET 2, 0), (Reg.FABMST_RESET 3, 0), (Reg.FABMST_RESET 4, 0), (Reg.FABMST_RESET 5, 0), (Reg.FABLOCK_M0_OPEN, 0), (Reg.FABLOCK_M4_OPEN, 0), (Reg.HSTSTAT_LINK_UP, 1)]) with pwr := pwrUp, clk := { up.clk with gated := [], gating := none }, fab := { Fab.reset with reqs := [] } }).access 1 0 .read 0x8010FFFC 1 [] true).getD ⟨up, [], 0, 9⟩), { (w up [(Reg.MGSTAT_FCLK_OK, 1), (Reg.FABMST_RESET 0, 0), (Reg.FABMST_RESET 1, 0), (Reg.FABMST_RESET 2, 0), (Reg.FABMST_RESET 3, 0), (Reg.FABMST_RESET 4, 0), (Reg.FABMST_RESET 5, 0), (Reg.FABLOCK_M0_OPEN, 0), (Reg.FABLOCK_M4_OPEN, 0), (Reg.HSTSTAT_LINK_UP, 1)]) with pwr := pwrUp, clk := { up.clk with gated := [], gating := none }, fab := { Fab.reset with reqs := [] } }, by
    refine ⟨?_, ?_, ?_, ?_, ?_, some_getD (by decide +kernel), ?_, ?_⟩ <;> decide +kernel⟩,
   ⟨1, 0, 0x20000000, ((({ (w up [(Reg.MGSTAT_FCLK_OK, 1), (Reg.FABMST_RESET 0, 0), (Reg.FABMST_RESET 1, 0), (Reg.FABMST_RESET 2, 0), (Reg.FABMST_RESET 3, 0), (Reg.FABMST_RESET 4, 0), (Reg.FABMST_RESET 5, 0), (Reg.FABLOCK_M0_OPEN, 0), (Reg.FABLOCK_M4_OPEN, 0), (Reg.HSTSTAT_LINK_UP, 1)]) with pwr := pwrUp, clk := { up.clk with gated := [], gating := none }, fab := { Fab.reset with reqs := [] } }).access 1 0 .read 0x20000000 1 [] true).getD ⟨up, [], 0, 9⟩), { (w up [(Reg.MGSTAT_FCLK_OK, 1), (Reg.FABMST_RESET 0, 0), (Reg.FABMST_RESET 1, 0), (Reg.FABMST_RESET 2, 0), (Reg.FABMST_RESET 3, 0), (Reg.FABMST_RESET 4, 0), (Reg.FABMST_RESET 5, 0), (Reg.FABLOCK_M0_OPEN, 0), (Reg.FABLOCK_M4_OPEN, 0), (Reg.HSTSTAT_LINK_UP, 1)]) with pwr := pwrUp, clk := { up.clk with gated := [], gating := none }, fab := { Fab.reset with reqs := [] } }, by
    refine ⟨?_, ?_, ?_, ?_, ?_, some_getD (by decide +kernel)⟩ <;> decide +kernel⟩,
   ⟨1, 0x1000004, 0x30000004, 0x30000004, 5, { (w up [(Reg.MGSTAT_FCLK_OK, 1), (Reg.FABMST_RESET 0, 0), (Reg.FABMST_RESET 1, 0), (Reg.FABMST_RESET 2, 0), (Reg.FABMST_RESET 3, 0), (Reg.FABMST_RESET 4, 0), (Reg.FABMST_RESET 5, 0), (Reg.FABLOCK_M0_OPEN, 0), (Reg.FABLOCK_M4_OPEN, 0), (Reg.HSTSTAT_LINK_UP, 1)]) with pwr := pwrUp, clk := { up.clk with gated := [], gating := none }, fab := { Fab.reset with reqs := [] }, mem := { up.mem with sram := [] } }, by decide +kernel⟩,
   ⟨1, 0x1000004, 0x30000004, 0x30000004, 5, { (w up [(Reg.MGSTAT_FCLK_OK, 1), (Reg.FABMST_RESET 0, 0), (Reg.FABMST_RESET 1, 0), (Reg.FABMST_RESET 2, 0), (Reg.FABMST_RESET 3, 0), (Reg.FABMST_RESET 4, 0), (Reg.FABMST_RESET 5, 0), (Reg.FABLOCK_M0_OPEN, 0), (Reg.FABLOCK_M4_OPEN, 0), (Reg.HSTSTAT_LINK_UP, 1)]) with pwr := pwrUp, clk := { up.clk with gated := [], gating := none }, fab := { Fab.reset with reqs := [] } }, by decide +kernel⟩,
   ⟨1, 0x1400000, { (w up [(Reg.MGSTAT_FCLK_OK, 1), (Reg.FABMST_RESET 0, 0), (Reg.FABMST_RESET 1, 0), (Reg.FABMST_RESET 2, 0), (Reg.FABMST_RESET 3, 0), (Reg.FABMST_RESET 4, 0), (Reg.FABMST_RESET 5, 0), (Reg.FABLOCK_M0_OPEN, 0), (Reg.FABLOCK_M4_OPEN, 0), (Reg.HSTSTAT_LINK_UP, 1)]) with pwr := pwrUp, clk := { up.clk with gated := [], gating := none }, fab := { Fab.reset with reqs := [] } }, by decide +kernel⟩,
   ⟨0, 2, [], { (w up [(Reg.MGSTAT_FCLK_OK, 1), (Reg.FABMST_RESET 0, 0), (Reg.FABMST_RESET 1, 0), (Reg.FABMST_RESET 2, 0), (Reg.FABMST_RESET 3, 0), (Reg.FABMST_RESET 4, 0), (Reg.FABMST_RESET 5, 0), (Reg.FABLOCK_M0_OPEN, 0), (Reg.FABLOCK_M4_OPEN, 0), (Reg.HSTSTAT_LINK_UP, 1)]) with pwr := pwrUp, clk := { up.clk with gated := [], gating := none }, fab := { Fab.reset with reqs := [] } }, by decide +kernel⟩,
   ⟨{ (w up [(Reg.MGSTAT_FCLK_OK, 1), (Reg.FABMST_RESET 0, 0), (Reg.FABMST_RESET 1, 0), (Reg.FABMST_RESET 2, 0), (Reg.FABMST_RESET 3, 0), (Reg.FABMST_RESET 4, 0), (Reg.FABMST_RESET 5, 0), (Reg.FABLOCK_M0_OPEN, 0), (Reg.FABLOCK_M4_OPEN, 0), (Reg.HSTSTAT_LINK_UP, 1)]) with pwr := pwrUp, clk := { up.clk with gated := [], gating := none }, fab := { Fab.reset with reqs := [] } }, by decide +kernel⟩,
   ⟨2, 0, 1, [], true, { (w up [(Reg.MGSTAT_FCLK_OK, 1), (Reg.FABMST_RESET 0, 0), (Reg.FABMST_RESET 1, 0), (Reg.FABMST_RESET 2, 0), (Reg.FABMST_RESET 3, 0), (Reg.FABMST_RESET 4, 0), (Reg.FABMST_RESET 5, 0), (Reg.FABLOCK_M0_OPEN, 0), (Reg.FABLOCK_M4_OPEN, 0), (Reg.HSTSTAT_LINK_UP, 0)]) with pwr := pwrUp, clk := { up.clk with gated := [], gating := none }, fab := { Fab.reset with reqs := [] } }, by decide +kernel⟩⟩

theorem test_wit_HostLink :
  (∃ (sp : BitVec 3) (wd : BitVec 3) (bme : Bool) (msix : Bool) (fm : Bool) (s : State),
    s.pwr.chip = 0 ∧
    s.evt.inReset = false) ∧
  (∃ (s : State),
    s.hostUp = true ∧
    s.evt.inReset = false) ∧
  (∃ (s : State),
    s.Inv ∧
    s.hostUp = true ∧
    s.evt.inReset = false) ∧
  (∃ (s : State),
    s.hostUp = false) ∧
  (∃ (sp : BitVec 3) (wd : BitVec 3) (bme : Bool) (msix : Bool) (fm : Bool) (s : State),
    s.pwr.chip ≠ 0) :=
  ⟨⟨4, 2, true, true, false, { up with pwr := pwrUp }, by decide +kernel⟩,
   ⟨{ (w up [(Reg.MGSTAT_FCLK_OK, 1), (Reg.FABMST_RESET 0, 0), (Reg.FABMST_RESET 1, 0), (Reg.FABMST_RESET 2, 0), (Reg.FABMST_RESET 3, 0), (Reg.FABMST_RESET 4, 0), (Reg.FABMST_RESET 5, 0), (Reg.FABLOCK_M0_OPEN, 0), (Reg.FABLOCK_M4_OPEN, 0), (Reg.HSTSTAT_LINK_UP, 1)]) with pwr := pwrUp, clk := { up.clk with gated := [], gating := none }, fab := { Fab.reset with reqs := [] } }, by decide +kernel⟩,
   ⟨{ (w up [(Reg.HSTSTAT_LINK_UP, 1)]) with free := 0 }, inv_dec (by decide +kernel), by decide +kernel, by decide +kernel⟩,
   ⟨{ (w up [(Reg.MGSTAT_FCLK_OK, 1), (Reg.FABMST_RESET 0, 0), (Reg.FABMST_RESET 1, 0), (Reg.FABMST_RESET 2, 0), (Reg.FABMST_RESET 3, 0), (Reg.FABMST_RESET 4, 0), (Reg.FABMST_RESET 5, 0), (Reg.FABLOCK_M0_OPEN, 0), (Reg.FABLOCK_M4_OPEN, 0), (Reg.HSTSTAT_LINK_UP, 0)]) with pwr := pwrUp, clk := { up.clk with gated := [], gating := none }, fab := { Fab.reset with reqs := [] } }, by decide +kernel⟩,
   ⟨4, 2, true, true, false, { up with pwr := { pwrUp with chip := 1 } }, by decide +kernel⟩⟩

theorem test_wit_ManagementPortAndFuses :
  (∃ (a : BitVec 40) (n : BitVec 4) (ws : List (BitVec 32)) (st : Bool) (s : State),
    s.mgmtUp = true) ∧
  (∃ (a : BitVec 40) (n : BitVec 4) (ws : List (BitVec 32)) (g : Bool) (st : Bool) (s : State),
    s.mgmtUp = false) ∧
  (∃ (a : BitVec 40) (r : Nat) (v : BitVec 32) (s : State),
    s.mgmtUp = true ∧
    localReg a.toNat = some r) ∧
  (∃ (a : BitVec 40) (v : BitVec 32) (s : State),
    s.mgmtUp = true ∧
    localReg a.toNat = none) ∧
  (∃ (a : BitVec 40) (k : Nat) (v : BitVec 32) (s : State),
    s.mgmtUp = true ∧
    s.bit Reg.MGSTAT_FCLK_OK = true ∧
    s.portIssues 5 = true ∧
    s.answeredAtOnce a.toNat 1 true true = none ∧
    s.portFree 5 (s.portFor a.toNat) = true ∧
    inDram a.toNat = false ∧
    s.place a.toNat = .sram k ∧
    (s.ram k).isPoison = false ∧
    (s.ram k).faulty = false) ∧
  (∃ (a : BitVec 40) (n : BitVec 4) (ws : List (BitVec 32)) (st : Bool) (s : State),
    s.mgmtUp = true ∧
    s.bit Reg.MGSTAT_FCLK_OK = false) ∧
  (∃ (s : State),
    s.bit Reg.MGSTAT_FCLK_OK = true) ∧
  (∃ (s : State),
    s.bit Reg.MGSTAT_FCLK_OK = false) ∧
  (∃ (s : State),
    s.bit Reg.MGSTAT_RESET_N = false ∧
    s.get Reg.FUSEADDR_ADDR ≤ 0x20 ∧
    s.bit Reg.FUSESTAT_BUSY = false) ∧
  (∃ (s : State),
    s.bit Reg.MGSTAT_RESET_N = true ∨ 0x20 < s.get Reg.FUSEADDR_ADDR ∨ s.bit Reg.FUSESTAT_BUSY = true) ∧
  (∃ (ok : Bool) (a : Nat) (v : Nat) (s : State),
    s.fuses.prog = some (a, v)) ∧
  (∃ (ok : Bool) (s : State),
    s.fuses.prog = none) :=
  ⟨⟨0, 15, [], false, { up with pwr := { up.pwr with chip := 2 } }, by decide +kernel⟩,
   ⟨0, 0, [], true, false, { up with pwr := { up.pwr with chip := 3 } }, by decide +kernel⟩,
   ⟨0x10018, 0x800D0018, 0xFFFFFFFF, { up with pwr := { up.pwr with chip := 2 } }, by decide +kernel⟩,
   ⟨2, 0, { up with pwr := { up.pwr with chip := 2 } }, by decide +kernel⟩,
   ⟨0x10040000, 0x10040000, 5, { (w up [(Reg.MGSTAT_FCLK_OK, 1), (Reg.FABMST_RESET 0, 0), (Reg.FABMST_RESET 1, 0), (Reg.FABMST_RESET 2, 0), (Reg.FABMST_RESET 3, 0), (Reg.FABMST_RESET 4, 0), (Reg.FABMST_RESET 5, 0), (Reg.FABLOCK_M0_OPEN, 0), (Reg.FABLOCK_M4_OPEN, 0)]) with pwr := pwrUp, clk := { up.clk with gated := [], gating := none }, fab := { Fab.reset with reqs := [] }, mem := { up.mem with sram := [] } }, by decide +kernel⟩,
   ⟨0, 15, [1], true, { (w up [(Reg.MGSTAT_FCLK_OK, 1), (Reg.FABMST_RESET 0, 0), (Reg.FABMST_RESET 1, 0), (Reg.FABMST_RESET 2, 0), (Reg.FABMST_RESET 3, 0), (Reg.FABMST_RESET 4, 0), (Reg.FABMST_RESET 5, 0), (Reg.FABLOCK_M0_OPEN, 0), (Reg.FABLOCK_M4_OPEN, 0), (Reg.MGSTAT_FCLK_OK, 0)]) with pwr := pwrUp, clk := { up.clk with gated := [], gating := none }, fab := { Fab.reset with reqs := [] } }, by decide +kernel⟩,
   ⟨(w up [(Reg.MGSTAT_FCLK_OK, 1)]), by decide +kernel⟩,
   ⟨(w up [(Reg.MGSTAT_FCLK_OK, 0)]), by decide +kernel⟩,
   ⟨(w up [(Reg.MGSTAT_RESET_N, 0), (Reg.FUSEADDR_ADDR, 32), (Reg.FUSESTAT_BUSY, 0)]), by decide +kernel⟩,
   ⟨(w up [(Reg.MGSTAT_RESET_N, 0), (Reg.FUSEADDR_ADDR, 33)]), by decide +kernel⟩,
   ⟨false, 0x20, 0xFFFFFFFF, { up with fuses := { up.fuses with prog := some (0x20, 0xFFFFFFFF) } }, by decide +kernel⟩,
   ⟨true, { up with fuses := { up.fuses with prog := none } }, by decide +kernel⟩⟩

theorem test_wit_TapAndDebugPort :
  (∃ (b : List Bool) (s : State) (c : BitVec 8),
    c ∉ [0#8, 1#8, 2#8, 3#8, 4#8, 0x10#8, 0x11#8]) ∧
  (∃ (b : List Bool) (s : State) (p : Option (BitVec 32)) (x : Sinter) (xs : List Sinter),
    s.tap.words = x :: xs) ∧
  (∃ (a : BitVec 40) (n : BitVec 4) (s : State),
    s.bit Reg.DBGSTAT_OPEN = false) ∧
  (∃ (a : BitVec 40) (k : Nat) (w : BitVec 32) (ws : List (BitVec 32)) (s : State),
    s.bit Reg.DBGSTAT_OPEN = true ∧
    s.portIssues 4 = true ∧
    s.answeredAtOnce a.toNat 1 true true = none ∧
    s.portFor a.toNat < 54 ∧
    inDram a.toNat = false ∧
    s.place a.toNat = .sram k ∧
    s.lockBad 4 (s.portFor a.toNat) = false) ∧
  (∃ (a : BitVec 40) (k : Nat) (w : BitVec 32) (ws : List (BitVec 32)) (s : State),
    s.bit Reg.DBGSTAT_OPEN = true ∧
    s.portIssues 4 = true ∧
    s.answeredAtOnce a.toNat 1 true true = none ∧
    s.portFor a.toNat < 54 ∧
    inDram a.toNat = false ∧
    s.place a.toNat = .sram k ∧
    s.tap.queue = w :: ws) ∧
  (∃ (a : BitVec 40) (k : Nat) (w : BitVec 32) (ws : List (BitVec 32)) (s : State),
    s.bit Reg.DBGSTAT_OPEN = true ∧
    s.portIssues 4 = true ∧
    s.answeredAtOnce a.toNat 1 true true = none ∧
    s.portFor a.toNat < 54 ∧
    inDram a.toNat = false ∧
    s.place a.toNat = .sram k ∧
    s.tap.queue = w :: ws ∧
    s.lockedPort 4 = some (s.portFor a.toNat)) ∧
  (∃ (a : BitVec 40) (k : Nat) (w : BitVec 32) (ws : List (BitVec 32)) (s : State),
    s.bit Reg.DBGSTAT_OPEN = true ∧
    s.portIssues 4 = true ∧
    s.answeredAtOnce a.toNat 1 true true = none ∧
    s.portFor a.toNat < 54 ∧
    inDram a.toNat = false ∧
    s.place a.toNat = .sram k) :=
  ⟨⟨[true], up, 0xFF, by decide +kernel⟩,
   ⟨[], { up with tap := { up.tap with words := [Sinter.ofData 5], code := 7 } }, some 9, Sinter.ofData 5, [], by decide +kernel⟩,
   ⟨0, 15, (w up [(Reg.DBGSTAT_OPEN, 0)]), by decide +kernel⟩,
   ⟨0x10040000, 0x10040000, 5, [6], { (w up [(Reg.MGSTAT_FCLK_OK, 1), (Reg.FABMST_RESET 0, 0), (Reg.FABMST_RESET 1, 0), (Reg.FABMST_RESET 2, 0), (Reg.FABMST_RESET 3, 0), (Reg.FABMST_RESET 4, 0), (Reg.FABMST_RESET 5, 0), (Reg.FABLOCK_M0_OPEN, 0), (Reg.FABLOCK_M4_OPEN, 0), (Reg.DBGSTAT_OPEN, 1)]) with pwr := pwrUp, clk := { up.clk with gated := [], gating := none }, fab := { Fab.reset with reqs := [] } }, by decide +kernel⟩,
   ⟨0x10040000, 0x10040000, 5, [6], { (w up [(Reg.MGSTAT_FCLK_OK, 1), (Reg.FABMST_RESET 0, 0), (Reg.FABMST_RESET 1, 0), (Reg.FABMST_RESET 2, 0), (Reg.FABMST_RESET 3, 0), (Reg.FABMST_RESET 4, 0), (Reg.FABMST_RESET 5, 0), (Reg.FABLOCK_M0_OPEN, 0), (Reg.FABLOCK_M4_OPEN, 0), (Reg.DBGSTAT_OPEN, 1)]) with pwr := pwrUp, clk := { up.clk with gated := [], gating := none }, fab := { Fab.reset with reqs := [] }, tap := { up.tap with queue := [5, 6] } }, by decide +kernel⟩,
   ⟨0x10040000, 0x10040000, 5, [6], { (w up [(Reg.MGSTAT_FCLK_OK, 1), (Reg.FABMST_RESET 0, 0), (Reg.FABMST_RESET 1, 0), (Reg.FABMST_RESET 2, 0), (Reg.FABMST_RESET 3, 0), (Reg.FABMST_RESET 4, 0), (Reg.FABMST_RESET 5, 0), (Reg.FABLOCK_M0_OPEN, 0), (Reg.FABLOCK_M4_OPEN, 0), (Reg.DBGSTAT_OPEN, 1), (Reg.FABLOCK_M4_PORT, 1), (Reg.FABLOCK_M4_OPEN, 1)]) with pwr := pwrUp, clk := { up.clk with gated := [], gating := none }, fab := { Fab.reset with reqs := [] }, tap := { up.tap with queue := [5, 6] } }, by decide +kernel⟩,
   ⟨0x10040000, 0x10040000, 5, [6], { (w up [(Reg.MGSTAT_FCLK_OK, 1), (Reg.FABMST_RESET 0, 0), (Reg.FABMST_RESET 1, 0), (Reg.FABMST_RESET 2, 0), (Reg.FABMST_RESET 3, 0), (Reg.FABMST_RESET 4, 0), (Reg.FABMST_RESET 5, 0), (Reg.FABLOCK_M0_OPEN, 0), (Reg.FABLOCK_M4_OPEN, 0), (Reg.DBGSTAT_OPEN, 1)]) with pwr := pwrUp, clk := { up.clk with gated := [], gating := none }, fab := { Fab.reset with reqs := [] } }, by decide +kernel⟩⟩

theorem test_wit_PinMonitors :
  (∃ (p : Fin 177) (s : State),
    s.bit Reg.PINCFG_SHORT_EN = true ∧
    s.pinDrives p = true) ∧
  (∃ (p : Fin 177) (s : State),
    s.bit Reg.PINCFG_SHORT_EN = false ∨ s.pinDrives p = false) ∧
  (∃ (p : Fin 177) (i : BitVec 32) (s : State),
    s.pinHiz p = true ∧
    1024 * Nat.max 1 (s.get Reg.PINCFG_RETRY) ≤ i.toNat) ∧
  (∃ (p : Fin 177) (b : Bool) (i : BitVec 32) (s : State),
    s.pinHiz p = false ∨ b = true ∨
    i.toNat < 1024 * Nat.max 1 (s.get Reg.PINCFG_RETRY)) ∧
  (∃ (s : State),
    s.bit Reg.FUMSTAT_FAULTN = true) ∧
  (∃ (s : State),
    s.bit Reg.FUMSTAT_FAULTN = false) ∧
  (∃ (p : Fin 172) (b : Bool) (s : State),
    s.pinProbed p = true) ∧
  (∃ (p : Fin 172) (b : Bool) (s : State),
    s.pinProbed p = false) ∧
  (∃ (n : Fin 4) (s : State),
    s.bit (Reg.NETCFG_EN n) = true) ∧
  (∃ (n : Fin 4) (s : State),
    s.bit (Reg.NETCFG_EN n) = false) :=
  ⟨⟨176, { (w up [(Reg.PINCFG_SHORT_EN, 1), (Reg.PINSHORT_SHORT 5, 0)]) with pwr := pwrUp }, by decide +kernel⟩,
   ⟨176, (w up [(Reg.PINCFG_SHORT_EN, 0)]), by decide +kernel⟩,
   ⟨176, 0xFFFFFFFF, (w up [(Reg.PINSHORT_SHORT 5, 65536)]), by decide +kernel⟩,
   ⟨176, true, 0, up, by decide +kernel⟩,
   ⟨(w up [(Reg.FUMSTAT_FAULTN, 1)]), by decide +kernel⟩,
   ⟨(w up [(Reg.FUMSTAT_FAULTN, 0)]), by decide +kernel⟩,
   ⟨171, true, { (w up [(Reg.PINCFG_PROBE_CTRL, 1), (Reg.GPIOCFG_DIR, 0)]) with pins := { up.pins with probe := [(171, 7)] } }, by decide +kernel⟩,
   ⟨171, true, (w up [(Reg.PINCFG_PROBE_CTRL, 0)]), by decide +kernel⟩,
   ⟨3, (w up [(Reg.NETCFG_EN 3, 1)]), by decide +kernel⟩,
   ⟨3, (w up [(Reg.NETCFG_EN 3, 0)]), by decide +kernel⟩⟩

theorem test_wit_RegisterWrites :
  (∃ (m : Fin 8) (a : BitVec 40) (v : BitVec 32) (r : WordRow) (s : State),
    let plain (a : Nat) : Prop := (blockOf a = 6 ∧ a % 65536 ≠ 0x20) ∨ (blockOf a = 9 ∧ a % 65536 ≠ 4) ∨
    (blockOf a = 13 ∧ a % 65536 ∉ [0, 8, 0xC, 0x2C, 0x40])
    plain a.toNat ∧
    rowAt a.toNat = some r ∧
    ((s.locked = false ∨ ∀ f ∈ r.flds, f.ty ≠ .rwl))) ∧
  (∃ (m : Fin 8) (a : BitVec 40) (v : BitVec 32) (s : State),
    let plain (a : Nat) : Prop := (blockOf a = 6 ∧ a % 65536 ≠ 0x20) ∨ (blockOf a = 9 ∧ a % 65536 ≠ 4) ∨
    (blockOf a = 13 ∧ a % 65536 ∉ [0, 8, 0xC, 0x2C, 0x40])
    plain a.toNat ∧
    rowAt a.toNat = none) ∧
  (∃ (m : Fin 8) (a : BitVec 40) (v : BitVec 32) (s : State),
    s.locked = true ∧
    s.evt.inReset = false ∧
    s.evt.once.contains 206 = false ∧
    (a = 0x80090000 ∨ a = 0x800D0004 ∨ (a = 0x800D0000 ∧ s.fumWantsFallback = s.bit Reg.FUMSTAT_FALLBACK))) ∧
  (∃ (m : Fin 8) (v : BitVec 32) (s : State),
    v.getLsbD 31 = true ∧
    v.extractLsb' 0 2 = 2#2) :=
  ⟨⟨7, 0x800D0018, 0xFFFFFFFF, ((rowAt 0x800D0018).getD ⟨0, [], []⟩), (w up [(Reg.FUMLOCK_CLOSED, 0)]), by decide +kernel⟩,
   ⟨7, 0x800DFFFC, 0xFFFFFFFF, up, by decide +kernel⟩,
   ⟨7, 0x800D0000, 0xFFFFFFFF, (w up [(Reg.FUMLOCK_CLOSED, 1), (Reg.FUMSTAT_FALLBACK, 0), (Reg.FUMSTAT_CAUSE, 4)]), by decide +kernel⟩,
   ⟨7, 0x80000002, up, by decide +kernel⟩⟩

/-! ### What `wellFormed` refuses: one term for each check -/

theorem test_ill_formed_encodings :
    ([.waitp .steward, .mtc (.cell 0) 0x24 0, .mfc (.cell 0) 0 0x25 false, .dmac (.cell 0) .none .none 0 0 0 false,
      .sta (.cell 0) 0 0 9, .sta (.cell 0) 0 0 (-9), .staP (.cell 0) 0 0 9, .staP (.cell 0) 0 1 0, .sin .steward 0 0 0,
      .staX (.cell 0) 0 9 0, .ldUX .steward 0 0 0, .sout .steward 0 0 0, .staY (.cell 0) 0 9 0, .mtap .steward 0 0 0,
      .ldUY .steward 0 0 0, .ldZ .steward 0 0 0 0, .stZ .steward 0 0 0 0, .pget .steward 0 0 0 false false,
      .pgetTwin .steward 1 0 0 false false, .pgetTwin (.cell 0) 0 0 0 false false, .pgetTwin (.cell 0) 30 0 0 false false,
      .amoAdd .steward 0 0 0 false, .amoSwap .steward 0 0 0, .ldUZ .steward 0 0 0 false, .mtcs 10 0,
      .mfcs 0 10 false] : List Instr).all (fun i => !i.wellFormed) = true := by decide

theorem test_ill_formed_lengths :
    ([.refIntervalEnd [] 0 0 0 0 false 0 0, .linkFrameRx 0 ⟨0, 0⟩ 0 true ⟨[(0, [Sinter.zero, Sinter.zero])], [], []⟩ none,
      .linkFrameRx 0 ⟨0, 0⟩ 0 true ⟨[], [(0, [])], []⟩ none,
      .portInputFrame 0 ⟨false, List.replicate 9 0⟩ 0 false, .islandUngate 0x159, .islandGate 0x159, .islandForce 0x159,
      .fabricRead 4 0 0 0 none true, .fabricRead 4 0 0 17 none true, .fabricWrite 4 0 0 [] true none true,
      .fabricWrite 4 0 0 (List.replicate 17 Sinter.zero) true none true, .mgmtLocalWrite 0 [] true,
      .mgmtLocalWrite 0 (List.replicate 17 0) true, .mgmtFabricWrite 0 [] true true,
      .mgmtFabricWrite 0 (List.replicate 17 0) true true] : List Instr).all (fun i => !i.wellFormed) = true := by decide

theorem test_well_formed :
    ([.mtc (.cell 0) 0x23 0, .mfc (.cell 0) 0 0x24 false, .sta (.cell 0) 0 0 8, .sta (.cell 0) 0 0 (-8), .staP (.cell 0) 0 6 0,
      .mtcs 9 0, .islandGate 0x158, .fabricRead 4 0 0 16 none true] : List Instr).all Instr.wellFormed = true := by decide

/-! ### The manual's worked examples -/

/-- What the first result in flight of cell 0 is after the command. -/
def gives (o : Host.Outcome State Fault Refusal) : Option Val :=
  match o with
  | .next t => (t.core (.cell 0)).fly.head?.map InFlight.val
  | .fault _ => none
  | .refused _ => none

/-- Cell 0 with the registers `g`, the accumulator A0 = `a` and ST = `st`. -/
def cellWith (g : List (Nat × BitVec 32)) (a : Int) (st : BitVec 32) : State :=
  at0 up { ck with g := g.map (fun p => (p.1, some (Sinter.ofData p.2))), a := [(0, ⟨a, residueInt a, false⟩)], st := st, stRead := st }

/-- The word of data `d`, as a result. -/
def word (d : BitVec 32) : Option Val := some (.w (Sinter.ofData d))

/-- 00_scope, "three Sinter words". -/
theorem test_sinter_words :
    Sinter.ofData 0x40000000 = ⟨0x40000000, 4, true⟩ ∧ Sinter.ofData 0xC0000000 = ⟨0xC0000000, 123, false⟩ ∧
      Sinter.poisonOf 5 = ⟨5, 0x7F, true⟩ := by decide

/-- 02_memory, "locating a word in DRAM". -/
theorem test_dram_line : dramAddr 166 8 = 0x100001F40 ∧ dramAddr 167 0 = 0x100001F50 := by decide

/-- 03_cells, "three accumulator stores at s = 0". -/
theorem test_sta_half_odd :
    gives (exec (.sta (.cell 0) 11 0 0) (cellWith [] (3 * 2 ^ 31 + 2 ^ 30) 0x10000)) = some (.w ⟨4, 4, true⟩) := by decide +kernel
theorem test_sta_half_even :
    gives (exec (.sta (.cell 0) 11 0 0) (cellWith [] (2 * 2 ^ 31 + 2 ^ 30) 0x10000)) = some (.w ⟨2, 2, true⟩) := by decide +kernel
theorem test_sta_overflow :
    gives (exec (.sta (.cell 0) 11 0 0) (cellWith [] (2 ^ 62) 0x10000)) = some (.w ⟨0x7FFFFFFF, 7, true⟩) := by decide +kernel

/-- 03_cells, after the same table: a wrapping addition. -/
theorem test_add_wraps :
    gives (exec (.add (.cell 0) 3 4 5) (cellWith [(4, 0x7FFFFFFF), (5, 1)] 0 0)) = some (.w ⟨0x80000000, 119, false⟩) := by
  decide +kernel

/-- 04_instructions, the examples of ALU, select and shift. -/
theorem test_add_saturates :
    gives (exec (.add (.cell 0) 3 4 5) (cellWith [(4, 0x70000000), (5, 0x20000000)] 0 0x10000)) = word 0x7FFFFFFF := by decide +kernel
theorem test_xor_self : gives (exec (.xor (.cell 0) 3 4 4 false) (cellWith [(4, 0x12345678)] 0 0)) = word 0 := by decide +kernel
theorem test_clip :
    gives (exec (.clip (.cell 0) 3 4 5) (cellWith [(4, 0x70000000), (5, 0x40000000)] 0 0)) = word 0x40000000 := by decide +kernel
theorem test_srai : gives (exec (.srai (.cell 0) 3 4 4) (cellWith [(4, 0x80000000)] 0 0)) = word 0xF8000000 := by decide +kernel
theorem test_normi : gives (exec (.normi (.cell 0) 3 4 16) (cellWith [(4, 0x4000)] 0 0)) = word 0x40000000 := by decide +kernel

/-- 04_instructions, the examples of multiply-accumulate, conversion, immediates and unaligned loads. -/
theorem test_mpy :
    gives (exec (.mpy (.cell 0) 1 2 3) (cellWith [(2, 0x40000000), (3, 0x40000000)] 0 0)) =
      some (.acc ⟨2 ^ 60, 16, false⟩) := by decide +kernel
theorem test_bexp : gives (exec (.bexp (.cell 0) 7 (.g 5) false) (cellWith [(5, 0x4000)] 0 0)) = word 16 := by decide +kernel
theorem test_li : gives (exec (.li (.cell 0) 3 (-1) false) (cellWith [] 0 0)) = word 0xFFFFFFFF := by decide +kernel
theorem test_lui : gives (exec (.lui (.cell 0) 3 0x400 false) (cellWith [] 0 0)) = word 0x40000000 := by decide +kernel

/-- 04_instructions: `evt 3` raises E243. -/
theorem test_evt : (match exec (.evt (.cell 0) 3) (cellWith [] 0 0) with
    | .next t => t.evtStat 243
    | .fault _ => false
    | .refused _ => false) = true := by decide +kernel

/-- The published check values of CRC-32C, for "123456789", and of SHA-256, for "abc". -/
theorem test_crc32c : Digest.crc32c (Digest.bytesOf 9 0x313233343536373839) = 0xE3069283 := by decide +kernel
theorem test_sha256 :
    Digest.digestNat (Digest.sha256 (Digest.bytesOf 3 0x616263)) =
      0xba7816bf8f01cfea414140de5dae2223b00361a396177a9cb410ff61f20015ad := by decide +kernel

/-- R521, R522: a write of 13 words to DRAM that the reset of its master cuts after 12 beats leaves the line of those 12, and no
more. -/
theorem test_dram_write_cut :
    (let ws := (List.range 13).map (fun (i : Nat) => Sinter.ofData (BitVec.ofNat 32 (i + 1)))
     let r : FabReq := ⟨0, 0, .write, 0x100000000, 13, ws, 0x35, 0, 0, 0, true, true, 12, false, 7⟩
     let s := ((up.putBit Reg.DRCCFG_EN true).putBit Reg.DRCSTAT_TRAINED true).putBit Reg.DRCSTAT_SELF_REFRESH false
     match exec (.masterResetHandshake 0) { s with fab := { Fab.reset with reqs := [r] } } with
     | .next t => decide (t.dramRaw 0x10000002C = Sinter.ofData 12) && decide (t.mem.dram.length = 12) &&
         t.fab.reqs.isEmpty && t.fab.resps.isEmpty && t.evtStat 180
     | _ => false) = true := by decide +kernel

/-- R248, R516, R523: a direct write beyond the 8,192nd has no response until Geyser accepts it, and holds no path meanwhile. -/
theorem test_held_write_waits :
    (let r : FabReq := ⟨4, 3, .write, 0x20000014, 1, [Sinter.ofData 5], 2, 0, 0, 0, true, false, 0, false, 7⟩
     let s : State := { up.putBit Reg.MGSTAT_FCLK_OK true with
       fab := { Fab.reset with reqs := [r] }, gys := { Gys.reset with dwCount := 8192 } }
     match exec (.arbiterGrant 2 none) s with
     | .next t => t.fab.resps.isEmpty && decide (t.fab.reqs.map FabReq.port = [portDw]) &&
         (match exec .directWriteHeldAccept { t with gys := { t.gys with dwCount := 0 } } with
          | .next u => u.fab.reqs.isEmpty && decide (u.fab.resps.map (fun x => (x.code, x.done)) = [(0, 1)])
          | _ => false)
     | _ => false) = true := by decide +kernel

/-! ### The tables -/

/-- `rwlFlds` names every RWL field of the register tables. -/
theorem test_rwl_fields :
    Reg.table.all (fun r => r.flds.all (fun f => f.ty != .rwl || (rwlFlds.map Fld.key).contains (fldAt r.base f).key)) = true := by
  decide +kernel

/-- The register at 0x80020060 is BOOTSTAT, and no register lies at 0x8010FFFC. -/
theorem test_rows : (rowAt 0x80020060).isSome = true ∧ (rowAt 0x8010FFFC).isSome = false := by decide +kernel

/-- 17_pins_package, "finding balls", and the counts of R599. -/
theorem test_balls :
    [ballName 21 44, ballName 18 46, ballName 23 46, ballName 38 40] = ["AB44", "W46", "AD46", "AY40"] ∧
      ballUse 21 44 = .dout 13 5 ∧ ballUse 21 43 = .vss ∧ ballUse 21 42 = .supply "VDD_IO" ∧ ballUse 18 46 = .bclk 13 ∧
      ballUse 23 46 = .ws 13 ∧ ballUse 38 40 = .ddr 1 "CH1_DQ9" := by decide +kernel
theorem test_ball_counts :
    ballCount (fun u => u == .vss) = 822 ∧
      ballCount (fun u => match u with | .supply _ => true | _ => false) = 738 := by decide +kernel


end Sys2Proof.Tests
end

/-! SUPPORT. The invariant, the waiting queue and the frame count through every command: `exec_held`. -/

namespace Sys2Proof.Machine

open Sys2Proof

variable {q : List Instr} {fr : Nat → Prop} {s : State}

/-! ### Parts of the state at which the invariant does not look -/

theorem State.Held.withClk (h : s.Held q fr) (x : Clk) : ({ s with clk := x } : State).Held q fr :=
  h.same rfl rfl rfl rfl rfl rfl rfl
theorem State.Held.withGys (h : s.Held q fr) (x : Gys) : ({ s with gys := x } : State).Held q fr :=
  h.same rfl rfl rfl rfl rfl rfl rfl
theorem State.Held.withCal (h : s.Held q fr) (x : Cal) : ({ s with cal := x } : State).Held q fr :=
  h.same rfl rfl rfl rfl rfl rfl rfl
theorem State.Held.withEng (h : s.Held q fr) (x : Eng) : ({ s with eng := x } : State).Held q fr :=
  h.same rfl rfl rfl rfl rfl rfl rfl
theorem State.Held.withMtr (h : s.Held q fr) (x : Mtr) : ({ s with mtr := x } : State).Held q fr :=
  h.same rfl rfl rfl rfl rfl rfl rfl
theorem State.Held.withFab (h : s.Held q fr) (x : Fab) : ({ s with fab := x } : State).Held q fr :=
  h.same rfl rfl rfl rfl rfl rfl rfl
theorem State.Held.withLnk (h : s.Held q fr) (x : Lnk) : ({ s with lnk := x } : State).Held q fr :=
  h.same rfl rfl rfl rfl rfl rfl rfl
theorem State.Held.withPwr (h : s.Held q fr) (x : Pwr) : ({ s with pwr := x } : State).Held q fr :=
  h.same rfl rfl rfl rfl rfl rfl rfl
theorem State.Held.withPcie (h : s.Held q fr) (x : Pcie) : ({ s with pcie := x } : State).Held q fr :=
  h.same rfl rfl rfl rfl rfl rfl rfl
theorem State.Held.withTap (h : s.Held q fr) (x : Tap) : ({ s with tap := x } : State).Held q fr :=
  h.same rfl rfl rfl rfl rfl rfl rfl
theorem State.Held.withFuses (h : s.Held q fr) (x : Fuses) : ({ s with fuses := x } : State).Held q fr :=
  h.same rfl rfl rfl rfl rfl rfl rfl
theorem State.Held.withPins (h : s.Held q fr) (x : Pins) : ({ s with pins := x } : State).Held q fr :=
  h.same rfl rfl rfl rfl rfl rfl rfl

/-! ### Instructions -/

theorem execLin2g_held (hs : s.Held q fr) (u : Exe) (gd ga : Fin 32) (dup : Bool) :
    OutHeld q fr (execLin2g u gd ga dup s) := by
  refine done_held (State.compute_held hs fun c pz hc => ?_)
  split
  · exact Core.sendG_shallow hc
  · exact Core.dupResult_shallow hc

theorem execG2lin_held (hs : s.Held q fr) (u : Exe) (gd ga : Fin 32) (dup : Bool) :
    OutHeld q fr (execG2lin u gd ga dup s) := by
  refine done_held (State.compute_held hs fun c pz hc => ?_)
  split
  · exact Core.sendG_shallow hc
  · exact Core.dupResult_shallow hc

theorem execBexp_held (hs : s.Held q fr) (u : Exe) (gd : Fin 32) (src : BexpSrc) (dup : Bool) :
    OutHeld q fr (execBexp u gd src dup s) := by
  refine done_held (State.compute_held hs fun c pz hc => ?_)
  split
  · split
    · exact Core.sendG_shallow hc
    · exact Core.dupResult_shallow hc
  · split
    · exact Core.sendG_shallow hc
    · exact Core.dupResult_shallow hc

theorem execDmac_held (hs : s.Held q fr) (u : Exe) (op0 op1 : LaneOp) (d : Fin 4) (a b : Fin 16) (x : Bool) :
    OutHeld q fr (execDmac u op0 op1 d a b x s) := by
  refine done_held (State.compute_held hs fun c pz hc => ?_)
  split
  · exact hc
  · exact Core.lane_shallow (Core.lane_shallow hc)

theorem execMfcs_held (hs : s.Held q fr) (gd : Fin 32) (csr : BitVec 5) (dup : Bool) :
    OutHeld q fr (execMfcs gd csr dup s) := by
  refine done_held (State.compute_held hs fun c pz hc => ?_)
  split
  · exact Core.dupResult_shallow hc
  · exact hc

theorem execMtcs_held (hs : s.Held q fr) (csr : BitVec 5) (gs : Fin 32) : OutHeld q fr (execMtcs csr gs s) :=
  done_held (.ite (fun _ => State.ctlValue_held hs fun _ => State.csrWrite_held hs)
    (fun _ => State.ctl_held hs fun _ _ => State.trap_held hs))

/-- A call pushes its return address where fewer than 8 lie on the stack (R104). -/
theorem Core.push_shallow {c : Core} (hc : c.shallow) (h : ¬8 ≤ c.stack.length) (a t : Nat) :
    ({ c with stack := a :: c.stack, npc := t } : Core).shallow :=
  ⟨by simp only [List.length_cons]; omega, hc.2⟩

theorem Core.pop_shallow {c : Core} (hc : c.shallow) {a : Nat} {rest : List Nat} (h : c.stack = a :: rest) :
    ({ c with stack := rest, npc := a } : Core).shallow :=
  ⟨Nat.le_trans (by simp [h]) hc.1, hc.2⟩

theorem execBcc_held (hs : s.Held q fr) (u : Exe) (cond : BrCond) (target : BitVec 12) :
    OutHeld q fr (execBcc u cond target s) := by
  refine done_held (State.flow_held hs fun c hc => ?_)
  split
  · exact Core.branch_shallow hc
  · exact hc

theorem execCall_held (hs : s.Held q fr) (u : Exe) (target : BitVec 12) : OutHeld q fr (execCall u target s) := by
  refine done_held (State.flow_held hs fun c hc => ?_)
  split
  · exact hc
  · exact Core.push_shallow hc ‹_› _ _

theorem execRet_held (hs : s.Held q fr) (u : Exe) : OutHeld q fr (execRet u s) := by
  refine done_held (State.flow_held hs fun c hc => ?_)
  split
  · exact hc
  · exact Core.pop_shallow hc ‹_›

theorem execJr_held (hs : s.Held q fr) (ga : Fin 32) : OutHeld q fr (execJr ga s) := by
  refine done_held (State.flow_held hs fun c hc => ?_)
  split
  · exact Core.branch_shallow hc
  · exact hc

theorem execJalr_held (hs : s.Held q fr) (ga : Fin 32) : OutHeld q fr (execJalr ga s) := by
  refine done_held (State.flow_held hs fun c hc => ?_)
  split
  · exact hc
  · split
    · exact hc
    · exact Core.push_shallow hc ‹_› _ _

theorem execLoopBackEdge_held (hs : s.Held q fr) (u : Exe) : OutHeld q fr (execLoopBackEdge u s) :=
  done_held (.ite (fun _ => State.cycles_held (State.setCore_held hs _ _ (Core.backEdge_shallow _ (hs.core u))))
    (fun _ => hs))

theorem execWaitp_held (hs : s.Held q fr) (u : Exe) : OutHeld q fr (execWaitp u s) := by
  refine done_held (.ite (fun _ => hs) fun _ => ?_)
  split
  · exact State.trap_held hs
  · split
    · exact State.endTask_held hs
    · exact hs

theorem execSin_held (hs : s.Held q fr) (u : Exe) (gd : Fin 32) (pn : Fin 8) (am : BitVec 4) :
    OutHeld q fr (execSin u gd pn am s) := by
  refine done_held (State.slot_held hs fun t c ht hc => ?_)
  split
  · exact State.trap_held ht
  · split
    · exact ht
    · exact .ite (fun _ => ht) (fun _ => State.setCore_held ht _ _ (Core.sendG_shallow (Core.post_shallow hc)))

theorem execMtap_held (hs : s.Held q fr) (u : Exe) (pn : Fin 8) (am : BitVec 2) (gs : Fin 32) :
    OutHeld q fr (execMtap u pn am gs s) := by
  refine done_held (State.slot_held hs fun t c ht hc => ?_)
  cases u with
  | steward => exact State.trap_held ht
  | cell p =>
    dsimp only
    split
    · exact ht
    · have h1 := State.setCore_held ht (.cell p) _ (Core.post_shallow (n := pn) (m := c.am2 pn am) hc)
      exact .ite (fun _ => h1.withMtr _) (fun _ => State.raiseOnce_held (State.putBit_held h1))

theorem execLdZ_held (hs : s.Held q fr) (u : Exe) (gd : Fin 32) (bank pn : Fin 8) (am : BitVec 2) :
    OutHeld q fr (execLdZ u gd bank pn am s) :=
  done_held (.ite (fun _ => hs) fun _ => State.zslot_held hs fun _ _ _ ht hc => State.loadZ_held ht hc)

/-- What Geyser reports of a PID whose check fails keeps the invariant, where it is reported. -/
theorem State.gysFaultIf_held (b : Bool) (pid : Nat) (hs : s.Held q fr) :
    ((fun t : State => if b then t.gysStateFault pid else t) s).Held q fr :=
  .ite (fun _ => State.gysStateFault_held hs) (fun _ => hs)

theorem execPget_held (hs : s.Held q fr) (u : Exe) (gd : Fin 32) (sreg pn : Fin 8) (hold gysBad : Bool) :
    OutHeld q fr (execPget u gd sreg pn hold gysBad s) := by
  refine done_held (State.zslot_held hs fun t c _ ht hc => ?_)
  dsimp only
  split
  · exact State.trap_held ht
  · exact State.gysFaultIf_held _ _ (State.setCore_held ht _ _ (Core.sendG_shallow (Core.pgetPost_shallow hc)))

theorem execPgetTwin_held (hs : s.Held q fr) (u : Exe) (gd : Fin 32) (sreg pn : Fin 8) (hold gysBad : Bool) :
    OutHeld q fr (execPgetTwin u gd sreg pn hold gysBad s) := by
  refine done_held (State.zslot_held hs fun t c _ ht hc => .ite (fun _ => State.trap_held ht) fun _ => ?_)
  split
  · exact State.trap_held ht
  · exact State.gysFaultIf_held _ _ (State.setCore_held ht _ _
      (Core.sendG_shallow (Core.sendG_shallow (Core.sendG_shallow (Core.pgetPost_shallow hc)))))

theorem execBundleFetch_held (hs : s.Held q fr) (u : Exe) : OutHeld q fr (execBundleFetch u s) := by
  refine done_held ?_
  split
  · exact State.stewardTake_held hs
  · refine .ite (fun _ => hs) fun _ => ?_
    split
    · exact State.fetchBundle_held hs
    · exact hs
    · exact State.fetchFails_held hs

theorem execTaskBudgetReached_held (hs : s.Held q fr) (p : Fin 288) : OutHeld q fr (execTaskBudgetReached p s) := by
  refine done_held ?_
  split
  · exact hs
  · split
    · exact hs
    · exact .ite (fun _ => hs) fun _ => State.raiseCellOnce_held (State.put_held (State.putBit_held hs) _ _)

theorem execStewardEventTaken_held (hs : s.Held q fr) : OutHeld q fr (execStewardEventTaken s) :=
  done_held (.ite (fun _ => State.stwException_held (hs.same rfl rfl rfl rfl rfl rfl rfl)) (fun _ => hs))

theorem execStwHalt_held (hs : s.Held q fr) (m : Fin 8) : OutHeld q fr (execStwHalt m s) :=
  done_held (.ite (fun _ => (State.putBit_held hs).same rfl rfl rfl rfl rfl rfl rfl) (fun _ => hs))

theorem execStwResume_held (hs : s.Held q fr) (m : Fin 8) : OutHeld q fr (execStwResume m s) :=
  done_held (.ite (fun _ => (State.putBit_held hs).same rfl rfl rfl rfl rfl rfl rfl) (fun _ => hs))

theorem execStwStep_held (hs : s.Held q fr) (m : Fin 8) : OutHeld q fr (execStwStep m s) :=
  done_held (.ite (fun _ => hs.same rfl rfl rfl rfl rfl rfl rfl) (fun _ => hs))

/-! ### Memories, descriptors and the stages -/

theorem execBankHandoverDone_held (hs : s.Held q fr) (cl : Fin 32) (b : Fin 8) :
    OutHeld q fr (execBankHandoverDone cl b s) := by
  unfold execBankHandoverDone
  split
  · exact done_held hs
  · rename_i h _
    have h1 : ({ s with mem := { s.mem with handover := s.mem.handover.upd none (8 * cl.val + b.val) none } } :
      State).Held q fr :=
      hs.same rfl rfl rfl rfl rfl rfl rfl
    exact done_held (State.putBit_held (State.put_held (State.put_held h1 _ _) _ _))

theorem execDramLineFetch_held (hs : s.Held q fr) (l : BitVec 28) (c1 c2 : Bool) :
    OutHeld q fr (execDramLineFetch l c1 c2 s) := by
  refine done_held ?_
  split
  · exact State.dramRefuses_held hs _ ‹_›
  · exact (State.fetchLine_held hs).same rfl rfl rfl rfl rfl rfl rfl

theorem execDramWrite_held (hs : s.Held q fr) (l : BitVec 28) (ws : List (Fin 12 × Sinter)) (c1 c2 : Bool) :
    OutHeld q fr (execDramWrite l ws c1 c2 s) := by
  refine done_held ?_
  split
  · exact State.dramRefuses_held hs _ ‹_›
  · exact State.writeLine_held hs

theorem execDramMr4Poll_held (hs : s.Held q fr) (rate : BitVec 3) : OutHeld q fr (execDramMr4Poll rate s) :=
  done_held (.ite (fun _ => hs) fun _ => State.raise_held (State.put_held hs _ _))

theorem execDramTrainingDone_held (hs : s.Held q fr) (ok : Bool) : OutHeld q fr (execDramTrainingDone ok s) := by
  unfold execDramTrainingDone
  split
  · have h1 : ({ s with mem := { s.mem with training := false } } : State).Held q fr := hs.same rfl rfl rfl rfl rfl rfl rfl
    exact done_held (.ite (fun _ => State.putBit_held h1) (fun _ => State.raise_held h1))
  · exact done_held hs

theorem execS0Deposit_held (hs : s.Held q fr) (w : Fin 256) (i : Fin 64) (j : Fin 16) (left : BitVec 18) :
    OutHeld q fr (execS0Deposit w i j left s) := by
  refine done_held ?_
  split
  · exact hs
  · exact .ite (fun _ => hs) fun _ => (State.setRam_held (State.stagedEvents_held hs)).withEng _

theorem execDescriptorRun_held [CountsZero fr] (hs : s.Held q fr) (cl d : Fin 32) (n : BitVec 16) :
    OutHeld q fr (execDescriptorRun cl d n s) :=
  done_held (.ite (fun _ => hs) fun _ => .ite (fun _ => .ite (fun _ => hs) fun _ => State.dqStep_held hs)
    fun _ => State.dqBad_held hs)

theorem execScrubRead_held (hs : s.Held q fr) (lo : BitVec 32) (hi : BitVec 8) : OutHeld q fr (execScrubRead lo hi s) := by
  refine done_held (.ite (fun _ => hs) fun _ => ?_)
  split
  · exact .ite (fun _ => State.scrubNext_held hs) (fun _ => hs)
  · exact hs

theorem execCellStageDeadline_held (hs : s.Held q fr) (p : List PatrolResult) : OutHeld q fr (execCellStageDeadline p s) :=
  done_held (.ite (fun _ => hs) fun _ => State.stageDeadline_held hs)

theorem execClusterSelftest_held (hs : s.Held q fr) (cl : Fin 32) (result : Fin 4) :
    OutHeld q fr (execClusterSelftest cl result s) := by
  have h1 := State.put_held hs (Reg.SPARESTAT_SELFTEST cl) result
  refine done_held (.ite (fun _ => hs) fun _ => .ite (fun _ => .ite (fun _ => h1) fun _ => ?_) fun _ =>
    .ite (fun _ => .ite (fun _ => h1) fun _ => State.cellRetire_held h1) fun _ =>
    .ite (fun _ => State.degrade_held h1) fun _ => hs)
  exact (State.put_held (State.put_held h1 _ _) _ _).withLnk _

theorem execSpareReverted_held (hs : s.Held q fr) (cl : Fin 32) : OutHeld q fr (execSpareReverted cl s) :=
  done_held (.ite (fun _ => (State.raise_held (State.put_held (State.put_held (State.put_held hs _ _) _ _) _ _)).withLnk _)
    (fun _ => hs))

/-! ### Caldera, Geyser and the cascade's commits -/

theorem execDeepBusAdd_held (hs : s.Held q fr) (b : Fin 512) (j : Fin 16) : OutHeld q fr (execDeepBusAdd b j s) := by
  refine done_held (.ite (fun _ => hs) fun _ => .ite (fun _ => (State.busOut_held hs).withCal _) fun _ => ?_)
  split
  · exact (State.busOut_held (State.raiseOnce_held (State.calReport_held (State.putBit_held hs)))).withCal _
  · exact (State.busOut_held (.ite (fun _ => State.raiseOnce_held (State.calReport_held (State.putBit_held hs)))
      fun _ => hs)).withCal _

theorem execXpStateCheck_held (hs : s.Held q fr) (xp : BitVec 19) (ok : Bool) : OutHeld q fr (execXpStateCheck xp ok s) :=
  done_held (.ite (fun _ => hs) fun _ => .foldl
    ((State.raiseOnce_held (State.xpReport_held (State.putBit_held hs))).withCal _) _ fun _ _ => State.frameSpoil_held)

theorem execXpRebuild_held (hs : s.Held q fr) (xp : BitVec 19) : OutHeld q fr (execXpRebuild xp s) :=
  done_held (.ite (fun _ => hs) fun _ => (State.xpRebuildIn_held hs).withCal _)

theorem execXpRampEnd_held (hs : s.Held q fr) (xp : BitVec 19) : OutHeld q fr (execXpRampEnd xp s) := by
  refine done_held ?_
  split
  · exact .ite (fun _ => hs.withCal _) (fun _ => hs)
  · exact hs

theorem execCalMatrixFrame_held (hs : s.Held q fr) (j : Fin 16) (dup bad : Option (BitVec 19)) (hit : Option (Fin 512)) :
    OutHeld q fr (execCalMatrixFrame j dup bad hit s) :=
  done_held (.ite (fun _ => hs) fun _ => State.matrixFrame_held hs)

theorem execCascPrepare_held (hs : s.Held q fr) (n : Fin 4) (t : BitVec 64) (novl : Fin 16) (a b : BitVec 32) :
    OutHeld q fr (execCascPrepare n t novl a b s) :=
  done_held (.ite (fun _ => State.sendCtl_held (hs.withGys _)) fun _ => State.cmtStart_held (hs.withGys _))

theorem execCascReport_held (hs : s.Held q fr) (chip : Fin 8) (n : Fin 4) (code : Fin 16) :
    OutHeld q fr (execCascReport chip n code s) :=
  done_held (.ite (fun _ => hs) fun _ => State.cascTake_held hs)

theorem execCascDecision_held (hs : s.Held q fr) (n : Fin 4) : OutHeld q fr (execCascDecision n s) :=
  done_held (.ite (fun _ => hs) fun _ => .ite (fun _ => State.sendCtl_held (State.setCommit_held hs))
    fun _ => State.cascAbortAll_held hs)

theorem execCascConfirm_held (hs : s.Held q fr) (n : Fin 4) : OutHeld q fr (execCascConfirm n s) :=
  done_held (.ite (fun _ => State.setCommit_held hs) (fun _ => hs))

theorem execCascAbort_held (hs : s.Held q fr) (n : Fin 4) : OutHeld q fr (execCascAbort n s) :=
  done_held (.ite (fun _ => State.raise_held (hs.withGys _)) fun _ =>
    .ite (fun _ => State.cascAbort_held hs) (fun _ => hs))

theorem execCascLocalAbort_held (hs : s.Held q fr) (n : Fin 4) : OutHeld q fr (execCascLocalAbort n s) :=
  done_held (.ite (fun _ => State.cascAbort_held hs) (fun _ => hs))


/-! ### Conversion units, meters and audio ports -/

theorem execCnvInputEdge_held (hs : s.Held q fr) (u : Fin 32) (i : BitVec 32) (settled : Bool) (rp : Option (Fin 64)) :
    OutHeld q fr (execCnvInputEdge u i settled rp s) :=
  done_held (.ite (fun _ => hs) fun _ => .ite (fun _ => State.cnvSearch_held hs) fun _ =>
    .ite (fun _ => State.cnvTrack_held hs) fun _ => hs)

theorem execCnvFadeEnd_held (hs : s.Held q fr) (u : Fin 32) : OutHeld q fr (execCnvFadeEnd u s) :=
  done_held (.ite (fun _ => State.setUnit_held (State.putBit_held (State.put_held hs _ _))) (fun _ => hs))

theorem execMtrclrHold_held (hs : s.Held q fr) (m : BitVec 12) (all : Bool) : OutHeld q fr (execMtrclrHold m all s) :=
  done_held (.ite (fun _ => .foldl hs _ fun _ _ => State.mtrHold_held) fun _ => State.mtrHold_held hs)

theorem execMtrclrClips_held (hs : s.Held q fr) (m : BitVec 12) (all : Bool) : OutHeld q fr (execMtrclrClips m all s) :=
  done_held (.ite (fun _ => .foldl hs _ fun _ _ => State.mtrClips_held) fun _ => State.mtrClips_held hs)

theorem execStartSyncEdge_held (hs : s.Held q fr) : OutHeld q fr (execStartSyncEdge s) :=
  done_held (.ite (fun _ => State.setTsHere_held (State.putBit_held hs)) (fun _ => hs))

theorem execApStartMessage_held (hs : s.Held q fr) (ts : BitVec 64) : OutHeld q fr (execApStartMessage ts s) :=
  done_held (.ite (fun _ => State.setTs_held hs) (fun _ => hs))

theorem execApStart_held (hs : s.Held q fr) : OutHeld q fr (execApStart s) :=
  have h1 := State.putBit_held (f := Reg.APSTARTSTAT_PENDING) (b := false) hs
  done_held (.ite (fun _ => hs) fun _ => .ite (fun _ => h1) fun _ => State.raise_held (State.pairStart_held
    (State.lockClose_held (.foldl h1 _ fun _ _ h => State.put_held (State.putBit_held h) _ _))))

theorem execPortInputFrame_held (hs : s.Held q fr) (n : Fin 16) (w : PortWave) (bits : BitVec 8) (mistimed : Bool) :
    OutHeld q fr (execPortInputFrame n w bits mistimed s) :=
  done_held (.ite (fun _ => hs) fun _ => State.portFrame_held hs)

theorem execApCodedReleased_held (hs : s.Held q fr) (n : Fin 16) (l : Fin 8) : OutHeld q fr (execApCodedReleased n l s) :=
  done_held (.ite (fun _ => State.raise_held (State.put_held hs _ _)) (fun _ => hs))

theorem execApClkStopped_held (hs : s.Held q fr) (n : Fin 16) : OutHeld q fr (execApClkStopped n s) :=
  done_held (.ite (fun _ => .foldl (State.raise_held (State.putBit_held hs)) _ fun _ _ => State.cnvBreak_held) (fun _ => hs))

theorem execApClkSwapCheck_held (hs : s.Held q fr) (n : Fin 16) (bclk ws : BitVec 32) :
    OutHeld q fr (execApClkSwapCheck n bclk ws s) :=
  have h1 := State.putBit_held (f := Reg.PORTSTAT_SWAPPED n) (b := decide (bclk.toNat < ws.toNat)) hs
  done_held (.ite (fun _ => .ite (fun _ => State.raise_held h1) (fun _ => h1)) (fun _ => hs))

theorem execVntRampEnd_held (hs : s.Held q fr) (v : Fin 64) : OutHeld q fr (execVntRampEnd v s) :=
  done_held (.ite (fun _ => State.putBit_held hs) (fun _ => hs))

theorem execEmergNLow_held (hs : s.Held q fr) : OutHeld q fr (execEmergNLow s) :=
  have h1 := State.putBit_held (f := Reg.VNTSTAT_EMERG_PIN) (b := true) hs
  done_held (.ite (fun _ => State.vntCause_held h1) (fun _ => h1))

theorem execEmergCauseClear_held (hs : s.Held q fr) (periods : BitVec 17) : OutHeld q fr (execEmergCauseClear periods s) :=
  have h1 := State.putBit_held (f := Reg.VNTSTAT_EMERG_PIN) (b := false) hs
  done_held (.ite (fun _ => State.vntClear_held h1) (fun _ => h1))

theorem execVntReturnEnd_held (hs : s.Held q fr) : OutHeld q fr (execVntReturnEnd s) :=
  done_held (.ite (fun _ => State.putBit_held hs) (fun _ => hs))

/-! ### Fumarole -/

theorem execSafeMuteNLow_held (hs : s.Held q fr) : OutHeld q fr (execSafeMuteNLow s) := by
  let g : State := { s.fumCause fumSafePin with
    fum := { (s.fumCause fumSafePin).fum with gate := Nat.max 1 (s.fumCause fumSafePin).fum.gate } }
  have h1 : g.Held q fr := (State.fumCause_held hs).same rfl rfl rfl rfl rfl rfl rfl
  exact done_held (.ite (fun _ => h1) (fun _ => State.portsLow_held h1))

theorem execSafePinClear_held (hs : s.Held q fr) (frames : BitVec 16) : OutHeld q fr (execSafePinClear frames s) :=
  done_held (.ite (fun _ => (State.fumClear_held hs).same rfl rfl rfl rfl rfl rfl rfl) (fun _ => hs))

theorem execFumStall_held (hs : s.Held q fr) : OutHeld q fr (execFumStall s) := by
  refine done_held (.ite (fun _ => ?_) (fun _ => hs))
  have h1 : (({ s with fum := { s.fum with since := s.fum.since.upd 0 fumStall 0 } } : State).fumAct
      Reg.FUMCFG_STALL_ACT fumStall 199).Held q fr := State.fumAct_held (hs.same rfl rfl rfl rfl rfl rfl rfl)
  exact .ite (fun _ => h1) (fun _ => h1.same rfl rfl rfl rfl rfl rfl rfl)

theorem execFumSelfFault_held (hs : s.Held q fr) (slot : Option (Fin 512)) : OutHeld q fr (execFumSelfFault slot s) := by
  have h1 : ((s.fumEvent 207 0).fumCause fumSelf).Held q fr := State.fumCause_held (State.fumEvent_held hs)
  refine done_held ?_
  split
  · exact h1.same rfl rfl rfl rfl rfl rfl rfl
  · exact h1

theorem execFumResumed_held (hs : s.Held q fr) : OutHeld q fr (execFumResumed s) :=
  done_held (.foldl hs _ fun _ _ h => .ite (fun _ => State.fumClear_held h) (fun _ => h))

theorem execFumSafeReset_held [CountsZero fr] (hs : s.Held q fr) : OutHeld q fr (execFumSafeReset s) :=
  done_held (.ite (fun _ => State.safeReset_held ((State.fumEvent_held (State.pairDrop_held (State.putBit_held hs))).same
    rfl rfl rfl rfl rfl rfl rfl)) (fun _ => hs))

theorem execPortWatch_held (hs : s.Held q fr) (n : Fin 16) : OutHeld q fr (execPortWatch n s) :=
  done_held (.ite (fun _ => .foldl (State.putBit_held hs) _ fun _ _ => State.lowChan_held) (fun _ => hs))

/-! ### Clocks and references -/

theorem execCoreNWrite_held (hs : s.Held q fr) (reg : Fin 3) (v : BitVec 24) : OutHeld q fr (execCoreNWrite reg v s) :=
  done_held (.ite (fun _ => State.refscaleWrite_held hs) fun _ => .ite (fun _ => State.nintWrite_held hs)
    fun _ => State.nfracWrite_held hs)

theorem execHrefMeasureDone_held (hs : s.Held q fr) (hz : BitVec 32) (sdref : Bool) :
    OutHeld q fr (execHrefMeasureDone hz sdref s) := by
  unfold execHrefMeasureDone
  refine done_held (.ite (fun _ => hs) fun _ => ?_)
  have h1 := hs.withClk { s.clk with href := hz.toNat }
  generalize (if nearHz hz.toNat 24576000 then some 0 else if nearHz hz.toNat 22579200 then some 1 else none) = fam
  cases sdref with
  | false => exact State.putBit_held h1
  | true =>
    cases fam with
    | none => exact State.putBit_held h1
    | some f => exact
        State.loopStart_held (State.put_held (State.put_held (State.put_held (State.put_held h1 _ _) _ _) _ _) _ _)

theorem execLoopInputPresent_held (hs : s.Held q fr) : OutHeld q fr (execLoopInputPresent s) :=
  done_held (.ite (fun _ => hs) fun _ => .ite (fun _ => .ite (fun _ => hs) fun _ => State.loopToCal_held hs) fun _ =>
    .ite (fun _ => .ite (fun _ => hs) fun _ => State.loopToCal_held hs) fun _ => .ite (fun _ => hs.withClk _) (fun _ => hs))

theorem execBandSearchDone_held (hs : s.Held q fr) (band : BitVec 5) (code : BitVec 12) (fits : Bool) :
    OutHeld q fr (execBandSearchDone band code fits s) :=
  done_held (.ite (fun _ => hs) fun _ => .ite (fun _ => State.setLoop_held (State.put_held (State.put_held hs _ _) _ _))
    fun _ => State.raiseOnce_held hs)

theorem execAcquireLock_held (hs : s.Held q fr) : OutHeld q fr (execAcquireLock s) :=
  done_held (.ite (fun _ => hs) fun _ => .ite
    (fun _ => State.rampSettle_held (State.rampEnter_held (State.firstLock_held hs)))
    fun _ => State.setLoop_held ((State.firstLock_held hs).withClk _))

theorem execCoreLockFailed_held (hs : s.Held q fr) : OutHeld q fr (execCoreLockFailed s) :=
  done_held (.ite (fun _ => State.raiseOnce_held (State.setLoop_held hs)) (fun _ => hs))

theorem execCoreRampDone_held (hs : s.Held q fr) : OutHeld q fr (execCoreRampDone s) :=
  done_held (.ite (fun _ => State.rampDone_held hs) (fun _ => hs))

theorem execCorePhaseAligned_held (hs : s.Held q fr) : OutHeld q fr (execCorePhaseAligned s) :=
  done_held (.ite (fun _ => State.setLoop_held (State.raise_held (State.put_held hs _ _))) (fun _ => hs))

theorem execHoldExpired_held (hs : s.Held q fr) : OutHeld q fr (execHoldExpired s) :=
  have h1 := (State.fumCause_held (c := fumClock) (State.raise_held (n := 24) hs)).withClk
    { ((s.raise 24).fumCause fumClock).clk with floor := true }
  done_held (.ite (fun _ => .ite (fun _ => State.setLoop_held h1) (fun _ => h1)) (fun _ => hs))

theorem execCoreOvershoot_held (hs : s.Held q fr) : OutHeld q fr (execCoreOvershoot s) :=
  done_held (State.lockNote_held ((State.fumCause_held (State.raiseOnce_held (State.putBit_held hs))).withClk _))

theorem execAuxclkCheck_held (hs : s.Held q fr) (sdref pcie : BitVec 16) : OutHeld q fr (execAuxclkCheck sdref pcie s) := by
  unfold execAuxclkCheck
  extract_lets a b lost _ _ s1 s2
  have h1 : s1.Held q fr := (State.putBit_held (State.putBit_held hs)).withClk _
  have h2 : s2.Held q fr := .ite (fun _ => State.raise_held h1) (fun _ => h1)
  exact done_held (.ite (fun _ => hs) fun _ => .ite (fun _ => State.lockNote_held (State.sscApply_held h2)) (fun _ => h2))

theorem execDllLock_held (hs : s.Held q fr) (d : Fin 22) (locked : Bool) : OutHeld q fr (execDllLock d locked s) :=
  done_held (.ite (fun _ => hs) fun _ => .ite (fun _ => State.put_held hs _ _)
    fun _ => State.raise_held (State.put_held hs _ _))

theorem execCoreCoast_held (hs : s.Held q fr) : OutHeld q fr (execCoreCoast s) := by
  refine done_held (.ite (fun _ => ?_) (fun _ => hs))
  extract_lets s1 s2 s3 _ s4
  have h2 : s2.Held q fr := State.put_held (State.fumCause_held (State.raise_held (State.putBit_held hs))) _ _
  have h4 : s4.Held q fr := State.Held.withClk (.ite (fun _ => h2) (fun _ => State.inputFollow_held h2)) _
  exact .ite (fun _ => State.loopToCal_held h4) (fun _ => h4)

theorem execRefEdgeMissing_held (hs : s.Held q fr) (r : Fin 6) (dev bo : BitVec 32) :
    OutHeld q fr (execRefEdgeMissing r dev bo s) :=
  done_held (.ite (fun _ => State.refChanged_held (State.refGone_held hs)) (fun _ => hs))

theorem execRefIntervalEnd_held (hs : s.Held q fr) (offs : List (BitVec 32)) (present : BitVec 3)
    (pherr steer mean : BitVec 32)
    (far : Bool) (dev bo : BitVec 32) : OutHeld q fr (execRefIntervalEnd offs present pherr steer mean far dev bo s) := by
  unfold execRefIntervalEnd
  extract_lets rs s1 s2 was0 s3 _ s4 s5 s6 s7
  have h1 : s1.Held q fr := .foldl (State.put_held hs _ _) _ fun _ _ => State.refRecord_held
  have h2 : s2.Held q fr := .foldl h1 _ fun _ _ => State.refDwell_held
  have h3 : s3.Held q fr := .foldl h2 _ fun _ _ => State.refQualify_held
  have h4 : s4.Held q fr := .ite (fun _ => h3) (fun _ => h3.same rfl rfl rfl rfl rfl rfl rfl)
  have h5 : s5.Held q fr := .ite (fun _ => h4) (fun _ => State.put_held h4 _ _)
  have h6 : s6.Held q fr := .ite (fun _ => State.raiseOnce_held h5) (fun _ => h5)
  have h7 : s7.Held q fr := .ite (fun _ => State.hrefReturn_held h6) (fun _ => h6)
  exact done_held (State.refChanged_held h7)

theorem execRefSwitchDone_held (hs : s.Held q fr) (bo : BitVec 32) : OutHeld q fr (execRefSwitchDone bo s) := by
  refine done_held (.ite (fun _ => hs) fun _ => ?_)
  extract_lets b s1 s2
  have h1 : s1.Held q fr := State.putBit_held (State.put_held (State.putBit_held hs) _ _)
  have h2 : s2.Held q fr := State.raise_held (.ite (fun _ => h1) (fun _ => State.setBo_held h1))
  exact State.refSelect_held (State.refctlApply_held (h2.same rfl rfl rfl rfl rfl rfl rfl))

theorem execRefWtrExpired_held (hs : s.Held q fr) (r : Fin 6) (dev bo : BitVec 32) :
    OutHeld q fr (execRefWtrExpired r dev bo s) :=
  have h1 := State.raise_held (n := 16) (State.setRef_held (r := r) (st := refQualified) hs)
  done_held (.ite (fun _ => State.refChanged_held (.ite (fun _ => State.hrefReturn_held h1) (fun _ => h1))) (fun _ => hs))

theorem execRefHoldoffExpired_held (hs : s.Held q fr) (r : Fin 6) (dev bo : BitVec 32) :
    OutHeld q fr (execRefHoldoffExpired r dev bo s) :=
  done_held (.ite (fun _ => State.refChanged_held (State.raise_held (State.setRef_held hs))) (fun _ => hs))

theorem execRealignDone_held (hs : s.Held q fr) : OutHeld q fr (execRealignDone s) :=
  done_held (.ite (fun _ =>
    State.raise_held (State.put_held (State.putBit_held (State.setBo_held (State.putBit_held hs))) _ _))
    (fun _ => hs))

theorem execSwSteerStale_held (hs : s.Held q fr) : OutHeld q fr (execSwSteerStale s) :=
  done_held (.ite (fun _ => State.raise_held (State.putBit_held hs)) (fun _ => hs))

theorem execIslandIdleClose_held (hs : s.Held q fr) : OutHeld q fr (execIslandIdleClose s) := by
  refine done_held ?_
  split
  · exact .ite (fun _ => hs) fun _ => State.islandClose_held hs
  · exact hs

theorem execIslandForcedClose_held (hs : s.Held q fr) : OutHeld q fr (execIslandForcedClose s) := by
  refine done_held ?_
  split
  · exact .ite (fun _ => hs) fun _ => State.forceAbandon_held (State.islandClose_held hs)
  · exact hs

/-! ### Network, links and the pair -/

theorem execNetLinkUp_held (hs : s.Held q fr) (n : Fin 4) (remote : Bool) : OutHeld q fr (execNetLinkUp n remote s) :=
  done_held (.ite (fun _ => State.raise_held (State.putBit_held (State.putBit_held (State.putBit_held (State.putBit_held
    (State.putBit_held hs)))))) (fun _ => hs))

theorem execNetLinkDown_held (hs : s.Held q fr) (n : Fin 4) (lock fec fault remote : Bool) :
    OutHeld q fr (execNetLinkDown n lock fec fault remote s) :=
  done_held (.ite (fun _ =>
    State.putBit_held (State.putBit_held (State.putBit_held (State.putBit_held (State.netDown_held hs)))))
    (fun _ => hs))

theorem execNetPauseEnd_held (hs : s.Held q fr) (n : Fin 4) : OutHeld q fr (execNetPauseEnd n s) :=
  done_held (.ite (fun _ => State.setNetPort_held (State.putBit_held hs)) (fun _ => hs))

theorem execNetTxRecord_held (hs : s.Held q fr) (n : Fin 4) (later : BitVec 32) :
    OutHeld q fr (execNetTxRecord n later s) := by
  unfold execNetTxRecord
  extract_lets tail w len d t s1
  have h1 : s1.Held q fr := State.put_held hs _ _
  exact done_held (.ite (fun _ => hs) fun _ => .ite (fun _ => State.raise_held (State.putBit_held h1)) fun _ =>
    .ite (fun _ => State.txStamp_held (State.netSend_held h1)) (fun _ => State.netSend_held h1))

theorem execStmRxStale_held (hs : s.Held q fr) (r : Fin 128) : OutHeld q fr (execStmRxStale r s) :=
  done_held (.ite (fun _ => .foldl (State.raise_held (State.setStreamRx_held (State.put_held
    (.ite (fun _ => hs) fun _ => State.samplesForget_held hs) _ _))) _ fun _ _ => State.cnvBreak_held) (fun _ => hs))

theorem execNetFrameRx_held (hs : s.Held q fr) (n : Fin 4) (bytes : List (BitVec 8)) (fcs : Bool) (unc : BitVec 8)
    (age : BitVec 32) :
    OutHeld q fr (execNetFrameRx n bytes fcs unc age s) := by
  unfold execNetFrameRx
  extract_lets bs bad s0 size short
  have h0 : s0.Held q fr := .ite (fun _ => State.raiseOnce_held (State.bumpBy_held hs)) (fun _ => hs)
  refine done_held (.ite (fun _ => hs) fun _ => .ite (fun _ => ?_) fun _ => .ite (fun _ => State.macControl_held h0)
    fun _ => State.netDeliver_held h0)
  have h1 : ∀ b : Bool, (if b then s0.bump (Reg.NETCNT0_FCS n) else s0).Held q fr := fun _ =>
    .ite (fun _ => State.bump_held h0) (fun _ => h0)
  exact State.raiseOnce_held (State.putBit_held (.ite (fun _ => State.bump_held (h1 _)) (fun _ => h1 _)))

theorem execStreamPresentEdge_held (hs : s.Held q fr) (r : Fin 128) : OutHeld q fr (execStreamPresentEdge r s) := by
  refine done_held (.ite (fun _ => hs) fun _ => ?_)
  dsimp only
  split
  · exact hs
  · exact State.setStreamRx_held (State.clearPresent_held (.foldl2 hs _ fun _ _ => State.presentChannel_held))

theorem execStreamPacketSend_held (hs : s.Held q fr) (n : Fin 4) : OutHeld q fr (execStreamPacketSend n s) := by
  refine done_held ?_
  split
  · exact hs
  · exact .ite (fun _ => hs) fun _ => .ite (fun _ => State.setNetPort_held hs)
      fun _ => State.netSend_held (State.setNetPort_held hs)

theorem execLinkTrain_held (hs : s.Held q fr) (n : Fin 4) : OutHeld q fr (execLinkTrain n s) :=
  done_held (.ite (fun _ => State.put_held hs _ _) (fun _ => hs))

theorem execLinkUp_held (hs : s.Held q fr) (n : Fin 4) (peer : BitVec 3) (rtt : BitVec 16) (swap pol0 pol1 : Bool) :
    OutHeld q fr (execLinkUp n peer rtt swap pol0 pol1 s) := by
  unfold execLinkUp
  extract_lets fixed s1 fix s2 s2'
  have h2 : s2.Held q fr :=
    State.putBit_held (State.putBit_held (State.putBit_held (State.put_held (State.put_held hs _ _) _ _)))
  have h2' : s2'.Held q fr := .ite (fun _ => State.raise_held h2) (fun _ => h2)
  refine done_held (.ite (fun _ => hs) fun _ => .ite (fun _ => h2') fun _ => ?_)
  have h3 := State.raise_held (n := 120) (State.pairElig_held (State.put_held h2' (Reg.LNKSTAT_STATE n) linkIsUp))
  exact .ite (fun _ => State.sendCtl_held h3) (fun _ => h3)

theorem execLinkDown_held (hs : s.Held q fr) (n : Fin 4) (lost : Bool) : OutHeld q fr (execLinkDown n lost s) :=
  done_held (.ite (fun _ => State.linkDrop_held hs) (fun _ => hs))

theorem execLinkFrameRx_held (hs : s.Held q fr) (n : Fin 4) (head : LinkHead) (phase : BitVec 13) (crc : Bool)
    (words : LinkWords)
    (pair : Option PairRecord) : OutHeld q fr (execLinkFrameRx n head phase crc words pair s) := by
  unfold execLinkFrameRx
  extract_lets e bad chans others s1 run _ s2 s3 s4 s5 s6
  have h2 : s2.Held q fr := (State.linkCount_held hs).withLnk _
  have h3 : s3.Held q fr := .ite (fun _ => State.bump_held h2) (fun _ => State.bumpBy_held h2)
  have h4 : s4.Held q fr := .ite (fun _ => State.raiseOnce_held (State.putBit_held h3)) (fun _ => h3)
  have h5 : s5.Held q fr := State.linkWide_held (State.linkAudio_held h4)
  have h6 : s6.Held q fr := by
    unfold s6
    split
    · exact .ite (fun _ => State.pairRecord_held h5) (fun _ => h5)
    · exact h5
  exact done_held (.ite (fun _ => hs) fun _ => .ite (fun _ => State.linkDrop_held h6) (fun _ => h6))

/-- A count from the master can take the frame count anywhere (R22, R382). -/
theorem execControlMessageRx_held (hs : s.Held q fr) (n : Fin 4) (origin : Fin 8) (seq : Nat) (msg : CtrlMsg)
    (phase : BitVec 13)
    (hn : ∀ k, fr k) : OutHeld q fr (execControlMessageRx n origin seq msg phase s) := by
  unfold execControlMessageRx
  extract_lets s1
  have h1 : s1.Held q fr := State.forward_held hs
  refine done_held (.ite (fun _ => hs) fun _ => ?_)
  split
  · exact (State.put_held h1 _ _).withLnk _
  · exact State.adoptCount_held h1 (hn _)
  · exact h1

theorem execCascChipLost_held (hs : s.Held q fr) (chip : Fin 8) : OutHeld q fr (execCascChipLost chip s) :=
  have h1 := State.put_held hs Reg.LNKCASCSTAT_REACH (s.get Reg.LNKCASCSTAT_REACH ^^^ 2 ^ chip.val)
  done_held (.ite (fun _ => .ite (fun _ => State.raise_held h1) (fun _ => h1)) (fun _ => hs))

theorem execPairAssertAct_held (hs : s.Held q fr) : OutHeld q fr (execPairAssertAct s) :=
  done_held (.ite (fun _ => State.pairTake_held hs) (fun _ => hs))

theorem execPairReverted_held (hs : s.Held q fr) : OutHeld q fr (execPairReverted s) :=
  done_held (.ite (fun _ => hs) fun _ => .ite (fun _ => State.raise_held (State.pairYield_held hs)) fun _ =>
    .ite (fun _ => State.raise_held hs) (fun _ => hs))

/-! ### The fabric -/

theorem execLockTimeout_held (hs : s.Held q fr) (m4 : Bool) : OutHeld q fr (execLockTimeout m4 s) :=
  done_held (.ite (fun _ => hs) fun _ => State.lockBreak_held hs)

theorem execHandshakeTimeout_held (hs : s.Held q fr) (m : Fin 6) : OutHeld q fr (execHandshakeTimeout m s) :=
  done_held (.ite (fun _ => (State.putBit_held hs).withFab _) (fun _ => hs))

theorem execFabTimeout_held (hs : s.Held q fr) (wait : PortTime) : OutHeld q fr (execFabTimeout wait s) := by
  refine done_held ?_
  split
  · exact hs
  · exact .ite (fun _ => hs) fun _ => .ite (fun _ => State.fabDeadlock_held (State.fabAbandon_held hs))
      fun _ => (State.fabAbandon_held hs).withFab _

theorem execFabDeadlock_held (hs : s.Held q fr) (wait : PortTime) : OutHeld q fr (execFabDeadlock wait s) :=
  done_held (.ite (fun _ => State.fabDeadlock_held hs) (fun _ => hs))

theorem execArbiterGrant_held [CountsZero fr] (hs : s.Held q fr) (port : Fin 54) (stall : Option (Fin 16)) :
    OutHeld q fr (execArbiterGrant port stall s) :=
  done_held (.ite (fun _ => State.grant_held hs) (fun _ => hs))

theorem execDirectWriteHeldAccept_held (hs : s.Held q fr) : OutHeld q fr (execDirectWriteHeldAccept s) :=
  done_held (.ite (fun _ => hs) fun _ => State.heldAnswer_held (State.directWriteHeldAccept_held hs))

/-! ### Resets, power and boot -/

theorem State.por_held [CountsZero fr] (hs : s.Held q fr) : s.por.Held q fr := by
  obtain ⟨hl, ht, ha, hb, hf, hv⟩ := State.reset_shape
  exact ⟨hs.1, CountsZero.zero, rfl, rfl, rfl, hl, ht, ha, hb, hf, hv⟩

theorem execResetNLow_held [CountsZero fr] (hs : s.Held q fr) : OutHeld q fr (execResetNLow s) :=
  done_held (State.putBit_held (.ite (fun _ => hs) fun _ => State.chipAssert_held hs))

theorem execResetIdleTimeout_held (hs : s.Held q fr) : OutHeld q fr (execResetIdleTimeout s) :=
  done_held (.ite (fun _ => hs) fun _ => State.answerHeld_held hs)

theorem execResetRelease_held (hs : s.Held q fr) : OutHeld q fr (execResetRelease s) := by
  refine done_held (.ite (fun _ => hs) fun _ => .ite (fun _ => State.safeRelease_held hs) fun _ => ?_)
  split
  · exact State.scopeRelease_held hs
  · exact hs

theorem execChipResetRelease_held (hs : s.Held q fr) (mode cascade : BitVec 3) (gpio : BitVec 8) :
    OutHeld q fr (execChipResetRelease mode cascade gpio s) :=
  done_held (.ite (fun _ => hs) fun _ => State.chipRelease_held (hs.withPins _))

theorem execHoldEntered_held (hs : s.Held q fr) : OutHeld q fr (execHoldEntered s) :=
  done_held (.ite (fun _ => State.pwrEnter_held (State.Held.withClk (.ite (fun _ => hs)
    fun _ => State.fumCause_held (State.raise_held (State.putBit_held hs))) _)) (fun _ => hs))

theorem execHoldExitDone_held (hs : s.Held q fr) : OutHeld q fr (execHoldExitDone s) :=
  done_held (.ite (fun _ => State.raise_held (State.planeReset_held (hs.same rfl rfl rfl rfl rfl rfl rfl))) (fun _ => hs))

theorem execSupplyDip_held (hs : s.Held q fr) (rail : Fin 10) : OutHeld q fr (execSupplyDip rail s) :=
  done_held (.ite (fun _ => State.fumPrecaution_held (State.raise_held (State.supplyFault_held
    (State.put_held (State.put_held hs _ _) _ _)))) (fun _ => hs))

theorem execSupplyResetThreshold_held [CountsZero fr] (hs : s.Held q fr) (rail : Fin 10) (above : Bool) :
    OutHeld q fr (execSupplyResetThreshold rail above s) :=
  done_held (.ite (fun _ => State.por_held hs) fun _ => (State.fumCause_held (State.supplyFault_held hs)).withPwr _)

theorem execSupplyChipReset_held [CountsZero fr] (hs : s.Held q fr) : OutHeld q fr (execSupplyChipReset s) :=
  done_held (.ite (fun _ => hs) fun _ => State.chipReset_held hs)

theorem execTempConversion_held [CountsZero fr] (hs : s.Held q fr) (i : Fin 8) (t : BitVec 13) :
    OutHeld q fr (execTempConversion i t s) := by
  unfold execTempConversion
  extract_lets bad s1
  have h1 : s1.Held q fr := State.putBit_held (State.putBit_held (State.put_held hs _ _))
  exact done_held (.ite (fun _ => State.tempJudge_held (.ite (fun _ => h1) fun _ => State.raiseOnce_held h1))
    fun _ => State.tempJudge_held (State.tempMax_held h1))

theorem execTempSensorTimeout_held [CountsZero fr] (hs : s.Held q fr) (i : Fin 8) :
    OutHeld q fr (execTempSensorTimeout i s) :=
  done_held (State.tempJudge_held
    (State.putBit_held (State.putBit_held (.ite (fun _ => hs) fun _ => State.raiseOnce_held hs))))

theorem execBootCheck_held [CountsZero fr] (hs : s.Held q fr) (flash : List (BitVec 8)) :
    OutHeld q fr (execBootCheck flash s) :=
  done_held (.ite (fun _ => State.bootCheck_held hs) (fun _ => hs))

theorem execBootSectionLoad_held [CountsZero fr] (hs : s.Held q fr) (b1 b2 : Bool) :
    OutHeld q fr (execBootSectionLoad b1 b2 s) :=
  done_held (.ite (fun _ => State.sectionLoad_held hs) (fun _ => hs))

theorem execBootRegsWrite_held [CountsZero fr] (hs : s.Held q fr) : OutHeld q fr (execBootRegsWrite s) :=
  done_held (.ite (fun _ => .ite (fun _ => State.bootReject_held (State.regsWrites_held _ hs))
    fun _ => State.bootNext_held (State.regsWrites_held _ hs)) (fun _ => hs))

theorem execBootHandoff_held [CountsZero fr] (hs : s.Held q fr) : OutHeld q fr (execBootHandoff s) :=
  done_held (.ite (fun _ => State.bootHandoff_held hs) (fun _ => hs))

/-! ### Host, management port, debug and pins -/

theorem execPcieMemRead_held [CountsZero fr] (hs : s.Held q fr) (bar : Fin 3) (o : BitVec 32) (n : BitVec 10) :
    OutHeld q fr (execPcieMemRead bar o n s) := by
  refine done_held (.ite (fun _ => hs) fun _ => ?_)
  split
  · exact HostRun.complete_held (hostRead_held _ _ _ hs _ ‹_›)
  · exact hs

theorem execPcieMemWrite_held [CountsZero fr] (hs : s.Held q fr) (bar : Fin 3) (o : BitVec 32) (words : List (BitVec 32))
    (full : Bool) :
    OutHeld q fr (execPcieMemWrite bar o words full s) := by
  refine done_held (.ite (fun _ => hs) fun _ => .ite (fun _ => State.hostPosted_held hs) fun _ => ?_)
  split
  · exact .foldl (hostWrite_held _ _ _ hs _ ‹_›) _ fun _ _ => State.hostPosted_held
  · exact hs

theorem execHostLinkUp_held (hs : s.Held q fr) (speed width : BitVec 3) (bme msix fmask : Bool) :
    OutHeld q fr (execHostLinkUp speed width bme msix fmask s) := by
  refine done_held (.ite (fun _ => hs) fun _ => ?_)
  extract_lets s1 s2
  have h1 : s1.Held q fr := State.raise_held (State.put_held (State.put_held (State.putBit_held hs) _ _) _ _)
  have h2 : s2.Held q fr := State.put_held (State.putBit_held (State.putBit_held h1)) _ _
  exact .ite (fun _ => h2.withPcie _) (fun _ => State.msixUnmask_held h2)

theorem execHostLinkDown_held (hs : s.Held q fr) : OutHeld q fr (execHostLinkDown s) :=
  done_held (.ite (fun _ => hs) fun _ =>
    State.put_held (State.put_held (State.putBit_held (State.hostHandshake_held hs)) _ _) _ _)

theorem execHostFlr_held (hs : s.Held q fr) : OutHeld q fr (execHostFlr s) :=
  done_held (.ite (fun _ => hs) fun _ => State.raise_held
    ((State.keepRegs_held (State.hostHandshake_held hs)).same rfl rfl rfl rfl rfl rfl rfl))

theorem execMgmtLocalRead_held (hs : s.Held q fr) (a : BitVec 40) (cnt : BitVec 4) (good : Bool) :
    OutHeld q fr (execMgmtLocalRead a cnt good s) :=
  done_held (.ite (fun _ => hs) fun _ => .ite (fun _ => State.mgmtFrameErr_held hs)
    fun _ => State.mgmtAnswer_held (localReads_held _ _ hs))

theorem execMgmtLocalWrite_held [CountsZero fr] (hs : s.Held q fr) (a : BitVec 40) (words : List (BitVec 32)) (good : Bool) :
    OutHeld q fr (execMgmtLocalWrite a words good s) :=
  done_held (.ite (fun _ => hs) fun _ => .ite (fun _ => State.mgmtFrameErr_held hs)
    fun _ => State.mgmtAnswer_held (localWrites_held _ _ hs))

theorem execMgmtFabricRead_held [CountsZero fr] (hs : s.Held q fr) (a : BitVec 40) (cnt : BitVec 4) (good stop : Bool) :
    OutHeld q fr (execMgmtFabricRead a cnt good stop s) := by
  refine done_held (.ite (fun _ => hs) fun _ => .ite (fun _ => State.mgmtFrameErr_held hs) fun _ =>
    .ite (fun _ => State.mgmtAnswer_held hs) fun _ => ?_)
  split
  · exact hs
  · exact State.mgmtAnswer_held (State.access_held hs _ ‹_›)

theorem execMgmtFabricWrite_held [CountsZero fr] (hs : s.Held q fr) (a : BitVec 40) (words : List (BitVec 32))
    (good stop : Bool) :
    OutHeld q fr (execMgmtFabricWrite a words good stop s) := by
  refine done_held (.ite (fun _ => hs) fun _ => .ite (fun _ => State.mgmtFrameErr_held hs) fun _ =>
    .ite (fun _ => State.mgmtAnswer_held hs) fun _ => ?_)
  split
  · exact hs
  · have h1 := State.mgmtWrite_held hs _ ‹_›
    exact .ite (fun _ => State.mgmtAnswer_held h1) fun _ => .ite (fun _ => State.mgmtAnswer_held h1)
      fun _ => State.mgmtAnswer_held hs

theorem execBypass_held (hs : s.Held q fr) (code : BitVec 8) : OutHeld q fr (execBypass code s) :=
  done_held (.ite (fun _ => State.tapSelect_held hs) (fun _ => hs))

theorem execFuseProgDone_held (hs : s.Held q fr) (ok : Bool) : OutHeld q fr (execFuseProgDone ok s) := by
  refine done_held ?_
  split
  · exact hs
  · exact State.putBit_held (State.putBit_held (hs.withFuses _))

theorem execGpioWrite_held (hs : s.Held q fr) (out : Bool) (v : BitVec 16) : OutHeld q fr (execGpioWrite out v s) :=
  done_held (.ite (fun _ => State.gpiooutWrite_held hs) fun _ => State.gpiocfgWrite_held hs)

theorem execPinShortDetect_held (hs : s.Held q fr) (pin : Fin 177) : OutHeld q fr (execPinShortDetect pin s) :=
  done_held (.ite (fun _ => State.putBit_held (State.pinMark_held hs)) (fun _ => hs))

theorem execPinShortRetry_held (hs : s.Held q fr) (pin : Fin 177) (r : ShortRetry) :
    OutHeld q fr (execPinShortRetry pin r s) :=
  done_held (.ite (fun _ => State.pinMark_held hs) (fun _ => hs))

theorem execFaultnStuck_held (hs : s.Held q fr) : OutHeld q fr (execFaultnStuck s) :=
  done_held (.ite (fun _ => State.putBit_held hs) (fun _ => hs))

theorem execPinProbe_held (hs : s.Held q fr) (pin : Fin 172) (follows : Bool) :
    OutHeld q fr (execPinProbe pin follows s) := by
  unfold execPinProbe
  extract_lets n _ s1
  have h1 : s1.Held q fr := hs.withPins _
  exact done_held (.ite (fun _ => hs) fun _ => .ite (fun _ => State.pinMark_held h1) fun _ =>
    .ite (fun _ => State.pinMark_held h1) (fun _ => h1))

theorem execNetRxPolarityInvert_held (hs : s.Held q fr) (n : Fin 4) : OutHeld q fr (execNetRxPolarityInvert n s) :=
  done_held (.ite (fun _ => State.put_held hs _ _) (fun _ => hs))

theorem execRefLegMissing_held (hs : s.Held q fr) (r : Fin 3) : OutHeld q fr (execRefLegMissing r s) :=
  done_held (.ite (fun _ => State.putBit_held hs) fun _ => .ite (fun _ => State.putBit_held hs) fun _ =>
    State.putBit_held hs)

theorem execPpsOutPulse_held (hs : s.Held q fr) (edge : PpsEdge) : OutHeld q fr (execPpsOutPulse edge s) :=
  done_held (.ite (fun _ => hs.withPins _) fun _ => .ite (fun _ => hs.withPins _) (fun _ => hs))

/-! ### Every command -/

/-- Every command keeps the invariant, the waiting queue, and what is said of the frame count where it says so of 0,
of the count after a frame edge, and, for a control message, of every count. -/
theorem exec_held [CountsZero fr] (c : Instr) (hs : s.Held q fr)
    (hf : (∃ a b x, c = .frameEdge a b x) → fr ((s.frame + 1) % 2 ^ 64))
    (hm : (∃ n o k m a, c = .controlMessageRx n o k m a) → ∀ k, fr k) : OutHeld q fr (exec c s) := by
  cases c with
  | frameEdge => exact done_held (State.frameEdge_held hs (fun _ => hf ⟨_, _, _, rfl⟩) fun _ => ‹_›)
  | cellStageDeadline => apply execCellStageDeadline_held hs
  | s0Deposit => apply execS0Deposit_held hs
  | descriptorRun => apply execDescriptorRun_held hs
  | descriptorDeadline => exact done_held (State.dqDeadline_held hs)
  | bankHandover => exact done_held (State.bankWrite_held hs)
  | bankHandoverDone => apply execBankHandoverDone_held hs
  | scrubRead => apply execScrubRead_held hs
  | dramLineFetch => apply execDramLineFetch_held hs
  | dramWrite => apply execDramWrite_held hs
  | dramRefresh => exact done_held (State.setPostponed_held hs)
  | dramRefreshEmergency => exact done_held (State.raise_held (State.setPostponed_held hs))
  | dramMr4Poll => apply execDramMr4Poll_held hs
  | dramEnable | dramDisable => exact done_held (State.drcWrite_held hs)
  | dramTrainingDone => apply execDramTrainingDone_held hs
  | bundleFetch => apply execBundleFetch_held hs
  | taskBudgetReached => apply execTaskBudgetReached_held hs
  | ttApply => exact done_held (State.ttApply_held hs)
  | cellHalt | cellRun | syncArm | tcLatchGo => exact done_held (State.putBit_held hs)
  | cellpeakClr => exact done_held (State.cellpeakClr_held hs)
  | nop | trap => exact done_held (State.compute_held hs fun _ _ h => h)
  | waitp => apply execWaitp_held hs
  | ret => apply execRet_held hs
  | evt => exact done_held (.ite (fun _ => State.raise_held hs) (fun _ => hs))
  | mtc => exact done_held (State.compute_held hs fun _ _ h => Core.mtc_shallow h)
  | mfc => exact done_held (State.compute_held hs fun _ _ h => Core.mfc_shallow h)
  | amov => exact done_held (State.compute_held hs fun _ _ h => Core.accResult_shallow h)
  | aadd | asub => exact done_held (State.compute_held hs fun _ _ h => Core.accAdd_shallow h)
  | add | sub | adds | subs => exact done_held (State.compute_held hs fun _ _ h => Core.addSub_shallow h)
  | and | or | xor => exact done_held (State.compute_held hs fun _ _ h => Core.bitwise_shallow h)
  | cmp => exact done_held (State.compute_held hs fun _ _ h => Core.compare_shallow h)
  | min | max => exact done_held (State.compute_held hs fun _ _ h => Core.minMax_shallow h)
  | abs => exact done_held (State.compute_held hs fun _ _ h => Core.absolute_shallow h)
  | clip => exact done_held (State.compute_held hs fun _ _ h => Core.clipTo_shallow h)
  | sel => exact done_held (State.compute_held hs fun _ _ h => Core.select_shallow h)
  | shl | sra | shr | norm => exact done_held (State.compute_held hs fun _ _ h => Core.shiftReg_shallow h)
  | shli | srai | shri | normi => exact done_held (State.compute_held hs fun _ _ h => Core.shiftImm_shallow h)
  | mpy | mac | msu => exact done_held (State.compute_held hs fun _ _ h => Core.lane_shallow h)
  | dmac => apply execDmac_held hs
  | sta | staP => exact done_held (State.compute_held hs fun _ _ h => Core.staG_shallow h)
  | lin2g => apply execLin2g_held hs
  | g2lin => apply execG2lin_held hs
  | bexp => apply execBexp_held hs
  | li | lui => exact done_held (State.compute_held hs fun _ _ h => Core.dupResult_shallow h)
  | loop => exact done_held (State.flow_held hs fun _ h => Core.startLoop_shallow h)
  | loopBackEdge => apply execLoopBackEdge_held hs
  | br => exact done_held (State.flow_held hs fun _ h => Core.branch_shallow h)
  | bcc => apply execBcc_held hs
  | call => apply execCall_held hs
  | ldX | ldY => exact done_held (State.slot_held hs fun _ _ => State.loadXY_held)
  | stX | stY => exact done_held (State.slot_held hs fun _ _ => State.storeXY_held)
  | sin => apply execSin_held hs
  | staX | staY => exact done_held (State.slot_held hs fun _ _ => State.staXY_held)
  | ldUX | ldUY => exact done_held (State.slot_held hs fun _ _ => State.refuseXY_held)
  | sout => exact done_held (State.slot_held hs fun _ _ => State.sout_held)
  | mtap => apply execMtap_held hs
  | ldZ => apply execLdZ_held hs
  | stZ => exact done_held (State.zslot_held hs fun _ _ _ => State.storeZ_held)
  | pget => apply execPget_held hs
  | pgetTwin => apply execPgetTwin_held hs
  | amoAdd | amoSwap => exact done_held (State.zslot_held hs fun _ _ _ => State.amo_held)
  | ldUZ => exact done_held (State.zslot_held hs fun _ _ _ => State.loadUZ_held)
  | fld | fldl => exact done_held (State.stewardLoad_held hs)
  | fst | fstu => exact done_held (State.stewardStore_held hs)
  | fence | wfe | ei | di => exact done_held (State.ctl_held hs fun _ _ => hs.same rfl rfl rfl rfl rfl rfl rfl)
  | eret => exact done_held (State.eret_held hs)
  | mtcs => apply execMtcs_held hs
  | mfcs => apply execMfcs_held hs
  | jr => apply execJr_held hs
  | jalr => apply execJalr_held hs
  | stewardEventTaken => apply execStewardEventTaken_held hs
  | calMatrixFrame => apply execCalMatrixFrame_held hs
  | deepBusAdd => apply execDeepBusAdd_held hs
  | xpStateCheck => apply execXpStateCheck_held hs
  | xpRebuild => apply execXpRebuild_held hs
  | xpRampEnd => apply execXpRampEnd_held hs
  | calsatbusClear | sttxDropsClear | fabqosWrite => exact done_held (State.put_held hs _ _)
  | ovlLoad => exact done_held (State.ovlLoad_held hs)
  | ovlLoadDone => exact done_held (State.ovlLoadDone_held hs)
  | ovlDrop => exact done_held (State.ovlDrop_held hs)
  | commitGo => exact done_held (State.commitGo_held hs)
  | commitCancel => exact done_held (State.commitCancel_held hs)
  | commitPrepareDone => exact done_held (State.commitPrepareDone_held hs)
  | commitApply => exact done_held (State.commitApply_held hs)
  | paramRampEnd => exact done_held (State.paramRampEnd_held hs)
  | foldStart => exact done_held (State.foldStart_held hs)
  | foldEnd => exact done_held (State.foldEnd_held hs)
  | commitDone => exact done_held (State.commitDone_held hs)
  | directWrite => exact done_held (State.directWrite_held hs)
  | directWriteHeldAccept => apply execDirectWriteHeldAccept_held hs
  | cascPrepare => apply execCascPrepare_held hs
  | cascReport => apply execCascReport_held hs
  | cascDecision => apply execCascDecision_held hs
  | cascConfirm => apply execCascConfirm_held hs
  | cascAbort => apply execCascAbort_held hs
  | cascLocalAbort => apply execCascLocalAbort_held hs
  | cnvEnable | cnvDisable => exact done_held (State.cnvCtlWrite_held hs)
  | cnvInputEdge => apply execCnvInputEdge_held hs
  | cnvFadeEnd => apply execCnvFadeEnd_held hs
  | cnvchClr => exact done_held (State.cnvClr_held hs)
  | mtrclrHold => apply execMtrclrHold_held hs
  | mtrclrClips => apply execMtrclrClips_held hs
  | portEnable | portDisable | portArm => exact done_held (State.portCtlWrite_held hs)
  | apStartGo => exact done_held (State.apGo_held hs)
  | startSyncEdge => apply execStartSyncEdge_held hs
  | apStartMessage => apply execApStartMessage_held hs
  | apStart => apply execApStart_held hs
  | portInputFrame => apply execPortInputFrame_held hs
  | apCodedReleased => apply execApCodedReleased_held hs
  | apClkStopped => apply execApClkStopped_held hs
  | apClkSwapCheck => apply execApClkSwapCheck_held hs
  | lanemaskWrite => exact done_held (State.lanemaskWrite_held hs)
  | vntRampEnd => apply execVntRampEnd_held hs
  | emergNLow => apply execEmergNLow_held hs
  | vntForce => exact done_held (State.vntForceWrite_held hs)
  | emergCauseClear => apply execEmergCauseClear_held hs
  | vntReturnEnd => apply execVntReturnEnd_held hs
  | slotMuteClear => exact done_held (State.slotMuteClear_held hs)
  | safeMuteNLow => apply execSafeMuteNLow_held hs
  | safePinClear => apply execSafePinClear_held hs
  | fumMuteReq => exact done_held (State.fumMuteReq_held hs)
  | stewardLockstepFault => exact done_held (State.stewardHalt_held hs)
  | fumStall => apply execFumStall_held hs
  | fumSelfFault => apply execFumSelfFault_held hs
  | fumResumed => apply execFumResumed_held hs
  | fumSafeReset => apply execFumSafeReset_held hs
  | portWatch => apply execPortWatch_held hs
  | fumlockClose => exact done_held (State.lockClose_held hs)
  | fumrecAck => exact done_held (State.fumrecAck_held hs)
  | fumrecClr => exact done_held (State.fumrecClr_held hs)
  | fumcntClear => exact done_held (State.fumcntClear_held hs)
  | inselWrite => exact done_held (State.corecfgWrite_held hs)
  | coreNWrite => apply execCoreNWrite_held hs
  | relock => exact done_held (State.loopRelock_held hs)
  | rampGo => exact done_held (State.rampGoWrite_held hs)
  | sscWrite => exact done_held (State.sscWrite_held hs)
  | loopinitGo => exact done_held (State.loopinitGo_held hs)
  | hrefMeasureDone => apply execHrefMeasureDone_held hs
  | loopInputPresent => apply execLoopInputPresent_held hs
  | bandSearchDone => apply execBandSearchDone_held hs
  | acquireLock => apply execAcquireLock_held hs
  | coreLockFailed => apply execCoreLockFailed_held hs
  | coreRampDone => apply execCoreRampDone_held hs
  | corePhaseAligned => apply execCorePhaseAligned_held hs
  | coreInputLost => exact done_held (State.inputLost_held hs)
  | coreInputReturn => exact done_held (State.inputReturn_held hs)
  | holdExpired => apply execHoldExpired_held hs
  | coreCoast => apply execCoreCoast_held hs
  | coreOvershoot => apply execCoreOvershoot_held hs
  | auxclkCheck => apply execAuxclkCheck_held hs
  | dllLock => apply execDllLock_held hs
  | islandUngate | islandGate => exact done_held (State.islandCmd_held hs)
  | islandForce => exact done_held (State.islandForce_held hs)
  | islandIdleClose => apply execIslandIdleClose_held hs
  | islandForcedClose => apply execIslandForcedClose_held hs
  | refEdgeMissing => apply execRefEdgeMissing_held hs
  | refIntervalEnd => apply execRefIntervalEnd_held hs
  | refSwitchDone => apply execRefSwitchDone_held hs
  | refWtrExpired => apply execRefWtrExpired_held hs
  | refHoldoffExpired => apply execRefHoldoffExpired_held hs
  | realign => exact done_held (State.realign_held hs)
  | realignDone => apply execRealignDone_held hs
  | refsteerWrite => exact done_held (State.refsteerWrite_held hs)
  | swSteerStale => apply execSwSteerStale_held hs
  | tcIncWrite => exact done_held (State.tcIncWrite_held hs)
  | tcNsRead => exact done_held (State.tcNsRead_held hs)
  | tcSet => exact done_held (State.tcSet_held hs)
  | tcAdj => exact done_held (State.tcAdj_held hs)
  | netEnable => exact done_held (State.netcfgWrite_held hs)
  | netLinkUp => apply execNetLinkUp_held hs
  | netLinkDown => apply execNetLinkDown_held hs
  | netFrameRx => apply execNetFrameRx_held hs
  | netPauseEnd => apply execNetPauseEnd_held hs
  | netrxqTailWrite => exact done_held (State.rxqTailWrite_held hs)
  | nettxqHeadWrite => exact done_held (State.txqHeadWrite_held hs)
  | netTxRecord => apply execNetTxRecord_held hs
  | nettxtsPop => exact done_held (State.txtsPop_held hs)
  | netcntClear => exact done_held (State.netcntClear_held hs)
  | streamEnable => exact done_held (State.stmCtlWrite_held hs)
  | streamDisable => exact done_held (State.stmStop_held hs)
  | stmRxStale => apply execStmRxStale_held hs
  | streamPresentEdge => apply execStreamPresentEdge_held hs
  | streamPacketSend => apply execStreamPacketSend_held hs
  | strxcntClear => exact done_held (State.strxcntClear_held hs)
  | linkEnable => exact done_held (State.lnkcfgWrite_held hs)
  | linkTrain => apply execLinkTrain_held hs
  | linkUp => apply execLinkUp_held hs
  | linkDown => apply execLinkDown_held hs
  | linkFrameRx => apply execLinkFrameRx_held hs
  | controlMessageRx => exact execControlMessageRx_held hs _ _ _ _ _ (hm ⟨_, _, _, _, _, rfl⟩)
  | cascChipLost => apply execCascChipLost_held hs
  | clusterSelftest => apply execClusterSelftest_held hs
  | spareReverted => apply execSpareReverted_held hs
  | patrolcntClear => exact done_held (State.patrolcntClear_held hs)
  | lnkcntClear => exact done_held (State.lnkcntClear_held hs)
  | pairYield => exact done_held (State.pairYield_held hs)
  | actInFall => exact done_held (State.actFall_held hs)
  | pairAssertAct => apply execPairAssertAct_held hs
  | pairReverted => apply execPairReverted_held hs
  | fabricRead | fabricWrite => exact done_held (State.issue_held hs)
  | arbiterGrant => apply execArbiterGrant_held hs
  | backoffExpired => exact done_held (hs.withFab _)
  | lockTimeout => apply execLockTimeout_held hs
  | masterResetHandshake => exact done_held (State.masterReset_held hs)
  | handshakeTimeout => apply execHandshakeTimeout_held hs
  | fabTimeout => apply execFabTimeout_held hs
  | fabDeadlock => apply execFabDeadlock_held hs
  | remapWrite => exact done_held (State.remapWrite_held hs)
  | fabRemapDone => exact done_held (State.remapDone_held hs)
  | fabcntClear => exact done_held (State.fabcntClear_held hs)
  | por => exact done_held (State.por_held hs)
  | resetNLow => apply execResetNLow_held hs
  | chipResetRelease => apply execChipResetRelease_held hs
  | cellResetReq | clusterResetReq | regionResetReq | engineResetReq | warmChipResetReq | chipResetReq | mgmtResetReq =>
    exact done_held (State.rstReq_held hs)
  | resetIdleTimeout => apply execResetIdleTimeout_held hs
  | resetRelease => apply execResetRelease_held hs
  | pwrReqRun | pwrReqQuiesce | pwrReqHold => exact done_held (State.pwrctlGo_held hs)
  | holdEntered => apply execHoldEntered_held hs
  | holdExitDone => apply execHoldExitDone_held hs
  | pwrrateWrite => exact done_held (State.pwrrateWrite_held hs)
  | supplyWarn => exact done_held (State.raiseOnce_held (State.supplyFault_held (State.put_held hs _ _)))
  | supplyDip => apply execSupplyDip_held hs
  | supplyResetThreshold => apply execSupplyResetThreshold_held hs
  | supplyChipReset => apply execSupplyChipReset_held hs
  | tempConversion => apply execTempConversion_held hs
  | tempSensorTimeout => apply execTempSensorTimeout_held hs
  | tempmaxWrite => exact done_held (State.tempmaxWrite_held hs)
  | bootStart => exact done_held (State.bootStart_held hs)
  | bootdoorGo => exact done_held (State.bootdoorGo_held hs)
  | bootCheck => apply execBootCheck_held hs
  | bootSectionLoad => apply execBootSectionLoad_held hs
  | bootRegsWrite => apply execBootRegsWrite_held hs
  | bootHandoff => apply execBootHandoff_held hs
  | evtenWrite => exact done_held (State.evtenWrite_held hs)
  | evtrouteWrite => exact done_held (State.evtrouteWrite_held hs)
  | evtstatClear => exact done_held (State.evtstatClear_held hs)
  | evtswset => exact done_held (State.evtswset_held hs)
  | msixSend => exact done_held (State.msixSend_held hs)
  | msixUnmask => exact done_held (State.msixUnmask_held hs)
  | pcieMemRead => apply execPcieMemRead_held hs
  | pcieMemWrite => apply execPcieMemWrite_held hs
  | hostLinkUp => apply execHostLinkUp_held hs
  | hostLinkDown => apply execHostLinkDown_held hs
  | hostFlr => apply execHostFlr_held hs
  | mgmtLocalRead => apply execMgmtLocalRead_held hs
  | mgmtLocalWrite => apply execMgmtLocalWrite_held hs
  | mgmtFabricRead => apply execMgmtFabricRead_held hs
  | mgmtFabricWrite => apply execMgmtFabricWrite_held hs
  | evtsnapTake => exact done_held (State.evtsnapTake_held hs)
  | fuseProg => exact done_held (State.fuseProg_held hs)
  | fuseProgDone => apply execFuseProgDone_held hs
  | extest | idcode | clamp | highz | tapReset => exact done_held (State.tapSelect_held hs)
  | samplePreload => exact done_held ((State.tapSelect_held hs).withTap _)
  | bypass => apply execBypass_held hs
  | dapRead | dapWrite | dapLockedRead | dapClosingWrite => exact done_held (State.dapCommand_held hs)
  | dapdataCapture => exact done_held (hs.withTap _)
  | dbgOpen | dbgClose => exact done_held (State.dbgSet_held hs)
  | stwHalt => apply execStwHalt_held hs
  | stwResume => apply execStwResume_held hs
  | stwStep => apply execStwStep_held hs
  | pinShortDetect => apply execPinShortDetect_held hs
  | pinShortRetry => apply execPinShortRetry_held hs
  | faultnStuck => apply execFaultnStuck_held hs
  | pinProbe => apply execPinProbe_held hs
  | netRxPolarityInvert => apply execNetRxPolarityInvert_held hs
  | refLegMissing => apply execRefLegMissing_held hs
  | gpioWrite => apply execGpioWrite_held hs
  | ppsOutPulse => apply execPpsOutPulse_held hs
  | registerWrite => exact done_held (State.regWrite_held hs)

end Sys2Proof.Machine

/-! SUPPORT. The frame count: what a frame edge does to it, and that nothing but an edge, a reset or the master moves it. -/

namespace Sys2Proof.Machine

open Sys2Proof

variable {s : State}

/-! ### The frame edge -/

/-- The last work of an edge is to forget the PID whose check failed at it (R253). -/
theorem State.edge_bad (s : State) (a b c : Option Nat) (g : Nat) : (s.edge a b c g).gys.bad = none := rfl

/-- The state as it stands once the frame count has advanced holds the count `f` and nothing else is lost. -/
theorem State.Inv.advanced (hi : s.Inv) {fr : Nat → Prop} {f : Nat} (hf : fr f) :
    ({ s with frame := f } : State).Held s.pending fr := by
  obtain ⟨hr, hs, hd, hc, ht, ha, hb, hm, hv⟩ := hi
  exact ⟨rfl, hf, hr, hs, hd, hc, ht, ha, hb, hm, hv⟩

theorem State.frameEdge_stopped (h : s.dividerRuns = false) (a b c : Option Nat) (g : Nat) : s.frameEdge a b c g = s := by
  simp only [State.frameEdge, h, Bool.not_false, if_true]

theorem State.frameEdge_warm (h : s.dividerRuns = true) (hc : s.pwr.chip = 1) (a b c : Option Nat) (g : Nat) :
    s.frameEdge a b c g = { s with frame := (s.frame + 1) % 2 ^ 64 } := by
  simp only [State.frameEdge, h, hc, Bool.not_true, Bool.false_eq_true, if_false, if_true]

theorem State.frameEdge_runs (h : s.dividerRuns = true) (hc : s.pwr.chip ≠ 1) (a b c : Option Nat) (g : Nat) :
    s.frameEdge a b c g = ({ s with frame := (s.frame + 1) % 2 ^ 64 } : State).edge a b c g := by
  simp only [State.frameEdge, h, hc, Bool.not_true, Bool.false_eq_true, if_false]

/-- A frame edge with the divider running: the count `fr` speaks of is the one that now counts and, at a stage edge,
0 as well. -/
theorem State.frameEdge_advances (hi : s.Inv) (h : s.dividerRuns = true) {fr : Nat → Prop} (hf : fr ((s.frame + 1) % 2 ^ 64))
    (h0 : (s.frame + 1) % 2 ^ 64 % 16 = 1 → CountsZero fr) (a b c : Option Nat) (g : Nat) :
    (s.frameEdge a b c g).Held s.pending fr := by
  by_cases hc : s.pwr.chip = 1
  · rw [State.frameEdge_warm h hc]
    exact hi.advanced hf
  · rw [State.frameEdge_runs h hc]
    exact State.edge_held (hi.advanced hf) h0

/-- The frame count and the queue after a FRAME_EDGE with the divider running. -/
theorem exec_frameEdge_advances (hi : s.Inv) (h : s.dividerRuns = true) {fr : Nat → Prop} (hf : fr ((s.frame + 1) % 2 ^ 64))
    (h0 : (s.frame + 1) % 2 ^ 64 % 16 = 1 → CountsZero fr) (a : Option (Fin 256)) (b : Option (Fin 64)) (x : EdgeInput) :
    ∃ t, exec (.frameEdge a b x) s = .next t ∧ fr t.frame ∧ t.pending = s.pending ∧ (s.pwr.chip ≠ 1 → t.gys.bad = none) := by
  obtain ⟨hq, hn, -⟩ := State.frameEdge_advances hi h hf h0 (a.map Fin.val) (b.map Fin.val)
    (x.gysBad.map BitVec.toNat) x.gpio.toNat
  refine ⟨_, rfl, hn, hq, fun hc => ?_⟩
  rw [State.frameEdge_runs h hc]
  exact State.edge_bad ..

/-- Where a command can leave the frame count (R22): where it was, at 0, or, after a frame edge, one on. -/
def FrameGoes (c : Instr) (s : State) (n : Nat) : Prop :=
  n = s.frame ∨ n = 0 ∨ ((∃ a b x, c = .frameEdge a b x) ∧ n = (s.frame + 1) % 2 ^ 64)

/-- Settles O5: the edge's clauses from `State.edge_held`, the clause over every command from `exec_held`. -/
theorem frameCount : Obligations.FrameCount := by
  unfold Obligations.FrameCount
  refine ⟨fun a b x s => ⟨fun hd hc => ?_, fun hi hd hn => ?_, fun hi hd _ => ?_, fun hd => ?_⟩, fun c s t hi ht hm => ?_⟩
  · exact congrArg done (State.frameEdge_warm hd hc ..)
  · exact exec_frameEdge_advances (fr := (· = (s.frame + 1) % 2 ^ 64)) hi hd rfl (fun h => absurd h hn) a b x
  · obtain ⟨t, ht, hf, hq, -⟩ := exec_frameEdge_advances (fr := fun n => n = (s.frame + 1) % 2 ^ 64 ∨ n = 0) hi hd (.inl rfl)
      (fun _ => ⟨.inr rfl⟩) a b x
    exact ⟨t, ht, hf, hq⟩
  · exact congrArg done (State.frameEdge_stopped hd ..)
  · have : CountsZero (FrameGoes c s) := ⟨.inr (.inl rfl)⟩
    have hs : s.Held s.pending (FrameGoes c s) := ⟨rfl, .inl rfl, hi⟩
    exact (exec_held c hs (fun h => .inr (.inr ⟨h, rfl⟩)) (fun ⟨n, o, k, m, a, h⟩ => absurd h (hm n o k m a)) t ht).2.1

end Sys2Proof.Machine

/-! SUPPORT. Building up what a command touches where parts of the state beside the registers change: `Only` of the shared
operations, and how it composes. -/

namespace Sys2Proof.Machine

open Sys2Proof

variable {ps ps' : List Part} {es es' : List Nat} {fs fs' : List Fld} {s t u : State}

/-! ### How `Only` composes -/

theorem Only.refl (s : State) : Only [] [] [] s s :=
  ⟨fun p _ _ => by cases p <;> rfl, fun _ _ _ => rfl, fun _ _ _ _ => rfl⟩

theorem Part.same.trans {p : Part} (h : p.same s t) (h' : p.same t u) : p.same s u := by
  cases p <;> exact Eq.trans h' h

theorem Only.trans (h : Only ps es fs s t) (h' : Only ps' es' fs' t u) : Only (ps ++ ps') (es ++ es') (fs ++ fs') s u := by
  obtain ⟨hp, hr, he⟩ := h
  obtain ⟨hp', hr', he'⟩ := h'
  refine ⟨fun p hps hev => ?_, fun k hf hk => ?_, fun n hn hes hf => ?_⟩
  · rw [List.mem_append, not_or] at hps
    exact (hp p hps.1 fun e => (List.append_eq_nil_iff.1 (hev e)).1).trans
      (hp' p hps.2 fun e => (List.append_eq_nil_iff.1 (hev e)).2)
  · rw [List.map_append, List.mem_append, not_or] at hf hk
    rw [hr' k hf.2 hk.2, hr k hf.1 hk.1]
  · rw [List.mem_append, not_or] at hes
    rw [List.map_append, List.mem_append, not_or] at hf
    rw [he' n hn hes.2 hf.2, he n hn hes.1 hf.1]

theorem Only.mono (h : Only ps es fs s t) (hp : ps ⊆ ps') (he : es ⊆ es') (hf : fs ⊆ fs') : Only ps' es' fs' s t :=
  ⟨fun p hp' hev => h.1 p (fun hx => hp' (hp hx)) fun e => List.subset_nil.1 (hev e ▸ he),
   fun k hk hek => h.2.1 k (fun hx => hk (List.map_subset _ hf hx)) fun hx => hek (List.map_subset _ he hx),
   fun n hn hs hk => h.2.2 n hn (fun hx => hs (he hx)) fun hx => hk (List.map_subset _ hf hx)⟩

theorem Only.get (h : Only ps es fs s t) {f : Fld} (w : f.key ∉ fs.map Fld.key)
    (e : f.key ∉ es.map (fun n => (Reg.EVTSTAT_STAT (n / 32)).key)) : t.get f = s.get f := by
  simp only [State.get, h.2.1 _ w e]

/-- Where an event is named, the event controller need not be. -/
theorem Only.hideEvt (h : Only (.evt :: ps) es fs s t) (he : es ≠ []) : Only ps es fs s t := by
  refine ⟨fun p hp hev => ?_, h.2⟩
  have hne : p ≠ .evt := fun e => he (hev e)
  exact h.1 p (by simp [hne, hp]) fun e => absurd e hne

/-! ### What the shared operations touch -/

theorem State.put_only (s : State) (f : Fld) (v : Nat) : Only [] [] [f] s (s.put f v) := by
  refine ⟨fun p _ _ => by cases p <;> rfl, fun k hf _ => ?_, fun n _ _ hf => ?_⟩
  · rw [State.look_put, if_neg fun e => hf (by simp [e])]
  · simp only [State.evtStat]
    rw [State.get_put_ne _ _ fun e => hf (by simp [e])]

theorem State.free_only (s : State) (n : Nat) : Only [] [] [] s { s with free := n } :=
  ⟨fun p _ _ => by cases p <;> rfl, fun _ _ _ => rfl, fun _ _ _ _ => rfl⟩

theorem State.evt_only (s : State) (e : Evt) : Only [.evt] [] [] s { s with evt := e } :=
  ⟨fun p hp _ => by
    cases p
    case evt => exact absurd List.mem_cons_self hp
    all_goals rfl, fun _ _ _ => rfl, fun _ _ _ _ => rfl⟩

theorem State.fum_only (s : State) (x : Fum) : Only [.fum] [] [] s { s with fum := x } :=
  ⟨fun p hp _ => by
    cases p
    case fum => exact absurd List.mem_cons_self hp
    all_goals rfl, fun _ _ _ => rfl, fun _ _ _ _ => rfl⟩

theorem Only.put (h : Only ps es fs s t) (f : Fld) (v : Nat) : Only ps es (f :: fs) s (t.put f v) :=
  (h.trans (t.put_only f v)).mono (by simp) (by simp) (by simp)

theorem Only.free (h : Only ps es fs s t) (n : Nat) : Only ps es fs s { t with free := n } :=
  (h.trans (t.free_only n)).mono (by simp) (by simp) (by simp)

theorem Only.withEvt (h : Only ps es fs s t) (hp : Part.evt ∈ ps) (e : Evt) : Only ps es fs s { t with evt := e } :=
  (h.trans (t.evt_only e)).mono (by simp [hp]) (by simp) (by simp)

/-- Nothing has changed yet: the start of a chain of updates within the fields `fs`. -/
theorem Only.start (s : State) : Only ps es fs s s := (Only.refl s).mono (by simp) (by simp) (by simp)

theorem Only.putIn {f : Fld} (h : Only ps es fs s t) (hf : f ∈ fs) (v : Nat) : Only ps es fs s (t.put f v) :=
  (h.put f v).mono (List.Subset.refl _) (List.Subset.refl _) (List.cons_subset.2 ⟨hf, List.Subset.refl _⟩)

theorem Only.putBitIn {f : Fld} (h : Only ps es fs s t) (hf : f ∈ fs) (b : Bool) : Only ps es fs s (t.putBit f b) :=
  h.putIn hf _

theorem Only.bumpIn {f : Fld} (h : Only ps es fs s t) (hf : f ∈ fs) : Only ps es fs s (t.bump f) := h.putIn hf _

theorem Only.ite {c : Prop} [Decidable c] {a b : State} (h : c → Only ps es fs s a) (h' : ¬c → Only ps es fs s b) :
    Only ps es fs s (if c then a else b) := by
  split
  · exact h ‹_›
  · exact h' ‹_›

theorem State.raise_regs_of_inReset (h : s.evt.inReset = true) (n : Nat) : (s.raise n).regs = s.regs := by
  simp only [State.raise, h, if_true]
  split <;> rfl

/-- A raise touches the status of its event, and the event controller. -/
theorem State.raise_only (s : State) (n : Nat) : Only [] [n] [] s (s.raise n) := by
  refine ⟨fun p _ hp => ?_, fun k _ hk => ?_, fun m hm hn _ => ?_⟩
  · cases p
    case evt => exact absurd (hp rfl) (List.cons_ne_nil _ _)
    all_goals simp only [Part.same, State.raise_pending, State.raise_frame, State.raise_staged, State.raise_mem,
      State.raise_eng, State.raise_cells, State.raise_stw, State.raise_cal, State.raise_gys, State.raise_fum, State.raise_vent,
      State.raise_lnk, State.raise_cnv, State.raise_mtr, State.raise_ports, State.raise_clk, State.raise_refs, State.raise_net,
      State.raise_fab, State.raise_pwr, State.raise_boot, State.raise_pcie, State.raise_mgmt, State.raise_tap, State.raise_fuses,
      State.raise_pins]
  · cases h : s.evt.inReset with
    | true => rw [State.raise_regs_of_inReset h]
    | false =>
      rw [State.raise_regs h, State.setStat, State.look_put, if_neg fun e => hk (by simp [e])]
  · cases h : s.evt.inReset with
    | true => simp only [State.evtStat, State.get, State.raise_regs_of_inReset h]
    | false =>
      rw [State.evtStat_raise h, beq_eq_false_iff_ne.2 fun e => hn (by simp [e]), Bool.or_false]

theorem State.raiseOnce_only (s : State) (n key : Nat) : Only [] [n] [] s (s.raiseOnce n key) := by
  unfold State.raiseOnce
  split
  · exact (Only.refl s).mono (by simp) (by simp) (by simp)
  · exact ((s.evt_only _).trans (State.raise_only _ n)).hideEvt (List.cons_ne_nil _ _)

end Sys2Proof.Machine

/-! SUPPORT. The event controller: what a write to each of its registers does, and the MSI-X messages. -/

namespace Sys2Proof.Machine

open Sys2Proof

variable {s : State}

/-! ### The registers of the event controller -/

theorem State.msixResend_evt (s : State) :
    s.msixResend.evt = { s.evt with due := s.evt.due ||| s.msixCond, seen := s.msixCond } := rfl

theorem State.msixFollow_evt (s : State) : s.msixFollow.evt =
    { s.evt with due := s.evt.due ||| (s.msixCond ^^^ (s.msixCond &&& s.evt.seen)), seen := s.msixCond } := rfl

theorem State.evtenWrite_of_inReset (h : s.evt.inReset = true) (w v : Nat) : s.evtenWrite w v = s := by
  simp only [State.evtenWrite, h, if_true]

theorem State.evtrouteWrite_of_inReset (h : s.evt.inReset = true) (e v : Nat) : s.evtrouteWrite e v = s := by
  simp only [State.evtrouteWrite, h, if_true]

theorem State.evtstatClear_of_inReset (h : s.evt.inReset = true) (w v : Nat) : s.evtstatClear w v = s := by
  simp only [State.evtstatClear, h, if_true]

theorem State.evtenWrite_of_runs (h : s.evt.inReset = false) (w v : Nat) :
    s.evtenWrite w v = (s.put (Reg.EVTEN_EN w) v).msixResend := by
  simp only [State.evtenWrite, h, Bool.false_eq_true, if_false]

/-- The data-side sources of EVTSTATw that set their status again at a clear (R6). -/
def State.setAgain (s : State) (w v : Nat) : List Nat :=
  s.standing.filter (fun n => n / 32 == w && (s.get (Reg.EVTSTAT_STAT w) &&& v).testBit (n % 32))

/-- EVTSTATw with the bits written 1 cleared, and those of the sources that stay active set again. -/
def State.statCleared (s : State) (w v : Nat) : State :=
  (s.setAgain w v).foldl State.setStat
    (s.put (Reg.EVTSTAT_STAT w) (s.get (Reg.EVTSTAT_STAT w) ^^^ (s.get (Reg.EVTSTAT_STAT w) &&& v)))

theorem State.evtstatClear_of_runs (h : s.evt.inReset = false) (w v : Nat) :
    s.evtstatClear w v = (s.statCleared w v).msixResend := by
  simp only [State.evtstatClear, h, Bool.false_eq_true, if_false, State.statCleared, State.setAgain]

/-- The word of a route with its five fields written (R567). -/
def State.routed (s : State) (e v : Nat) : State :=
  ((((s.put (Reg.EVTROUTE_SVEC e) v).put (Reg.EVTROUTE_SEN e) (v / 2 ^ 5)).put (Reg.EVTROUTE_MSIX e) (v / 2 ^ 6)).put
    (Reg.EVTROUTE_MEN e) (v / 2 ^ 10)).put (Reg.EVTROUTE_OUT e) (v / 2 ^ 11)

theorem State.evtrouteWrite_of_runs (h : s.evt.inReset = false) (e v : Nat) :
    s.evtrouteWrite e v = (s.routed e v).msixFollow := by
  simp only [State.evtrouteWrite, h, Bool.false_eq_true, if_false, State.routed]

theorem Only.msixResend {ps : List Part} {es : List Nat} {fs : List Fld} {s t : State} (h : Only ps es fs s t)
    (hp : Part.evt ∈ ps) : Only ps es fs s t.msixResend := h.withEvt hp _

theorem Only.msixFollow {ps : List Part} {es : List Nat} {fs : List Fld} {s t : State} (h : Only ps es fs s t)
    (hp : Part.evt ∈ ps) : Only ps es fs s t.msixFollow := h.withEvt hp _

/-- A state in which nothing has changed yet, seen as one in which the event controller may. -/
theorem Only.evtRefl (s : State) : Only [.evt] [] [] s s := (Only.refl s).mono (by simp) (by simp) (by simp)

/-! #### EVTEN -/

theorem execEvtenWrite_spec (h : s.evt.inReset = false) (w : Fin 8) (v : BitVec 32) :
    ∃ t, exec (.evtenWrite w v) s = .next t ∧
    Only [.evt] [] [Reg.EVTEN_EN w] s t ∧ t.get (Reg.EVTEN_EN w) = v.toNat ∧
    t.evt = { s.evt with due := s.evt.due ||| t.msixCond, seen := t.msixCond } := by
  refine ⟨_, congrArg done (State.evtenWrite_of_runs h w v.toNat), ?_, ?_, rfl⟩
  · exact (((Only.evtRefl s).put _ _).msixResend (by simp)).free _
  · exact (State.get_put_same s (Reg.EVTEN_EN w) v.toNat).trans (Nat.mod_eq_of_lt v.isLt)

/-! #### EVTSTAT -/

theorem State.foldl_setStat_evt (l : List Nat) (s : State) : (l.foldl State.setStat s).evt = s.evt := by
  induction l generalizing s with
  | nil => rfl
  | cons n l ih => exact ih _

theorem State.evtStat_foldl_setStat (l : List Nat) (s : State) (n : Nat) :
    (l.foldl State.setStat s).evtStat n = (s.evtStat n || l.contains n) := by
  induction l generalizing s with
  | nil => simp
  | cons m l ih =>
    rw [List.foldl_cons, ih, State.evtStat_setStat, List.contains_cons, Bool.or_assoc]

/-- Setting status bits of one word again touches that word alone. -/
theorem Only.foldl_setStat {ps : List Part} {es : List Nat} {w : Nat} (l : List Nat) (hl : ∀ n ∈ l, n / 32 = w) {s t : State}
    (h : Only ps es [Reg.EVTSTAT_STAT w] s t) : Only ps es [Reg.EVTSTAT_STAT w] s (l.foldl State.setStat t) := by
  induction l generalizing t with
  | nil => exact h
  | cons n l ih =>
    refine ih (fun m hm => hl m (List.mem_cons_of_mem _ hm)) ?_
    have hn : n / 32 = w := hl n List.mem_cons_self
    subst hn
    exact (h.put _ _).mono (List.Subset.refl _) (List.Subset.refl _) (by simp)

theorem State.mem_setAgain {w v n : Nat} : n ∈ s.setAgain w v ↔
    n ∈ s.standing ∧ n / 32 = w ∧ (s.get (Reg.EVTSTAT_STAT w) &&& v).testBit (n % 32) = true := by
  simp only [State.setAgain, List.mem_filter, Bool.and_eq_true, beq_iff_eq]

/-- Bit `i` of EVTSTATw is the status of event 32 w + i. -/
theorem State.evtStat_word (s : State) (w : Nat) {i : Nat} (hi : i < 32) :
    s.evtStat (32 * w + i) = (s.get (Reg.EVTSTAT_STAT w)).testBit i := by
  unfold State.evtStat
  rw [show (32 * w + i) / 32 = w by omega, show (32 * w + i) % 32 = i by omega]

theorem State.statCleared_get (s : State) (w v : Nat) {i : Nat} (hi : i < 32) :
    ((s.statCleared w v).get (Reg.EVTSTAT_STAT w)).testBit i =
      ((s.get (Reg.EVTSTAT_STAT w)).testBit i && (!v.testBit i || s.standing.contains (32 * w + i))) := by
  have hc : (s.setAgain w v).contains (32 * w + i) =
      (s.standing.contains (32 * w + i) && ((s.get (Reg.EVTSTAT_STAT w)).testBit i && v.testBit i)) := by
    rw [Bool.eq_iff_iff]
    simp only [List.contains_iff_mem, State.mem_setAgain, Bool.and_eq_true, Nat.testBit_and]
    rw [show (32 * w + i) / 32 = w by omega, show (32 * w + i) % 32 = i by omega]
    simp only [true_and]
  rw [← State.evtStat_word _ w hi, State.statCleared, State.evtStat_foldl_setStat, State.evtStat_word _ w hi, hc,
    State.get_put_same, Nat.testBit_mod_two_pow, Nat.testBit_xor, Nat.testBit_and]
  have hw : i < (Reg.EVTSTAT_STAT w).w := hi
  cases (s.get (Reg.EVTSTAT_STAT w)).testBit i <;> cases v.testBit i <;> cases s.standing.contains (32 * w + i) <;> simp [hw]

theorem execEvtstatClear_spec (h : s.evt.inReset = false) (w : Fin 8) (v : BitVec 32) :
    ∃ t, exec (.evtstatClear w v) s = .next t ∧
    Only [.evt] [] [Reg.EVTSTAT_STAT w] s t ∧
    t.evt = { s.evt with due := s.evt.due ||| t.msixCond, seen := t.msixCond } ∧
    ∀ i, i < 32 → (t.get (Reg.EVTSTAT_STAT w)).testBit i =
      ((s.get (Reg.EVTSTAT_STAT w)).testBit i && (!v.getLsbD i || s.standing.contains (32 * w.val + i))) := by
  refine ⟨_, congrArg done (State.evtstatClear_of_runs h w v.toNat), ?_, ?_,
    fun i hi => State.statCleared_get s w v.toNat hi⟩
  · refine ((Only.foldl_setStat _ (fun n hn => (State.mem_setAgain.1 hn).2.1) ?_).msixResend (by simp)).free _
    exact (Only.evtRefl s).put _ _
  · have he : (s.statCleared w v.toNat).evt = s.evt := State.foldl_setStat_evt _ _
    exact (State.msixResend_evt _).trans (by rw [he]; rfl)

/-! #### EVTROUTE -/

theorem State.routed_get (s : State) (e v : Nat) :
    (s.routed e v).get (Reg.EVTROUTE_SVEC e) = v % 2 ^ 5 ∧ (s.routed e v).get (Reg.EVTROUTE_SEN e) = v / 2 ^ 5 % 2 ^ 1 ∧
    (s.routed e v).get (Reg.EVTROUTE_MSIX e) = v / 2 ^ 6 % 2 ^ 4 ∧
    (s.routed e v).get (Reg.EVTROUTE_MEN e) = v / 2 ^ 10 % 2 ^ 1 ∧
    (s.routed e v).get (Reg.EVTROUTE_OUT e) = v / 2 ^ 11 % 2 ^ 4 := by
  unfold State.routed
  refine ⟨?_, ?_, ?_, ?_, ?_⟩ <;>
    simp (disch := simp only [Fld.key, Reg.EVTROUTE_SVEC, Reg.EVTROUTE_SEN, Reg.EVTROUTE_MSIX, Reg.EVTROUTE_MEN,
      Reg.EVTROUTE_OUT]; omega)
      only [State.get_put_ne, State.get_put_same] <;> rfl

/-- A one-bit field of a written word is the bit of the word. -/
theorem bit_of_div (v k : Nat) : (v / 2 ^ k % 2 ^ 1 != 0) = v.testBit k := by
  rw [Nat.pow_one, Nat.testBit_eq_decide_div_mod_eq]
  rcases Nat.mod_two_eq_zero_or_one (v / 2 ^ k) with h | h <;> rw [h] <;> rfl

theorem execEvtrouteWrite_spec (h : s.evt.inReset = false) (e : Fin 256) (v : BitVec 15) :
    ∃ t, exec (.evtrouteWrite e v) s = .next t ∧
    Only [.evt] [] [Reg.EVTROUTE_SVEC e, Reg.EVTROUTE_SEN e, Reg.EVTROUTE_MSIX e, Reg.EVTROUTE_MEN e,
      Reg.EVTROUTE_OUT e] s t ∧
    t.get (Reg.EVTROUTE_SVEC e) = (v.extractLsb' 0 5).toNat ∧ t.bit (Reg.EVTROUTE_SEN e) = v.getLsbD 5 ∧
    t.get (Reg.EVTROUTE_MSIX e) = (v.extractLsb' 6 4).toNat ∧ t.bit (Reg.EVTROUTE_MEN e) = v.getLsbD 10 ∧
    t.get (Reg.EVTROUTE_OUT e) = (v.extractLsb' 11 4).toNat ∧
    t.evt = { s.evt with due := s.evt.due ||| (t.msixCond ^^^ (t.msixCond &&& s.evt.seen)), seen := t.msixCond } := by
  obtain ⟨h1, h2, h3, h4, h5⟩ := State.routed_get s e v.toNat
  refine ⟨_, congrArg done (State.evtrouteWrite_of_runs h e v.toNat), ?_, h1, ?_, ?_, ?_, ?_, rfl⟩
  · exact (((((((Only.evtRefl s).put _ _).put _ _).put _ _).put _ _).put _ _).mono (List.Subset.refl _)
      (List.Subset.refl _) (by simp)).msixFollow (by simp) |>.free _
  · exact (congrArg (· != 0) h2).trans (bit_of_div _ 5)
  · exact h3.trans (by rw [BitVec.extractLsb'_toNat, Nat.shiftRight_eq_div_pow])
  · exact (congrArg (· != 0) h4).trans (bit_of_div _ 10)
  · exact h5.trans (by rw [BitVec.extractLsb'_toNat, Nat.shiftRight_eq_div_pow])

/-! #### EVTSWSET -/

/-- The list of events counts by its members alone. -/
theorem Raises.events {es es' : List Nat} {fs : List Fld} {s t : State} (h : Raises es fs s t) (w : ∀ n, n ∈ es ↔ n ∈ es') :
    Raises es' fs s t := by
  refine ⟨h.1, fun k hf he => h.2.1 k hf fun hk => he ?_, fun n hn => ?_⟩
  · obtain ⟨n, hn, rfl⟩ := List.mem_map.1 hk
    exact List.mem_map.2 ⟨n, (w n).1 hn, rfl⟩
  · rw [h.2.2 n hn, Bool.eq_iff_iff]
    simp only [Bool.or_eq_true, List.contains_iff_mem, w n]

/-- Raising the events `f n` of the `n` in `l` that `p` chooses, one after the other. -/
theorem Raises.foldl {es : List Nat} {fs : List Fld} {s t : State} (p : Nat → Bool) (f : Nat → Nat) (l : List Nat)
    (h : Raises es fs s t) (hr : t.evt.inReset = false) :
    Raises ((l.filter p).map f ++ es) fs s (l.foldl (fun t n => if p n then t.raise (f n) else t) t) := by
  induction l generalizing es t with
  | nil => exact h
  | cons n l ih =>
    rw [List.foldl_cons]
    cases hp : p n with
    | false =>
      rw [List.filter_cons_of_neg (by simp [hp])]
      exact ih h hr
    | true =>
      rw [List.filter_cons_of_pos hp]
      refine (ih (h.raise hr (f n)) (by rw [State.raise_inReset, hr])).events fun m => ?_
      simp only [List.map_cons, List.mem_append, List.mem_cons]
      rw [or_left_comm, or_assoc]

theorem execEvtswset_spec (h : s.evt.inReset = false) (v : BitVec 16) : ∃ t, exec (.evtswset v) s = .next t ∧
    Raises (((List.range 16).filter v.getLsbD).map (240 + ·)) [] s t := by
  have hr := (Raises.refl s).foldl v.getLsbD (240 + ·) (List.range 16) h
  rw [List.append_nil] at hr
  exact ⟨_, rfl, hr.free _⟩

/-- A software event is not one that the PWR block latches: in reset it is lost (R568, R569). -/
theorem State.raise_software_lost (h : s.evt.inReset = true) {n : Nat} (hn : n < 16) : s.raise (240 + n) = s := by
  have hl : latchedEvent (240 + n) = false := by
    simp only [latchedEvent, Bool.and_eq_false_iff, decide_eq_false_iff_not]; omega
  simp only [State.raise, h, hl, if_true, Bool.false_eq_true, if_false]

theorem State.evtswset_of_inReset (h : s.evt.inReset = true) (v : Nat) : s.evtswset v = s := by
  refine List.foldlRecOn (motive := (· = s)) _ _ rfl ?_
  rintro t rfl n hn
  rw [State.raise_software_lost h (List.mem_range.1 hn), ite_self]

/-! ### MSI-X messages -/

theorem exec_msixSend (x : Fin 16) (s : State) :
    let e := { s.evt with due := s.evt.due ^^^ 2 ^ x.val }
    let goes (e : Evt) : Host.Outcome State Fault Refusal := .next { s with free := s.free + 1, evt := e }
    (s.evt.due.testBit x = false → exec (.msixSend x) s = goes s.evt) ∧
    (s.evt.due.testBit x = true → exec (.msixSend x) s =
      if s.bit Reg.HSTSTAT_MSIX_EN && s.bit Reg.HSTSTAT_BME then
        (if s.pcie.fmask || s.evt.vmask.testBit x then goes { e with pba := s.evt.pba ||| 2 ^ x.val }
         else goes { e with sent := s.evt.sent ++ [x.val] })
      else goes e) := by
  have hx : exec (.msixSend x) s = done (s.msixSend x) := rfl
  refine ⟨fun h => ?_, fun h => ?_⟩
  · rw [hx, State.msixSend, h]; rfl
  · rw [hx, State.msixSend, h, State.msixOn, State.msixMasked]
    cases s.bit Reg.HSTSTAT_MSIX_EN && s.bit Reg.HSTSTAT_BME
    · rfl
    · cases s.pcie.fmask || s.evt.vmask.testBit x <;> rfl

/-- The pending bit of vector `x` sends its message now (R572). -/
def State.pendingGoes (s : State) (x : Nat) : Bool := s.evt.pba.testBit x && !s.msixMasked x && s.msixOn

theorem State.msixPending_of_goes {x : Nat} (h : s.pendingGoes x = true) :
    s.msixPending x = { s with evt := { s.evt with pba := s.evt.pba ^^^ 2 ^ x, sent := s.evt.sent ++ [x] } } := if_pos h

theorem State.msixPending_of_not {x : Nat} (h : s.pendingGoes x = false) : s.msixPending x = s :=
  if_neg (by rw [← State.pendingGoes, h]; decide)

/-- A vector with its mask gone sends its message if it is pending, and clears the bit; nothing else changes. -/
theorem State.msixPending_spec (s : State) (x : Nat) :
    s.msixPending x = { s with evt := { s.evt with pba := (s.msixPending x).evt.pba, sent := (s.msixPending x).evt.sent } } ∧
    (s.msixPending x).evt.sent = s.evt.sent ++ (if s.pendingGoes x then [x] else []) ∧
    ∀ i, (s.msixPending x).evt.pba.testBit i = (s.evt.pba.testBit i && !(i == x && s.pendingGoes x)) := by
  cases h : s.pendingGoes x with
  | true =>
    have hp : s.evt.pba.testBit x = true := by
      simp only [State.pendingGoes, Bool.and_eq_true] at h; exact h.1.1
    rw [State.msixPending_of_goes h]
    refine ⟨rfl, rfl, fun i => ?_⟩
    simp only [Nat.testBit_xor, Nat.testBit_two_pow, Bool.and_true]
    by_cases hi : i = x
    · subst hi; simp [hp]
    · simp [hi, Ne.symm hi]
  | false =>
    rw [State.msixPending_of_not h]
    exact ⟨rfl, (List.append_nil _).symm, fun i => by simp⟩

theorem State.pendingGoes_msixPending_ne {x y : Nat} (h : y ≠ x) : (s.msixPending x).pendingGoes y = s.pendingGoes y := by
  obtain ⟨hs, -, hp⟩ := s.msixPending_spec x
  have hb := hp y
  rw [beq_eq_false_iff_ne.2 h, Bool.false_and, Bool.not_false, Bool.and_true] at hb
  simp only [State.pendingGoes, hb]
  rw [hs]; rfl

/-- Vectors in a row, each once: the pending ones send their messages in that order. -/
theorem State.foldl_msixPending (l : List Nat) (hl : l.Nodup) (s : State) :
    l.foldl State.msixPending s = { s with evt := { s.evt with
      pba := (l.foldl State.msixPending s).evt.pba, sent := (l.foldl State.msixPending s).evt.sent } } ∧
    (l.foldl State.msixPending s).evt.sent = s.evt.sent ++ l.filter s.pendingGoes ∧
    ∀ i, (l.foldl State.msixPending s).evt.pba.testBit i = (s.evt.pba.testBit i && !(l.contains i && s.pendingGoes i)) := by
  induction l generalizing s with
  | nil => exact ⟨rfl, (List.append_nil _).symm, fun i => by simp⟩
  | cons x l ih =>
    obtain ⟨hx, hl⟩ := List.nodup_cons.1 hl
    obtain ⟨h1, h2, h3⟩ := s.msixPending_spec x
    obtain ⟨i1, i2, i3⟩ := ih hl (s.msixPending x)
    have hne : ∀ y ∈ l, (s.msixPending x).pendingGoes y = s.pendingGoes y := fun y hy =>
      State.pendingGoes_msixPending_ne fun e => hx (e ▸ hy)
    simp only [List.foldl_cons]
    refine ⟨i1.trans ?_, ?_, fun i => ?_⟩
    · rw [h1]
    · rw [i2, h2, List.append_assoc, List.filter_congr hne, List.filter_cons]
      split <;> rfl
    · rw [i3, h3, List.contains_cons]
      by_cases hi : i = x
      · subst hi
        simp [hx]
      · have hb : (i == x) = false := beq_eq_false_iff_ne.2 hi
        by_cases hm : i ∈ l
        · simp [hb, hne i hm]
        · simp [hb, hm]

/-- The mask of vector `x` without its bit (R572). -/
theorem testBit_unmasked (m x : Nat) {i : Nat} (hi : i < 16) :
    (m &&& (65535 ^^^ 2 ^ x)).testBit i = (m.testBit i && i != x) := by
  rw [Nat.testBit_and, Nat.testBit_xor, show (65535 : Nat) = 2 ^ 16 - 1 from rfl, Nat.testBit_two_pow_sub_one,
    Nat.testBit_two_pow]
  by_cases h : i = x
  · subst h; simp [hi]
  · simp [h, hi, Ne.symm h]

theorem exec_msixUnmask_vector (x : Fin 16) (s : State) : ∃ t, exec (.msixUnmask (some x)) s = .next t ∧
    (∀ i, i < 16 → t.evt.vmask.testBit i = (s.evt.vmask.testBit i && i != x.val)) ∧
    t = { s with free := s.free + 1, evt := { s.evt with vmask := t.evt.vmask, pba := t.evt.pba, sent := t.evt.sent } } ∧
    (if s.evt.pba.testBit x && !s.pcie.fmask && s.bit Reg.HSTSTAT_MSIX_EN && s.bit Reg.HSTSTAT_BME
     then t.evt.sent = s.evt.sent ++ [x.val] ∧ t.evt.pba = s.evt.pba ^^^ 2 ^ x.val
     else t.evt.sent = s.evt.sent ∧ t.evt.pba = s.evt.pba) := by
  let s1 : State := { s with evt := { s.evt with vmask := s.evt.vmask &&& (65535 ^^^ 2 ^ x.val) } }
  have hg : s1.pendingGoes x =
      (s.evt.pba.testBit x && !s.pcie.fmask && s.bit Reg.HSTSTAT_MSIX_EN && s.bit Reg.HSTSTAT_BME) := by
    have hv : s1.evt.vmask.testBit x = false := by
      rw [show s1.evt.vmask = s.evt.vmask &&& (65535 ^^^ 2 ^ x.val) from rfl, testBit_unmasked _ _ x.isLt]
      simp
    simp only [State.pendingGoes, State.msixMasked, hv, Bool.or_false, Bool.and_assoc]
    rfl
  have hx : exec (.msixUnmask (some x)) s = done (s1.msixPending x) := rfl
  rw [← hg]
  refine ⟨_, hx, ?_⟩
  cases h : s1.pendingGoes x with
  | true =>
    rw [State.msixPending_of_goes h]
    exact ⟨fun i hi => testBit_unmasked _ _ hi, rfl, rfl, rfl⟩
  | false =>
    rw [State.msixPending_of_not h]
    exact ⟨fun i hi => testBit_unmasked _ _ hi, rfl, rfl, rfl⟩

theorem exec_msixUnmask_function (s : State) : ∃ t, exec (.msixUnmask none) s = .next t ∧
    t = { s with
      free := s.free + 1, pcie := { s.pcie with fmask := false },
      evt := { s.evt with pba := t.evt.pba, sent := t.evt.sent } } ∧
    let on := s.bit Reg.HSTSTAT_MSIX_EN && s.bit Reg.HSTSTAT_BME
    t.evt.sent = s.evt.sent ++ (List.range 16).filter (fun x => on && s.evt.pba.testBit x && !s.evt.vmask.testBit x) ∧
    ∀ i, i < 16 → t.evt.pba.testBit i = (s.evt.pba.testBit i && !(on && !s.evt.vmask.testBit i)) := by
  let s1 : State := { s with pcie := { s.pcie with fmask := false } }
  have hg : ∀ x, s1.pendingGoes x =
      (s.bit Reg.HSTSTAT_MSIX_EN && s.bit Reg.HSTSTAT_BME && s.evt.pba.testBit x && !s.evt.vmask.testBit x) := fun x => by
    rw [Bool.and_assoc (_ && _), Bool.and_comm (_ && _)]
    rfl
  obtain ⟨h1, h2, h3⟩ := State.foldl_msixPending (List.range 16) List.nodup_range s1
  refine ⟨_, (rfl : exec (.msixUnmask none) s = done ((List.range 16).foldl State.msixPending s1)), ?_, ?_, fun i hi => ?_⟩
  · exact congrArg (fun t : State => { t with free := t.free + 1 }) h1
  · exact h2.trans (by rw [List.filter_congr fun x _ => hg x])
  · refine (h3 i).trans ?_
    rw [hg, List.contains_iff_mem.2 (List.mem_range.2 hi), Bool.true_and]
    show (s.evt.pba.testBit i && _) = _
    cases s.evt.pba.testBit i <;> simp

/-- Settles O54: each clause is the rule of its command above. -/
theorem eventCommands : Obligations.EventCommands := by
  unfold Obligations.EventCommands
  refine ⟨fun w v s h => execEvtenWrite_spec h w v, fun w v s h => execEvtstatClear_spec h w v,
    fun e v s h => execEvtrouteWrite_spec h e v, fun v s h => execEvtswset_spec h v,
    fun w e v r x s h c hc => ?_, exec_msixSend, exec_msixUnmask_vector, exec_msixUnmask_function⟩
  simp only [List.mem_cons, List.not_mem_nil, or_false] at hc
  obtain rfl | rfl | rfl | rfl := hc
  · exact congrArg done (State.evtenWrite_of_inReset h _ _)
  · exact congrArg done (State.evtstatClear_of_inReset h _ _)
  · exact congrArg done (State.evtrouteWrite_of_inReset h _ _)
  · exact congrArg done (State.evtswset_of_inReset h _)

end Sys2Proof.Machine

/-! SUPPORT. Register writes: what a write to each type of field does, the words of plain registers, and a
write that the safety lock refuses. -/

namespace Sys2Proof.Machine

open Sys2Proof

variable {s t : State}

/-! ### The register table -/

/-- Every field of a row lies within its word, and no two begin at one bit (R14). -/
theorem table_fields :
    Reg.table.all (fun r => decide ((r.flds.map FldRow.lo).Nodup) && r.flds.all (fun f => decide (f.lo < 32))) = true := by
  decide +kernel

theorem rowAt_fields {a : Nat} {r : WordRow} (h : rowAt a = some r) :
    (r.flds.map FldRow.lo).Nodup ∧ ∀ f ∈ r.flds, f.lo < 32 := by
  have hr := List.all_eq_true.1 table_fields r (List.mem_of_find?_eq_some h)
  simpa only [Bool.and_eq_true, decide_eq_true_eq, List.all_eq_true] using hr

/-! ### One field -/

/-- Two states agree in a register field: in its value, and in what is staged for it. -/
def AgreeAt (k : Nat) (s t : State) : Prop := t.regs.look 0 k = s.regs.look 0 k ∧ t.staged.look none k = s.staged.look none k

theorem AgreeAt.trans {k : Nat} {u : State} (h : AgreeAt k s t) (h' : AgreeAt k t u) : AgreeAt k s u :=
  ⟨h'.1.trans h.1, h'.2.trans h.2⟩

theorem AgreeAt.get {f : Fld} (h : AgreeAt f.key s t) : t.get f = s.get f := by simp only [State.get, h.1]

theorem AgreeAt.lastWritten {f : Fld} (h : AgreeAt f.key s t) : t.lastWritten f = s.lastWritten f := by
  simp only [State.lastWritten, h.2, h.get]

/-- The states differ in their registers and in what is staged alone. -/
def RegsOnly (s t : State) : Prop := t = { s with regs := t.regs, staged := t.staged }

theorem RegsOnly.trans {u : State} (h : RegsOnly s t) (h' : RegsOnly t u) : RegsOnly s u := by
  rw [RegsOnly, h', h]

/-- A write to one field touches that field alone. -/
theorem State.fieldWrite_frame (a v : Nat) (s : State) (f : FldRow) : RegsOnly s (s.fieldWrite a v f) ∧
    ∀ k, k ≠ (fldAt a f).key → AgreeAt k s (s.fieldWrite a v f) := by
  have hput : ∀ x, RegsOnly s (s.put (fldAt a f) x) ∧ ∀ k, k ≠ (fldAt a f).key → AgreeAt k s (s.put (fldAt a f) x) :=
    fun x =>
    ⟨rfl, fun k hk => ⟨by rw [State.look_put, if_neg hk], rfl⟩⟩
  have hstage : ∀ x, RegsOnly s (s.stage (fldAt a f) x) ∧ ∀ k, k ≠ (fldAt a f).key →
    AgreeAt k s (s.stage (fldAt a f) x) := fun x =>
    ⟨rfl, fun k hk => ⟨rfl, Assoc.look_upd_ne _ _ _ hk⟩⟩
  have hsame : RegsOnly s s ∧ ∀ k, k ≠ (fldAt a f).key → AgreeAt k s s := ⟨rfl, fun k _ => ⟨rfl, rfl⟩⟩
  unfold State.fieldWrite
  dsimp only
  split
  · exact hput _
  · exact hput _
  · exact hstage _
  · split
    · exact hsame
    · exact hput _
  · exact hsame
  · exact hsame

/-- A write to a field by its type (R14): RW and, with the lock open, RWL take the value, RWP has it last written, W1C clears
the bits written 1, and every other field keeps its value. -/
def FieldTakes (a v : Nat) (f : FldRow) (s t : State) : Prop :=
  (f.ty = .rw ∨ f.ty = .rwl → t.get (fldAt a f) = v / 2 ^ f.lo % 2 ^ f.w) ∧
  (f.ty = .rwp → t.lastWritten (fldAt a f) = v / 2 ^ f.lo % 2 ^ f.w) ∧
  (f.ty = .w1c → s.get (fldAt a f) < 2 ^ f.w →
    t.get (fldAt a f) = s.get (fldAt a f) ^^^ (s.get (fldAt a f) &&& (v / 2 ^ f.lo % 2 ^ f.w))) ∧
  (f.ty = .ro ∨ f.ty = .wo ∨ f.ty = .rwp → t.get (fldAt a f) = s.get (fldAt a f))

theorem State.lastWritten_stage (s : State) (f : Fld) (v : Nat) : (s.stage f v).lastWritten f = v % 2 ^ f.w := by
  simp only [State.lastWritten, State.stage, Assoc.look_upd_same, Nat.xor_assoc, Nat.xor_self, Nat.xor_zero]

/-- Clearing bits of a value that fits its width: the bits beyond the width do not count. -/
theorem clear_mod {x w : Nat} (hx : x < 2 ^ w) (y : Nat) : (x ^^^ (x &&& y)) % 2 ^ w = x ^^^ (x &&& (y % 2 ^ w)) := by
  refine Nat.eq_of_testBit_eq fun i => ?_
  simp only [Nat.testBit_mod_two_pow, Nat.testBit_xor, Nat.testBit_and]
  by_cases hi : i < w
  · simp [hi]
  · simp [hi, Nat.testBit_lt_two_pow (Nat.lt_of_lt_of_le hx (Nat.pow_le_pow_right (by decide) (Nat.le_of_not_lt hi)))]

theorem State.fieldWrite_takes (a v : Nat) (s : State) (f : FldRow) (h : s.locked = false ∨ f.ty ≠ .rwl) :
    FieldTakes a v f s (s.fieldWrite a v f) := by
  have hw : (fldAt a f).w = f.w := rfl
  unfold FieldTakes State.fieldWrite
  cases ht : f.ty with
  | rw => simp only [State.get_put_same, hw]; simp
  | w1c =>
    simp only [State.get_put_same, hw]
    simp only [reduceCtorEq, or_self, false_implies, true_and, and_true, true_implies]
    exact fun hx => clear_mod hx _
  | rwp => simp [State.lastWritten_stage, hw]; rfl
  | rwl =>
    have hl : s.locked = false := h.resolve_right fun e => e ht
    simp [hl, State.get_put_same, hw]
  | ro => simp
  | wo => simp

theorem FieldTakes.of_agree {a v : Nat} {f : FldRow} {s' t' : State} (h : FieldTakes a v f s t)
    (hs : AgreeAt (fldAt a f).key s s')
    (ht : AgreeAt (fldAt a f).key t t') : FieldTakes a v f s' t' := by
  simpa only [FieldTakes, hs.get, ht.get, ht.lastWritten] using h

/-! ### The fields of a word -/

theorem State.foldl_fieldWrite_frame (a v : Nat) (l : List FldRow) (s : State) :
    RegsOnly s (l.foldl (State.fieldWrite a v) s) ∧
    ∀ k, (∀ f ∈ l, k ≠ (fldAt a f).key) → AgreeAt k s (l.foldl (State.fieldWrite a v) s) := by
  induction l generalizing s with
  | nil => exact ⟨rfl, fun k _ => ⟨rfl, rfl⟩⟩
  | cons f l ih =>
    obtain ⟨h1, h2⟩ := State.fieldWrite_frame a v s f
    obtain ⟨i1, i2⟩ := ih (s.fieldWrite a v f)
    exact ⟨h1.trans i1, fun k hk =>
      (h2 k (hk f List.mem_cons_self)).trans (i2 k fun g hg => hk g (List.mem_cons_of_mem _ hg))⟩

/-- The key of the bit that says whether the safety lock is closed lies in no other word. -/
theorem fldAt_key_ne_lock {a : Nat} (ha : a ≠ 0x800D0008) {f : FldRow} (hf : f.lo < 32) :
    Reg.FUMLOCK_CLOSED.key ≠ (fldAt a f).key := by
  simp only [Fld.key, Reg.FUMLOCK_CLOSED, fldAt]; omega

theorem State.foldl_fieldWrite_locked {a : Nat} (ha : a ≠ 0x800D0008) (v : Nat) {l : List FldRow}
    (hl : ∀ f ∈ l, f.lo < 32) (s : State) :
    (l.foldl (State.fieldWrite a v) s).locked = s.locked := by
  have h := (State.foldl_fieldWrite_frame a v l s).2 _ fun f hf => fldAt_key_ne_lock ha (hl f hf)
  simp only [State.locked, State.bit, h.get]

/-- A write to a word acts on each of its fields by its type. -/
theorem State.foldl_fieldWrite_takes {a : Nat} (ha : a ≠ 0x800D0008) (v : Nat) {l : List FldRow}
    (hn : (l.map FldRow.lo).Nodup)
    (hl : ∀ f ∈ l, f.lo < 32) (s : State) (hk : s.locked = false ∨ ∀ f ∈ l, f.ty ≠ .rwl) :
    ∀ f ∈ l, FieldTakes a v f s (l.foldl (State.fieldWrite a v) s) := by
  intro f hf
  obtain ⟨l1, l2, rfl⟩ := List.append_of_mem hf
  simp only [List.mem_append, List.mem_cons] at hl hk
  rw [List.map_append, List.map_cons, List.nodup_append] at hn
  obtain ⟨-, hn2, hn12⟩ := hn
  have hkey : ∀ g, g.lo < 32 → g.lo ≠ f.lo → (fldAt a f).key ≠ (fldAt a g).key := fun g _ hne e => hne (by
    simp only [Fld.key, fldAt] at e; omega)
  have h1 : ∀ g ∈ l1, (fldAt a f).key ≠ (fldAt a g).key := fun g hg =>
    hkey g (hl g (.inl hg)) (hn12 _ (List.mem_map_of_mem hg) _ List.mem_cons_self)
  have h2 : ∀ g ∈ l2, (fldAt a f).key ≠ (fldAt a g).key := fun g hg =>
    hkey g (hl g (.inr (.inr hg))) fun e => (List.nodup_cons.1 hn2).1 (e ▸ List.mem_map_of_mem hg)
  rw [List.foldl_append, List.foldl_cons]
  have hb := (State.foldl_fieldWrite_frame a v l1 s).2 _ h1
  have hlock : (l1.foldl (State.fieldWrite a v) s).locked = false ∨ f.ty ≠ .rwl := by
    rw [State.foldl_fieldWrite_locked ha v (fun g hg => hl g (.inl hg))]
    exact hk.imp_right fun h => h f (.inr (.inl rfl))
  exact (State.fieldWrite_takes a v _ f hlock).of_agree ⟨hb.1.symm, hb.2.symm⟩
    ((State.foldl_fieldWrite_frame a v l2 _).2 _ h2)

/-! ### Plain words -/

/-- The words of the Caldera, Vent and Fumarole blocks without a command of their own. -/
def PlainAt (a : Nat) : Prop :=
  (blockOf a = 6 ∧ a % 65536 ≠ 0x20) ∨ (blockOf a = 9 ∧ a % 65536 ≠ 4) ∨
    (blockOf a = 13 ∧ a % 65536 ∉ [0, 8, 0xC, 0x2C, 0x40])

theorem PlainAt.ne_fumlock {a : Nat} (h : PlainAt a) : a ≠ 0x800D0008 := by
  rintro rfl
  revert h
  unfold PlainAt
  decide

theorem State.fumBlockWrite_plain {m a : Nat} (h : a % 65536 ∉ [0, 8, 0xC, 0x2C, 0x40]) (s : State) (v : Nat) :
    s.fumBlockWrite m a v = s.plainWrite a v := by
  simp only [List.mem_cons, List.not_mem_nil, or_false, not_or] at h
  obtain ⟨h0, h8, hC, h2C, h40⟩ := h
  unfold State.fumBlockWrite
  split
  · exact absurd ‹_› h0
  · exact absurd ‹_› h8
  · exact absurd ‹_› hC
  · exact absurd ‹_› h2C
  · exact absurd ‹_› h40
  · rfl

theorem State.regWrite_plain {a : Nat} (h : PlainAt a) (s : State) (m v : Nat) : s.regWrite m a v = s.plainWrite a v := by
  unfold State.regWrite
  obtain ⟨hb, ho⟩ | ⟨hb, ho⟩ | ⟨hb, ho⟩ := h
  · rw [hb]; exact if_neg ho
  · rw [hb]; exact if_neg ho
  · rw [hb]; exact State.fumBlockWrite_plain ho s v

theorem State.plainWrite_none {a : Nat} (h : rowAt a = none) (s : State) (v : Nat) : s.plainWrite a v = s := by
  simp only [State.plainWrite, h]

theorem State.plainWrite_open {a : Nat} {r : WordRow} (h : rowAt a = some r) (s : State) (v : Nat)
    (hk : s.locked = false ∨ ∀ f ∈ r.flds, f.ty ≠ .rwl) : s.plainWrite a v = r.flds.foldl (State.fieldWrite a v) s := by
  have hc : (s.locked && r.flds.any (fun f => f.ty == .rwl)) = false := by
    rw [Bool.and_eq_false_iff, List.any_eq_false]
    simpa only [beq_iff_eq] using hk
  simp only [State.plainWrite, h, hc, Bool.false_eq_true, if_false]

theorem exec_registerWrite_plain (m : Fin 8) (a : BitVec 40) (v : BitVec 32) (r : WordRow) (s : State) (ha : PlainAt a.toNat)
    (hr : rowAt a.toNat = some r) (hk : s.locked = false ∨ ∀ f ∈ r.flds, f.ty ≠ .rwl) :
    ∃ t, exec (.registerWrite m a v) s = .next t ∧ (∀ f ∈ r.flds, FieldTakes a.toNat v.toNat f s t) ∧
      t = { s with free := s.free + 1, regs := t.regs, staged := t.staged } ∧
      ∀ k, (∀ f ∈ r.flds, k ≠ (fldAt a.toNat f).key) → AgreeAt k s t := by
  obtain ⟨hn, hl⟩ := rowAt_fields hr
  obtain ⟨h1, h2⟩ := State.foldl_fieldWrite_frame a.toNat v.toNat r.flds s
  refine ⟨_, congrArg done ((State.regWrite_plain ha s m v.toNat).trans (State.plainWrite_open hr s v.toNat hk)),
    fun f hf => ?_, ?_, h2⟩
  · exact State.foldl_fieldWrite_takes ha.ne_fumlock v.toNat hn hl s hk f hf
  · exact congrArg (fun t : State => { t with free := t.free + 1 }) h1

/-! ### A write that the safety lock refuses -/

theorem recFlds_stat :
    [Reg.FUMRECSTAT_COUNT, Reg.FUMRECSTAT_NEXT, Reg.FUMRECSTAT_WRAPPED, Reg.FUMRECSTAT_UNACK, Reg.FUMSTAT_FAULTN] ⊆
    recFlds := List.subset_append_left _ _

theorem recFlds_entry {i : Nat} (hi : i < 64) :
    [Reg.FUMREC_WORD0 i, Reg.FUMREC_WORD1 i, Reg.FUMREC_WORD2 i, Reg.FUMREC_WORD3 i] ⊆ recFlds := fun _ hf =>
  List.mem_append_right _ (List.mem_flatMap.2 ⟨i, List.mem_range.2 hi, hf⟩)

/-- An entry touches Fumarole's sequence number and its record (R439). -/
theorem State.fumEntry_only (s : State) (n cls detail : Nat) : Only [.fum] [] recFlds s (s.fumEntry n cls detail) := by
  unfold State.fumEntry
  extract_lets first i s1 s2 s3
  have hi : i < 64 := by
    unfold i; split
    · decide
    · exact Nat.mod_lt _ (by decide)
  have he := recFlds_entry hi
  have h1 : Only [] [] recFlds s s1 :=
    ((((Only.start s).putIn (he (by simp)) _).putIn (he (by simp)) _).putIn (he (by simp)) _).putIn
    (he (by simp)) _
  have h2 : Only [] [] recFlds s s2 := h1.bumpIn (recFlds_stat (by simp))
  have h3 : Only [] [] recFlds s s3 := .ite (fun _ => h2) fun _ => .ite
    (fun _ => (h2.putIn (recFlds_stat (by simp)) _).putBitIn (recFlds_stat (by simp)) _) fun _ =>
      h2.putIn (recFlds_stat (by simp)) _
  exact (h3.trans (s3.fum_only _)).mono (by simp) (by simp) (by simp)

theorem State.fumRecord_only (s : State) (n cls detail : Nat) : Only [.fum] [] recFlds s (s.fumRecord n cls detail) := by
  unfold State.fumRecord
  extract_lets s1
  have h1 : Only [.fum] [] recFlds s s1 := .ite (fun _ => State.fumEntry_only ..) fun _ => .start s
  exact (Only.ite (fun _ => h1.putBitIn (recFlds_stat (by simp)) _) fun _ => h1).putBitIn (recFlds_stat (by simp)) _

theorem State.fumEventOnce_only (s : State) (n detail : Nat) : Only [.fum] [n] recFlds s (s.fumEventOnce n detail) := by
  unfold State.fumEventOnce
  refine .ite (fun _ => .start s) fun _ => ?_
  exact ((s.raiseOnce_only n 0).trans (State.fumRecord_only _ n (fumClass n) detail)).mono (by simp) (by simp) (by simp)

/-- An event of Fumarole's that is not yet raised in its period stands after it (R439). -/
theorem State.fumEventOnce_evtStat {n : Nat} (hn : n < 256) (hr : s.evt.inReset = false)
    (ho : s.evt.once.contains n = false) (detail : Nat)
    (hk : (Reg.EVTSTAT_STAT (n / 32)).key ∉ recFlds.map Fld.key) : (s.fumEventOnce n detail).evtStat n = true := by
  have hraise : (s.raiseOnce n).evtStat n = true := by
    have ho' : ¬(s.evt.once.contains (n + 256 * 0) = true) := by rw [Nat.mul_zero, Nat.add_zero, ho]; decide
    rw [State.raiseOnce, if_neg ho']
    exact (State.evtStat_raise (by exact hr) n n).trans (by simp)
  rw [State.fumEventOnce, if_neg (by rw [ho]; decide), (State.fumRecord_only _ n _ detail).2.2 n hn (by simp) hk, hraise]

/-- The fields in which a refused write is reported (R438). -/
def lockWrFlds : List Fld := [Reg.FUMSTAT_LOCK_WR, Reg.FUMLWADDR_LO_ADDR, Reg.FUMLWADDR_HI_ADDR_HI]

theorem State.fumLockWrite_only (s : State) (a : Nat) : Only [.fum] [206] (lockWrFlds ++ recFlds) s (s.fumLockWrite a) := by
  have h1 : Only [] [] lockWrFlds s (((s.put Reg.FUMLWADDR_LO_ADDR a).put Reg.FUMLWADDR_HI_ADDR_HI (a / 2 ^ 32)).putBit
      Reg.FUMSTAT_LOCK_WR true) :=
    (((Only.start s).putIn (by simp [lockWrFlds]) _).putIn (by simp [lockWrFlds]) _).putBitIn (by simp [lockWrFlds]) _
  exact h1.trans (State.fumEventOnce_only _ 206 0)

theorem recFlds_keys : (∀ f ∈ lockWrFlds, f.key ∉ recFlds.map Fld.key) ∧
    (Reg.EVTSTAT_STAT (206 / 32)).key ∉ recFlds.map Fld.key ∧
    ∀ f ∈ [Reg.FUMSTAT_CAUSE, Reg.FUMSTAT_FALLBACK, Reg.FUMCFG_PRI_PASS], f.key ∉ (lockWrFlds ++ recFlds).map Fld.key := by
  decide +kernel

/-- A refused write below 4 GiB is reported with its address and E206 (R438). -/
theorem State.fumLockWrite_reports {a : Nat} (ha : a < 2 ^ 32) (hr : s.evt.inReset = false)
    (ho : s.evt.once.contains 206 = false) :
    (s.fumLockWrite a).bit Reg.FUMSTAT_LOCK_WR = true ∧ (s.fumLockWrite a).get Reg.FUMLWADDR_LO_ADDR = a ∧
      (s.fumLockWrite a).get Reg.FUMLWADDR_HI_ADDR_HI = 0 ∧ (s.fumLockWrite a).evtStat 206 = true := by
  let s1 : State :=
    ((s.put Reg.FUMLWADDR_LO_ADDR a).put Reg.FUMLWADDR_HI_ADDR_HI (a / 2 ^ 32)).putBit Reg.FUMSTAT_LOCK_WR true
  have h := State.fumEventOnce_only s1 206 0
  obtain ⟨hk, hev, -⟩ := recFlds_keys
  have hes : ∀ f ∈ lockWrFlds, f.key ∉ [206].map (fun n => (Reg.EVTSTAT_STAT (n / 32)).key) := by decide
  have hget : ∀ f ∈ lockWrFlds, (s.fumLockWrite a).get f = s1.get f := fun f hf => h.get (hk f hf) (hes f hf)
  refine ⟨?_, ?_, ?_, State.fumEventOnce_evtStat (s := s1) (by decide) hr ho 0 hev⟩
  · rw [State.bit, hget _ (by simp [lockWrFlds])]
    exact State.bit_putBit_same _ true (by decide)
  · rw [hget _ (by simp [lockWrFlds])]
    show ((((s.put Reg.FUMLWADDR_LO_ADDR a).put Reg.FUMLWADDR_HI_ADDR_HI (a / 2 ^ 32)).putBit
       Reg.FUMSTAT_LOCK_WR true).get _) = a
    rw [State.get_putBit_ne _ _ (by decide), State.get_put_ne _ _ (by decide), State.get_put_same]
    exact Nat.mod_eq_of_lt ha
  · rw [hget _ (by simp [lockWrFlds])]
    show ((((s.put Reg.FUMLWADDR_LO_ADDR a).put Reg.FUMLWADDR_HI_ADDR_HI (a / 2 ^ 32)).putBit
       Reg.FUMSTAT_LOCK_WR true).get _) = 0
    rw [State.get_putBit_ne _ _ (by decide), State.get_put_same, Nat.div_eq_of_lt ha, Nat.zero_mod]

theorem State.fumWantsFallback_of_get (hc : t.get Reg.FUMSTAT_CAUSE = s.get Reg.FUMSTAT_CAUSE)
    (hp : t.get Reg.FUMCFG_PRI_PASS = s.get Reg.FUMCFG_PRI_PASS) : t.fumWantsFallback = s.fumWantsFallback := by
  simp only [State.fumWantsFallback, State.fumHas, State.bit, hc, hp]

/-- Where the fallback is as the causes want it, it stays (R426). -/
theorem State.fumFallback_of_eq (h : s.fumWantsFallback = s.bit Reg.FUMSTAT_FALLBACK) : s.fumFallback = s := by
  unfold State.fumFallback
  rw [h]
  cases s.bit Reg.FUMSTAT_FALLBACK <;> rfl

theorem State.fumLockWrite_fallback (h : s.fumWantsFallback = s.bit Reg.FUMSTAT_FALLBACK) (a : Nat) :
    (s.fumLockWrite a).fumFallback = s.fumLockWrite a := by
  obtain ⟨-, -, hk⟩ := recFlds_keys
  have hes : ∀ f ∈ [Reg.FUMSTAT_CAUSE, Reg.FUMSTAT_FALLBACK, Reg.FUMCFG_PRI_PASS],
      f.key ∉ [206].map (fun n => (Reg.EVTSTAT_STAT (n / 32)).key) := by decide
  have hget : ∀ f ∈ [Reg.FUMSTAT_CAUSE, Reg.FUMSTAT_FALLBACK, Reg.FUMCFG_PRI_PASS], (s.fumLockWrite a).get f = s.get f :=
    fun f hf =>
    (s.fumLockWrite_only a).get (hk f hf) (hes f hf)
  refine State.fumFallback_of_eq ?_
  rw [State.fumWantsFallback_of_get (hget _ (by simp)) (hget _ (by simp)), h, State.bit, State.bit, hget _ (by simp)]

/-- With the lock closed RWL fields keep their values. -/
theorem State.foldl_fieldWrite_refused (h : s.locked = true) (a v : Nat) {l : List FldRow} (hl : ∀ f ∈ l, f.ty = .rwl) :
    l.foldl (State.fieldWrite a v) s = s := by
  induction l with
  | nil => rfl
  | cons f l ih =>
    have hf : s.fieldWrite a v f = s := by simp only [State.fieldWrite, hl f List.mem_cons_self, h, if_true]
    rw [List.foldl_cons, hf, ih fun g hg => hl g (List.mem_cons_of_mem _ hg)]

/-- A write to a word of RWL fields alone with the lock closed is reported, and does nothing else (R438). -/
theorem State.plainWrite_refused {a : Nat} {r : WordRow} (hr : rowAt a = some r) (hl : ∀ f ∈ r.flds, f.ty = .rwl)
    (hn : r.flds ≠ [])
    (h : s.locked = true) (v : Nat) : s.plainWrite a v = s.fumLockWrite a := by
  have hany : r.flds.any (fun f => f.ty == .rwl) = true := by
    obtain ⟨f, l, hf⟩ := List.exists_cons_of_ne_nil hn
    exact List.any_eq_true.2 ⟨f, by simp [hf], beq_iff_eq.2 (hl f (by simp [hf]))⟩
  simp only [State.plainWrite, hr, State.foldl_fieldWrite_refused h a v hl, h, hany, Bool.and_self, if_true]

/-- VNTCFG, FUMCFG and FUMCFG2 hold RWL fields alone. -/
theorem guarded_rows : ∀ a ∈ [0x80090000, 0x800D0004, 0x800D0000], ∃ r, rowAt a = some r ∧ (∀ f ∈ r.flds, f.ty = .rwl) ∧
    r.flds ≠ [] := by
  have h : ∀ a ∈ [0x80090000, 0x800D0004, 0x800D0000],
      (match rowAt a with
        | some r => r.flds.all (fun f => f.ty == .rwl) && !r.flds.isEmpty
        | none => false) = true := by decide +kernel
  intro a ha
  have := h a ha
  cases hr : rowAt a with
  | none => rw [hr] at this; cases this
  | some r =>
    rw [hr] at this
    simp only [Bool.and_eq_true, List.all_eq_true, beq_iff_eq, Bool.not_eq_true', List.isEmpty_eq_false_iff] at this
    exact ⟨r, rfl, this.1, this.2⟩

theorem State.plainWrite_guarded (h : s.locked = true) {a : Nat} (ha : a ∈ [0x80090000, 0x800D0004, 0x800D0000]) (v : Nat) :
    s.plainWrite a v = s.fumLockWrite a := by
  obtain ⟨r, hr, hl, hn⟩ := guarded_rows a ha
  exact State.plainWrite_refused hr hl hn h v

theorem State.regWrite_guarded (h : s.locked = true) {a : BitVec 40}
    (ha : a = 0x80090000 ∨ a = 0x800D0004 ∨ (a = 0x800D0000 ∧ s.fumWantsFallback = s.bit Reg.FUMSTAT_FALLBACK)) (m v : Nat) :
    s.regWrite m a.toNat v = s.fumLockWrite a.toNat := by
  obtain rfl | rfl | ⟨rfl, hf⟩ := ha
  · exact (State.regWrite_plain (by unfold PlainAt; decide) s m v).trans (State.plainWrite_guarded h (by simp) v)
  · exact (State.regWrite_plain (by unfold PlainAt; decide) s m v).trans (State.plainWrite_guarded h (by simp) v)
  · have hw : s.regWrite m 0x800D0000 v = (s.plainWrite 0x800D0000 v).fumFallback := rfl
    exact hw.trans (by rw [State.plainWrite_guarded h (by simp), State.fumLockWrite_fallback hf]; rfl)

theorem exec_registerWrite_refused (m : Fin 8) (a : BitVec 40) (v : BitVec 32) (s : State) (h : s.locked = true)
    (hr : s.evt.inReset = false) (ho : s.evt.once.contains 206 = false)
    (ha : a = 0x80090000 ∨ a = 0x800D0004 ∨ (a = 0x800D0000 ∧ s.fumWantsFallback = s.bit Reg.FUMSTAT_FALLBACK)) :
    ∃ t, exec (.registerWrite m a v) s = .next t ∧ t.bit Reg.FUMSTAT_LOCK_WR = true ∧
      t.get Reg.FUMLWADDR_LO_ADDR = a.toNat ∧ t.get Reg.FUMLWADDR_HI_ADDR_HI = 0 ∧ t.evtStat 206 = true ∧
      Only [.fum] [206] (lockWrFlds ++ recFlds) s t := by
  have hlt : a.toNat < 2 ^ 32 := by obtain rfl | rfl | ⟨rfl, -⟩ := ha <;> decide
  obtain ⟨h1, h2, h3, h4⟩ := State.fumLockWrite_reports hlt hr ho
  exact ⟨_, congrArg done (State.regWrite_guarded h ha m v.toNat), h1, h2, h3, h4,
    (State.fumLockWrite_only s a.toNat).free _⟩

/-! ### Writes that are commands of their own -/

/-- A raise of a software event looks at the low 16 bits of what is written (R568). -/
theorem State.evtswset_low (s : State) (v : BitVec 32) : s.evtswset v.toNat = s.evtswset (v.extractLsb' 0 16).toNat := by
  refine List.foldl_rel (r := Eq) rfl fun n hn t _ ht => ht ▸ ?_
  have hn := List.mem_range.1 hn
  rw [BitVec.testBit_toNat, BitVec.testBit_toNat, BitVec.getLsbD_extractLsb']
  simp [hn]

/-- A field takes the low bits of what is put. -/
theorem State.put_of_mod {f : Fld} {x y : Nat} (h : x % 2 ^ f.w = y % 2 ^ f.w) (s : State) : s.put f x = s.put f y := by
  simp only [State.put, h]

theorem State.gpiooutWrite_low (s : State) (v : BitVec 32) :
    s.gpiooutWrite v.toNat = s.gpiooutWrite (v.extractLsb' 0 16).toNat := by
  refine State.put_of_mod ?_ s
  rw [BitVec.extractLsb'_toNat, Nat.shiftRight_zero]
  exact (Nat.mod_mod_of_dvd _ (by decide)).symm

theorem State.regWrite_pwrctl (s : State) (m : Nat) {v : BitVec 32} (h : v.getLsbD 31 = true)
    (hv : v.extractLsb' 0 2 = 2#2) :
    s.regWrite m 0x80020000 v.toNat = s.pwrctlGo pwrHold := by
  have h2 : v.toNat % 4 = 2 := by
    have := congrArg BitVec.toNat hv
    rwa [BitVec.extractLsb'_toNat, Nat.shiftRight_zero] at this
  have hw : s.regWrite m 0x80020000 v.toNat =
    if v.toNat.testBit 31 then s.pwrctlGo (v.toNat % 4) else s.plainWrite 0x80020000 v.toNat := rfl
  rw [hw, BitVec.testBit_toNat, h, if_pos rfl, h2]; rfl

/-- The address of word `w` of a register array of the event controller. -/
theorem evtWord_toNat (b : Nat) (hb : b < 2 ^ 32) (w : Fin 8) :
    (BitVec.ofNat 40 b + 4 * BitVec.ofNat 40 w).toNat = b + 4 * w.val := by
  have := w.isLt
  simp only [BitVec.toNat_add, BitVec.toNat_mul, BitVec.toNat_ofNat, show (4 : BitVec 40).toNat = 4 from rfl]
  omega

theorem State.evtBlockWrite_stat (s : State) (w : Fin 8) (v : Nat) :
    s.evtBlockWrite (0x80040000 + 4 * w.val) v = s.evtstatClear w v := by
  have := w.isLt
  have ho : (0x80040000 + 4 * w.val) % 65536 = 4 * w.val := by omega
  simp only [State.evtBlockWrite, ho]
  rw [if_pos (by omega), Nat.mul_div_cancel_left _ (by decide)]

theorem State.evtBlockWrite_en (s : State) (w : Fin 8) (v : Nat) :
    s.evtBlockWrite (0x80040020 + 4 * w.val) v = s.evtenWrite w v := by
  have := w.isLt
  have ho : (0x80040020 + 4 * w.val) % 65536 = 0x20 + 4 * w.val := by omega
  simp only [State.evtBlockWrite, ho]
  rw [if_neg (by omega), if_pos (by omega), Nat.add_sub_cancel_left, Nat.mul_div_cancel_left _ (by decide)]

theorem blockOf_evt {a : Nat} (h : 0x80040000 ≤ a) (h' : a < 0x80050000) : blockOf a = 4 := by
  unfold blockOf
  rw [if_neg (by omega), if_pos (by omega)]
  omega

theorem State.regWrite_evt (s : State) (m v : Nat) {a : Nat} (h : 0x80040000 ≤ a) (h' : a < 0x80050000) :
    s.regWrite m a v = s.evtBlockWrite a v := by
  unfold State.regWrite
  rw [blockOf_evt h h']; rfl

/-- Settles O60: the words of plain fields by `exec_registerWrite_plain`, the refused ones
by `exec_registerWrite_refused`, and those that are commands each by the branch of its block. -/
theorem registerWrites : Obligations.RegisterWrites := by
  unfold Obligations.RegisterWrites
  refine ⟨fun m a v r s ha hr hk => exec_registerWrite_plain m a v r s ha hr hk, fun m a v s ha hr => ?_,
    fun m a v s h hr ho ha => exec_registerWrite_refused m a v s h hr ho ha,
    fun m v s => ⟨rfl, rfl, rfl, ?_, ?_, fun h hv => ?_, fun w => ⟨?_, ?_⟩⟩⟩
  · exact congrArg done ((State.regWrite_plain ha s m v.toNat).trans (State.plainWrite_none hr s v.toNat))
  · exact congrArg done ((State.regWrite_evt s m _ (by decide) (by decide)).trans (State.evtswset_low s v))
  · exact congrArg done (State.gpiooutWrite_low s v)
  · exact congrArg done (State.regWrite_pwrctl s m h hv)
  · have := w.isLt
    refine congrArg done ?_
    rw [show (0x80040000 + 4 * BitVec.ofNat 40 w : BitVec 40).toNat = _ from evtWord_toNat 0x80040000 (by decide) w,
      State.regWrite_evt s m _ (by omega) (by omega), State.evtBlockWrite_stat]
  · have := w.isLt
    refine congrArg done ?_
    rw [show (0x80040020 + 4 * BitVec.ofNat 40 w : BitVec 40).toNat = _ from evtWord_toNat 0x80040020 (by decide) w,
      State.regWrite_evt s m _ (by omega) (by omega), State.evtBlockWrite_en]

end Sys2Proof.Machine

/-! SUPPORT. Immediates, control-register moves and conversions: what a computing instruction leaves, the equation of each
result, and the bounds of the conversions. -/

namespace Sys2Proof.Machine

open Sys2Proof

variable {s : State} {u : Exe} {c : Core}

/-! ### How a computing instruction ends -/

@[simp] theorem State.free_setCore (s : State) (u : Exe) (c : Core) : (s.setCore u c).free = s.free := by
  unfold State.setCore
  split
  · rfl
  · split <;> rfl

/-- A live bundle's instruction that reports nothing leaves its core and the counter of free values changed. -/
theorem State.done_compute_ok {f : Core → Sinter → Core × Note} (h : (s.core u).live = true)
    (hf : f (s.core u) (s.poison 0) = (c, .ok)) :
    done (s.compute u f) = .next { s.setCore u c with free := s.free + 1 } := by
  rw [State.compute, if_pos h, hf]
  exact congrArg (fun n => Host.Outcome.next { s.setCore u c with free := n + 1 }) (s.free_setCore u c)

theorem State.done_compute_after {f : Core → Sinter → Core × Note} {st : BitVec 32} {fs : List InFlight}
    (h : (s.core u).live = true)
    (hf : f (s.core u) (s.poison 0) = ({ s.core u with st := st, fly := (s.core u).fly ++ fs }, .ok)) :
    done (s.compute u f) = .next (s.after u st fs) := State.done_compute_ok h hf

theorem State.done_compute_trap {f : Core → Sinter → Core × Note} {k : Nat} (h : (s.core u).live = true)
    (hf : f (s.core u) (s.poison 0) = (c, .trap k)) :
    done (s.compute u f) = .next { s.trap u k with free := (s.trap u k).free + 1 } := by
  rw [State.compute, if_pos h, hf]; rfl

/-! ### A word delivered to Gd -/

theorem toNat_residueInt (x : Int) : (residueInt x).toNat = (x % 127).toNat := by
  rw [residueInt, BitVec.toNat_ofNat, Nat.mod_eq_of_lt (by omega)]

/-- A generated residue is at most 126, never the 127 of a poison word (R7, R8). -/
@[simp] theorem Sinter.isPoison_ofData (x : BitVec 32) : (Sinter.ofData x).isPoison = false := by
  have hr : residueOf x ≠ 0x7F := fun h => by
    have := congrArg BitVec.toNat h
    rw [residueOf, toNat_residueInt, show (0x7F : BitVec 7).toNat = 127 from rfl] at this
    omega
  rw [Sinter.isPoison, show (Sinter.ofData x).res = residueOf x from rfl, beq_eq_false_iff_ne.2 hr, Bool.false_and]

theorem Core.sendG_word (c : Core) (lat gd : Nat) {x : Sinter} (h : x.isPoison = false) :
    c.sendG lat gd x = { c with fly := c.fly ++ c.resultG lat gd x } := by
  have hn : c.notePoison x = c := if_neg (by rw [h]; decide)
  unfold Core.sendG Core.resultG
  split
  · rw [hn, List.append_nil]
  · rw [hn]; rfl

/-- A unit built twice whose copies agree delivers its word and sets no flag (R114). -/
theorem Core.dupResult_agree (c : Core) (gd lat : Nat) (x : BitVec 32) (pz : Sinter) :
    c.dupResult gd lat x none false pz = ({ c with fly := c.fly ++ c.resultG lat gd (Sinter.ofData x) }, .ok) :=
  congrArg (·, Note.ok) (c.sendG_word lat gd (Sinter.isPoison_ofData x))

theorem State.done_compute_word {f : Core → Sinter → Core × Note} {gd lat : Nat} {x : BitVec 32}
    (h : (s.core u).live = true)
    (hf : f (s.core u) (s.poison 0) = (s.core u).dupResult gd lat x none false (s.poison 0)) :
    done (s.compute u f) = .next (s.after u (s.core u).st ((s.core u).resultG lat gd (Sinter.ofData x))) :=
  State.done_compute_after h (hf.trans (Core.dupResult_agree ..))

/-! ### Immediates and control-register moves -/

/-- The immediate of `lui`, shifted up by 20, is the immediate followed by 20 zeros (R160). -/
theorem lui_bits (imm : BitVec 12) : imm.setWidth 32 <<< 20 = imm ++ 0#20 := by
  apply BitVec.eq_of_getLsbD_eq
  intro i hi
  simp only [BitVec.getLsbD_shiftLeft, BitVec.getLsbD_setWidth, BitVec.getLsbD_append, BitVec.getLsbD_zero]
  by_cases h : i < 20
  · simp [h]
  · simp [h, hi, show i - 20 < 32 by omega]

theorem Core.mtc_unassigned (c : Core) {k : BitVec 6} (hk : 0x24 ≤ k.toNat) (gs : Nat) : c.mtc k gs = (c, .trap 2) := by
  have hw : cregWritable k = false := decide_eq_false (by omega)
  rw [Core.mtc, if_pos (by rw [hw]; decide)]

theorem Core.mtc_bad (c : Core) {k : BitVec 6} (hk : k.toNat < 0x24) {gs : Nat} (h : (c.rdG gs).ok = false) :
    c.mtc k gs = (c, .trap 6) := by
  have hw : cregWritable k = true := decide_eq_true (by omega)
  rw [Core.mtc, if_neg (by rw [hw]; decide), if_pos (by rw [h]; decide)]

/-- A write of ST keeps the bits of ST that are not RW (R144). -/
theorem Core.mtc_st (c : Core) {gs : Nat} (h : (c.rdG gs).ok = true) :
    c.mtc 0x23 gs = ({ c with st := (c.st &&& 0xFFFEF0E0) ||| ((c.rdG gs).data &&& 0x00010F1F) }, .ok) := by
  have hm : ~~~stWritable = 0xFFFEF0E0 := by decide
  rw [Core.mtc, if_neg (by decide), if_neg (by rw [h]; decide), if_pos (by decide), hm]; rfl

theorem Core.mtc_register (c : Core) {k : BitVec 6} (hk : k.toNat < 0x23) {gs : Nat} (h : (c.rdG gs).ok = true) :
    c.mtc k gs = (c.send (if 16 ≤ k.toNat ∧ k.toNat < 32 then 2 else 1) (.c k.toNat)
      (.h ((c.rdG gs).data.extractLsb' 0 16)), .ok) := by
  have hw : cregWritable k = true := decide_eq_true (by omega)
  have hx : (c.rdG gs).data.setWidth 16 = (c.rdG gs).data.extractLsb' 0 16 := BitVec.setWidth_eq_extractLsb' (by decide)
  rw [Core.mtc, if_neg (by rw [hw]; decide), if_neg (by rw [h]; decide), if_neg (by omega), hx]

theorem Core.mfc_unassigned (c : Core) {k : BitVec 6} (hk : 0x24 < k.toNat) (gd : Nat) (prd : BitVec 32) (dup : Bool)
    (pz : Sinter) : c.mfc gd k prd dup pz = (c, .trap 2) := by
  have hr : cregReadable k = false := decide_eq_false (by omega)
  rw [Core.mfc, if_pos (by rw [hr]; decide)]

theorem Core.mfc_assigned (c : Core) {k : BitVec 6} (hk : k.toNat ≤ 0x24) (gd : Nat) (prd : BitVec 32) (dup : Bool)
    (pz : Sinter) : c.mfc gd k prd dup pz = c.dupResult gd 1 (c.mfcValue k prd) none dup pz := by
  have hr : cregReadable k = true := decide_eq_true hk
  rw [Core.mfc, if_neg (by rw [hr]; decide)]

theorem Core.mfcValue_register (c : Core) {k : BitVec 6} (hk : k.toNat < 0x23) (prd : BitVec 32) :
    c.mfcValue k prd =
      if 8 ≤ k.toNat ∧ k.toNat < 16 then (c.rdC k.toNat).signExtend 32 else (c.rdC k.toNat).zeroExtend 32 := by
  rw [Core.mfcValue, if_neg (by omega), if_neg (by omega)]

/-- A live `mfc` of an assigned register delivers what that register reads as. -/
theorem exec_mfc_assigned (h : (s.core u).live = true) (gd : Fin 32) {k : BitVec 6} (hk : k.toNat ≤ 0x24) {x : BitVec 32}
    (hx : (s.core u).mfcValue k (s.prd u) = x) :
    exec (.mfc u gd k false) s =
      .next (s.after u (s.core u).st ((s.core u).resultG 1 gd (Sinter.ofData x))) :=
  State.done_compute_word h (by rw [Core.mfc_assigned _ hk, hx])

/-! ### Linear value to gain code -/

theorem lin2gDepth_full : lin2gDepth (2 ^ 31) = 0 := if_pos rfl

theorem lin2gCode_full : lin2gCode (2 ^ 31) = min 0 (Config.lin2gErr (2 ^ 31) % 5 - 2) := by
  rw [lin2gCode, if_neg (by decide), if_pos rfl]

theorem lin2gCode_partial {n : Nat} (h0 : n ≠ 0) (h1 : n ≠ 2 ^ 31) :
    lin2gCode n = max codeMin (min 0 (-(lin2gDepth n : Int) + (Config.lin2gErr n % 4 - 1))) := by
  rw [lin2gCode, if_neg h0, if_neg h1]

/-- The code of a magnitude other than 0 lies within 2 units of the exact one, which is the depth negated, and in the valid
range up to 0 (R10, R156). -/
theorem lin2gCode_bounds {n : Nat} (h0 : n ≠ 0) :
    codeMin ≤ lin2gCode n ∧ lin2gCode n ≤ 0 ∧ -(lin2gDepth n : Int) - 2 ≤ lin2gCode n ∧
      lin2gCode n ≤ max codeMin (2 - (lin2gDepth n : Int)) := by
  have hm : codeMin = -589824 := rfl
  by_cases h1 : n = 2 ^ 31
  · rw [h1, lin2gDepth_full, lin2gCode_full]
    omega
  · rw [lin2gCode_partial h0 h1]
    omega

/-! ### Gain code to linear value -/

theorem g2linGain_muted : g2linGain codeMuted = 0 := if_pos rfl

/-- The gain of a code differs from the exact one by at most 2^-24 of it, or by half a unit of its last bit (R157). -/
theorem g2linGain_near {g : Int} (h : g ≠ codeMuted) :
    ((g2linGain g * 2 ^ 24 - (gainScaled (limitCode g) : Int)).natAbs : Int) ≤
      max (2 ^ 23) ((gainScaled (limitCode g) : Int) / 2 ^ 24) := by
  simp only [g2linGain, if_neg h]
  generalize (gainScaled (limitCode g) : Int) = f
  split <;> omega

/-! ### Redundant sign bits -/

/-- `x` is a signed value of `k` bits and a sign. -/
def FitsIn (k : Nat) (x : Int) : Prop := -(2 ^ k) ≤ x ∧ x < 2 ^ k

/-- What `x` holds beside its sign: `x`, or its complement where it is negative. -/
def signMagnitude (x : Int) : Nat := if 0 ≤ x then x.toNat else (-x - 1).toNat

theorem redundantSigns_eq (k : Nat) (x : Int) :
    redundantSigns (k + 1) x = if signMagnitude x = 0 then k else k - 1 - Nat.log2 (signMagnitude x) := rfl

theorem fitsIn_iff_signMagnitude (k : Nat) (x : Int) : FitsIn k x ↔ signMagnitude x < 2 ^ k := by
  have hc : ((2 ^ k : Nat) : Int) = 2 ^ k := by push_cast; rfl
  unfold FitsIn signMagnitude
  rw [← hc]
  generalize 2 ^ k = m
  split <;> omega

/-- A shift to the left by `n` takes `n` of the `k` bits. -/
theorem fitsIn_shift {k n : Nat} (hn : n ≤ k) (x : Int) : FitsIn k (x * 2 ^ n) ↔ FitsIn (k - n) x := by
  have hp : (0 : Int) < 2 ^ n := Int.pow_pos (by decide)
  have hk : (2 : Int) ^ k = 2 ^ (k - n) * 2 ^ n := by rw [← Int.pow_add, Nat.sub_add_cancel hn]
  rw [FitsIn, FitsIn, hk, ← Int.neg_mul, Int.mul_le_mul_right hp, Int.mul_lt_mul_right hp]

theorem fitsIn_toInt {k : Nat} (x : BitVec (k + 1)) : FitsIn k x.toInt :=
  ⟨BitVec.le_toInt x, BitVec.toInt_lt⟩

/-- The count of redundant sign bits of a value of `k` bits and a sign is the largest shift that keeps it (R111). -/
theorem redundantSigns_spec {k : Nat} {x : Int} (h : FitsIn k x) :
    redundantSigns (k + 1) x ≤ k ∧ FitsIn k (x * 2 ^ redundantSigns (k + 1) x) ∧
      (redundantSigns (k + 1) x < k → ¬FitsIn k (x * 2 ^ (redundantSigns (k + 1) x + 1))) := by
  rw [fitsIn_iff_signMagnitude] at h
  rw [redundantSigns_eq]
  by_cases h0 : signMagnitude x = 0
  · rw [if_pos h0]
    refine ⟨Nat.le_refl k, ?_, fun hlt => absurd hlt (Nat.lt_irrefl k)⟩
    rw [fitsIn_shift (Nat.le_refl k), fitsIn_iff_signMagnitude, h0]
    exact Nat.two_pow_pos _
  · rw [if_neg h0]
    have hlog : Nat.log2 (signMagnitude x) < k := (Nat.log2_lt h0).2 h
    refine ⟨by omega, ?_, fun _ => ?_⟩
    · rw [fitsIn_shift (by omega), fitsIn_iff_signMagnitude, ← Nat.log2_lt h0]
      omega
    · rw [fitsIn_shift (by omega), fitsIn_iff_signMagnitude, ← Nat.log2_lt h0]
      omega

theorem fitsIn_31 (x : Int) : FitsIn 31 x ↔ min32 ≤ x ∧ x ≤ max32 := by
  unfold FitsIn min32 max32; omega

theorem fitsIn_71 (x : Int) : FitsIn 71 x ↔ min72 ≤ x ∧ x ≤ max72 := by
  unfold FitsIn min72 max72; omega

/-! ### The conversions as instructions -/

theorem exec_lin2g (h : (s.core u).live = true) (gd : Fin 32) {ga : Fin 32} (ha : ((s.core u).rdG ga).isPoison = false) :
    exec (.lin2g u gd ga false) s = .next (s.after u (s.core u).st ((s.core u).resultG 2 gd
      (Sinter.ofData (BitVec.ofInt 32 (lin2gCode ((s.core u).rdG ga).data.toInt.natAbs))))) :=
  State.done_compute_word h (if_neg (by rw [ha]; decide))

theorem exec_g2lin (h : (s.core u).live = true) (gd : Fin 32) {ga : Fin 32} (ha : ((s.core u).rdG ga).isPoison = false) :
    exec (.g2lin u gd ga false) s = .next (s.after u (s.core u).st ((s.core u).resultG 2 gd
      (Sinter.ofData (BitVec.ofInt 32 (g2linGain (codeOf ((s.core u).rdG ga).data)))))) :=
  State.done_compute_word h (if_neg (by rw [ha]; decide))

theorem exec_bexp_word (h : (s.core u).live = true) (gd : Fin 32) {ga : Fin 32}
    (ha : ((s.core u).rdG ga).isPoison = false) :
    exec (.bexp u gd (.g ga) false) s = .next (s.after u (s.core u).st ((s.core u).resultG 1 gd
      (Sinter.ofData (BitVec.ofNat 32 (redundantSigns 32 ((s.core u).rdG ga).data.toInt))))) :=
  State.done_compute_word h (if_neg (by rw [ha]; decide))

theorem exec_bexp_accumulator (h : (s.core u).live = true) (gd : Fin 32) {an : Fin 8}
    (ha : ((s.core u).rdA an).psn = false) :
    exec (.bexp u gd (.a an) false) s = .next (s.after u (s.core u).st ((s.core u).resultG 1 gd
      (Sinter.ofData (BitVec.ofNat 32 (redundantSigns 72 ((s.core u).rdA an).val.toInt))))) :=
  State.done_compute_word h (if_neg (by rw [ha]; decide))

/-- Settles O14: the moves by the equations of `Core.mtc` and `Core.mfc`, the conversions by `lin2gCode_bounds`,
`g2linGain_near` and `redundantSigns_spec`. -/
theorem movesAndConversions : Obligations.MovesAndConversions := by
  unfold Obligations.MovesAndConversions
  refine ⟨fun u gd gs s h => ⟨?nop, fun imm => ⟨?li, ?lui⟩, fun k hk hok => ?mtc, fun hok => ?mtcSt, fun k hk => ?mfc, ?mfcSt,
    ?mfcPrd, fun hbad k hk => ?mtcBad, fun k hk => ?mfcUnassigned, fun k hk => ?mtcUnassigned⟩,
    fun u gd ga an s h => ⟨fun ha => ⟨⟨_, ?lin2g, exec_lin2g h gd ha⟩, ⟨_, ?g2lin, exec_g2lin h gd ha⟩, ?bexpWord⟩,
      fun ha => ?bexpAccumulator⟩⟩
  case nop => exact State.done_compute_ok h rfl
  case li => exact State.done_compute_word h rfl
  case lui => exact lui_bits imm ▸ State.done_compute_word h rfl
  case mtc => exact State.done_compute_after h (Core.mtc_register _ hk hok)
  case mtcSt => exact State.done_compute_after h (List.append_nil _ ▸ Core.mtc_st _ hok)
  case mfc => exact exec_mfc_assigned h gd (by omega) (Core.mfcValue_register _ hk _)
  case mfcSt => exact exec_mfc_assigned h gd (by decide) rfl
  case mfcPrd => exact exec_mfc_assigned h gd (by decide) rfl
  case mtcBad => exact State.done_compute_trap h (Core.mtc_bad _ hk hbad)
  case mfcUnassigned => exact State.done_compute_trap h (Core.mfc_unassigned _ hk ..)
  case mtcUnassigned => exact State.done_compute_trap h (Core.mtc_unassigned _ hk gs)
  case lin2g =>
    split
    next h0 => rw [h0]; rfl
    next h0 => exact lin2gCode_bounds (Int.natAbs_ne_zero.2 h0)
  case g2lin =>
    split
    next h0 => exact (congrArg g2linGain h0).trans g2linGain_muted
    next h0 => exact g2linGain_near h0
  case bexpWord =>
    obtain ⟨hle, hfits, hmax⟩ := redundantSigns_spec (fitsIn_toInt ((s.core u).rdG ga).data)
    rw [fitsIn_31] at hfits hmax
    exact ⟨_, hle, hfits.1, hfits.2, hmax, exec_bexp_word h gd ha⟩
  case bexpAccumulator =>
    obtain ⟨hle, hfits, hmax⟩ := redundantSigns_spec (fitsIn_toInt ((s.core u).rdA an).val)
    rw [fitsIn_71] at hfits hmax
    exact ⟨_, hle, hfits.1, hfits.2, hmax, exec_bexp_accumulator h gd ha⟩

end Sys2Proof.Machine

/-! SUPPORT. The clears of Tephra's meter points (R283, R284): one update of a point, at one point or at every listed one. -/

namespace Sys2Proof.Machine

open Sys2Proof

/-! ### Updating meter points -/

theorem State.point_setPoint (s : State) (m i : Nat) (p : Point) :
    (s.setPoint m p).point i = if i = m then p else s.point i := Assoc.look_upd ..

/-- A point that is not listed is as it was at reset. -/
theorem State.point_unlisted {s : State} {i : Nat} (h : i ∉ s.mtr.points.map Prod.fst) : s.point i = Point.reset :=
  (Assoc.look_mem Point.reset s.mtr.points i).resolve_right fun hm => h (List.mem_map_of_mem hm)

/-- Point `m` updated by `f`. -/
def State.mapPoint (f : Point → Point) (s : State) (m : Nat) : State := s.setPoint m (f (s.point m))

/-- The held code of a point is set to that of its peak (R283). -/
def Point.holdPeak (p : Point) : Point := { p with hold := levelCode p.peak (2 ^ 31) 1, holdAge := 0 }

/-- The clips of a point are cleared (R284). -/
def Point.clearClips (p : Point) : Point := { p with clips := 0 }

theorem State.foldl_mapPoint_frame (f : Point → Point) (ms : List Nat) (s : State) : ms.foldl (State.mapPoint f) s =
    { s with mtr := { s.mtr with points := (ms.foldl (State.mapPoint f) s).mtr.points } } := by
  induction ms generalizing s with
  | nil => rfl
  | cons m ms ih => rw [List.foldl_cons, ih]; rfl

/-- An update that done twice is done once reaches each point of the list, however often it is listed, and no other. -/
theorem State.point_foldl_mapPoint {f : Point → Point} (hf : ∀ p, f (f p) = f p) (ms : List Nat) (s : State) (i : Nat) :
    (ms.foldl (State.mapPoint f) s).point i = if i ∈ ms then f (s.point i) else s.point i := by
  induction ms generalizing s with
  | nil => rfl
  | cons m ms ih =>
    rw [List.foldl_cons, ih, State.mapPoint, State.point_setPoint]
    by_cases him : i = m
    · subst him
      simp only [if_true, hf, List.mem_cons_self, ite_self]
    · simp only [him, if_false, List.mem_cons, false_or]

theorem done_foldl_mapPoint {f : Point → Point} (hf : ∀ p, f (f p) = f p) (ms : List Nat) (s : State) :
    ∃ t, done (ms.foldl (State.mapPoint f) s) = .next t ∧
      t = { s with free := s.free + 1, mtr := { s.mtr with points := t.mtr.points } } ∧
      ∀ i, t.point i = if i ∈ ms then f (s.point i) else s.point i :=
  ⟨_, rfl, congrArg (fun t : State => { t with free := t.free + 1 }) (State.foldl_mapPoint_frame f ms s),
    State.point_foldl_mapPoint hf ms s⟩

/-! ### MTRCLR -/

/-- The points that a write of MTRCLR clears: the one it names, or every listed one. -/
def State.mtrClears (s : State) (m : BitVec 12) (all : Bool) : List Nat :=
  if all then s.mtr.points.map Prod.fst else [m.toNat]

theorem State.mem_mtrClears_point (s : State) (m : BitVec 12) (i : Nat) : i ∈ s.mtrClears m false ↔ i = m.toNat :=
  List.mem_singleton

theorem exec_mtrclrHold (m : BitVec 12) (all : Bool) (s : State) :
    exec (.mtrclrHold m all) s = done ((s.mtrClears m all).foldl (State.mapPoint Point.holdPeak) s) := by
  cases all <;> rfl

theorem exec_mtrclrClips (m : BitVec 12) (all : Bool) (s : State) :
    exec (.mtrclrClips m all) s = done ((s.mtrClears m all).foldl (State.mapPoint Point.clearClips) s) := by
  cases all <;> rfl

/-- Settles O32: each form is one update of a point, folded over the points that the write selects. -/
theorem meterClears : Obligations.MeterClears := by
  unfold Obligations.MeterClears
  have hold (p : Point) : p.holdPeak.holdPeak = p.holdPeak := rfl
  have clips (p : Point) : p.clearClips.clearClips = p.clearClips := rfl
  refine ⟨fun m s => ?holdPoint, fun m s => ?holdAll, fun m s => ?clipsPoint, fun m s => ?clipsAll⟩
  case holdPoint =>
    obtain ⟨t, ht, hframe, hpoint⟩ := done_foldl_mapPoint hold (s.mtrClears m false) s
    exact ⟨t, (exec_mtrclrHold m false s).trans ht, hframe, fun i => by simp only [hpoint, State.mem_mtrClears_point]; rfl⟩
  case holdAll =>
    obtain ⟨t, ht, hframe, hpoint⟩ := done_foldl_mapPoint hold (s.mtrClears m true) s
    exact ⟨t, (exec_mtrclrHold m true s).trans ht, hframe, fun e he => (hpoint e.1).trans (if_pos (List.mem_map_of_mem he))⟩
  case clipsPoint =>
    obtain ⟨t, ht, hframe, hpoint⟩ := done_foldl_mapPoint clips (s.mtrClears m false) s
    exact ⟨t, (exec_mtrclrClips m false s).trans ht, hframe, fun i => by simp only [hpoint, State.mem_mtrClears_point]; rfl⟩
  case clipsAll =>
    obtain ⟨t, ht, hframe, hpoint⟩ := done_foldl_mapPoint clips (s.mtrClears m true) s
    refine ⟨t, (exec_mtrclrClips m true s).trans ht, hframe, fun i => (hpoint i).trans ?_⟩
    split
    next => rfl
    next hi => rw [State.point_unlisted hi]

end Sys2Proof.Machine

/-! SUPPORT. The conversion units (R259 to R275): what starting and stopping a unit changes, and the one thing that an input edge
does in each state of its tracker. -/

namespace Sys2Proof.Machine

open Sys2Proof

variable {s t : State} {u i : Nat} {ps : List Part} {es : List Nat} {fs : List Fld}

/-! ### The registers of a unit -/

@[simp] theorem key_CNVCTL_EN (u : Nat) : (Reg.CNVCTL_EN u).key = 4096 * u + 0x80070100 * 64 := by
  simp only [Reg.CNVCTL_EN, Fld.key]; omega
@[simp] theorem key_CNVCTL_MODE (u : Nat) : (Reg.CNVCTL_MODE u).key = 4096 * u + (0x80070100 * 64 + 1) := by
  simp only [Reg.CNVCTL_MODE, Fld.key]; omega
@[simp] theorem key_CNVCTL_PRE (u : Nat) : (Reg.CNVCTL_PRE u).key = 4096 * u + (0x80070100 * 64 + 4) := by
  simp only [Reg.CNVCTL_PRE, Fld.key]; omega
@[simp] theorem key_CNVSTAT_STATE (u : Nat) : (Reg.CNVSTAT_STATE u).key = 4096 * u + 0x80070104 * 64 := by
  simp only [Reg.CNVSTAT_STATE, Fld.key]; omega
@[simp] theorem key_CNVSTAT_LOCKED (u : Nat) : (Reg.CNVSTAT_LOCKED u).key = 4096 * u + (0x80070104 * 64 + 3) := by
  simp only [Reg.CNVSTAT_LOCKED, Fld.key]; omega
@[simp] theorem key_CNVSTAT_CAUSE (u : Nat) : (Reg.CNVSTAT_CAUSE u).key = 4096 * u + (0x80070104 * 64 + 4) := by
  simp only [Reg.CNVSTAT_CAUSE, Fld.key]; omega
@[simp] theorem key_CNVSTAT_RESP_BAD (u : Nat) : (Reg.CNVSTAT_RESP_BAD u).key = 4096 * u + (0x80070104 * 64 + 6) := by
  simp only [Reg.CNVSTAT_RESP_BAD, Fld.key]; omega
@[simp] theorem key_CNVSTAT_RESP_NOW (u : Nat) : (Reg.CNVSTAT_RESP_NOW u).key = 4096 * u + (0x80070104 * 64 + 8) := by
  simp only [Reg.CNVSTAT_RESP_NOW, Fld.key]; omega
@[simp] theorem key_CNVRATIO_RATIO (u : Nat) : (Reg.CNVRATIO_RATIO u).key = 4096 * u + 0x80070108 * 64 := by
  simp only [Reg.CNVRATIO_RATIO, Fld.key]; omega
@[simp] theorem key_CNVGDELAY_GDELAY (u : Nat) : (Reg.CNVGDELAY_GDELAY u).key = 4096 * u + 0x8007010c * 64 := by
  simp only [Reg.CNVGDELAY_GDELAY, Fld.key]; omega
@[simp] theorem key_CNVFAULT_KIND (u : Nat) : (Reg.CNVFAULT_KIND u).key = 4096 * u + (0x80070110 * 64 + 3) := by
  simp only [Reg.CNVFAULT_KIND, Fld.key]; omega
@[simp] theorem key_EVTSTAT_STAT (n : Nat) : (Reg.EVTSTAT_STAT n).key = 256 * n + 0x80040000 * 64 := by
  simp only [Reg.EVTSTAT_STAT, Fld.key]; omega

/-! ### The units and channels beside the registers -/

theorem State.cnv_only (s : State) (x : Cnv) : Only [.cnv] [] [] s { s with cnv := x } :=
  ⟨fun p hp _ => by
    cases p
    case cnv => exact absurd List.mem_cons_self hp
    all_goals rfl, fun _ _ _ => rfl, fun _ _ _ _ => rfl⟩

theorem Only.withCnv (h : Only ps es fs s t) (hp : Part.cnv ∈ ps) (x : Cnv) : Only ps es fs s { t with cnv := x } :=
  (h.trans (t.cnv_only x)).mono (by simp [hp]) (by simp) (by simp)

theorem Only.raiseOnceIn {n : Nat} (h : Only ps es fs s t) (hn : n ∈ es) (key : Nat) :
    Only ps es fs s (t.raiseOnce n key) :=
  (h.trans (t.raiseOnce_only n key)).mono (by simp) (by simp [hn]) (by simp)

theorem Only.bit (h : Only ps es fs s t) {f : Fld} (w : f.key ∉ fs.map Fld.key)
    (e : f.key ∉ es.map (fun n => (Reg.EVTSTAT_STAT (n / 32)).key)) : t.bit f = s.bit f := by
  simp only [State.bit, h.get w e]

/-- The units and channels replaced on both sides. -/
theorem OnlyRegs.withCnv (h : OnlyRegs fs s t) (x : Cnv) : OnlyRegs fs { s with cnv := x } { t with cnv := x } := by
  obtain ⟨h1, h2⟩ := h
  exact ⟨by rw [h1], h2⟩

theorem State.unit_setUnit_same (s : State) (u : Nat) (c : CnvUnit) : (s.setUnit u c).unit u = c :=
  Assoc.look_upd_same ..

theorem State.unit_setUnit_ne (s : State) {u v : Nat} (c : CnvUnit) (h : v ≠ u) : (s.setUnit u c).unit v = s.unit v :=
  Assoc.look_upd_ne _ _ _ h

theorem State.chan_setChan_same (s : State) (v : Nat) (c : CnvChan) : (s.setChan v c).chan v = c :=
  Assoc.look_upd_same ..

theorem State.chan_setChan_ne (s : State) {v i : Nat} (c : CnvChan) (h : i ≠ v) : (s.setChan v c).chan i = s.chan i :=
  Assoc.look_upd_ne _ _ _ h

@[simp] theorem State.raiseOnce_cnv (s : State) (n key : Nat) : (s.raiseOnce n key).cnv = s.cnv :=
  (s.raiseOnce_only n key).1 .cnv List.not_mem_nil fun h => Part.noConfusion h

/-- Updates of channels, one after another, touch the channels alone. -/
theorem State.foldl_setChan_eq (g : Nat → Nat) (f : State → Nat → CnvChan) (l : List Nat) (s : State) :
    l.foldl (fun t i => t.setChan (g i) (f t i)) s =
      { s with cnv := { s.cnv with chans := (l.foldl (fun t i => t.setChan (g i) (f t i)) s).cnv.chans } } := by
  induction l generalizing s with
  | nil => rfl
  | cons i l ih => rw [List.foldl_cons, ih]; rfl

/-! ### The response in force -/

/-- The fields that a change of response can touch (R264, R270). -/
def respFlds (u : Nat) : List Fld :=
  [Reg.CNVSTAT_RESP_NOW u, Reg.CNVGDELAY_GDELAY u, Reg.CNVSTAT_RESP_BAD u, Reg.CNVFAULT_KIND u]

theorem evtKey_notMem_respFlds {n : Nat} (hn : n < 8) (u : Nat) :
    (Reg.EVTSTAT_STAT n).key ∉ (respFlds u).map Fld.key := by
  simp only [respFlds, List.map_cons, List.map_nil, List.mem_cons, List.not_mem_nil, or_false,
    key_EVTSTAT_STAT, key_CNVSTAT_RESP_NOW, key_CNVGDELAY_GDELAY, key_CNVSTAT_RESP_BAD, key_CNVFAULT_KIND]
  omega

theorem State.cnvShow_only (s : State) (fresh : Bool) (u q : Nat) :
    Only [.cnv] [92] (respFlds u) s (s.cnvShow fresh u q) := by
  unfold State.cnvShow
  lift_lets
  intro c w r s1
  have h1 : Only [.cnv] [92] (respFlds u) s s1 :=
    (((Only.start s).withCnv (by simp) _).putIn (by simp [respFlds]) _).putIn (by simp [respFlds]) _
  exact .ite (fun _ => ((h1.putBitIn (by simp [respFlds]) _).putIn (by simp [respFlds]) _).raiseOnceIn (by simp) 0)
    fun _ => h1

theorem State.startAt_cnvShow (s : State) (fresh : Bool) (u q : Nat) :
    ((s.cnvShow fresh u q).unit u).startAt = (s.unit u).startAt := by
  unfold State.cnvShow
  lift_lets
  intro c w r s1
  have h1 : (s1.unit u).startAt = c.startAt :=
    by rw [show s1.unit u = _ from State.unit_setUnit_same ..]
  split
  next => exact (congrArg (fun x : Cnv => (x.units.look CnvUnit.reset u).startAt) (State.raiseOnce_cnv _ 92 0)).trans h1
  next => exact h1

/-- A switch of response touches units and channels alone, and leaves the frame from which the unit's output starts. -/
theorem State.cnvSwitch_spec (s : State) (fresh : Bool) (u q : Nat) : ∃ x : Cnv,
    s.cnvSwitch fresh u q = { s with cnv := x } ∧ (x.units.look CnvUnit.reset u).startAt = (s.unit u).startAt := by
  unfold State.cnvSwitch
  lift_lets
  intro c w r s1
  have h1 : (s1.unit u).startAt = c.startAt :=
    by rw [show s1.unit u = _ from State.unit_setUnit_same ..]
  by_cases hr : (decide (c.resp = r) && !fresh) = true
  · exact ⟨_, if_pos hr, h1⟩
  · exact ⟨_, (if_neg hr).trans (State.foldl_setChan_eq (8 * u + ·)
      (fun t i => { t.chan (8 * u + i) with iirOld := (t.chan (8 * u + i)).iir, iir := 0 }) (List.range 8) s1), h1⟩

theorem State.cnvStart_only (s : State) (u : Nat) : Only [.cnv] [92] (respFlds u) s (s.cnvStart u) := by
  obtain ⟨x, h, -⟩ := (s.cnvShow true u s.period).cnvSwitch_spec true u (s.cnvPeriodOf u)
  rw [State.cnvStart, h]
  exact (s.cnvShow_only true u s.period).withCnv (by simp) _

/-- Starting a unit leaves the frame from which its output starts. -/
theorem State.startAt_cnvStart (s : State) (u : Nat) : ((s.cnvStart u).unit u).startAt = (s.unit u).startAt := by
  obtain ⟨x, h, hx⟩ := (s.cnvShow true u s.period).cnvSwitch_spec true u (s.cnvPeriodOf u)
  rw [State.cnvStart, h]
  exact hx.trans (s.startAt_cnvShow true u s.period)

/-! ### CNVCTL -/

/-- MODE and PRE taken by a unit that is off, and EN set to `en` (R262). -/
def State.cnvTakes (s : State) (u : Nat) (en : Bool) (mode pre : BitVec 3) : State :=
  ((s.put (Reg.CNVCTL_MODE u) mode.toNat).put (Reg.CNVCTL_PRE u) pre.toNat).putBit (Reg.CNVCTL_EN u) en

theorem State.cnvTakes_onlyRegs (s : State) (u : Nat) (en : Bool) (mode pre : BitVec 3) :
    OnlyRegs [Reg.CNVCTL_EN u, Reg.CNVCTL_PRE u, Reg.CNVCTL_MODE u] s (s.cnvTakes u en mode pre) :=
  (((OnlyRegs.refl s).put _ _).put _ _).putBit _ _

theorem State.cnvTakes_only (s : State) (u : Nat) (en : Bool) (mode pre : BitVec 3) :
    Only [] [] [Reg.CNVCTL_EN u, Reg.CNVCTL_PRE u, Reg.CNVCTL_MODE u] s (s.cnvTakes u en mode pre) :=
  (((Only.refl s).put _ _).put _ _).put _ _

theorem State.en_cnvTakes (s : State) (u : Nat) (en : Bool) (mode pre : BitVec 3) :
    (s.cnvTakes u en mode pre).bit (Reg.CNVCTL_EN u) = en := State.bit_putBit_same _ _ (Nat.le_refl 1)

theorem State.mode_cnvTakes (s : State) (u : Nat) (en : Bool) (mode pre : BitVec 3) :
    (s.cnvTakes u en mode pre).get (Reg.CNVCTL_MODE u) = mode.toNat := by
  rw [State.cnvTakes, State.get_putBit_ne _ _ (by simp), State.get_put_ne _ _ (by simp), State.get_put_same]
  exact Nat.mod_eq_of_lt mode.isLt

theorem State.pre_cnvTakes (s : State) (u : Nat) (en : Bool) (mode pre : BitVec 3) :
    (s.cnvTakes u en mode pre).get (Reg.CNVCTL_PRE u) = pre.toNat := by
  rw [State.cnvTakes, State.get_putBit_ne _ _ (by simp), State.get_put_same]
  exact Nat.mod_eq_of_lt pre.isLt

/-- The state in which a unit of mode `m` begins (R262, R266). -/
def beginCode (m : BitVec 3) : Nat := if m = 0 then 0 else if m = 1 then 1 else 3

theorem beginCode_eq (m : BitVec 3) :
    (if m.toNat = 0 then cnvOff else if m.toNat = 1 then cnvAcquire else cnvRun) = beginCode m := by
  revert m; decide

theorem beginCode_lt (m : BitVec 3) : beginCode m < 8 := by revert m; decide

/-- The channels of a unit with their histories and filters cleared (R262). -/
def State.cnvCleared (s : State) (u : Nat) : State :=
  (List.range 8).foldl (fun t i => t.setChan (8 * u + i)
    { t.chan (8 * u + i) with hist := [], iir := 0, iirOld := 0 }) s

theorem State.cnvCleared_eq (s : State) (u : Nat) :
    s.cnvCleared u = { s with cnv := { s.cnv with chans := (s.cnvCleared u).cnv.chans } } :=
  State.foldl_setChan_eq (8 * u + ·) _ _ s

theorem State.get_cnvCleared (s : State) (u : Nat) (f : Fld) : (s.cnvCleared u).get f = s.get f := by
  simp only [State.get, congrArg State.regs (s.cnvCleared_eq u)]

/-- A unit that has just begun in mode `m`, its response not yet started (R262). -/
def State.cnvBegun (s : State) (u : Nat) (m p : BitVec 3) : State :=
  (((s.cnvTakes u true m p).cnvCleared u).setUnit u CnvUnit.reset).put (Reg.CNVSTAT_STATE u) (beginCode m)

theorem State.cnvBegun_only (s : State) (u : Nat) (m p : BitVec 3) :
    Only [.cnv] [92] (Reg.CNVSTAT_STATE u :: respFlds u) (s.cnvTakes u true m p) (s.cnvBegun u m p) := by
  rw [State.cnvBegun, State.cnvCleared_eq]
  exact (((Only.start _).withCnv (by simp) _).withCnv (by simp) _).putIn (by simp) _

theorem State.state_cnvBegun (s : State) (u : Nat) (m p : BitVec 3) : (s.cnvBegun u m p).cnvState u = beginCode m :=
  (State.get_put_same ..).trans (Nat.mod_eq_of_lt (beginCode_lt m))

/-- A unit that is off and enabled begins afresh; outside mode 0 the response in force is started (R262). -/
theorem State.cnvCtlWrite_enable (h : s.bit (Reg.CNVCTL_EN u) = false) (m p : BitVec 3) :
    s.cnvCtlWrite u true m.toNat p.toNat =
      if m.toNat = 0 then s.cnvBegun u m p else (s.cnvBegun u m p).cnvStart u := by
  have hm : ((s.cnvTakes u true m p).cnvCleared u).cnvMode u = m.toNat :=
    (State.get_cnvCleared ..).trans (State.mode_cnvTakes ..)
  have hw : s.cnvCtlWrite u true m.toNat p.toNat =
      let c := (s.cnvTakes u true m p).cnvCleared u
      let b := (c.setUnit u CnvUnit.reset).put (Reg.CNVSTAT_STATE u)
        (if c.cnvMode u = 0 then cnvOff else if c.cnvMode u = 1 then cnvAcquire else cnvRun)
      if c.cnvMode u = 0 then b else b.cnvStart u := by
    simp only [State.cnvCtlWrite, h]; rfl
  rw [hw]
  simp only [hm, beginCode_eq]
  rfl

theorem State.cnvCtlWrite_enabled (h : s.bit (Reg.CNVCTL_EN u) = true) (mode pre : Nat) :
    s.cnvCtlWrite u true mode pre = s.putBit (Reg.CNVCTL_EN u) true := by
  simp only [State.cnvCtlWrite, h]; rfl

theorem State.cnvCtlWrite_disabled (h : s.bit (Reg.CNVCTL_EN u) = false) (m p : BitVec 3) :
    s.cnvCtlWrite u false m.toNat p.toNat = s.cnvTakes u false m p := by
  simp only [State.cnvCtlWrite, h]; rfl

/-- A unit that runs is stopped (R262). -/
def State.cnvStopped (s : State) (u : Nat) : State :=
  (((s.putBit (Reg.CNVCTL_EN u) false).put (Reg.CNVSTAT_STATE u) cnvOff).putBit (Reg.CNVSTAT_LOCKED u) false).put
    (Reg.CNVRATIO_RATIO u) 0

theorem State.cnvCtlWrite_disable (h : s.bit (Reg.CNVCTL_EN u) = true) (mode pre : Nat) :
    s.cnvCtlWrite u false mode pre = s.cnvStopped u := by
  simp only [State.cnvCtlWrite, h]; rfl

theorem State.cnvCtlWrite_enable_spec (h : s.bit (Reg.CNVCTL_EN u) = false) (m p : BitVec 3) :
    (s.cnvCtlWrite u true m.toNat p.toNat).cnvState u = beginCode m ∧
      Only [.cnv] [92] (Reg.CNVSTAT_STATE u :: respFlds u) (s.cnvTakes u true m p)
        (s.cnvCtlWrite u true m.toNat p.toNat) := by
  rw [State.cnvCtlWrite_enable h]
  split
  next => exact ⟨State.state_cnvBegun .., s.cnvBegun_only u m p⟩
  next =>
    have hs := (s.cnvBegun u m p).cnvStart_only u
    exact ⟨(hs.get (by simp [respFlds]) (by simp)).trans (State.state_cnvBegun ..),
      ((s.cnvBegun_only u m p).trans hs).mono (by simp) (by simp) (by simp)⟩

theorem execCnvEnable_spec (u : Fin 32) (m p : BitVec 3) (h : s.bit (Reg.CNVCTL_EN u) = false) :
    ∃ t, exec (.cnvEnable u m p) s = .next t ∧ t.bit (Reg.CNVCTL_EN u) = true ∧
      t.get (Reg.CNVCTL_MODE u) = m.toNat ∧ t.get (Reg.CNVCTL_PRE u) = p.toNat ∧
      t.get (Reg.CNVSTAT_STATE u) = beginCode m ∧
      Only [.cnv] [92] ([Reg.CNVCTL_EN u, Reg.CNVCTL_MODE u, Reg.CNVCTL_PRE u, Reg.CNVSTAT_STATE u] ++ respFlds u) s t := by
  obtain ⟨hstate, hw⟩ := State.cnvCtlWrite_enable_spec h m p
  refine ⟨_, rfl, ?en, ?mode, ?pre, hstate, ?only⟩
  case en => exact (hw.bit (by simp [respFlds]) (by simp)).trans (State.en_cnvTakes ..)
  case mode => exact (hw.get (by simp [respFlds]) (by simp)).trans (State.mode_cnvTakes ..)
  case pre => exact (hw.get (by simp [respFlds]) (by simp)).trans (State.pre_cnvTakes ..)
  case only => exact (((s.cnvTakes_only u true m p).trans hw).mono (by simp) (by simp) (by simp [respFlds])).free _

theorem execCnvDisable_spec (u : Fin 32) (m p : BitVec 3) (h : s.bit (Reg.CNVCTL_EN u) = true) :
    ∃ t, exec (.cnvDisable u m p) s = .next t ∧
      OnlyRegs [Reg.CNVCTL_EN u, Reg.CNVSTAT_STATE u, Reg.CNVSTAT_LOCKED u, Reg.CNVRATIO_RATIO u] s t ∧
      t.bit (Reg.CNVCTL_EN u) = false ∧ t.get (Reg.CNVSTAT_STATE u) = 0 ∧ t.bit (Reg.CNVSTAT_LOCKED u) = false ∧
      t.get (Reg.CNVRATIO_RATIO u) = 0 := by
  have hregs := ((((OnlyRegs.refl s).putBit (Reg.CNVCTL_EN u) false).put (Reg.CNVSTAT_STATE u) cnvOff).putBit
    (Reg.CNVSTAT_LOCKED u) false).put (Reg.CNVRATIO_RATIO u) 0
  refine ⟨_, congrArg done (State.cnvCtlWrite_disable h m.toNat p.toNat), (hregs.mono (by simp)).free _,
    ?en, ?state, ?locked, ?ratio⟩
  case en =>
    refine (State.bit_put_ne _ _ (by simp)).trans ((State.bit_putBit_ne _ _ (by simp)).trans ?_)
    exact (State.bit_put_ne _ _ (by simp)).trans (State.bit_putBit_same _ _ (Nat.le_refl 1))
  case state =>
    exact (State.get_put_ne _ _ (by simp)).trans ((State.get_putBit_ne _ _ (by simp)).trans (State.get_put_same ..))
  case locked => exact (State.bit_put_ne _ _ (by simp)).trans (State.bit_putBit_same _ _ (Nat.le_refl 1))
  case ratio => exact State.get_put_same ..

theorem execCnvEnable_enabled (u : Fin 32) (m p : BitVec 3) (h : s.bit (Reg.CNVCTL_EN u) = true) :
    ∃ t, exec (.cnvEnable u m p) s = .next t ∧ OnlyRegs [Reg.CNVCTL_EN u] s t ∧ t.bit (Reg.CNVCTL_EN u) = true :=
  ⟨_, congrArg done (State.cnvCtlWrite_enabled h m.toNat p.toNat), ((OnlyRegs.refl s).putBit _ _).free _,
    State.bit_putBit_same _ _ (Nat.le_refl 1)⟩

theorem execCnvDisable_disabled (u : Fin 32) (m p : BitVec 3) (h : s.bit (Reg.CNVCTL_EN u) = false) :
    ∃ t, exec (.cnvDisable u m p) s = .next t ∧
      OnlyRegs [Reg.CNVCTL_EN u, Reg.CNVCTL_MODE u, Reg.CNVCTL_PRE u] s t ∧ t.bit (Reg.CNVCTL_EN u) = false ∧
      t.get (Reg.CNVCTL_MODE u) = m.toNat ∧ t.get (Reg.CNVCTL_PRE u) = p.toNat :=
  ⟨_, congrArg done (State.cnvCtlWrite_disabled h m p),
    ((s.cnvTakes_onlyRegs u false m p).mono (by simp)).free _, s.en_cnvTakes .., s.mode_cnvTakes .., s.pre_cnvTakes ..⟩

/-! ### Which edges a unit takes -/

/-- An input edge reaches unit `u`: an ASRC unit whose island runs and whose port's balls are in order (R259, R318). -/
structure State.CnvHears (s : State) (u : Nat) : Prop where
  runs : s.islandStopped islConv = false
  asrc : s.cnvMode u = 1
  heard : s.cnvDeaf u = false

theorem State.CnvHears.not_lost (h : s.CnvHears u) :
    ¬(s.islandStopped islConv = true ∨ s.cnvMode u ≠ 1 ∨ s.cnvDeaf u = true) := by
  simp [h.runs, h.asrc, h.heard]

theorem execCnvInputEdge_lost (u : Fin 32) (i : BitVec 32) (b : Bool) (rp : Option (Fin 64))
    (h : s.islandStopped islConv = true ∨ s.cnvMode u ≠ 1 ∨ s.cnvDeaf u = true ∨
      (s.cnvState u ≠ 1 ∧ s.cnvState u ≠ 2 ∧ s.cnvState u ≠ 3)) :
    exec (.cnvInputEdge u i b rp) s = .next { s with free := s.free + 1 } := by
  refine congrArg done ?_
  by_cases hl : s.islandStopped islConv = true ∨ s.cnvMode u ≠ 1 ∨ s.cnvDeaf u = true
  · exact if_pos hl
  · obtain ⟨hruns, hrest⟩ := not_or.1 hl
    obtain ⟨hasrc, hheard⟩ := not_or.1 hrest
    obtain ⟨h1, h2, h3⟩ := ((h.resolve_left hruns).resolve_left hasrc).resolve_left hheard
    exact (if_neg hl).trans ((if_neg (not_or.2 ⟨h1, h2⟩)).trans (if_neg h3))

theorem exec_cnvInputEdge_search {u : Fin 32} (h : s.CnvHears u) (hs : s.cnvState u = 1 ∨ s.cnvState u = 2)
    (i : BitVec 32) (b : Bool) (rp : Option (Fin 64)) :
    exec (.cnvInputEdge u i b rp) s = done (s.cnvSearch u i.toNat) :=
  congrArg done ((if_neg h.not_lost).trans (if_pos hs))

theorem exec_cnvInputEdge_track {u : Fin 32} (h : s.CnvHears u) (hs : s.cnvState u = 3)
    (i : BitVec 32) (b : Bool) (rp : Option (Fin 64)) :
    exec (.cnvInputEdge u i b rp) s = done (s.cnvTrack u i.toNat b (rp.map Fin.val)) :=
  congrArg done ((if_neg h.not_lost).trans ((if_neg (by rw [hs]; decide)).trans (if_pos hs)))

/-! ### The loss of the input (R268) -/

theorem State.evtStat_raiseOnce (h : s.evt.inReset = false) {n : Nat} (ho : s.evt.once.contains n = false) :
    (s.raiseOnce n).evtStat n = true := by
  rw [State.raiseOnce, if_neg (by rw [Nat.mul_zero, Nat.add_zero, ho]; decide), State.evtStat_raise (by exact h),
    beq_self_eq_true, Bool.or_true]

/-- A unit in RUN that has lost its input, E90 not yet raised. -/
def State.cnvFading (s : State) (u cause : Nat) : State :=
  (((s.put (Reg.CNVSTAT_STATE u) cnvFade).put (Reg.CNVSTAT_CAUSE u) cause).put (Reg.CNVRATIO_RATIO u) 0).setUnit u
    { s.unit u with fade := s.frame + 1 }

theorem State.cnvLose_eq (hs : s.cnvState u = 3) (hm : s.cnvMode u = 1) (cause : Nat) :
    s.cnvLose u cause = (s.cnvFading u cause).raiseOnce 90 := if_pos ⟨hs, hm⟩

theorem State.cnvLose_spec (hs : s.cnvState u = 3) (hm : s.cnvMode u = 1) {cause : Nat} (hc : cause < 4) :
    (s.cnvLose u cause).cnvState u = 4 ∧ (s.cnvLose u cause).get (Reg.CNVSTAT_CAUSE u) = cause ∧
      Only [.cnv] [90] [Reg.CNVSTAT_STATE u, Reg.CNVSTAT_CAUSE u, Reg.CNVRATIO_RATIO u] s (s.cnvLose u cause) := by
  rw [State.cnvLose_eq hs hm]
  have hr := (s.cnvFading u cause).raiseOnce_only 90 0
  refine ⟨(hr.get (by simp) (by simp)).trans ?state, (hr.get (by simp) (by simp)).trans ?cause, ?only⟩
  case state =>
    exact (State.get_put_ne _ _ (by simp)).trans ((State.get_put_ne _ _ (by simp)).trans (State.get_put_same ..))
  case cause =>
    exact (State.get_put_ne _ _ (by simp)).trans ((State.get_put_same ..).trans (Nat.mod_eq_of_lt hc))
  case only =>
    exact (((((Only.start s).putIn (by simp) _).putIn (by simp) _).putIn (by simp) _).withCnv (by simp) _).raiseOnceIn
      (by simp) 0

/-! ### The search: ACQUIRE and COARSE (R266, R267) -/

theorem State.cnvSearch_acquire (h : s.cnvState u = 1) (hp : preRange (s.get (Reg.CNVCTL_PRE u)) ≠ none) (i : Nat) :
    let c := s.unit u
    let g := if regular c.last i then c.good + 1 else 0
    s.cnvSearch u i =
      if 8 ≤ g then (s.put (Reg.CNVSTAT_STATE u) cnvCoarse).setUnit u { c with last := i, good := 0, coarse := 0, sum := 0 }
      else s.setUnit u { c with last := i, good := g } :=
  (if_pos h).trans (if_neg hp)

theorem State.cnvSearch_irregular (h : s.cnvState u = 2) {i : Nat} (hr : regular (s.unit u).last i = false) :
    s.cnvSearch u i = (s.put (Reg.CNVSTAT_STATE u) cnvAcquire).setUnit u
      { s.unit u with good := 0, coarse := 0, sum := 0, last := 0 } :=
  (if_neg (by rw [h]; decide)).trans ((if_pos (by rw [hr]; rfl)).trans (if_pos (.inr h)))

theorem State.cnvSearch_counts (h : s.cnvState u = 2) {i : Nat} (hr : regular (s.unit u).last i = true)
    (hc : (s.unit u).coarse < 63) : s.cnvSearch u i =
      s.setUnit u { s.unit u with last := i, coarse := (s.unit u).coarse + 1, sum := (s.unit u).sum + i } :=
  (if_neg (by rw [h]; decide)).trans ((if_neg (by rw [hr]; decide)).trans (if_pos hc))

theorem execCnvInputEdge_acquire {u : Fin 32} (h : s.CnvHears u) (hs : s.cnvState u = 1)
    (hp : preRange (s.get (Reg.CNVCTL_PRE u)) ≠ none) (i : BitVec 32) (b : Bool) (rp : Option (Fin 64)) :
    let g := if regular (s.unit u).last i.toNat then (s.unit u).good + 1 else 0
    ∃ t, exec (.cnvInputEdge u i b rp) s = .next t ∧ OnlyRegs [Reg.CNVSTAT_STATE u] { s with cnv := t.cnv } t ∧
      (g < 8 → t.cnvState u = 1 ∧ t.unit u = { s.unit u with last := i.toNat, good := g }) ∧
      (8 ≤ g → t.cnvState u = 2 ∧ (t.unit u).coarse = 0 ∧ (t.unit u).sum = 0 ∧ (t.unit u).last = i.toNat) ∧
      (∀ v : Fin 32, v ≠ u → t.unit v = s.unit v) ∧ t.cnv.chans = s.cnv.chans := by
  intro g
  rw [exec_cnvInputEdge_search h (.inl hs), State.cnvSearch_acquire hs hp]
  have hne {v : Fin 32} (hv : v ≠ u) : v.val ≠ u.val := fun e => hv (Fin.ext e)
  by_cases hg : 8 ≤ g
  · rw [if_pos hg]
    have hu := State.unit_setUnit_same (s.put (Reg.CNVSTAT_STATE u) cnvCoarse) u
      { s.unit u with last := i.toNat, good := 0, coarse := 0, sum := 0 }
    refine ⟨_, rfl, (((OnlyRegs.refl s).put _ _).withCnv _).free _, fun hlt => absurd hg (Nat.not_le.2 hlt),
      fun _ => ⟨State.get_put_same .., congrArg CnvUnit.coarse hu, congrArg CnvUnit.sum hu, congrArg CnvUnit.last hu⟩,
      fun v hv => State.unit_setUnit_ne _ _ (hne hv), rfl⟩
  · rw [if_neg hg]
    exact ⟨_, rfl, (((OnlyRegs.refl s).mono (by simp)).withCnv _).free _,
      fun _ => ⟨hs, State.unit_setUnit_same ..⟩, fun hle => absurd hle hg,
      fun v hv => State.unit_setUnit_ne _ _ (hne hv), rfl⟩

theorem execCnvInputEdge_irregular {u : Fin 32} (h : s.CnvHears u) (hs : s.cnvState u = 2) {i : BitVec 32}
    (hr : regular (s.unit u).last i.toNat = false) (b : Bool) (rp : Option (Fin 64)) :
    ∃ t, exec (.cnvInputEdge u i b rp) s = .next t ∧ OnlyRegs [Reg.CNVSTAT_STATE u] { s with cnv := t.cnv } t ∧
      t.cnvState u = 1 ∧ (t.unit u).good = 0 := by
  rw [exec_cnvInputEdge_search h (.inr hs), State.cnvSearch_irregular hs hr]
  refine ⟨_, rfl, (((OnlyRegs.refl s).put _ _).withCnv _).free _, State.get_put_same .., ?_⟩
  exact congrArg CnvUnit.good (State.unit_setUnit_same (s.put (Reg.CNVSTAT_STATE u) cnvAcquire) u
    { s.unit u with good := 0, coarse := 0, sum := 0, last := 0 })

theorem execCnvInputEdge_counts {u : Fin 32} (h : s.CnvHears u) (hs : s.cnvState u = 2) {i : BitVec 32}
    (hr : regular (s.unit u).last i.toNat = true) (hc : (s.unit u).coarse < 63) (b : Bool) (rp : Option (Fin 64)) :
    ∃ t, exec (.cnvInputEdge u i b rp) s = .next t ∧ t = { s with free := s.free + 1, cnv := t.cnv } ∧
      t.unit u = { s.unit u with last := i.toNat, coarse := (s.unit u).coarse + 1, sum := (s.unit u).sum + i.toNat } := by
  rw [exec_cnvInputEdge_search h (.inr hs), State.cnvSearch_counts hs hr hc]
  exact ⟨_, rfl, rfl, State.unit_setUnit_same ..⟩

/-- The ratio that a unit in COARSE has measured at its last timed frame (R266). -/
def State.coarseRatio (s : State) (u i : Nat) : Nat := s.ratioOf 64 ((s.unit u).sum + i)

/-- A unit enters RUN: its ratio and its tracker set, E88 raised, the response not yet started (R267). -/
def State.cnvRunning (s : State) (u i : Nat) : State :=
  let r := s.coarseRatio u i
  (((s.put (Reg.CNVSTAT_STATE u) cnvRun).put (Reg.CNVRATIO_RATIO u)
    (r + cutErr (Config.ratioErr s.free) (r / 100000)).toNat).setUnit u
      { s.unit u with last := i, sum := (s.unit u).sum + i, coarse := 0, out := 0, startAt := 16 * (s.period + 1),
                      steady := s.frame, down := decide (2 ^ 28 < r), slip := none, slipAt := 0 }).raise 88

theorem State.cnvSearch_locks (h : s.cnvState u = 2) {i : Nat} (hr : regular (s.unit u).last i = true)
    (hc : 63 ≤ (s.unit u).coarse) (ho : inRange (s.get (Reg.CNVCTL_PRE u)) (s.coarseRatio u i) = true) :
    s.cnvSearch u i = (s.cnvRunning u i).cnvStart u :=
  (if_neg (by rw [h]; decide)).trans ((if_neg (by rw [hr]; decide)).trans ((if_neg (Nat.not_lt.2 hc)).trans (if_pos ho)))

theorem State.cnvSearch_outOfRange (h : s.cnvState u = 2) {i : Nat} (hr : regular (s.unit u).last i = true)
    (hc : 63 ≤ (s.unit u).coarse) (ho : inRange (s.get (Reg.CNVCTL_PRE u)) (s.coarseRatio u i) = false) :
    s.cnvSearch u i = ((s.put (Reg.CNVSTAT_STATE u) cnvAcquire).put (Reg.CNVSTAT_CAUSE u) 2).setUnit u
      { s.unit u with last := i, good := 0, coarse := 0, sum := 0 } :=
  (if_neg (by rw [h]; decide)).trans ((if_neg (by rw [hr]; decide)).trans ((if_neg (Nat.not_lt.2 hc)).trans
    (if_neg (show ¬inRange (s.get (Reg.CNVCTL_PRE u)) (s.coarseRatio u i) = true by rw [ho]; decide))))

theorem State.cnvRunning_spec (he : s.evt.inReset = false) (u i : Nat) :
    (s.cnvRunning u i).cnvState u = 3 ∧ ((s.cnvRunning u i).unit u).startAt = 16 * (s.period + 1) ∧
      (s.cnvRunning u i).evtStat 88 = true := by
  refine ⟨(State.raise_get_ne _ (by simp)).trans ?state, ?start, ?event⟩
  case state => exact (State.get_put_ne _ _ (by simp)).trans (State.get_put_same ..)
  case start =>
    rw [State.cnvRunning, State.unit, State.raise_cnv]
    exact congrArg CnvUnit.startAt (State.unit_setUnit_same ..)
  case event => exact (State.evtStat_raise (by exact he) 88 88).trans (Bool.or_true _)

theorem State.cnvSearch_locks_spec (h : s.cnvState u = 2) {i : Nat} (hr : regular (s.unit u).last i = true)
    (hc : 63 ≤ (s.unit u).coarse) (ho : inRange (s.get (Reg.CNVCTL_PRE u)) (s.coarseRatio u i) = true)
    (he : s.evt.inReset = false) : (s.cnvSearch u i).cnvState u = 3 ∧
      ((s.cnvSearch u i).unit u).startAt = 16 * (s.period + 1) ∧ (s.cnvSearch u i).evtStat 88 = true := by
  rw [State.cnvSearch_locks h hr hc ho]
  obtain ⟨hstate, hstart, hevent⟩ := State.cnvRunning_spec he u i
  have hs := (s.cnvRunning u i).cnvStart_only u
  exact ⟨(hs.get (by simp [respFlds]) (by simp)).trans hstate, (State.startAt_cnvStart ..).trans hstart,
    (hs.2.2 88 (by decide) (by decide) (evtKey_notMem_respFlds (by decide) u)).trans hevent⟩

theorem State.cnvSearch_outOfRange_spec (h : s.cnvState u = 2) {i : Nat} (hr : regular (s.unit u).last i = true)
    (hc : 63 ≤ (s.unit u).coarse) (ho : inRange (s.get (Reg.CNVCTL_PRE u)) (s.coarseRatio u i) = false) :
    (s.cnvSearch u i).cnvState u = 1 ∧ (s.cnvSearch u i).get (Reg.CNVSTAT_CAUSE u) = 2 := by
  rw [State.cnvSearch_outOfRange h hr hc ho]
  exact ⟨(State.get_put_ne _ _ (by simp)).trans (State.get_put_same ..), State.get_put_same ..⟩

theorem execCnvInputEdge_coarseEnd {u : Fin 32} (h : s.CnvHears u) (hs : s.cnvState u = 2) {i : BitVec 32}
    (hr : regular (s.unit u).last i.toNat = true) (hc : 63 ≤ (s.unit u).coarse) (he : s.evt.inReset = false)
    (b : Bool) (rp : Option (Fin 64)) :
    let fits := inRange (s.get (Reg.CNVCTL_PRE u)) (s.coarseRatio u i.toNat)
    ∃ t, exec (.cnvInputEdge u i b rp) s = .next t ∧
      (fits = true → t.cnvState u = 3 ∧ (t.unit u).startAt = 16 * (s.period + 1) ∧ t.evtStat 88 = true) ∧
      (fits = false → t.cnvState u = 1 ∧ t.get (Reg.CNVSTAT_CAUSE u) = 2) := by
  rw [exec_cnvInputEdge_search h (.inr hs)]
  exact ⟨_, rfl, fun ho => State.cnvSearch_locks_spec hs hr hc ho he, fun ho => State.cnvSearch_outOfRange_spec hs hr hc ho⟩

/-! ### Tracking: RUN (R267 to R269) -/

/-- A cut deviation stays within its bound. -/
theorem natAbs_cutErr_le (e : Int) (b : Nat) : (cutErr e b).natAbs ≤ b := by
  have h0 : 0 ≤ e % (2 * (b : Int) + 1) := Int.emod_nonneg _ (by omega)
  have h1 : e % (2 * (b : Int) + 1) < 2 * (b : Int) + 1 := Int.emod_lt_of_pos _ (by omega)
  unfold cutErr
  omega

/-- The bound of the deviation of the tracked ratio `r` (R267). -/
def State.ratioBound (s : State) (u r : Nat) : Nat := r / (if s.bit (Reg.CNVSTAT_LOCKED u) then 100000000 else 100000)

/-- The sum of the last 64 intervals, as a unit in RUN tracks it, with interval `i` (R267). -/
def CnvUnit.trackedSum (c : CnvUnit) (i : Nat) : Nat := c.sum - c.sum / 64 + i

/-- A frame of interval `i` is out of the range of PRE (R268). -/
def State.frameOut (s : State) (u i : Nat) : Prop := inRange (s.get (Reg.CNVCTL_PRE u)) (s.ratioOf 1 i) = false

theorem State.cnvTrack_irregular {i : Nat} (hr : regular (s.unit u).last i = false) (b : Bool) (rp : Option Nat) :
    s.cnvTrack u i b rp = s.cnvLose u 1 := if_pos (by rw [hr]; rfl)

theorem State.cnvTrack_out {i : Nat} (hr : regular (s.unit u).last i = true) (ho : s.frameOut u i)
    (hc : 63 ≤ (s.unit u).out) (b : Bool) (rp : Option Nat) : s.cnvTrack u i b rp = s.cnvLose u 2 := by
  refine (if_neg (by rw [hr]; decide)).trans (if_pos ?_)
  rw [if_neg (by rw [ho]; decide)]
  omega

/-- A regular frame that is not the 64th out of range moves the ratio, by a deviation within the bound, and notes the read point. -/
theorem State.cnvTrack_moves {i : Nat} (hr : regular (s.unit u).last i = true)
    (ho : s.frameOut u i → (s.unit u).out < 63) (b : Bool) (rp : Option Nat) : ∃ (e : Int) (c : CnvUnit),
      let r := s.ratioOf 64 ((s.unit u).trackedSum i)
      s.cnvTrack u i b rp = (s.put (Reg.CNVRATIO_RATIO u) (r + e).toNat).setUnit u c ∧
        e.natAbs ≤ s.ratioBound u r ∧ c.slip = (rp.filter readLimit).or (s.unit u).slip := by
  have hout : ¬64 ≤ if inRange (s.get (Reg.CNVCTL_PRE u)) (s.ratioOf 1 i) then 0 else (s.unit u).out + 1 := by
    split
    next => decide
    next hn => have := ho (Bool.eq_false_iff.2 hn); omega
  have ht : s.cnvTrack u i b rp = _ := (if_neg (by rw [hr]; decide)).trans (if_neg hout)
  refine ⟨_, _, ht, ?_, rfl⟩
  have hb (r : Nat) : ((r : Int) / if s.bit (Reg.CNVSTAT_LOCKED u) then 100000000 else 100000) = s.ratioBound u r := by
    unfold State.ratioBound; split <;> simp
  rw [hb]
  exact natAbs_cutErr_le ..

/-- The read point that waits for its recentring after an edge that reports `rp` (R269). -/
theorem slip_some (x : Nat) (old : Option Nat) :
    ((some x).filter readLimit).or old = if x ≤ 4 ∨ 59 ≤ x then some x else old := by
  have hx : readLimit x = true ↔ x ≤ 4 ∨ 59 ≤ x := by
    rw [readLimit, Bool.or_eq_true, decide_eq_true_iff, decide_eq_true_iff]
  rw [Option.filter_some]
  by_cases h : x ≤ 4 ∨ 59 ≤ x
  · rw [if_pos h, if_pos (hx.2 h)]; rfl
  · rw [if_neg h, if_neg (mt hx.1 h)]; rfl

/-- A ratio below 8 with its deviation fits the register. -/
theorem ratio_fits {r b : Nat} {e : Int} (hr : r < 2 ^ 31) (hb : b ≤ r) (he : e.natAbs ≤ b) :
    (((r + e).toNat % 2 ^ 32 : Nat) : Int) = r + e := by omega

theorem execCnvInputEdge_moves {u : Fin 32} (h : s.CnvHears u) (hs : s.cnvState u = 3) {i : BitVec 32}
    (hr : regular (s.unit u).last i.toNat = true) (ho : s.frameOut u i.toNat → (s.unit u).out < 63)
    (hlt : s.ratioOf 64 ((s.unit u).trackedSum i.toNat) < 2 ^ 31) (b : Bool) (rp : Option (Fin 64)) :
    let r := s.ratioOf 64 ((s.unit u).trackedSum i.toNat)
    ∃ (t : State) (e : Int), exec (.cnvInputEdge u i b rp) s = .next t ∧
      OnlyRegs [Reg.CNVRATIO_RATIO u] { s with cnv := t.cnv } t ∧ e.natAbs ≤ s.ratioBound u r ∧
      (t.get (Reg.CNVRATIO_RATIO u) : Int) = r + e ∧
      (t.unit u).slip = ((rp.map Fin.val).filter readLimit).or (s.unit u).slip := by
  intro r
  obtain ⟨e, c, htrack, he, hslip⟩ := State.cnvTrack_moves hr ho b (rp.map Fin.val)
  rw [exec_cnvInputEdge_track h hs, htrack]
  refine ⟨_, e, rfl, (((OnlyRegs.refl s).put _ _).withCnv _).free _, he, ?ratio, ?slip⟩
  case ratio => exact (congrArg Int.ofNat (State.get_put_same ..)).trans (ratio_fits hlt (Nat.div_le_self ..) he)
  case slip => exact (congrArg CnvUnit.slip (State.unit_setUnit_same ..)).trans hslip

/-- A unit in RUN whose edge loses the input goes to FADE with the cause (R268). -/
theorem execCnvInputEdge_loses {u : Fin 32} (h : s.CnvHears u) (hs : s.cnvState u = 3) {i : BitVec 32} {b : Bool}
    {rp : Option (Fin 64)} {cause : Nat} (hc : cause < 4)
    (hl : s.cnvTrack u i.toNat b (rp.map Fin.val) = s.cnvLose u cause) :
    ∃ t, exec (.cnvInputEdge u i b rp) s = .next t ∧ t.cnvState u = 4 ∧ t.get (Reg.CNVSTAT_CAUSE u) = cause ∧
      (s.evt.inReset = false → s.evt.once.contains 90 = false → t.evtStat 90 = true) ∧
      Only [.cnv] [90] [Reg.CNVSTAT_STATE u, Reg.CNVSTAT_CAUSE u, Reg.CNVRATIO_RATIO u] s t := by
  obtain ⟨hstate, hcause, ho⟩ := State.cnvLose_spec hs h.asrc hc
  have hev (he : s.evt.inReset = false) (hn : s.evt.once.contains 90 = false) : (s.cnvLose u cause).evtStat 90 = true := by
    rw [State.cnvLose_eq hs h.asrc]; exact State.evtStat_raiseOnce (s := s.cnvFading u cause) he hn
  rw [exec_cnvInputEdge_track h hs, hl]
  exact ⟨_, rfl, hstate, hcause, hev, ho.free _⟩

/-! ### FADE and the peaks of channels (R268, R275) -/

theorem execCnvFadeEnd_spec {u : Fin 32} (h : s.cnvState u = 4) (hf : (s.unit u).fade + 15 ≤ s.frame) :
    ∃ t, exec (.cnvFadeEnd u) s = .next t ∧
      OnlyRegs [Reg.CNVSTAT_STATE u, Reg.CNVSTAT_LOCKED u] { s with cnv := t.cnv } t ∧ t.cnvState u = 1 ∧
      t.bit (Reg.CNVSTAT_LOCKED u) = false := by
  have hregs := ((OnlyRegs.refl s).put (Reg.CNVSTAT_STATE u) cnvAcquire).putBit (Reg.CNVSTAT_LOCKED u) false
  refine ⟨_, congrArg done (if_pos ⟨h, hf⟩), ((hregs.mono (by simp)).withCnv _).free _, ?state,
    State.bit_putBit_same _ _ (Nat.le_refl 1)⟩
  case state => exact (State.get_putBit_ne _ _ (by simp)).trans (State.get_put_same ..)

theorem execCnvFadeEnd_early {u : Fin 32} (h : s.cnvState u ≠ 4 ∨ s.frame < (s.unit u).fade + 15) :
    exec (.cnvFadeEnd u) s = .next { s with free := s.free + 1 } :=
  congrArg done (if_neg fun ⟨h4, hf⟩ => h.elim (fun hn => hn h4) (Nat.not_lt.2 hf))

theorem execCnvchClr_spec (v : Fin 256) (s : State) :
    ∃ t, exec (.cnvchClr v) s = .next t ∧ OnlyRegs [Reg.CNVCH_DPEAK v] { s with cnv := t.cnv } t ∧
      t.get (Reg.CNVCH_DPEAK v) = 0x800000 ∧ t.chan v = { s.chan v with peak := 0 } ∧
      ∀ i, i ≠ v.val → t.chan i = s.chan i :=
  ⟨_, rfl, (((OnlyRegs.refl s).put _ _).withCnv _).free _, State.get_put_same .., State.chan_setChan_same ..,
    fun _ hi => State.chan_setChan_ne _ _ hi⟩

/-- Settles O31: CNVCTL by `State.cnvTakes` and the start or stop that follows; an edge by what `State.cnvSearch` and
`State.cnvTrack` do in the unit's state. -/
theorem conversionUnits : Obligations.ConversionUnits := by
  unfold Obligations.ConversionUnits
  refine ⟨fun u m p s h => ?enable, fun u m p s h => execCnvEnable_enabled u m p h, fun u m p s h => execCnvDisable_spec u m p h,
    fun u m p s h => execCnvDisable_disabled u m p h, fun u i b rp s h => execCnvInputEdge_lost u i b rp h,
    fun u i b rp s hi hm hd hs hp => execCnvInputEdge_acquire ⟨hi, hm, hd⟩ hs hp i b rp,
    fun u i b rp s hi hm hd hs => ?coarse, fun u i b rp s hi hm hd hs => ?run, fun u s h hf => execCnvFadeEnd_spec h hf,
    fun u s h => execCnvFadeEnd_early h, execCnvchClr_spec⟩
  case enable =>
    obtain ⟨t, ht, hen, hmode, hpre, hstate, ho⟩ := execCnvEnable_spec u m p h
    exact ⟨t, ht, hen, hmode, hpre, hstate, ho⟩
  case coarse =>
    have hh : s.CnvHears u := ⟨hi, hm, hd⟩
    exact ⟨fun hr => execCnvInputEdge_irregular hh hs hr b rp, fun hr hc => execCnvInputEdge_counts hh hs hr hc b rp,
      fun hr hc he => execCnvInputEdge_coarseEnd hh hs hr hc he b rp⟩
  case run =>
    have hh : s.CnvHears u := ⟨hi, hm, hd⟩
    refine ⟨fun hr ho hlt => ?moves, fun hr he hn => ?irregular, fun hr ho hc => ?out⟩
    case moves =>
      obtain ⟨t, e, ht, hregs, hb, hratio, hslip⟩ := execCnvInputEdge_moves hh hs hr ho hlt b rp
      refine ⟨t, e, ht, hregs, hb, hratio, fun hrp => ?_, fun x hrp => ?_⟩
      · rw [hslip, hrp]; rfl
      · rw [hslip, hrp]; exact slip_some x.val (s.unit u).slip
    case irregular =>
      obtain ⟨t, ht, hstate, hcause, hev, honly⟩ :=
        execCnvInputEdge_loses hh hs (by decide) (State.cnvTrack_irregular hr b (rp.map Fin.val))
      exact ⟨t, ht, hstate, hcause, hev he hn, honly⟩
    case out =>
      obtain ⟨t, ht, hstate, hcause, -, honly⟩ :=
        execCnvInputEdge_loses hh hs (by decide) (State.cnvTrack_out hr ho hc b (rp.map Fin.val))
      exact ⟨t, ht, hstate, hcause, honly⟩

end Sys2Proof.Machine
